-- ==== Sys2Proof/Word.lean ====
section
/-! DEFINITION. Sys2Proof/Word.lean: the word types of the DT20 and the plain types that its commands carry
(who makes an access, through which window, what a status says). Rule numbers R<n> are those of spec/. -/

namespace Sys2Proof

/-- The smallest addressable unit (R4: all multi-byte fields are little-endian). -/
abbrev Byte := BitVec 8
/-- A register (R441: registers are accessed by aligned 4-byte reads and writes). -/
abbrev Word := BitVec 32
/-- A register pair or a 64-bit counter (R33). -/
abbrev DWord := BitVec 64

/-- Sparse data by key: a list of key and value pairs, keys strictly rising. An unlisted key holds the table's default. -/
abbrev Tbl (α : Type) := List (Nat × α)

/-- Who makes a register access (R175 "Hub register access", R442): function `n` of the host (0 the PF, k the VF k),
the MCTP path, or the hub firmware. -/
inductive Agent where
  | host (fn : Nat)
  | mctp
  | firmware
deriving DecidableEq, Repr

/-- The window of an access (R440): BAR0 (PF only), BAR2 (the function page) or BAR4 (doorbell pages). -/
inductive Bar where
  | bar0
  | bar2
  | bar4
deriving DecidableEq, Repr

/-- The statuses of R9 and the block-specific statuses of R459; R460: the device produces no other value. -/
inductive Status where
  | ok | pending | killed | cancelled | skipped
  | length | format | quota | notReady | brokenLatch | noObject | signature
  | frozen | degraded | dataLost
  | planBase | tooLong | latchBusy | notHolder | hostFault
  | steerDenied | slotState | kvDropped | kvFull
  | unreachable | collMismatch | peerTimeout | sealedObj | keyScope
deriving DecidableEq, Repr

/-- What the surroundings contribute to one attempt: whether the two rereads of a poisoned unit are clean (R217), and
the host page, if any, on which a host read is poisoned, unsuccessful, timed out or denied (R222, R438). -/
structure RunEnv where
  rereadsClean : Bool
  hostFaultPage : Option Nat
deriving DecidableEq, Repr

/-- A configuration request (R437, R439, R453): a read, or a write of the field named. -/
inductive ConfigReq where
  | read
  | memorySpace (on : Bool)          -- Memory Space Enable
  | busMaster (on : Bool)            -- Bus Master Enable
  | msixEnable (on : Bool)           -- MSI-X Enable
  | functionMask (on : Bool)         -- Function Mask
  | atsEnable (on : Bool)            -- ATS Enable
  | maxPayload (bytes : Nat)         -- Max Payload Size of Device Control
  | maxReadRequest (bytes : Nat)     -- Max Read Request Size
  | numVFs (n : Nat)                 -- NumVFs (PF)
  | vfEnable (on : Bool)             -- VF Enable (PF)
  | powerState (d3 : Bool)           -- D0 or D3hot
  | pmeEnable (on : Bool)            -- PME_En (PF)
deriving DecidableEq, Repr

/-- R490, R492: what a scrub unit finds. -/
inductive ScrubFound where
  | clean
  | corrected
  | uncorrectable
deriving DecidableEq, Repr

/-- A participant's answer in the power handshake (R468). -/
inductive HsAnswer where
  | accept
  | refuse
  | delay
deriving DecidableEq, Repr

/-- R347, R431: a message of a LINK packet of the peer hub: its identity (node 0xFFFF without a plan), a HELLO and a FINISH of
the key agreement, and whether it is Active-ready (R346). -/
inductive LinkMsg where
  | identity (node port group : Nat)
  | hello (node port group nonce : Nat) (key chain : List Byte)
  | finish (sig : List Byte)
  | ready (on : Bool)
deriving DecidableEq, Repr

/-- R337, R338: a frame as received: its 2,560 bytes, whether the FEC reported an uncorrectable codeword, the symbols it
corrected. -/
structure RxFrame where
  bytes : List Byte
  fecBad : Bool
  corrected : Nat
deriving DecidableEq, Repr

/-- R351, R357, R359: a packet of a far access. `access` and `group` serve the questions and answers of BIND (R356): bits 0 READ,
1 WRITE, 2 SECURE, 3 sealed, 4 FAR_OK; `poison` lists the data flits that carry a mark. -/
structure FarPacket where
  dest : Nat
  src : Nat
  secure : Bool
  xid : Nat
  expo : Nat
  gen : Nat
  attempt : Nat
  off : Nat
  epoch : Nat
  bytes : Nat
  status : Status
  access : Nat
  group : Nat
  data : List Byte
  poison : List Nat
deriving DecidableEq, Repr

/-- R362, R366: a Tally packet: its header and one value for each element (a 16-bit record, a 96-bit integer, a result code
or an FP32 word, by `pass` and direction). -/
structure TallyPacket where
  dest : Nat
  src : Nat
  xid : Nat
  tree : Nat
  pass : Nat
  rop : Nat
  fmt : Nat
  exact_ : Nat
  group : Nat
  seq : Nat
  elements : Nat
  elem0 : Nat
  terms : Nat
  status : Status
  inst : Nat
  data : List Nat
deriving DecidableEq, Repr

end Sys2Proof
end

