-- ==== Sys2Proof/Syntax.lean ====
section
/-! DEFINITION. Sys2Proof/Syntax.lean: the commands of the block, one constructor per row of spec/opcode_table.json. Operands
are what the sender of the command chooses: who makes the access, the context, ring and serial of a command, a value, a
packet, what the surroundings answer. Every other input of a command is state. -/

namespace Sys2Proof

/-- The commands of spec/opcode_table.json, in its order. -/
inductive Instr where
  /-- REGISTER_WRITE (R6). A host or management write to a register that has no row of its own stores the value under its Access code. -/
  | registerWrite (a : Agent) (bar : Bar) (off : Nat) (v : Word)
  /-- READ_CLEAR_REGISTER (R8). A read of an RC field returns its count and clears it, holding any coinciding event for the next read. -/
  | readClearRegister (a : Agent) (bar : Bar) (off : Nat)
  /-- LOW_HALF_READ (R33). A read of the low half of a 64-bit register pair latches the high half into the function's shadow. -/
  | lowHalfRead (a : Agent) (bar : Bar) (off : Nat)
  /-- LATCH_INFO_READ (R185). A read of LATCH_INFO or CTX_LATCH_INFO latches the matching generation for the next read of the GEN register. -/
  | latchInfoRead (a : Agent) (bar : Bar) (off : Nat)
  /-- BAD_REGISTER_ACCESS (R441). A BAR register access of the wrong width or with clear byte enables is ignored or reads zero, is counted in HOST_BAD_ACCESS and is recorded. -/
  | badRegisterAccess (fn : Nat) (bar : Bar) (off : Nat) (write : Bool)
  /-- LOAD (R52). FP_CTRL operation 1 validates a full plan image and, on success, puts it in slot 0 and in force. -/
  | fpLoad (a : Agent) (slot : Nat)
  /-- PREPARE (R52). FP_CTRL operation 2 validates an overlay against the loaded plan and stores it in slots 1 to 4. -/
  | fpPrepare (a : Agent) (slot : Nat)
  /-- APPLY (R56). FP_CTRL operation 3 checks quiescence, stops dispatch on changed plots and waits for their executing commands. -/
  | fpApply (a : Agent) (slot : Nat)
  /-- APPLY_BANK_SWITCH (R56). Once every executing command of the changed plots is final, every die switches to the shadow configuration bank and dispatch resumes. -/
  | applyBankSwitch
  /-- APPLY_WAIT_TIMEOUT (R56). When step 3 of APPLY has lasted 2 ms with a command not final, the hub omits the switch and ends APPLY with NOT_READY. -/
  | applyWaitTimeout
  /-- APPLY_ACK_TIMEOUT (R57). A die that does not acknowledge the bank switch within 10 µs makes every die switch back and APPLY end NOT_READY. -/
  | applyAckTimeout (die : Nat)
  /-- DISCARD (R52). FP_CTRL operation 4 empties a prepared overlay slot that is not active. -/
  | fpDiscard (a : Agent) (slot : Nat)
  /-- UNLOAD (R52). FP_CTRL operation 5 empties every slot and leaves the module without a plan. -/
  | fpUnload (a : Agent) (slot : Nat)
  /-- ROTATION_START (R493). At each rotation period a die compares ageing counts and, when warranted, starts moving a field index to a spare. -/
  | rotationStart (die : Nat)
  /-- ROTATION_COPY (R20). When the outgoing slot reaches a command boundary, its array SRAM is copied to the spare while the slot reads Moving. -/
  | rotationCopy (die : Nat)
  /-- ROTATION_END (R20). When the copy completes, the spare takes the field index and the outgoing slot becomes Spare. -/
  | rotationEnd (die : Nat)
  /-- AGEING_TICK (R493). Each millisecond every in-service slot's ageing count advances by its calibrated factor. -/
  | ageingTick
  /-- DIE_LINK_CRC_RETRY (R26). A die-link flit that fails its CRC is retried by the UCIe link layer, with lane repair or retrain when needed. -/
  | dieLinkCrcRetry (link : Nat) (repaired : Bool) (retrained : Bool)
  /-- DIE_LINK_DOWN (R26). A die link that narrows or goes down is detoured, its in-flight commands are killed and rerun, and crossing commands complete DEGRADED. -/
  | dieLinkDown (link : Nat) (up : Nat)
  /-- DOORBELL (R111). A 4-byte write to RING_DB is accepted as a new TAIL when epoch, reserved bits and free space allow, else it is counted in DB_DROPS. -/
  | doorbell (fn : Nat) (page : Nat) (ring : Nat) (v : Word)
  /-- DOORBELL_PAGE_WRITE (R448). A write to a BAR4 doorbell page is split into 4-byte units, each ignored into FN_DB_BAD or taken as a doorbell. -/
  | doorbellPageWrite (fn : Nat) (off : Nat) (data : List Byte)
  /-- COMMAND_FETCH (R114). When an item at HEAD is wholly published, the device copies its descriptor, assigns a serial, writes a PENDING record and runs checks 1 to 5. -/
  | commandFetch (ctx : Nat) (ring : Nat)
  /-- COMMAND_DISPATCH (R132). When a command meets its ordering, wait, segment and scratch conditions and wins arbitration on a free engine, it is dispatched. -/
  | commandDispatch (ctx : Nat) (ring : Nat) (inst : Nat)
  /-- COMMAND_COMMIT (R136). When an attempt finishes, its staged outputs become live and its latch, counter, record and interrupt effects follow in order. -/
  | commandCommit (ctx : Nat) (ring : Nat) (serial : Nat)
  /-- FREEZE_COMPLETE (R172). Once the commits already begun have completed, FREEZE_INFO and the FROZEN record are written and the vector is signalled. -/
  | freezeComplete (ctx : Nat)
  /-- TILE (R67). Opcode 0x01 computes C = A × Bᵀ on an array with grouped accumulation, output stage and optional steering. -/
  | tile (ctx : Nat) (ring : Nat) (serial : Nat) (env : RunEnv)
  /-- ATTN_FWD (R245). Opcode 0x02 computes a canonical attention node or whole row, optionally appending or refilling KV in sheaves. -/
  | attnFwd (ctx : Nat) (ring : Nat) (serial : Nat) (env : RunEnv)
  /-- ATTN_BWD (R305). Opcode 0x03 recomputes attention probabilities and accumulates dQ, dK and dV in fixed order. -/
  | attnBwd (ctx : Nat) (ring : Nat) (serial : Nat) (env : RunEnv)
  /-- MERGE (R248). Opcode 0x04 combines the partial results of a split attention into the normalised row result. -/
  | merge (ctx : Nat) (ring : Nat) (serial : Nat) (env : RunEnv)
  /-- ELEM (R126). Opcode 0x05 applies a recipe of up to 32 operations to every element of a logical tensor. -/
  | elem (ctx : Nat) (ring : Nat) (serial : Nat) (env : RunEnv)
  /-- ROUTE (R96). Opcode 0x10 selects the top-k experts per token, forms gate weights and writes the dispatch outputs. -/
  | route (ctx : Nat) (ring : Nat) (serial : Nat) (env : RunEnv)
  /-- GATHER (R98). Opcode 0x11 copies or weighted-combines indexed table rows into output rows. -/
  | gather (ctx : Nat) (ring : Nat) (serial : Nat) (env : RunEnv)
  /-- SCATTER (R99). Opcode 0x12 writes or adds input rows into indexed table rows in list order. -/
  | scatter (ctx : Nat) (ring : Nat) (serial : Nat) (env : RunEnv)
  /-- MOMENTUM (R322). UPDATE rule 0x00 applies a momentum update with decoupled weight decay. -/
  | momentum (ctx : Nat) (ring : Nat) (serial : Nat) (env : RunEnv)
  /-- ADAPTIVE (R322). UPDATE rule 0x01 applies an Adam-style update with two moments. -/
  | adaptive (ctx : Nat) (ring : Nat) (serial : Nat) (env : RunEnv)
  /-- SIGNMOM (R322). UPDATE rule 0x02 applies a sign-of-momentum update. -/
  | signmom (ctx : Nat) (ring : Nat) (serial : Nat) (env : RunEnv)
  /-- ORTHO_PREP (R325). UPDATE rule 0x10 updates momentum and writes the Frobenius-normalised direction X. -/
  | orthoPrep (ctx : Nat) (ring : Nat) (serial : Nat) (env : RunEnv)
  /-- ORTHO_ITER (R325). UPDATE rule 0x11 runs one orthogonalising polynomial iteration on X using borrowed arrays. -/
  | orthoIter (ctx : Nat) (ring : Nat) (serial : Nat) (env : RunEnv)
  /-- ORTHO_APPLY (R325). UPDATE rule 0x12 applies the orthogonalised direction to the weights. -/
  | orthoApply (ctx : Nat) (ring : Nat) (serial : Nat) (env : RunEnv)
  /-- KRON_STATS (R326). UPDATE rule 0x18 accumulates the Kronecker factor statistics L and R. -/
  | kronStats (ctx : Nat) (ring : Nat) (serial : Nat) (env : RunEnv)
  /-- KRON_ROOT (R326). UPDATE rule 0x19 runs one iteration toward the inverse p-th root of a damped factor. -/
  | kronRoot (ctx : Nat) (ring : Nat) (serial : Nat) (env : RunEnv)
  /-- KRON_APPLY (R326). UPDATE rule 0x1A preconditions the gradient by both inverse roots and applies it. -/
  | kronApply (ctx : Nat) (ring : Nat) (serial : Nat) (env : RunEnv)
  /-- NORM (R311). UPDATE rule 0x20 adds the scaled squared gradient elements and non-finite flag into a limb accumulator. -/
  | norm (ctx : Nat) (ring : Nat) (serial : Nat) (env : RunEnv)
  /-- DECIDE (R316). UPDATE rule 0x21 computes the step's skip, clip scale and running mean from the reduced vote. -/
  | decideStep (ctx : Nat) (ring : Nat) (serial : Nat) (env : RunEnv)
  /-- PROVISIONAL_DECISION (R328). When DEC_CTR reaches DEC_VAL, a waiting provisional UPDATE reads its decision and commits, skips or is redone. -/
  | provisionalDecision (ctx : Nat) (ring : Nat) (serial : Nat)
  /-- PROVISIONAL_TIMEOUT (R329). A provisional UPDATE whose decision wait exceeds WAIT_TIMEOUT discards its outputs and completes NOT_READY. -/
  | provisionalTimeout (ctx : Nat) (ring : Nat) (serial : Nat)
  /-- MOVE (R221). Opcode 0x20 copies bytes between device, host or far addresses on a cart and commits them whole. -/
  | move (ctx : Nat) (ring : Nat) (serial : Nat) (env : RunEnv)
  /-- SAMPLE (R278). Opcode 0x28 in mode 0 samples one token per listed sequence with its log-probabilities. -/
  | sample (ctx : Nat) (ring : Nat) (serial : Nat) (env : RunEnv)
  /-- SAMPLE_VERIFY (R287). A SAMPLE in SMODE 1 verifies draft proposals by rejection or match and, with APPLY, commits accepts and roll backs. -/
  | sampleVerify (ctx : Nat) (ring : Nat) (serial : Nat) (env : RunEnv)
  /-- SEQ_OPEN (R229). SEQ operation 0 opens a slot from an open block and makes the issuing context its owner. -/
  | seqOpen (ctx : Nat) (ring : Nat) (serial : Nat) (env : RunEnv)
  /-- SEQ_CLOSE (R229). SEQ operation 1 frees a slot and detaches its map for release. -/
  | seqClose (ctx : Nat) (ring : Nat) (serial : Nat) (env : RunEnv)
  /-- SEQ_ACCEPT (R229). SEQ operation 2 records tokens, advances COMMITTED and inserts Drift nodes for filled blocks. -/
  | seqAccept (ctx : Nat) (ring : Nat) (serial : Nat) (env : RunEnv)
  /-- SEQ_ROLL_BACK (R229). SEQ operation 3 sets TENTATIVE to COMMITTED and releases stooks beyond it. -/
  | seqRollBack (ctx : Nat) (ring : Nat) (serial : Nat) (env : RunEnv)
  /-- SEQ_PREFIX_MATCH (R255). SEQ operation 4 walks the Drift index for the token list and shares the matched stooks. -/
  | seqPrefixMatch (ctx : Nat) (ring : Nat) (serial : Nat) (env : RunEnv)
  /-- REDUCE (R365). Opcode 0x30 contributes a term to a Tally collective and receives the reduced result. -/
  | reduce (ctx : Nat) (ring : Nat) (serial : Nat) (env : RunEnv)
  /-- RESHARD (R383). Opcode 0x38 copies and converts a list of tensor pieces on a Winnow engine and commits them at once. -/
  | reshard (ctx : Nat) (ring : Nat) (serial : Nat) (env : RunEnv)
  /-- WAIT (R145). Opcode 0x40 completes once an event counter reaches the given value. -/
  | wait (ctx : Nat) (ring : Nat) (serial : Nat)
  /-- SIGNAL (R145). Opcode 0x41 adds an increment to an event counter. -/
  | signal (ctx : Nat) (ring : Nat) (serial : Nat)
  /-- LATCH_ACQUIRE (R179). LATCH operation 0 takes a latch or joins its waiting list. -/
  | latchAcquire (ctx : Nat) (ring : Nat) (serial : Nat)
  /-- LATCH_TRY (R179). LATCH operation 1 takes a free or broken latch or completes LATCH_BUSY. -/
  | latchTry (ctx : Nat) (ring : Nat) (serial : Nat)
  /-- LATCH_RELEASE (R179). LATCH operation 2 releases a held latch and grants it to the first waiter. -/
  | latchRelease (ctx : Nat) (ring : Nat) (serial : Nat)
  /-- WAIT_LATCH_TIMEOUT (R140). A WAIT or waiting LATCH acquire whose timeout expires completes NOT_READY. -/
  | waitLatchTimeout (ctx : Nat) (ring : Nat) (serial : Nat)
  /-- WATCHDOG_EXPIRY (R140). An engine watchdog expiry kills the command, resets the engine and reruns it, or ends a second expiry with TOO_LONG. -/
  | watchdogExpiry (ctx : Nat) (ring : Nat) (serial : Nat)
  /-- INJECTED_KILL (R410). An injected kill drawn at dispatch kills the attempt at its drawn point as a preemption. -/
  | injectedKill (ctx : Nat) (ring : Nat) (serial : Nat)
  /-- EVC_ADD (R152). A write to EVC_ADD adds its increment to an event counter as a commit. -/
  | evcAdd (fn : Nat) (ctr : Nat) (inc : Nat)
  /-- ENABLE (R544). RING_CTRL operation 1 checks and binds a ring to an engine queue and allocates its areas. -/
  | ringEnable (fn : Nat) (ring : Nat)
  /-- RESUME (R149). RING_CTRL operation 2 returns a Halted ring to Running. -/
  | ringResume (fn : Nat) (ring : Nat)
  /-- FLUSH (R150). RING_CTRL operation 3 stops fetch, kills dispatched commands and waits for begun commits. -/
  | ringFlush (fn : Nat) (ring : Nat)
  /-- DISABLE (R149). RING_CTRL operation 4 flushes the ring and leaves it Disabled. -/
  | ringDisable (fn : Nat) (ring : Nat)
  /-- FLUSH_COMPLETE (R150). After begun commits complete, CANCELLED records are written, indices set and FLUSH_EPOCH advanced. -/
  | flushComplete (ctx : Nat) (ring : Nat)
  /-- CREATE (R156). CTX_CTRL operation 1 checks and activates a Free context. -/
  | ctxCreate (fn : Nat)
  /-- DESTROY (R158). CTX_CTRL operation 2 stops the context, cancels its work and breaks its latches. -/
  | ctxDestroy (fn : Nat)
  /-- DESTROY_RELEASE (R158). After begun commits complete, the context's sequences are closed, granules released and the state set Free. -/
  | destroyRelease (ctx : Nat)
  /-- THAW (R174). CTX_CTRL operation 3 returns a Frozen context's rings to their states and reruns its killed commands. -/
  | ctxThaw (fn : Nat)
  /-- RESET (R159). CTX_CTRL operation 4 cancels the context's work, disables its rings, zeroes counters and breaks latches. -/
  | ctxReset (fn : Nat)
  /-- FN_RANGE_WRITE (R154). A write to FN_CTX or FN_LATCH sets a function's range or is refused with FN_ERR. -/
  | fnRangeWrite (a : Agent) (fn : Nat) (latches : Bool) (v : Word)
  /-- CTX_WEIGHT_WRITE (R164). A write to CTX_WEIGHT takes effect at the next charge, or is ignored with FORMAT when zero. -/
  | ctxWeightWrite (fn : Nat) (v : Word)
  /-- PREEMPTION_CHECK (R165). Each microsecond the scheduler checks running commands and preempts those past their slice behind a lower VT. -/
  | preemptionCheck
  /-- VT_IDLE_ADJUST (R163). Every 1 ms idle contexts' virtual times are raised to their queues' virtual clocks. -/
  | vtIdleAdjust
  /-- ENERGY_RECONCILE (R169). Every 10 ms measured energy is shared among the accounts in proportion to modelled energy. -/
  | energyReconcile (railUj : List Nat)
  /-- OBJ_CREATE (R191). OBJ_CTRL operation 1 creates an object with the staged attributes. -/
  | objCreate (fn : Nat)
  /-- OBJ_DESTROY (R191). OBJ_CTRL operation 2 removes an object and frees its granules. -/
  | objDestroy (fn : Nat)
  /-- RESIZE (R191). OBJ_CTRL operation 3 changes an object's SIZE and frees granules beyond it. -/
  | objResize (fn : Nat)
  /-- SET_CFG (R191). OBJ_CTRL operation 4 changes an object's attributes. -/
  | objSetCfg (fn : Nat)
  /-- PROMOTE (R191). OBJ_CTRL operation 5 requests promotion of Silo-resident granules of a range. -/
  | objPromote (fn : Nat)
  /-- EVICT (R191). OBJ_CTRL operation 6 requests eviction of Loft-resident granules of a range. -/
  | objEvict (fn : Nat)
  /-- MAP (R191). OBJ_CTRL operation 7 makes an object number a read-only alias of another context's object. -/
  | objMap (fn : Nat)
  /-- MIGRATION_PRESSURE (R209). A stack whose free count falls below LOFT_LOW starts evictions until it reaches LOFT_HIGH. -/
  | migrationPressure (stack : Nat)
  /-- HEAT_PROMOTION (R209). At each 1 ms interval, placement-1 granules read at least PROMOTE_THRESH times are promoted. -/
  | heatPromotion
  /-- MIGRATION_COPY_DONE (R211). When a granule copy completes, the object table is remapped and caches invalidated. -/
  | migrationCopyDone (sid : Nat) (gran : Nat)
  /-- SOURCE_FREE (R211). An old granule copy is freed when its last reader finishes. -/
  | sourceFree (sid : Nat) (gran : Nat)
  /-- REPAIR_COMPLETE (R218). When a fresh granule has been built from its replica, it is remapped and the killed commands released for rerun. -/
  | repairComplete (sid : Nat) (gran : Nat)
  /-- MIG_CFG_WRITE (R225). A write to MIG_CFG sets migration thresholds or is ignored with CFG_ERR. -/
  | migCfgWrite (a : Agent) (v : Word)
  /-- CART_OSTD_WRITE (R223). A write to CART_OSTD sets outstanding transfers for later dispatches or is ignored with OSTD_ERR. -/
  | cartOstdWrite (a : Agent) (q : Nat) (v : Word)
  /-- SEQ_CANCEL (R262). A write to SEQ_CANCEL cancels an owned Open slot, stopping and killing commands that name only it. -/
  | seqCancel (fn : Nat) (slot : Nat)
  /-- CANCEL_COMPLETE (R262). After begun commits complete, the slot's map is detached and RESULT and DONE are set. -/
  | cancelComplete (ctx : Nat)
  /-- MAP_RELEASE (R264). A free sequence walker releases the stooks of the oldest detached map in the background. -/
  | mapRelease
  /-- DRIFT_GROUP_FREE (R258). Nodes of a destroyed context's private group are freed in the background, leaves first. -/
  | driftGroupFree (ctx : Nat)
  /-- INSTALL (R260). STEER_CTRL operation 1 checks and installs a steering set for the context. -/
  | steerInstall (fn : Nat)
  /-- REMOVE (R260). STEER_CTRL operation 2 removes a set once earlier steered commands are final. -/
  | steerRemove (fn : Nat)
  /-- RNG_SEED_LO_WRITE (R297). A write to RNG_SEED_LO is held until the high half is written. -/
  | rngSeedLoWrite (fn : Nat) (v : Word)
  /-- RNG_SEED_HI_WRITE (R297). A write to RNG_SEED_HI sets the 64-bit run seed from the held low half. -/
  | rngSeedHiWrite (fn : Nat) (v : Word)
  /-- PORT_CTRL_WRITE (R346). A write of EN starts training a port, or takes it Off and discards its retry buffer. -/
  | portCtrlWrite (a : Agent) (port : Nat) (v : Word)
  /-- TRAINING_COMPLETE (R346). Standard training and 40 good control flits start frame index, sequence numbers and credits and move the port to Ident. -/
  | trainingComplete (port : Nat)
  /-- TRAINING_TIMEOUT (R346). A port in Training for 2 s without completion goes Down. -/
  | trainingTimeout (port : Nat)
  /-- DOWN_RETRY (R346). A port Down for 1 s starts training again. -/
  | downRetry (port : Nat)
  /-- LINK (R347). A LINK packet carries identity, HELLO or FINISH of key agreement in Ident, moving the port Up or Down. -/
  | linkPacket (port : Nat) (msg : LinkMsg)
  /-- PORT_ACTIVATE (R346). An Up port becomes Active when the plan enables it and the peer's GROUP_ID matches and is Active-ready. -/
  | portActivate (port : Nat)
  /-- FRAME_TRANSMIT (R337). Each frame period a port sends a control flit and 39 data or null flits, replaying after a NAK. -/
  | frameTransmit (port : Nat)
  /-- FRAME_RECEIVE (R340). A received frame is checked, its flits accepted or a NAK raised, and its ACK, NAK, credits and lane commands acted on. -/
  | frameReceive (port : Nat) (frame : RxFrame)
  /-- RETRAIN_LOCK (R346). A retraining port that regains lock within 100 µs resumes replay and returns to Active. -/
  | retrainLock (port : Nat)
  /-- RETRAIN_TIMEOUT (R343). A retrain without lock for 100 µs discards the retry buffer, goes Down and kills commands with cause lost flit. -/
  | retrainTimeout (port : Nat)
  /-- LANE_ROTATION_START (R348). Every PERIOD_S ÷ 9 the lower end of an Active port sends ROTATE_REQ for the longest-uncalibrated lane. -/
  | laneRotationStart (port : Nat)
  /-- LANE_ROTATION_SWITCH (R349). At the named frame both ends carry the logical lane on the former spare. -/
  | laneRotationSwitch (port : Nat)
  /-- LANE_ROTATE_RETRY (R349). After a ROTATE_NAK the requester retries the rotation 1 ms later. -/
  | laneRotateRetry (port : Nat)
  /-- LANE_CALIBRATION_DONE (R348). Calibration of the spare lane completes and the spare becomes available. -/
  | laneCalibrationDone (port : Nat)
  /-- LANE_RETIRE (R350). A lane over its FEC error threshold in 1 s or without lock moves to the spare, narrows the port, or takes it Down. -/
  | laneRetire (port : Nat) (lane : Nat)
  /-- LINK_REKEY (R372). After 2^32 frames under a key the transmitter derives the next key and flips KEY_PHASE. -/
  | linkRekey (port : Nat)
  /-- CREDIT_STALL_TICK (R353). Each 10 ms in which a lane had a flit waiting without credit advances CREDIT_STALL. -/
  | creditStallTick (port : Nat) (lane : Nat)
  /-- EXPORT (R355). FAR_CTRL operation 1 publishes an object as a module export. -/
  | farExport (fn : Nat)
  /-- UNEXPORT (R355). FAR_CTRL operation 2 removes an export of the context. -/
  | farUnexport (fn : Nat)
  /-- BIND (R356). FAR_CTRL operation 3 binds an object number to a peer's export as a far object. -/
  | farBind (fn : Nat)
  /-- WRITE_PACKET (R357). An arriving WRITE stages payload bytes at the exporter under its epoch and attempt and is answered by DONE. -/
  | writePacket (pkt : FarPacket)
  /-- READ_REQ_PACKET (R357). An arriving READ_REQ is answered with READ_DATA of the export's committed content. -/
  | readReqPacket (pkt : FarPacket) (rereadsClean : Bool)
  /-- READ_DATA_PACKET (R357). An arriving READ_DATA delivers far read bytes, with their poison marks, to the issuing MOVE. -/
  | readDataPacket (pkt : FarPacket)
  /-- COMMIT_PACKET (R359). An arriving COMMIT commits the epoch's staged bytes once and signals the export counter. -/
  | commitPacket (pkt : FarPacket)
  /-- ABORT_PACKET (R359). An arriving ABORT discards the epoch's staged bytes. -/
  | abortPacket (pkt : FarPacket)
  /-- DONE_PACKET (R357). An arriving DONE acknowledges a far write or reports its failure status. -/
  | donePacket (pkt : FarPacket)
  /-- E2E_TIMEOUT (R358). An end-to-end timer expiry resends a request once, then ends its MOVE with UNREACHABLE, or repeats a COMMIT. -/
  | e2eTimeout (xid : Nat) (marked : Bool)
  /-- FAR_STAGE_EXPIRE (R359). Staged bytes whose epoch has no COMMIT within 10 ms are discarded. -/
  | farStageExpire (epoch : Nat)
  /-- TALLY_UP (R363). An arriving TALLY_UP partial enters its segment once, and a complete partial is sent to the parent. -/
  | tallyUp (port : Nat) (pkt : TallyPacket)
  /-- TALLY_DOWN (R365). An arriving TALLY_DOWN delivers the final record, result or failure, which is written to local commands and sent on. -/
  | tallyDown (port : Nat) (pkt : TallyPacket)
  /-- COLL_TIMEOUT (R370). A missing contribution or parent answer beyond COLL_TO_MS fails the collective with PEER_TIMEOUT. -/
  | collTimeout (tree : Nat) (seq : Nat) (group : Nat)
  /-- DIGEST_CLEAR (R409). A write of CLEAR to DIGEST_CTRL zeroes the context's digest and unit count. -/
  | digestClear (fn : Nat)
  /-- DET_INJECT_WRITE (R412). A write to DET_INJECT sets injection enables and restarts the injection generator with its seed. -/
  | detInjectWrite (a : Agent) (v : Word)
  /-- KEY_RECORD_APPLY (R418). KV_CTRL operation 1 checks a key record and installs, removes or transfers a key. -/
  | keyRecordApply (a : Agent)
  /-- SVN_COMMIT (R421). KV_CTRL operation 2 raises the SVN fuses and burns the named revocation fuses. -/
  | svnCommit (a : Agent)
  /-- OPEN (R425). WPK_CTRL operation 1 verifies a package manifest and holds its content key in a slot. -/
  | wpkOpen (fn : Nat)
  /-- WPK_LOAD (R427). WPK_CTRL operation 2 decrypts and verifies chunks and commits them to an object, sealing it. -/
  | wpkLoad (fn : Nat)
  /-- CLOSE (R426). WPK_CTRL operation 3 zeroises a slot's key and frees it. -/
  | wpkClose (fn : Nat)
  /-- APERTURE_READ (R447). A BAR2 aperture read returns committed pinned-object content, or zero with ERR when invalid. -/
  | apertureRead (fn : Nat) (off : Nat) (len : Nat)
  /-- APERTURE_WRITE (R447). A BAR2 aperture write commits its bytes to a pinned object, or is ignored with ERR when invalid. -/
  | apertureWrite (fn : Nat) (off : Nat) (data : List Byte)
  /-- IRQ_HOLDOFF_EXPIRY (R450). When HOLDOFF_US has passed since a vector's first counted event, its message becomes due. -/
  | irqHoldoffExpiry (fn : Nat) (vec : Nat)
  /-- MSIX_UNMASK (R450). Clearing a vector or function mask sends the pending message and clears its PBA bit. -/
  | msixUnmask (fn : Nat) (vec : Option Nat)
  /-- FUNCTION_QUIESCE (R453). A function entering D3hot or losing Bus Master Enable stops its rings and kills its dispatched commands. -/
  | functionQuiesce (fn : Nat) (d3 : Bool)
  /-- FUNCTION_RESUME (R453). A function back in D0 with Bus Master Enable reruns its killed commands and sends held messages. -/
  | functionResume (fn : Nat)
  /-- VF_RESET (R454). A function-level reset of a VF destroys its contexts, closes its slots and resets its registers. -/
  | vfReset (fn : Nat)
  /-- PF_RESET (R524). A PF function-level reset, hot reset or link down resets every VF and destroys every PF context. -/
  | pfReset
  /-- CONFIG_REQUEST (R516). A configuration request is answered with Request Retry Status before READY, and normally after it. -/
  | configRequest (fn : Nat) (req : ConfigReq)
  /-- ATS_INVALIDATION (R438). An ATS invalidation completes once no request using the old translation remains outstanding. -/
  | atsInvalidation (fn : Nat) (page : Nat)
  /-- HOST_COMPLETION_TIMEOUT (R438). A host read completion that times out is treated as an unsuccessful completion. -/
  | hostCompletionTimeout (ctx : Nat) (ring : Nat) (serial : Nat) (page : Nat)
  /-- RUN (R465). PWR_CTRL target 0 requests the Run state. -/
  | pwrRun (a : Agent)
  /-- HOLD (R467). PWR_CTRL target 1 requests Hold and starts the entry handshake. -/
  | pwrHold (a : Agent)
  /-- NAP (R467). PWR_CTRL target 2 requests Nap and starts the entry handshake. -/
  | pwrNap (a : Agent)
  /-- AUTO_HOLD (R465). With HOLD_AUTO set, HOLD_IDLE_US without a dispatch requests Hold. -/
  | autoHold
  /-- HANDSHAKE_ANSWER (R468). A participant's ACCEPT, REFUSE or DELAY answer advances, abandons or completes the entry handshake. -/
  | handshakeAnswer (part : Nat) (ans : HsAnswer)
  /-- HANDSHAKE_TIMEOUT (R467). A participant not accepting 10 ms after the start counts as refusing and the entry is abandoned. -/
  | handshakeTimeout
  /-- POWER_TRANSITION_DONE (R470). The last step of a state entry or exit sets PWR_STATUS.STATE and raises STATE_DONE. -/
  | powerTransitionDone
  /-- WAKE_EVENT (R469). An enabled wake source ends Hold, Nap or Fallow and sets its WAKE_CAUSE bit. -/
  | wakeEvent (src : Nat)
  /-- COMP_TRIP (R471). The WAKE_AIN comparator trips after its filter, setting COMP and counting in COMP_COUNT. -/
  | compTrip
  /-- WAKE_CFG_WRITE (R471). A write to WAKE_CFG takes effect within 3 WCLK cycles and re-arms the comparator. -/
  | wakeCfgWrite (a : Agent) (v : Word)
  /-- ACLK_SLEW_DONE (R463). When the array rail reaches the new voltage, the die's ACLK frequency changes after a raise, or the slew ends after a lowering. -/
  | aclkSlewDone (die : Nat)
  /-- PHASE_SAMPLE (R474). Each microsecond phase currents and rail voltages are sampled and a faulty phase is retired. -/
  | phaseSample (amps : List Nat) (bad : List Nat)
  /-- SPARE_PHASE_SWITCHED (R475). When a spare phase has switched onto the rail, or none is left, the limit is lifted, set or derated. -/
  | sparePhaseSwitched (rail : Nat)
  /-- BUDGET_EVALUATION (R476). Every 100 µs the power controller grants or revokes sprint, or lowers or raises ACLK ceilings against the budget. -/
  | budgetEvaluation (inW : Nat) (delivW : Nat)
  /-- INPUT_OVERCURRENT (R477). Input current above 1.15 × B ÷ 12 V for 2 µs slews every die down and revokes every sprint. -/
  | inputOvercurrent
  /-- SENSOR_SAMPLE (R495). A sensor is sampled, its validity judged and thermal limits applied. -/
  | sensorSample (sensor : Nat) (v : Option Nat)
  /-- WM_CFG_WRITE (R498). Enabling a monitor sets ABOVE from its value without recording a crossing. -/
  | wmCfgWrite (a : Agent) (v : Word)
  /-- WM_THRESHOLD_WRITE (R498). A write to WM_SRC, WM_HI or WM_LO takes effect at the next evaluation, or is refused with ERR. -/
  | wmThresholdWrite (a : Agent) (reg : Nat) (v : Word)
  /-- PCH_SPARE_COPY_DONE (R485). When a pseudo-channel's share has been copied to its spare, the group's mapping switches. -/
  | pchSpareCopyDone (stack : Nat)
  /-- SILO_REQUEST_TIMEOUT (R489). A Silo request without answer after 50 µs is retried, up to three times, then the port retrains. -/
  | siloRequestTimeout (port : Nat)
  /-- SILO_PORT_RETIRE (R488). A Silo port past its retrain threshold is retired and its replicated granules rebuilt elsewhere. -/
  | siloPortRetire (port : Nat)
  /-- SCRUB_UNIT (R492). A background scrub unit reads memory, writes back corrected units or poisons and repairs uncorrectable ones. -/
  | scrubUnit (act : Nat) (unit : Nat) (res : Nat) (line : Nat) (found : ScrubFound)
  /-- PHY_CALIBRATION (R490). A Loft PHY calibration unit holds one pseudo-channel for at most 1 µs. -/
  | phyCalibration (stack : Nat)
  /-- BG_PASS_LATE (R494). A background pass that completes after its period sets LATE and BG_LATE and logs class 7. -/
  | bgPassLate (act : Nat)
  /-- HEALTH_RECORD_WRITE (R483). A retirement is written to the health record, retried every 100 ms on failure. -/
  | healthRecordWrite (okay : Bool)
  /-- CORE_WATCHDOG (R489). A management core not answering its watchdog for 200 ms restarts. -/
  | coreWatchdog (core : Nat)
  /-- ELOG_RD_WRITE (R502). A write of ELOG_RD releases error-log entries, ignored when out of range. -/
  | elogRdWrite (a : Agent) (high : Bool) (v : Word)
  /-- ELOG_ENTRY_READ (R502). A read of ELOG_ENTRY[0] copies the selected slot into the shadow. -/
  | elogEntryRead (a : Agent)
  /-- TIME_STEP (R503). A write of TIME_CTRL.STEP adds TIME_STEP to the time base. -/
  | timeStep (a : Agent)
  /-- MCTP_CONTROL (R505). An MCTP control message sets or reports endpoint and version data. -/
  | mctpControl (msg : List Byte)
  /-- PLDM_REQUEST (R506). A PLDM base, monitoring or FRU request is answered. -/
  | pldmRequest (msg : List Byte)
  /-- PLDM_FIRMWARE_UPDATE (R506). A PLDM firmware update writes and verifies an image in the inactive area and marks it pending. -/
  | pldmFirmwareUpdate (msg : List Byte)
  /-- SPDM_REQUEST (R414). An SPDM 1.2 request is answered with certificate chains or signed measurements. -/
  | spdmRequest (msg : List Byte)
  /-- POWER_REQUEST (R507). Vendor message 0x01 requests a power state under R465. -/
  | powerRequest (target : Nat)
  /-- SIDEBAND_WAKE (R507). Vendor message 0x02 raises a SIDEBAND wake event. -/
  | sidebandWake
  /-- HEALTH_RECORD_READ (R507). Vendor message 0x03 returns the health record in parts. -/
  | healthRecordRead (part : Nat)
  /-- ERROR_LOG_READ (R507). Vendor message 0x04 returns error-log entries without releasing them. -/
  | errorLogRead (idx : Nat)
  /-- ERROR_LOG_RELEASE (R507). Vendor message 0x05 writes ELOG_RD. -/
  | errorLogRelease (rd : Nat)
  /-- COLD_RESET (R510). P3V3_AUX rising above its threshold starts step 0 and the full start-up sequence. -/
  | coldReset
  /-- AUX_POWER_LOSS (R533). P3V3_AUX below 3.0 V stops the always-on domain and turns every rail off. -/
  | auxPowerLoss
  /-- WARM_RESET (R511). PERST_N assertion outside Fallow, 12 V loss or a hub request stops all work and turns rails off. -/
  | warmReset (cause : Nat)
  /-- RST_CTRL_WARM (R525). A write of WARM with KEY 0xA5 to RST_CTRL starts a warm reset. -/
  | rstCtrlWarm (a : Agent) (v : Word)
  /-- PERST_DEASSERT (R511). PERST_N deassertion starts start-up after a warm reset, or ends Fallow. -/
  | perstDeassert
  /-- SYSREF_CLK_LOSS (R532). SYSREF_CLK absent for 1 µs causes a warm reset. -/
  | sysrefClkLoss
  /-- CRV_REF_CLK_LOSS (R532). Loss of CRV_REF_CLK takes every Caravan port Down. -/
  | crvRefClkLoss
  /-- STARTUP_STEP1_RETRY (R514). A start-up stopped at step 1 for a missing clock or 12 V retries every 100 ms. -/
  | startupStep1Retry
  /-- SILO_TRAINING_RETRY (R518). A Silo port whose expander is not ready retries CXL training every 100 ms, later every 1 s. -/
  | siloTrainingRetry (port : Nat)
  /-- SILO_PORT_TRAINED (R518). A Silo port completes training, is enumerated and records its capacity. -/
  | siloPortTrained (port : Nat) (capacity : Nat)
  /-- BOOT_PLAN_LOAD (R520). At step 10, once the named Silo ports train or SILO_WAIT_MS passes, the boot plan is loaded. -/
  | bootPlanLoad
  /-- FALLOW_EXIT (R523). A wake ending Fallow runs start-up and restores the saved state. -/
  | fallowExit
  /-- STORE (R526). BOOT_CTRL operation 1 checks an image and writes it into the boot-plan area. -/
  | bootStore (a : Agent)
  /-- ERASE (R526). BOOT_CTRL operation 2 empties the boot-plan area. -/
  | bootErase (a : Agent)
  /-- BOOT_CFG_WRITE (R525). A write to BOOT_CFG is stored in the boot block within 100 ms. -/
  | bootCfgWrite (a : Agent) (v : Word)
  /-- STARTUP_STEP_DONE (R512). A start-up step ends after its duration and the next begins, through self-test, Loft training, retirements, READY at step 9 and entry to step 10, including the 2 ms start after a requested warm reset. -/
  | startupStepDone
  /-- RESET_COMPLETE (R158). After the commits already begun when a context RESET started have completed, CANCELLED records are written, rings disabled, latches broken and the context returns to Active. -/
  | resetComplete (ctx : Nat)
  /-- FP_OPERATION_DONE (R52). A LOAD or PREPARE finishes reading and validating its image, sets FP_STATUS.RESULT, clears BUSY and raises DONE. -/
  | fpOperationDone
  /-- OBJ_OPERATION_DONE (R192). An object DESTROY or RESIZE finishes freeing its granules and clears OBJ_STATUS.BUSY. -/
  | objOperationDone (ctx : Nat)
  /-- STEER_OPERATION_DONE (R260). A steering INSTALL completes within 10 µs, or a REMOVE completes once every earlier steered command is final, clearing STEER_STATUS.BUSY. -/
  | steerOperationDone (ctx : Nat)
  /-- KEY_VAULT_OP_DONE (R434). A key-record APPLY or SVN_COMMIT finishes reading, verifying or burning fuses, sets RESULT and clears KV_STATUS.BUSY. -/
  | keyVaultOpDone
  /-- WPK_OPERATION_DONE (R427). A package OPEN or LOAD finishes its reads, tag checks and decryption, commits or fails, and clears WPK_STATUS.BUSY. -/
  | wpkOperationDone (ctx : Nat)
  /-- BOOT_STORE_DONE (R526). A STORE finishes writing its image into the boot-plan area within 200 ms, sets OP_RESULT and clears BOOT_STATUS.BUSY. -/
  | bootStoreDone
  /-- BIND_QUERY (R356). At the exporter, an arriving bind request for an export is answered with its size, access, generation and group, or NO_OBJECT. -/
  | bindQuery (pkt : FarPacket)
  /-- BIND_ANSWER (R356). The answer to a BIND arrives and the far object is entered in the table, or the bind ends NO_OBJECT. -/
  | bindAnswer (pkt : FarPacket)
  /-- D2D_LINK_RESTORED (R26). A narrowed or down die link returns to full width, the detour is removed and commands crossing it stop completing DEGRADED. -/
  | d2dLinkRestored (link : Nat)
  /-- CRV_REF_CLK_RETURN (R532). CRV_REF_CLK returns within tolerance and the Caravan ports train again. -/
  | crvRefClkReturn
  /-- COMP_REARM (R471). The WAKE_AIN input crosses back past the threshold by the hysteresis and the comparator re-arms. -/
  | compRearm
  /-- PERST_ASSERT_IN_FALLOW (R511). PERST_N asserted while the module is in Fallow holds the host port in reset without a warm reset. -/
  | perstAssertInFallow
  /-- HOST_LINK_TRAINED (R436). The PCI Express link completes training at some speed and width and HOST_LINK reports it. -/
  | hostLinkTrained (speed : Nat) (width : Nat) (flit : Bool)
deriving DecidableEq, Repr

end Sys2Proof
end

