-- ==== Sys2Proof/Config.lean ====
section
/-! DEFINITION. Sys2Proof/Config.lean: what the spec leaves open and one implementation or one run fixes. Every
constant here has no body: no proof can see a value of it, so a claim holds whatever it is. Each is named in a row of
notes/assumptions/. -/

namespace Sys2Proof.Config

open Sys2Proof

/-- DESIGN CHOICE (log entry 1). A fresh unstated value: the step applies it to the counter `State.free`. -/
opaque freeValue : Nat → Nat

/-- DESIGN CHOICE (log entry 5). The FP32 result of an arithmetic function on an operand for which the spec states no
result; the first argument numbers the function. -/
opaque unstatedF32 : Nat → Word → Word

/-- DESIGN CHOICE (log entry 7). R202 states no order among symbols of equal weight in a length-limited Huffman code: the rank
of a symbol of a histogram. -/
opaque packTie : List Nat → Nat → Nat

/-- DESIGN CHOICE (log entry 8). The modelled energy of an attempt (R168), in the model's own unit, from its descriptor and its
engine time: the spec leaves the calibrated models open. -/
opaque attemptEnergy : List Byte → Nat → Nat

/-- DESIGN CHOICE (log entry 9). R493: the calibrated ageing of a slot in one millisecond, by slot and time. -/
opaque ageFactor : Nat → Nat → Nat

/-- R413: the unique device secret in the fuses, 32 bytes. -/
opaque uds : List Byte

/-- DESIGN CHOICE (log entry 27). R513, R542: the hub firmware image that both areas of SPI NOR hold as shipped, and the public
firmware keys in ROM (R416, R420) by KEY_ID: the spec gives no bytes of either. -/
opaque firmware : List Byte
opaque firmwareKey : Nat → List Byte

/-- DESIGN CHOICE (log entry 28). R463, R476, R475: the calibrated models of power: the voltage in mV of a die's array rail at an
ACLK that is neither rated point, the watts that sprint adds on a die, the current in 0.1 A of a rail at an ACLK. -/
opaque railMv : Nat → Nat → Nat
opaque sprintWatts : Nat → Nat
opaque railAmps : Nat → Nat → Nat

/-- R413: the boot loader image. -/
opaque bootLoader : List Byte

/-- DESIGN CHOICE (log entry 26). R413, R414: the certificate chain of a slot for a public key, and the public key that a peer's
chain certifies when it verifies to the Ngasan root: the spec gives no certificate encoding. -/
opaque certChain : Nat → List Byte → List Byte
opaque chainKey : List Byte → Option (List Byte)

/-- DESIGN CHOICE (log entry 1). R224: what OBJ_INFO shows of a far object, by context and number: no rule gives it attributes. -/
opaque farAttributes : Nat → Nat → Nat

end Sys2Proof.Config
end

