-- ==== Sys2Proof/Machine/Float.lean ====
section
/-! DEFINITION. Sys2Proof/Machine/Float.lean: the arithmetic of R75 to R87 as exact rules: the number formats, the exact
values behind them, the three rounding modes, and the correctly rounded primitives. An exact value is a sign, a natural
number and a power of two; every operation is computed exactly and narrowed once. -/

namespace Sys2Proof.Machine

open Sys2Proof

/-- An exact value: not a number, an infinity, or (-1)^neg × m × 2^e (a zero keeps its sign). -/
inductive Ext where
  | nan
  | inf (neg : Bool)
  | fin (neg : Bool) (m : Nat) (e : Int)
deriving DecidableEq, Repr

/-- Which encodings of a format are not finite numbers (R75). -/
inductive Specials where
  | ieee      -- exponent all ones: infinity and NaN
  | topNan    -- FP8 E4M3: only S.1111.111 is NaN
  | none      -- FP6 and FP4: every encoding is finite
deriving DecidableEq, Repr

/-- A binary floating-point format of R75. -/
structure FloatFmt where
  ebits : Nat
  mbits : Nat
  bias : Nat
  specials : Specials
deriving DecidableEq, Repr

def fmtF32 : FloatFmt := ⟨8, 23, 127, .ieee⟩
def fmtBF16 : FloatFmt := ⟨8, 7, 127, .ieee⟩
def fmtE5M2 : FloatFmt := ⟨5, 2, 15, .ieee⟩
def fmtE4M3 : FloatFmt := ⟨4, 3, 7, .topNan⟩
def fmtE3M2 : FloatFmt := ⟨3, 2, 3, .none⟩
def fmtE2M3 : FloatFmt := ⟨2, 3, 1, .none⟩
def fmtE2M1 : FloatFmt := ⟨2, 1, 1, .none⟩

/-- The value of an encoding (R75). -/
def decodeFloat (f : FloatFmt) (x : Nat) : Ext :=
  let s := x.testBit (f.ebits + f.mbits)
  let ex := (x >>> f.mbits) % 2 ^ f.ebits
  let ma := x % 2 ^ f.mbits
  let top := ex == 2 ^ f.ebits - 1
  let special : Option Ext :=
    match f.specials with
    | .ieee => if top then some (if ma == 0 then .inf s else .nan) else none
    | .topNan => if top && ma == 2 ^ f.mbits - 1 then some .nan else none
    | .none => none
  match special with
  | some v => v
  | none =>
    if ex == 0 then .fin s ma (1 - (f.bias : Int) - f.mbits)
    else .fin s (2 ^ f.mbits + ma) ((ex : Int) - f.bias - f.mbits)

/-- R83: the rounding modes; the word is that of R84. -/
inductive RoundMode where
  | rne
  | rtz
  | sr (w : Nat)
deriving DecidableEq, Repr

/-- The number of bits of a natural number. -/
def bitLen (m : Nat) : Nat := if m == 0 then 0 else Nat.log2 m + 1

/-- Floor of m ÷ 2^k for a signed k (a negative k multiplies). -/
def shiftRightInt (m : Nat) (k : Int) : Nat :=
  if k ≤ 0 then m * 2 ^ (-k).toNat else m / 2 ^ k.toNat

/-- The exponent of the last place of a result of magnitude m × 2^e in the format, subnormals included. -/
def lastPlace (f : FloatFmt) (m : Nat) (e : Int) : Int :=
  max (e + bitLen m - (f.mbits + 1 : Nat)) (1 - (f.bias : Int) - f.mbits)

/-- Rounding of m × 2^e (m > 0) to a multiple q of 2^k, k the exponent of the last place (R83, R84). -/
def roundMag (mode : RoundMode) (m : Nat) (e k : Int) : Nat :=
  if k ≤ e then m * 2 ^ (e - k).toNat
  else
    let sh := (k - e).toNat
    let q := m / 2 ^ sh
    let r := m % 2 ^ sh
    let up : Bool :=
      match mode with
      | .rne => 2 * r > 2 ^ sh || (2 * r == 2 ^ sh && q % 2 == 1)
      | .rtz => false
      | .sr w => r != 0 && r * 2 ^ 32 / 2 ^ sh + w ≥ 2 ^ 32
    if up then q + 1 else q

/-- The encoding of the largest finite magnitude (R75). -/
def maxFinite (f : FloatFmt) : Nat :=
  match f.specials with
  | .ieee => (2 ^ f.ebits - 1) * 2 ^ f.mbits - 1
  | .topNan => 2 ^ (f.ebits + f.mbits) - 2
  | .none => 2 ^ (f.ebits + f.mbits) - 1

/-- The encoding of an infinity's magnitude in an `ieee` format. -/
def infCode (f : FloatFmt) : Nat := (2 ^ f.ebits - 1) * 2 ^ f.mbits

/-- The canonical NaN of the format, sign 0 (R76). -/
def nanCode (f : FloatFmt) : Nat :=
  match f.specials with
  | .ieee => infCode f + 2 ^ (f.mbits - 1)
  | .topNan => 2 ^ (f.ebits + f.mbits) - 1
  | .none => 0

/-- The magnitude encoding of q × 2^k, k at least the subnormal last place and q at most 2^(mbits+1); may pass the
largest finite encoding. -/
def encodeMag (f : FloatFmt) (q : Nat) (k : Int) : Nat :=
  q + (k - (1 - (f.bias : Int) - f.mbits)).toNat * 2 ^ f.mbits

/-- What a finite value beyond the largest finite becomes (R76), as a magnitude encoding. -/
def overflowCode (f : FloatFmt) (mode : RoundMode) : Nat :=
  match f.specials, f.mbits, mode with
  | .ieee, 23, .rne => infCode f
  | .ieee, 7, .rne => infCode f
  | _, _, _ => maxFinite f

/-- Conversion to a format (R76) with the rounding mode in force; infinities and NaN of an MX element format are the
block's affair (R77) and encode here as 0. -/
def encodeFloat (f : FloatFmt) (mode : RoundMode) (x : Ext) : Nat :=
  let sgn (neg : Bool) (c : Nat) : Nat := (if neg then 2 ^ (f.ebits + f.mbits) else 0) + c
  match x with
  | .nan => nanCode f
  | .inf neg =>
    match f.specials with
    | .ieee => sgn neg (infCode f)
    | .topNan => nanCode f
    | .none => 0
  | .fin neg m e =>
    if m == 0 then sgn neg 0
    else
      let k := lastPlace f m e
      -- R84: beyond the largest finite SR draws nothing
      let exactTop := encodeMag f (roundMag .rtz m e k) k
      let beyond := exactTop > maxFinite f ||
        (exactTop == maxFinite f && (k > e && m % 2 ^ (k - e).toNat != 0))
      match mode with
      | .sr _ =>
        if beyond then sgn neg (maxFinite f)
        else sgn neg (encodeMag f (roundMag mode m e k) k)
      | _ =>
        let c := encodeMag f (roundMag mode m e k) k
        sgn neg (if c > maxFinite f then overflowCode f mode else c)

/-- FP32 bits to a value. -/
def f32 (w : Word) : Ext := decodeFloat fmtF32 w.toNat
/-- rne_fp32 of R79: the exact value rounded to FP32, to nearest with ties to even. -/
def rneF32 (x : Ext) : Word := BitVec.ofNat 32 (encodeFloat fmtF32 .rne x)

def f32NaN : Word := 0x7FC00000#32
def f32One : Word := 0x3F800000#32

/-- Is the FP32 word a NaN or an infinity (R87)? -/
def nonFinite (w : Word) : Bool := (w >>> 23) &&& 0xFF#32 == 0xFF#32
/-- Is the FP32 word a NaN? -/
def isNaN (w : Word) : Bool := f32 w == .nan
/-- Is the FP32 word ±0? -/
def isZeroF32 (w : Word) : Bool := w &&& 0x7FFFFFFF#32 == 0#32
/-- The sign bit. -/
def negF32 (w : Word) : Bool := w.msb

/-- Exact negation. -/
def Ext.neg : Ext → Ext
  | .nan => .nan
  | .inf s => .inf (!s)
  | .fin s m e => .fin (!s) m e

/-- The integer m × 2^(e - k) with sign, for k at most e. -/
def signedAt (neg : Bool) (m : Nat) (e k : Int) : Int :=
  let v : Int := (m * 2 ^ (e - k).toNat : Nat)
  if neg then -v else v

/-- A value from a signed integer; an exact zero is +0 (the RNE rule for x + (−x)). -/
def ofInt (v : Int) (k : Int) : Ext := .fin (v < 0) v.natAbs k

/-- Exact addition, signed zeros and infinities as IEEE 754 under RNE (R86). -/
def Ext.add (a b : Ext) : Ext :=
  match a, b with
  | .nan, _ => .nan
  | _, .nan => .nan
  | .inf s, .inf t => if s == t then .inf s else .nan
  | .inf s, _ => .inf s
  | _, .inf t => .inf t
  | .fin s m e, .fin t n f =>
    if m == 0 && n == 0 then .fin (s && t) 0 0
    else
      let k := min e f
      ofInt (signedAt s m e k + signedAt t n f k) k

/-- Exact multiplication. -/
def Ext.mul (a b : Ext) : Ext :=
  match a, b with
  | .nan, _ => .nan
  | _, .nan => .nan
  | .inf s, .inf t => .inf (s != t)
  | .inf s, .fin t n _ => if n == 0 then .nan else .inf (s != t)
  | .fin s m _, .inf t => if m == 0 then .nan else .inf (s != t)
  | .fin s m e, .fin t n f => .fin (s != t) (m * n) (e + f)

/-- FP32 addition, subtraction, multiplication and fused multiply-add, one rounding each (R86). -/
def fAdd (a b : Word) : Word := rneF32 ((f32 a).add (f32 b))
def fSub (a b : Word) : Word := rneF32 ((f32 a).add (f32 b).neg)
def fMul (a b : Word) : Word := rneF32 ((f32 a).mul (f32 b))
def fFma (a b c : Word) : Word := rneF32 (((f32 a).mul (f32 b)).add (f32 c))
/-- Negation flips the sign bit; a NaN is canonical (R76). -/
def fNeg (a : Word) : Word := if isNaN a then f32NaN else a ^^^ 0x80000000#32
def fAbs (a : Word) : Word := if isNaN a then f32NaN else a &&& 0x7FFFFFFF#32

/-- Comparison of two values that are not NaN: is a below b? Zeros are equal. -/
def Ext.lt (a b : Ext) : Bool :=
  match a, b with
  | .nan, _ => false
  | _, .nan => false
  | .inf s, .inf t => s && !t
  | .inf s, _ => s
  | _, .inf t => !t
  | .fin s m e, .fin t n f =>
    let k := min e f
    signedAt s m e k < signedAt t n f k

def fLt (a b : Word) : Bool := (f32 a).lt (f32 b)
/-- Equality as numbers (not NaN; −0 equals +0). -/
def fEq (a b : Word) : Bool := !isNaN a && !isNaN b && !fLt a b && !fLt b a

/-- MIN and MAX of R127: NaN if either is NaN; MIN(−0,+0) is −0, MAX(−0,+0) is +0. -/
def fMin (a b : Word) : Word :=
  if isNaN a || isNaN b then f32NaN
  else if fLt a b then a else if fLt b a then b else if negF32 a then a else b
def fMax (a b : Word) : Word :=
  if isNaN a || isNaN b then f32NaN
  else if fLt b a then a else if fLt a b then b else if negF32 a then b else a

/-! ### Division and roots, correctly rounded (R86): enough quotient bits and a sticky bit -/

/-- m ÷ d as an exact-enough value: the quotient with 64 more bits than FP32 needs and a sticky last bit. -/
def quotient (neg : Bool) (m d : Nat) (e : Int) : Ext :=
  let sh := 96 + bitLen d
  let q := m * 2 ^ sh / d
  let r := m * 2 ^ sh % d
  .fin neg (2 * q + (if r == 0 then 0 else 1)) (e - (sh : Int) - 1)

/-- rcp of R86. -/
def fRcp (a : Word) : Word :=
  match f32 a with
  | .nan => f32NaN
  | .inf s => rneF32 (.fin s 0 0)
  | .fin s m e => if m == 0 then rneF32 (.inf s) else rneF32 (quotient s 1 m (-e))

/-- Integer square root by bisection on bits: the largest r with r² ≤ n, for n below 4^k. -/
def isqrt : Nat → Nat → Nat → Nat
  | 0, _, r => r
  | k + 1, n, r =>
    let c := r + 2 ^ k
    isqrt k n (if c * c ≤ n then c else r)

/-- The square root of m × 2^e as a value with a sticky last bit. -/
def rootOf (m : Nat) (e : Int) : Ext :=
  let e2 : Int := if e % 2 == 0 then e else e - 1
  let m2 := if e % 2 == 0 then m else 2 * m
  let n := m2 * 4 ^ 64
  let r := isqrt (bitLen n) n 0
  .fin false (2 * r + (if r * r == n then 0 else 1)) (e2 / 2 - 65)

/-- sqrt of R86. -/
def fSqrt (a : Word) : Word :=
  match f32 a with
  | .nan => f32NaN
  | .inf s => if s then f32NaN else a
  | .fin s m e => if m == 0 then a else if s then f32NaN else rneF32 (rootOf m e)

/-- rsqrt of R86: 1 ÷ √x, computed as the root of the reciprocal to 128 places. -/
def fRsqrt (a : Word) : Word :=
  match f32 a with
  | .nan => f32NaN
  | .inf s => if s then f32NaN else 0#32
  | .fin s m e =>
    if m == 0 then rneF32 (.inf s)
    else if s then f32NaN
    else
      let e2 : Int := if e % 2 == 0 then e else e - 1
      let m2 := if e % 2 == 0 then m else 2 * m
      -- √(2^-e2 ÷ m2): floor of √(2^256 ÷ m2), sticky unless exact
      let q := 2 ^ 256 / m2
      let r := isqrt 129 q 0
      let exact := r * r * m2 == 2 ^ 256
      rneF32 (.fin false (2 * r + (if exact then 0 else 1)) (-(e2 / 2) - 129))

/-! ### exp2, log2, sinpi, cospi, correctly rounded (R86, R127). DEDUCED (log entry 6): computed to 2^-160 and closed with a
sticky bit, since no such value of an FP32 argument is a dyadic number but in the cases treated exactly. -/

/-- Fractional bits of the fixed-point evaluations. -/
def fxBits : Nat := 192
def fxOne : Nat := 2 ^ 192
/-- ln 2 and π to 192 places, by series: ln 2 = Σ 1 ÷ (k 2^k), π by Machin's formula. -/
def ln2Series : Nat → Nat → Nat
  | 0, acc => acc
  | k + 1, acc => ln2Series k (acc + 2 ^ 224 / ((k + 1) * 2 ^ (k + 1)))
def fxLn2 : Nat := ln2Series 230 0 / 2 ^ 32
/-- Σ (−1)^k x^(2k+1) ÷ (2k+1) for x = 1 ÷ d, at 224 places. -/
def atanInv (d : Nat) : Nat → Int → Int
  | 0, acc => acc
  | k + 1, acc =>
    let t : Int := (2 ^ 224 / (d ^ (2 * k + 1) * (2 * k + 1)) : Nat)
    atanInv d k (if k % 2 == 0 then acc + t else acc - t)
def fxPi : Nat := ((4 * (4 * atanInv 5 60 0 - atanInv 239 20 0)) / 2 ^ 32).toNat

/-- Σ t^k ÷ k! for a fixed-point t below 1. -/
def expSeries : Nat → Nat → Nat → Nat → Nat → Nat
  | 0, _, _, _, acc => acc
  | n + 1, k, t, term, acc =>
    let term' := term * t / fxOne / k
    expSeries n (k + 1) t term' (acc + term')

/-- The fixed-point fraction and the whole part (floor) of a finite value; the fraction is truncated to `fxBits`. -/
def splitFx (neg : Bool) (m : Nat) (e : Int) : Int × Nat × Bool :=
  let v : Int := if e ≥ 0 then (m * 2 ^ e.toNat * fxOne : Nat)
    else (shiftRightInt (m * fxOne) (-e) : Nat)
  let lost := e < 0 && shiftRightInt (m * fxOne) (-e) * 2 ^ (-e).toNat != m * fxOne
  let sv := if neg then -v - (if lost then 1 else 0) else v
  (sv / (fxOne : Nat), (sv % (fxOne : Nat)).toNat, lost)

/-- exp2 of R86. -/
def fExp2 (a : Word) : Word :=
  match f32 a with
  | .nan => f32NaN
  | .inf s => if s then 0#32 else a
  | .fin s m e =>
    if m == 0 then f32One
    else if e + bitLen m > 10 then rneF32 (if s then .fin false 1 (-400) else .fin false 1 400)
    else
      let (n, fr, lost) := splitFx s m e
      if fr == 0 && !lost then rneF32 (.fin false 1 n)
      else
        let p := expSeries 60 1 (fr * fxLn2 / fxOne) fxOne fxOne
        rneF32 (.fin false (2 * p + 1) (n - (fxBits : Int) - 1))

/-- Σ z^(2k+1) ÷ (2k+1). -/
def atanhSeries : Nat → Nat → Nat → Nat → Nat → Nat
  | 0, _, _, _, acc => acc
  | n + 1, k, zz, term, acc =>
    atanhSeries n (k + 1) zz (term * zz / fxOne) (acc + term / (2 * k + 1))

/-- log2 of R86. -/
def fLog2 (a : Word) : Word :=
  match f32 a with
  | .nan => f32NaN
  | .inf s => if s then f32NaN else a
  | .fin s m e =>
    if m == 0 then rneF32 (.inf true)
    else if s then f32NaN
    else
      let l := bitLen m
      let ex : Int := e + l - 1
      if m == 2 ^ (l - 1) then rneF32 (ofInt ex 0)
      else
        -- mantissa x in (1, 2): x = m ÷ 2^(l-1); z = (x − 1) ÷ (x + 1)
        let z := (m - 2 ^ (l - 1)) * fxOne / (m + 2 ^ (l - 1))
        let lnx := 2 * atanhSeries 70 0 (z * z / fxOne) z 0
        let lg : Int := (lnx * fxOne / fxLn2 : Nat)
        let v : Int := ex * (fxOne : Nat) + lg
        -- a sticky half-step keeps the value off every representable point
        rneF32 (ofInt (2 * v + 1) (-(fxBits : Int) - 1))

/-- 1 − y/6 + y²/120 − …: sin(t) ÷ t with y = t², fixed point. -/
def sincSeries : Nat → Nat → Nat → Int → Int → Int
  | 0, _, _, _, acc => acc
  | n + 1, k, y, term, acc =>
    let term' := -(term * (y : Int) / (fxOne : Nat)) / ((2 * k * (2 * k + 1) : Nat) : Int)
    sincSeries n (k + 1) y term' (acc + term')
/-- cos(t) with y = t². -/
def cosSeries : Nat → Nat → Nat → Int → Int → Int
  | 0, _, _, _, acc => acc
  | n + 1, k, y, term, acc =>
    let term' := -(term * (y : Int) / (fxOne : Nat)) / ((2 * k * (2 * k - 1) : Nat) : Int)
    cosSeries n (k + 1) y term' (acc + term')

/-- sin(π r) for r = m × 2^e from 0 to 1/2, with the sign given; m > 0. -/
def sinQuarter (neg : Bool) (m : Nat) (e : Int) : Ext :=
  -- r ≤ 1/4?
  let le4 : Bool := if e + 2 ≥ 0 then m * 2 ^ (e + 2).toNat ≤ 1 else m ≤ 2 ^ (-(e + 2)).toNat
  if le4 then
    -- r as a fixed-point number only feeds the even series; the factor π r keeps its full exponent
    let r := shiftRightInt (m * fxOne) (-e)
    let t := r * fxPi / fxOne
    let y := t * t / fxOne
    let sc := (sincSeries 40 1 y (fxOne : Nat) (fxOne : Nat)).toNat
    .fin neg (2 * (m * fxPi * sc) + 1) (e - 2 * (fxBits : Int) - 1)
  else
    -- sin(π r) = cos(π (1/2 − r)); 1/2 − r exactly
    let k := min e (-1)
    let h : Int := signedAt false 1 (-1) k - signedAt false m e k
    if h == 0 then .fin neg 1 0
    else
      let d := shiftRightInt (h.toNat * fxOne) (-k)
      let t := d * fxPi / fxOne
      let y := t * t / fxOne
      let cs := (cosSeries 40 1 y (fxOne : Nat) (fxOne : Nat)).toNat
      -- a cosine this close to 1 is below it
      .fin neg (2 * cs - 1) (-(fxBits : Int) - 1)

/-- The value x mod 2 of a magnitude, as an integer over 2^k with k at most 0. -/
def mod2 (m : Nat) (e : Int) : Nat × Int :=
  if e ≥ 1 then (0, 0)
  else (m % 2 ^ (1 - e).toNat, e)

/-- Number of the function for `Config.unstatedF32`. -/
def fnSinpi : Nat := 1
def fnCospi : Nat := 2

/-- SINPI of R127: sin(π a), correctly rounded. For an infinity the spec states no result; for an integer the result is
zero and its sign is not stated (log entry 5). -/
def fSinpi (a : Word) : Word :=
  match f32 a with
  | .nan => f32NaN
  | .inf _ => Config.unstatedF32 fnSinpi a
  | .fin s m e =>
    let (r, k) := mod2 m e
    let one := 2 ^ (-k).toNat
    if r == 0 || r == one then
      (Config.unstatedF32 fnSinpi a &&& 0x80000000#32)
    else
      -- r over one in (0, 2): fold to (0, 1/2]
      let neg := s != decide (r > one)
      let r1 := if r > one then r - one else r
      let r2 := if 2 * r1 > one then one - r1 else r1
      rneF32 (sinQuarter neg r2 k)

/-- COSPI of R127: cos(π a) = sin(π (1/2 − |a|)), correctly rounded. -/
def fCospi (a : Word) : Word :=
  match f32 a with
  | .nan => f32NaN
  | .inf _ => Config.unstatedF32 fnCospi a
  | .fin _ m e =>
    let (r0, k0) := mod2 m e
    let k := min k0 (-1)
    let r := r0 * 2 ^ (k0 - k).toNat
    let one := 2 ^ (-k).toNat
    if r == 0 then f32One
    else
      -- u = r + 1/2 mod 2
      let u := (r + one / 2) % (2 * one)
      if u == 0 || u == one then (Config.unstatedF32 fnCospi a &&& 0x80000000#32)
      else
        let neg := decide (u > one)
        let r1 := if u > one then u - one else u
        let r2 := if 2 * r1 > one then one - r1 else r1
        rneF32 (sinQuarter neg r2 k)

/-! ### The functions of R89 -/

def kL : Word := 0x3FB8AA3B#32
def kC1 : Word := 0x3F4C422A#32
def kC2 : Word := 0x3D372713#32
def kLn2 : Word := 0x3F317218#32
def kHalf : Word := 0x3F000000#32
def kTwo : Word := 0x40000000#32

def fRelu (y : Word) : Word := if isNaN y then f32NaN else if negF32 y || isZeroF32 y then 0#32 else y
def fSigmoid (y : Word) : Word :=
  let p := fMul y kL
  let q := fExp2 (fNeg p)
  fRcp (fAdd f32One q)
def fSilu (y : Word) : Word := fMul y (fSigmoid y)
def fTanh (y : Word) : Word := fSub (fMul kTwo (fSigmoid (fMul kTwo y))) f32One
def fGelu (y : Word) : Word :=
  let a := fMul y y
  let b := fMul a kC2
  let c := fAdd f32One b
  let e := fMul c y
  let u := fMul e kC1
  let t := fTanh u
  fMul (fMul kHalf y) (fAdd f32One t)
/-- The function codes of R89; codes 7 to 15 are rejected before. -/
def funcF32 (code : Nat) (y : Word) : Word :=
  match code with
  | 1 => fRelu y
  | 2 => let t := fRelu y; fMul t t
  | 3 => fSigmoid y
  | 4 => fSilu y
  | 5 => fTanh y
  | 6 => fGelu y
  | _ => y

/-! ### Dot products of R79 -/

/-- The exact sum of a list of values: +∞ with −∞, or a NaN, makes a NaN. -/
def exactSum (l : List Ext) : Ext := l.foldl Ext.add (.fin false 0 0)

/-- One group of R79: the exact group sum times the two scales, added with one rounding; an exact zero leaves `acc`. -/
def accGroup (acc : Word) (prods : List Ext) (scale : Ext) : Word :=
  let s := (exactSum prods).mul scale
  match s with
  | .nan => f32NaN
  | .fin _ m _ => if isNaN acc then f32NaN else if m == 0 then acc else rneF32 ((f32 acc).add s)
  | .inf _ => if isNaN acc then f32NaN else rneF32 ((f32 acc).add s)

end Sys2Proof.Machine
end

