-- ==== Sys2Proof/Machine/Formats.lean ====
section
/-! DEFINITION. Sys2Proof/Machine/Formats.lean: format codes (R122), the planes of a tensor in memory (R78, R91, R120), MX
blocks (R77), and the random words of R268 and R269. A reader of bytes is a function argument, never state. -/

namespace Sys2Proof.Machine

open Sys2Proof

/-- Little-endian value of the `n` bytes at `a` (R4). -/
def readLE (rd : Nat → Byte) (a : Nat) : Nat → Nat
  | 0 => 0
  | n + 1 => (rd a).toNat + 256 * readLE rd (a + 1) n

/-- The `n` bytes of a value, little-endian (R4). -/
def bytesLE (v : Nat) : Nat → List Byte
  | 0 => []
  | n + 1 => BitVec.ofNat 8 v :: bytesLE (v / 256) n

/-- Little-endian value of a list of bytes. -/
def leValue : List Byte → Nat
  | [] => 0
  | b :: l => b.toNat + 256 * leValue l

/-- Division rounded up. -/
def ceilDiv (a b : Nat) : Nat := (a + b - 1) / b

/-- The field of `n` bits at bit `lo`. -/
def bits (v lo n : Nat) : Nat := (v >>> lo) % 2 ^ n

/-- The named format codes of R122. -/
def codeF32 : Nat := 0
def codeBF16 : Nat := 1
def codeInt32 : Nat := 9

/-- Is the code one of the MX formats? -/
def isMX (code : Nat) : Bool := 4 ≤ code && code ≤ 8

/-- The floating-point format of a code's elements (INT32 apart). -/
def elemFmt (code : Nat) : FloatFmt :=
  match code with
  | 1 => fmtBF16
  | 2 => fmtE4M3
  | 3 => fmtE5M2
  | 4 => fmtE4M3
  | 5 => fmtE5M2
  | 6 => fmtE3M2
  | 7 => fmtE2M3
  | 8 => fmtE2M1
  | _ => fmtF32

/-- Bits of one element in its plane. -/
def elemBits (code : Nat) : Nat :=
  match code with
  | 1 => 16
  | 2 | 3 | 4 | 5 => 8
  | 6 | 7 => 6
  | 8 => 4
  | _ => 32

/-- The exponent emax of R77. -/
def emaxOf (code : Nat) : Int :=
  match code with
  | 4 => 8
  | 5 => 15
  | 6 => 4
  | _ => 2

/-- Bytes of the element plane of `n` elements. -/
def elemPlaneBytes (code n : Nat) : Nat := ceilDiv (n * elemBits code) 8

/-- R120: the plane after one that begins at `a` and has `len` bytes. -/
def nextPlane (a len : Nat) : Nat := ceilDiv (a + len) 65536 * 65536

/-- The start of the scale plane of an MX tensor of `n` elements at `a`. -/
def scalePlane (a code n : Nat) : Nat := nextPlane a (elemPlaneBytes code n)

/-- Bit-field `i` of width `w` in a little-endian bit stream at `a` (R78). -/
def readField (rd : Nat → Byte) (a i w : Nat) : Nat :=
  let b := i * w
  bits (readLE rd (a + b / 8) ((b % 8 + w + 7) / 8)) (b % 8) w

/-- The value of an E8M0 scale (R75); 0xFF is NaN. -/
def scaleValue (s : Nat) : Ext := if s == 255 then .nan else .fin false 1 ((s : Int) - 127)

/-- Element `i` of a tensor of `n` elements at address `a`, scale included (R75, R78). INT32 is its integer. -/
def readElem (rd : Nat → Byte) (code a n i : Nat) : Ext :=
  if code == codeInt32 then
    let v := BitVec.ofNat 32 (readLE rd (a + 4 * i) 4)
    .fin (v.toInt < 0) v.toInt.natAbs 0
  else
    let x := decodeFloat (elemFmt code) (readField rd a i (elemBits code))
    if isMX code then x.mul (scaleValue (rd (scalePlane a code n + i / 32)).toNat) else x

/-- Element widened to FP32: exact for the float formats, RNE for INT32 (R124); NaN canonical. -/
def loadElem (rd : Nat → Byte) (code a n i : Nat) : Word := rneF32 (readElem rd code a n i)

/-! ### MX quantisation (R77) -/

/-- The largest finite magnitude of a block as (m, e); (0, 0) for none. -/
def blockMax (vals : List Word) : Ext :=
  vals.foldl (fun a w => let x := f32 (w &&& 0x7FFFFFFF#32); if a.lt x then x else a) (.fin false 0 0)

/-- The shared exponent X of R77. -/
def blockExp (code : Nat) (vals : List Word) : Int :=
  match blockMax vals with
  | .fin _ m e => if m == 0 then -127 else max (-127) (min 127 (e + bitLen m - 1 - emaxOf code))
  | _ => 0

/-- One MX block: the scale byte and the element codes (R77). `md` gives each element its rounding mode. -/
def quantBlock (code : Nat) (md : Nat → RoundMode) (vals : List Word) : Nat × List Nat :=
  if vals.any nonFinite then (255, vals.map fun _ => 0)
  else
    let x := blockExp code vals
    ((x + 127).toNat,
      (vals.zipIdx).map fun (w, i) =>
        match f32 w with
        | .fin s m e => encodeFloat (elemFmt code) (md i) (.fin s m (e - x))
        | _ => 0)

/-- The little-endian bytes of a list of fields of width `w` bits. -/
def packFields (w : Nat) (fs : List Nat) : List Byte :=
  let v := fs.foldr (fun f acc => f % 2 ^ w + 2 ^ w * acc) 0
  bytesLE v (ceilDiv (fs.length * w) 8)

/-- Rounding to INT32 by the mode, saturating; NaN gives 0 (R124). -/
def toInt32 (mode : RoundMode) (w : Word) : Nat :=
  let clamp (v : Int) : Nat := (BitVec.ofInt 32 (max (-2147483648) (min 2147483647 v))).toNat
  match f32 w with
  | .nan => 0
  | .inf s => clamp (if s then -(2 ^ 40) else 2 ^ 40)
  | .fin s m e =>
    let q : Int := (roundMag mode m e 0 : Nat)
    clamp (if s then -q else q)

/-- The code of one element of a format without blocks (R76). -/
def storeCode (code : Nat) (mode : RoundMode) (w : Word) : Nat :=
  if code == codeInt32 then toInt32 mode w
  else encodeFloat (elemFmt code) mode (f32 w)

/-- Split a list into runs of `n` (`fuel` at least the number of runs). -/
def chunks {α : Type} (n : Nat) : Nat → List α → List (List α)
  | 0, _ => []
  | _, [] => []
  | f + 1, l => l.take n :: chunks n f (l.drop n)

/-- The planes written for a whole tensor at `a`: element plane, then scales for an MX format (R78, R120). `md` gives each
element, by its index, its rounding mode. -/
def storeTensor (code a : Nat) (md : Nat → RoundMode) (vals : List Word) : List (Nat × List Byte) :=
  if isMX code then
    let bl := (chunks 32 vals.length vals).zipIdx.map fun (b, j) => quantBlock code (fun i => md (32 * j + i)) b
    [(a, packFields (elemBits code) (bl.flatMap (·.2))),
     (scalePlane a code vals.length, bl.map fun p => BitVec.ofNat 8 p.1)]
  else
    [(a, packFields (elemBits code) (vals.zipIdx.map fun (w, i) => storeCode code (md i) w))]

/-- Does a stored tensor hold a NaN or an infinity (R87)? Judged on the encoded output. -/
def storedNonFinite (code : Nat) (md : Nat → RoundMode) (vals : List Word) : Bool :=
  if code == codeInt32 then false
  else if isMX code then
    (chunks 32 vals.length vals).any fun b => b.any nonFinite
  else
    (vals.zipIdx).any fun (w, i) =>
      match decodeFloat (elemFmt code) (storeCode code (md i) w) with
      | .fin _ _ _ => false
      | _ => true

/-! ### Random words (R268, R269) -/

/-- One round of Philox4x32-10. -/
def philoxRound (k0 k1 c0 c1 c2 c3 : Nat) : Nat × Nat × Nat × Nat :=
  let p0 := 0xD2511F53 * c0
  let p1 := 0xCD9E8D57 * c2
  ((p1 / 2 ^ 32) ^^^ c1 ^^^ k0, p1 % 2 ^ 32, (p0 / 2 ^ 32) ^^^ c3 ^^^ k1, p0 % 2 ^ 32)

/-- `n` rounds, the keys advancing before every round but the first. -/
def philoxRounds : Nat → Nat → Nat → Nat × Nat × Nat × Nat → Nat × Nat × Nat × Nat
  | 0, _, _, c => c
  | n + 1, k0, k1, (c0, c1, c2, c3) =>
    philoxRounds n ((k0 + 0x9E3779B9) % 2 ^ 32) ((k1 + 0xBB67AE85) % 2 ^ 32) (philoxRound k0 k1 c0 c1 c2 c3)

/-- The four output words for a 64-bit seed and a 128-bit counter (R268). -/
def philox (seed counter : Nat) : Nat × Nat × Nat × Nat :=
  philoxRounds 10 (seed % 2 ^ 32) (seed / 2 ^ 32 % 2 ^ 32)
    (counter % 2 ^ 32, counter / 2 ^ 32 % 2 ^ 32, counter / 2 ^ 64 % 2 ^ 32, counter / 2 ^ 96 % 2 ^ 32)

/-- The counter of R269. -/
def drawCounter (purpose stream step position : Nat) : Nat :=
  purpose % 256 * 2 ^ 120 + stream % 2 ^ 40 * 2 ^ 80 + step % 2 ^ 32 * 2 ^ 48 + position % 2 ^ 48

/-- Output word `i` of a draw (R268, R272). -/
def drawWord (seed purpose stream step position i : Nat) : Nat :=
  let (w0, w1, w2, w3) := philox seed (drawCounter purpose stream step position)
  match i with
  | 0 => w0
  | 1 => w1
  | 2 => w2
  | _ => w3

/-- R83 mode of a descriptor's ROUND field for the element at a logical position (R84, R85). -/
def roundModeAt (round seed purpose stream step position : Nat) : RoundMode :=
  match round with
  | 0 => .rne
  | 1 => .rtz
  | _ => .sr (drawWord seed purpose stream step position 0)

/-- May a descriptor's PURPOSE field for stochastic rounding hold the value (R85)? -/
def srPurposeOk (p : Nat) : Bool := p == 3 || (128 ≤ p && p ≤ 255)

end Sys2Proof.Machine
end

