-- ==== Sys2Proof/Machine/RegTable.lean ====
section
/-! DEFINITION. Sys2Proof/Machine/RegTable.lean: the registers of R458 as the chapters' tables give them: name, place, number
of entries and their stride, the bits of each kind of access (R6) and the reset value. A 64-bit counter is two rows. -/

namespace Sys2Proof.Machine

open Sys2Proof

/-- R456, R457, R444: BAR0, the context window, and the function page above it. -/
inductive RegSpace where
  | bar0 | window | page
deriving DecidableEq, Repr

/-- One register or one array of registers. Bits in no mask are reserved or write-only; `lo`
marks the low half of a pair under the latch rule of R33. -/
structure RegDesc where
  name : String
  space : RegSpace
  off : Nat
  count : Nat
  stride : Nat
  rw : Nat
  w1c : Nat
  rc : Nat
  ro : Nat
  reset : Nat
  lo : Bool
deriving DecidableEq, Repr

/-- Rows of R458, part 1. -/
def regRows1 : List RegDesc :=
  [ ⟨"TOPO_ID", .bar0, 0x4000, 1, 4, 0x0, 0x0, 0x0, 0xFFFFFF, 0x110020, false⟩,
    ⟨"DIE_PRESENT", .bar0, 0x4004, 1, 4, 0x0, 0x0, 0x0, 0xFFFFF, 0x0, false⟩,
    ⟨"MAP_GEN_LO", .bar0, 0x4008, 1, 4, 0x0, 0x0, 0x0, 0xFFFFFFFF, 0x0, true⟩,
    ⟨"MAP_GEN_HI", .bar0, 0x400C, 1, 4, 0x0, 0x0, 0x0, 0xFFFFFFFF, 0x0, false⟩,
    ⟨"ARRAY_MAP", .bar0, 0x5000, 1024, 4, 0x0, 0x0, 0x0, 0x7F3F7F, 0x0, false⟩,
    ⟨"SLOT_STATE", .bar0, 0x6000, 1088, 4, 0x0, 0x0, 0x0, 0x1FFFFF03, 0x0, false⟩,
    ⟨"D2D_LINK", .bar0, 0x7400, 47, 4, 0x0, 0x0, 0xFF0000, 0xFFFF, 0x80, false⟩,
    ⟨"FP_CTRL", .bar0, 0x8000, 1, 4, 0x0, 0x0, 0x0, 0x0, 0x0, false⟩,
    ⟨"FP_SRC_LO", .bar0, 0x8004, 1, 4, 0xFFFFFFFF, 0x0, 0x0, 0x0, 0x0, false⟩,
    ⟨"FP_SRC_HI", .bar0, 0x8008, 1, 4, 0xFFFFFFFF, 0x0, 0x0, 0x0, 0x0, false⟩,
    ⟨"FP_SRC_LEN", .bar0, 0x800C, 1, 4, 0xFFFFFFFF, 0x0, 0x0, 0x0, 0x0, false⟩,
    ⟨"FP_STATUS", .bar0, 0x8010, 1, 4, 0x0, 0x200, 0x0, 0x1FFDFF, 0x23, false⟩,
    ⟨"FP_ERR_ENTRY", .bar0, 0x8014, 1, 4, 0x0, 0x0, 0x0, 0xFFFFFFFF, 0x0, false⟩,
    ⟨"FP_PLAN_ID_LO", .bar0, 0x8018, 1, 4, 0x0, 0x0, 0x0, 0xFFFFFFFF, 0x0, true⟩,
    ⟨"FP_PLAN_ID_HI", .bar0, 0x801C, 1, 4, 0x0, 0x0, 0x0, 0xFFFFFFFF, 0x0, false⟩,
    ⟨"FP_GEN_LO", .bar0, 0x8020, 1, 4, 0x0, 0x0, 0x0, 0xFFFFFFFF, 0x0, true⟩,
    ⟨"FP_GEN_HI", .bar0, 0x8024, 1, 4, 0x0, 0x0, 0x0, 0xFFFFFFFF, 0x0, false⟩,
    ⟨"FP_ACTIVE", .bar0, 0x8028, 1, 4, 0x0, 0x0, 0x0, 0x1FF, 0x0, false⟩,
    ⟨"FP_OVERLAPS", .bar0, 0x802C, 1, 4, 0x0, 0x0, 0x0, 0xFFFF, 0x0, false⟩,
    ⟨"FP_APPLY_NS", .bar0, 0x8030, 1, 4, 0x0, 0x0, 0x0, 0xFFFFFFFF, 0x0, false⟩,
    ⟨"FP_IRQ", .bar0, 0x8034, 1, 4, 0xFFF, 0x10000, 0x0, 0x0, 0x0, false⟩,
    ⟨"ARR_CAPS", .bar0, 0x9000, 1, 4, 0x0, 0x0, 0x0, 0xFF03FF, 0x1003FF, false⟩,
    ⟨"ARR_SKIP_CTRL", .bar0, 0x9004, 1, 4, 0xFFFF, 0x0, 0x0, 0x0, 0xFFFF, false⟩,
    ⟨"ARR_SKIP_LO", .bar0, 0x9100, 16, 8, 0x0, 0x0, 0x0, 0xFFFFFFFF, 0x0, true⟩,
    ⟨"ARR_SKIP_HI", .bar0, 0x9104, 16, 8, 0x0, 0x0, 0x0, 0xFFFFFFFF, 0x0, false⟩,
    ⟨"GLN_DROP_LO", .bar0, 0x9200, 16, 8, 0x0, 0x0, 0x0, 0xFFFFFFFF, 0x0, true⟩,
    ⟨"GLN_DROP_HI", .bar0, 0x9204, 16, 8, 0x0, 0x0, 0x0, 0xFFFFFFFF, 0x0, false⟩,
    ⟨"CRIB_STAT", .bar0, 0x9300, 16, 4, 0x0, 0x0, 0x0, 0x3FF3F, 0x0, false⟩,
    ⟨"RING_CFG", .window, 0x1000, 64, 64, 0x7FF7FF7, 0x0, 0x0, 0x0, 0x2000, false⟩ ]

/-- Rows of R458, part 2. -/
def regRows2 : List RegDesc :=
  [ ⟨"RING_CTRL", .window, 0x1004, 64, 64, 0x0, 0x0, 0x0, 0x0, 0x0, false⟩,
    ⟨"RING_STATUS", .window, 0x1008, 64, 64, 0x0, 0x0, 0x0, 0x1FFF07, 0x0, false⟩,
    ⟨"RING_WAIT_TO", .window, 0x100C, 64, 64, 0xFFFFFFFF, 0x0, 0x0, 0x0, 0x0, false⟩,
    ⟨"SQ_BASE_LO", .window, 0x1010, 64, 64, 0xFFFFFFFF, 0x0, 0x0, 0x0, 0x0, false⟩,
    ⟨"SQ_BASE_HI", .window, 0x1014, 64, 64, 0xFFFFFFFF, 0x0, 0x0, 0x0, 0x0, false⟩,
    ⟨"CQ_BASE_LO", .window, 0x1018, 64, 64, 0xFFFFFFFF, 0x0, 0x0, 0x0, 0x0, false⟩,
    ⟨"CQ_BASE_HI", .window, 0x101C, 64, 64, 0xFFFFFFFF, 0x0, 0x0, 0x0, 0x0, false⟩,
    ⟨"RING_HEAD", .window, 0x1020, 64, 64, 0x0, 0x0, 0x0, 0x1FFFF, 0x0, false⟩,
    ⟨"RING_TAIL", .window, 0x1024, 64, 64, 0x0, 0x0, 0x0, 0x1FFFF, 0x0, false⟩,
    ⟨"RING_RETIRE", .window, 0x1028, 64, 64, 0x0, 0x0, 0x0, 0x1FFFF, 0x0, false⟩,
    ⟨"FLUSH_EPOCH", .window, 0x102C, 64, 64, 0x0, 0x0, 0x0, 0xFFFFFFFF, 0x0, false⟩,
    ⟨"SERIAL_LO", .window, 0x1030, 64, 64, 0x0, 0x0, 0x0, 0xFFFFFFFF, 0x0, true⟩,
    ⟨"SERIAL_HI", .window, 0x1034, 64, 64, 0x0, 0x0, 0x0, 0xFFFFFFFF, 0x0, false⟩,
    ⟨"DB_DROPS", .window, 0x1038, 64, 64, 0x0, 0x0, 0xFFFF, 0x0, 0x0, false⟩,
    ⟨"EVC_LO", .window, 0x2000, 256, 8, 0x0, 0x0, 0x0, 0xFFFFFFFF, 0x0, true⟩,
    ⟨"EVC_HI", .window, 0x2004, 256, 8, 0x0, 0x0, 0x0, 0xFFFFFFFF, 0x0, false⟩,
    ⟨"EVC_ADD", .window, 0x2800, 256, 4, 0x0, 0x0, 0x0, 0x0, 0x0, false⟩,
    ⟨"CMD_KILLS_LO", .bar0, 0xA000, 9, 8, 0x0, 0x0, 0x0, 0xFFFFFFFF, 0x0, true⟩,
    ⟨"CMD_KILLS_HI", .bar0, 0xA004, 9, 8, 0x0, 0x0, 0x0, 0xFFFFFFFF, 0x0, false⟩,
    ⟨"CTX_CFG", .window, 0x0, 1, 4, 0xFFFFF3F, 0x0, 0x0, 0x0, 0x0, false⟩,
    ⟨"CTX_WEIGHT", .window, 0x4, 1, 4, 0xFFFF, 0x0, 0x0, 0x0, 0x100, false⟩,
    ⟨"CTX_LATCH", .window, 0x8, 1, 4, 0x1FFF0FFF, 0x0, 0x0, 0x0, 0x0, false⟩,
    ⟨"CTX_CTRL", .window, 0xC, 1, 4, 0x0, 0x0, 0x0, 0x0, 0x0, false⟩,
    ⟨"CTX_STATUS", .window, 0x10, 1, 4, 0x0, 0x0, 0x0, 0xFFFFFF0F, 0x0, false⟩,
    ⟨"CTX_IRQ", .window, 0x14, 1, 4, 0xFFF, 0x0, 0x0, 0x0, 0x0, false⟩,
    ⟨"FREEZE_INFO", .window, 0x18, 1, 4, 0x0, 0x0, 0x0, 0x3FF, 0x0, false⟩,
    ⟨"FREEZE_ADDR_LO", .window, 0x20, 1, 4, 0x0, 0x0, 0x0, 0xFFFFFFFF, 0x0, true⟩,
    ⟨"FREEZE_ADDR_HI", .window, 0x24, 1, 4, 0x0, 0x0, 0x0, 0xFFFFFFFF, 0x0, false⟩,
    ⟨"FREEZE_SER_LO", .window, 0x28, 1, 4, 0x0, 0x0, 0x0, 0xFFFFFFFF, 0x0, true⟩ ]

/-- Rows of R458, part 3. -/
def regRows3 : List RegDesc :=
  [ ⟨"FREEZE_SER_HI", .window, 0x2C, 1, 4, 0x0, 0x0, 0x0, 0xFFFFFFFF, 0x0, false⟩,
    ⟨"CYC_LO", .window, 0x100, 7, 8, 0x0, 0x0, 0x0, 0xFFFFFFFF, 0x0, true⟩,
    ⟨"CYC_HI", .window, 0x104, 7, 8, 0x0, 0x0, 0x0, 0xFFFFFFFF, 0x0, false⟩,
    ⟨"LOST_CYC_LO", .window, 0x140, 7, 8, 0x0, 0x0, 0x0, 0xFFFFFFFF, 0x0, true⟩,
    ⟨"LOST_CYC_HI", .window, 0x144, 7, 8, 0x0, 0x0, 0x0, 0xFFFFFFFF, 0x0, false⟩,
    ⟨"VT_LO", .window, 0x180, 7, 8, 0x0, 0x0, 0x0, 0xFFFFFFFF, 0x0, true⟩,
    ⟨"VT_HI", .window, 0x184, 7, 8, 0x0, 0x0, 0x0, 0xFFFFFFFF, 0x0, false⟩,
    ⟨"ENERGY_LO", .window, 0x1C0, 1, 4, 0x0, 0x0, 0x0, 0xFFFFFFFF, 0x0, true⟩,
    ⟨"ENERGY_HI", .window, 0x1C4, 1, 4, 0x0, 0x0, 0x0, 0xFFFFFFFF, 0x0, false⟩,
    ⟨"CTX_LATCH_SEL", .window, 0x1D0, 1, 4, 0xFFFF, 0x0, 0x0, 0x0, 0x0, false⟩,
    ⟨"CTX_LATCH_INFO", .window, 0x1D4, 1, 4, 0x0, 0x0, 0x0, 0xFFFFFFFF, 0x0, false⟩,
    ⟨"CTX_LATCH_GEN", .window, 0x1D8, 1, 4, 0x0, 0x0, 0x0, 0xFFFFFFFF, 0x0, false⟩,
    ⟨"SCHED_CFG", .bar0, 0xB000, 1, 4, 0xFFF, 0x0, 0x0, 0x0, 0x1F4, false⟩,
    ⟨"SCHED_STATUS", .bar0, 0xB004, 1, 4, 0x0, 0x10000, 0x0, 0x1FFF, 0x0, false⟩,
    ⟨"ACCT_IDLE_LO", .bar0, 0xB008, 1, 4, 0x0, 0x0, 0x0, 0xFFFFFFFF, 0x0, true⟩,
    ⟨"ACCT_IDLE_HI", .bar0, 0xB00C, 1, 4, 0x0, 0x0, 0x0, 0xFFFFFFFF, 0x0, false⟩,
    ⟨"ACCT_RATIO", .bar0, 0xB010, 1, 4, 0x0, 0x0, 0x0, 0xFFFFFFFF, 0x10000, false⟩,
    ⟨"LATCH_SEL", .bar0, 0xB014, 1, 4, 0xFFFF, 0x0, 0x0, 0x0, 0x0, false⟩,
    ⟨"LATCH_INFO", .bar0, 0xB018, 1, 4, 0x0, 0x0, 0x0, 0xFFFF3FFF, 0x0, false⟩,
    ⟨"LATCH_GEN", .bar0, 0xB01C, 1, 4, 0x0, 0x0, 0x0, 0xFFFFFFFF, 0x0, false⟩,
    ⟨"FN_CTX", .bar0, 0xB400, 256, 8, 0x1FFF0FFF, 0x0, 0x0, 0x0, 0x0, false⟩,
    ⟨"FN_LATCH", .bar0, 0xB404, 256, 8, 0x1FFF0FFF, 0x0, 0x0, 0x0, 0x0, false⟩,
    ⟨"OBJ_SEL", .window, 0x3000, 1, 4, 0xFFFFFF, 0x0, 0x0, 0x0, 0x0, false⟩,
    ⟨"OBJ_CFG", .window, 0x3004, 1, 4, 0x1FF, 0x0, 0x0, 0x0, 0x1F4, false⟩,
    ⟨"OBJ_SIZE", .window, 0x3008, 1, 4, 0xFFFFF, 0x0, 0x0, 0x0, 0x0, false⟩,
    ⟨"OBJ_MAP_SRC", .window, 0x300C, 1, 4, 0xFFF, 0x0, 0x0, 0x0, 0x0, false⟩,
    ⟨"OBJ_MAP_OBJ", .window, 0x3010, 1, 4, 0xFFFFFF, 0x0, 0x0, 0x0, 0x0, false⟩,
    ⟨"OBJ_FIRST", .window, 0x3014, 1, 4, 0x7FFFF, 0x0, 0x0, 0x0, 0x0, false⟩,
    ⟨"OBJ_COUNT_G", .window, 0x3018, 1, 4, 0xFFFFF, 0x0, 0x0, 0x0, 0x0, false⟩ ]

/-- Rows of R458, part 4. -/
def regRows4 : List RegDesc :=
  [ ⟨"OBJ_CTRL", .window, 0x301C, 1, 4, 0x0, 0x0, 0x0, 0x0, 0x0, false⟩,
    ⟨"OBJ_STATUS", .window, 0x3020, 1, 4, 0x0, 0x0, 0x0, 0xFF07, 0x0, false⟩,
    ⟨"OBJ_INFO", .window, 0x3024, 1, 4, 0x0, 0x0, 0x0, 0x1FF, 0x0, false⟩,
    ⟨"OBJ_GRAN", .window, 0x3028, 1, 4, 0x0, 0x0, 0x0, 0xFFFFF, 0x0, false⟩,
    ⟨"OBJ_LOFT", .window, 0x302C, 1, 4, 0x0, 0x0, 0x0, 0xFFFFF, 0x0, false⟩,
    ⟨"OBJ_SILO", .window, 0x3030, 1, 4, 0x0, 0x0, 0x0, 0xFFFFF, 0x0, false⟩,
    ⟨"USE_LOFT", .window, 0x3034, 1, 4, 0x0, 0x0, 0x0, 0xFFFFFFFF, 0x0, false⟩,
    ⟨"USE_PINNED", .window, 0x3038, 1, 4, 0x0, 0x0, 0x0, 0xFFFFFFFF, 0x0, false⟩,
    ⟨"USE_SILO", .window, 0x303C, 1, 4, 0x0, 0x0, 0x0, 0xFFFFFFFF, 0x0, false⟩,
    ⟨"OBJ_TOTAL", .window, 0x3040, 1, 4, 0x0, 0x0, 0x0, 0x1FFFFFF, 0x0, false⟩,
    ⟨"MIG_CFG", .bar0, 0xC000, 1, 4, 0x1FFFFFF, 0x0, 0x0, 0x0, 0x1084020, false⟩,
    ⟨"MEM_STATUS", .bar0, 0xC004, 1, 4, 0x0, 0x3, 0x0, 0x0, 0x0, false⟩,
    ⟨"MIG_PROMOTE_LO", .bar0, 0xC010, 1, 4, 0x0, 0x0, 0x0, 0xFFFFFFFF, 0x0, true⟩,
    ⟨"MIG_PROMOTE_HI", .bar0, 0xC014, 1, 4, 0x0, 0x0, 0x0, 0xFFFFFFFF, 0x0, false⟩,
    ⟨"MIG_EVICT_LO", .bar0, 0xC018, 1, 4, 0x0, 0x0, 0x0, 0xFFFFFFFF, 0x0, true⟩,
    ⟨"MIG_EVICT_HI", .bar0, 0xC01C, 1, 4, 0x0, 0x0, 0x0, 0xFFFFFFFF, 0x0, false⟩,
    ⟨"MIG_ABORT_LO", .bar0, 0xC020, 1, 4, 0x0, 0x0, 0x0, 0xFFFFFFFF, 0x0, true⟩,
    ⟨"MIG_ABORT_HI", .bar0, 0xC024, 1, 4, 0x0, 0x0, 0x0, 0xFFFFFFFF, 0x0, false⟩,
    ⟨"PSN_TRANS_LO", .bar0, 0xC028, 1, 4, 0x0, 0x0, 0x0, 0xFFFFFFFF, 0x0, true⟩,
    ⟨"PSN_TRANS_HI", .bar0, 0xC02C, 1, 4, 0x0, 0x0, 0x0, 0xFFFFFFFF, 0x0, false⟩,
    ⟨"PSN_REPAIR_LO", .bar0, 0xC030, 1, 4, 0x0, 0x0, 0x0, 0xFFFFFFFF, 0x0, true⟩,
    ⟨"PSN_REPAIR_HI", .bar0, 0xC034, 1, 4, 0x0, 0x0, 0x0, 0xFFFFFFFF, 0x0, false⟩,
    ⟨"PSN_LOST_LO", .bar0, 0xC038, 1, 4, 0x0, 0x0, 0x0, 0xFFFFFFFF, 0x0, true⟩,
    ⟨"PSN_LOST_HI", .bar0, 0xC03C, 1, 4, 0x0, 0x0, 0x0, 0xFFFFFFFF, 0x0, false⟩,
    ⟨"TIER_FULL_LO", .bar0, 0xC040, 1, 4, 0x0, 0x0, 0x0, 0xFFFFFFFF, 0x0, true⟩,
    ⟨"TIER_FULL_HI", .bar0, 0xC044, 1, 4, 0x0, 0x0, 0x0, 0xFFFFFFFF, 0x0, false⟩,
    ⟨"LOFT_FREE", .bar0, 0xC100, 16, 4, 0x0, 0x0, 0x0, 0x7FFF, 0x0, false⟩,
    ⟨"SILO_FREE", .bar0, 0xC140, 12, 4, 0x0, 0x0, 0x0, 0xFFFFFF, 0x0, false⟩,
    ⟨"SILO_HELD", .bar0, 0xC180, 12, 4, 0x0, 0x0, 0x0, 0xFFFFF, 0x0, false⟩ ]

/-- Rows of R458, part 5. -/
def regRows5 : List RegDesc :=
  [ ⟨"CART_OSTD", .bar0, 0x10000, 16384, 4, 0x7FF, 0x0, 0x0, 0x0, 0x40, false⟩,
    ⟨"SEQ_SEL", .window, 0x4000, 1, 4, 0x1FFFF, 0x0, 0x0, 0x0, 0x0, false⟩,
    ⟨"SEQ_INFO", .window, 0x4004, 1, 4, 0x0, 0x0, 0x0, 0xFFFF003F, 0x0, false⟩,
    ⟨"SEQ_COMMITTED", .window, 0x4008, 1, 4, 0x0, 0x0, 0x0, 0x1FFFFFF, 0x0, false⟩,
    ⟨"SEQ_TENTATIVE", .window, 0x400C, 1, 4, 0x0, 0x0, 0x0, 0x1FFFFFF, 0x0, false⟩,
    ⟨"SEQ_PREFIX", .window, 0x4010, 1, 4, 0x0, 0x0, 0x0, 0xFFFFFFFF, 0x0, false⟩,
    ⟨"SEQ_HUSK_FIRST", .window, 0x4014, 1, 4, 0x0, 0x0, 0x0, 0xFFFFFFFF, 0x0, false⟩,
    ⟨"SEQ_CANCEL", .window, 0x4018, 1, 4, 0x0, 0x0, 0x0, 0x0, 0x0, false⟩,
    ⟨"SEQ_CANCEL_STATUS", .window, 0x401C, 1, 4, 0x0, 0x6, 0x0, 0xFF01, 0x0, false⟩,
    ⟨"SEQ_KV_MAX", .window, 0x4020, 1, 4, 0xFFFFFFFF, 0x0, 0x0, 0x0, 0xFFFFFFFF, false⟩,
    ⟨"SEQ_KV_USE", .window, 0x4024, 1, 4, 0x0, 0x0, 0x0, 0xFFFFFFFF, 0x0, false⟩,
    ⟨"STEER_SEL", .window, 0x4040, 1, 4, 0xFFFF, 0x0, 0x0, 0x0, 0x0, false⟩,
    ⟨"STEER_ADDR_LO", .window, 0x4044, 1, 4, 0xFFFFFFFF, 0x0, 0x0, 0x0, 0x0, false⟩,
    ⟨"STEER_ADDR_HI", .window, 0x4048, 1, 4, 0xFFFFFFFF, 0x0, 0x0, 0x0, 0x0, false⟩,
    ⟨"STEER_CTRL", .window, 0x404C, 1, 4, 0x0, 0x0, 0x0, 0x0, 0x0, false⟩,
    ⟨"STEER_STATUS", .window, 0x4050, 1, 4, 0x0, 0x0, 0x0, 0xFF07, 0x0, false⟩,
    ⟨"KV_TOTAL", .bar0, 0xD000, 1, 4, 0x0, 0x0, 0x0, 0xFFFFFFFF, 0x0, false⟩,
    ⟨"KV_FREE", .bar0, 0xD004, 1, 4, 0x0, 0x0, 0x0, 0xFFFFFFFF, 0x0, false⟩,
    ⟨"KV_HUSK_LO", .bar0, 0xD008, 1, 4, 0x0, 0x0, 0x0, 0xFFFFFFFF, 0x0, true⟩,
    ⟨"KV_HUSK_HI", .bar0, 0xD00C, 1, 4, 0x0, 0x0, 0x0, 0xFFFFFFFF, 0x0, false⟩,
    ⟨"KV_REFILL_LO", .bar0, 0xD010, 1, 4, 0x0, 0x0, 0x0, 0xFFFFFFFF, 0x0, true⟩,
    ⟨"KV_REFILL_HI", .bar0, 0xD014, 1, 4, 0x0, 0x0, 0x0, 0xFFFFFFFF, 0x0, false⟩,
    ⟨"DRIFT_USED", .bar0, 0xD018, 1, 4, 0x0, 0x0, 0x0, 0x1FFFFFF, 0x0, false⟩,
    ⟨"KV_RELEASE_PEND", .bar0, 0xD01C, 1, 4, 0x0, 0x0, 0x0, 0xFFFFFFFF, 0x0, false⟩,
    ⟨"DRIFT_HIT_LO", .bar0, 0xD020, 1, 4, 0x0, 0x0, 0x0, 0xFFFFFFFF, 0x0, true⟩,
    ⟨"DRIFT_HIT_HI", .bar0, 0xD024, 1, 4, 0x0, 0x0, 0x0, 0xFFFFFFFF, 0x0, false⟩,
    ⟨"DRIFT_EVICT_LO", .bar0, 0xD028, 1, 4, 0x0, 0x0, 0x0, 0xFFFFFFFF, 0x0, true⟩,
    ⟨"DRIFT_EVICT_HI", .bar0, 0xD02C, 1, 4, 0x0, 0x0, 0x0, 0xFFFFFFFF, 0x0, false⟩,
    ⟨"DRIFT_SKIP_LO", .bar0, 0xD030, 1, 4, 0x0, 0x0, 0x0, 0xFFFFFFFF, 0x0, true⟩ ]

/-- Rows of R458, part 6. -/
def regRows6 : List RegDesc :=
  [ ⟨"DRIFT_SKIP_HI", .bar0, 0xD034, 1, 4, 0x0, 0x0, 0x0, 0xFFFFFFFF, 0x0, false⟩,
    ⟨"SEQ_OPEN", .bar0, 0xD038, 1, 4, 0x0, 0x0, 0x0, 0x3FFFF, 0x0, false⟩,
    ⟨"STEER_SETS", .bar0, 0xD03C, 1, 4, 0x0, 0x0, 0x0, 0x1FFFF, 0x0, false⟩,
    ⟨"RNG_SEED_LO", .window, 0x5000, 1, 4, 0xFFFFFFFF, 0x0, 0x0, 0x0, 0x0, false⟩,
    ⟨"RNG_SEED_HI", .window, 0x5004, 1, 4, 0xFFFFFFFF, 0x0, 0x0, 0x0, 0x0, false⟩,
    ⟨"SIEVE_ROWS_LO", .bar0, 0xE000, 1, 4, 0x0, 0x0, 0x0, 0xFFFFFFFF, 0x0, true⟩,
    ⟨"SIEVE_ROWS_HI", .bar0, 0xE004, 1, 4, 0x0, 0x0, 0x0, 0xFFFFFFFF, 0x0, false⟩,
    ⟨"SIEVE_EMPTY_LO", .bar0, 0xE008, 1, 4, 0x0, 0x0, 0x0, 0xFFFFFFFF, 0x0, true⟩,
    ⟨"SIEVE_EMPTY_HI", .bar0, 0xE00C, 1, 4, 0x0, 0x0, 0x0, 0xFFFFFFFF, 0x0, false⟩,
    ⟨"SIEVE_NONFIN_LO", .bar0, 0xE010, 1, 4, 0x0, 0x0, 0x0, 0xFFFFFFFF, 0x0, true⟩,
    ⟨"SIEVE_NONFIN_HI", .bar0, 0xE014, 1, 4, 0x0, 0x0, 0x0, 0xFFFFFFFF, 0x0, false⟩,
    ⟨"SPEC_TESTED_LO", .bar0, 0xE018, 1, 4, 0x0, 0x0, 0x0, 0xFFFFFFFF, 0x0, true⟩,
    ⟨"SPEC_TESTED_HI", .bar0, 0xE01C, 1, 4, 0x0, 0x0, 0x0, 0xFFFFFFFF, 0x0, false⟩,
    ⟨"SPEC_ACCEPTED_LO", .bar0, 0xE020, 1, 4, 0x0, 0x0, 0x0, 0xFFFFFFFF, 0x0, true⟩,
    ⟨"SPEC_ACCEPTED_HI", .bar0, 0xE024, 1, 4, 0x0, 0x0, 0x0, 0xFFFFFFFF, 0x0, false⟩,
    ⟨"SPEC_STALE_LO", .bar0, 0xE028, 1, 4, 0x0, 0x0, 0x0, 0xFFFFFFFF, 0x0, true⟩,
    ⟨"SPEC_STALE_HI", .bar0, 0xE02C, 1, 4, 0x0, 0x0, 0x0, 0xFFFFFFFF, 0x0, false⟩,
    ⟨"THR_CAPS", .bar0, 0xF000, 1, 4, 0x0, 0x0, 0x0, 0xFFFFFF, 0x404008, false⟩,
    ⟨"THR_SKIP_LO", .bar0, 0xF010, 1, 4, 0x0, 0x0, 0x0, 0xFFFFFFFF, 0x0, true⟩,
    ⟨"THR_SKIP_HI", .bar0, 0xF014, 1, 4, 0x0, 0x0, 0x0, 0xFFFFFFFF, 0x0, false⟩,
    ⟨"THR_REDO_LO", .bar0, 0xF018, 1, 4, 0x0, 0x0, 0x0, 0xFFFFFFFF, 0x0, true⟩,
    ⟨"THR_REDO_HI", .bar0, 0xF01C, 1, 4, 0x0, 0x0, 0x0, 0xFFFFFFFF, 0x0, false⟩,
    ⟨"THR_LAST_DEC", .bar0, 0xF020, 1, 4, 0x0, 0x0, 0x0, 0xF, 0x0, false⟩,
    ⟨"THR_LAST_NORM", .bar0, 0xF024, 1, 4, 0x0, 0x0, 0x0, 0xFFFFFFFF, 0x0, false⟩,
    ⟨"THR_LAST_STEP", .bar0, 0xF028, 1, 4, 0x0, 0x0, 0x0, 0xFFFFFFFF, 0x0, false⟩,
    ⟨"THR_ELEM_LO", .bar0, 0xF100, 16, 8, 0x0, 0x0, 0x0, 0xFFFFFFFF, 0x0, true⟩,
    ⟨"THR_ELEM_HI", .bar0, 0xF104, 16, 8, 0x0, 0x0, 0x0, 0xFFFFFFFF, 0x0, false⟩,
    ⟨"THR_PROV", .bar0, 0xF200, 16, 4, 0x0, 0x0, 0x0, 0x7F, 0x0, false⟩,
    ⟨"CRV_NODE", .bar0, 0x20000, 1, 4, 0x0, 0x0, 0x0, 0x1FFF1FFF, 0x0, false⟩ ]

/-- Rows of R458, part 7. -/
def regRows7 : List RegDesc :=
  [ ⟨"CRV_GROUP", .bar0, 0x20004, 1, 4, 0x0, 0x0, 0x0, 0xFFFFFFFF, 0x0, false⟩,
    ⟨"CRV_CFG", .bar0, 0x20008, 1, 4, 0xFFFFFFF, 0x0, 0x0, 0x0, 0xC80064, false⟩,
    ⟨"CRV_ENC_LO", .bar0, 0x2000C, 1, 4, 0xFFFFFFFF, 0x0, 0x0, 0x0, 0xFFFFFFFF, false⟩,
    ⟨"CRV_ENC_HI", .bar0, 0x20010, 1, 4, 0xF, 0x0, 0x0, 0x0, 0xF, false⟩,
    ⟨"CRV_CAL", .bar0, 0x20014, 1, 4, 0xFFFFFFFF, 0x0, 0x0, 0x0, 0x640E10, false⟩,
    ⟨"COLL_DONE_LO", .bar0, 0x20020, 1, 4, 0x0, 0x0, 0x0, 0xFFFFFFFF, 0x0, true⟩,
    ⟨"COLL_DONE_HI", .bar0, 0x20024, 1, 4, 0x0, 0x0, 0x0, 0xFFFFFFFF, 0x0, false⟩,
    ⟨"COLL_DUP_LO", .bar0, 0x20028, 1, 4, 0x0, 0x0, 0x0, 0xFFFFFFFF, 0x0, true⟩,
    ⟨"COLL_DUP_HI", .bar0, 0x2002C, 1, 4, 0x0, 0x0, 0x0, 0xFFFFFFFF, 0x0, false⟩,
    ⟨"COLL_FAIL_LO", .bar0, 0x20030, 1, 4, 0x0, 0x0, 0x0, 0xFFFFFFFF, 0x0, true⟩,
    ⟨"COLL_FAIL_HI", .bar0, 0x20034, 1, 4, 0x0, 0x0, 0x0, 0xFFFFFFFF, 0x0, false⟩,
    ⟨"UNREACH_LO", .bar0, 0x20038, 1, 4, 0x0, 0x0, 0x0, 0xFFFFFFFF, 0x0, true⟩,
    ⟨"UNREACH_HI", .bar0, 0x2003C, 1, 4, 0x0, 0x0, 0x0, 0xFFFFFFFF, 0x0, false⟩,
    ⟨"HOP_DROP_LO", .bar0, 0x20040, 1, 4, 0x0, 0x0, 0x0, 0xFFFFFFFF, 0x0, true⟩,
    ⟨"HOP_DROP_HI", .bar0, 0x20044, 1, 4, 0x0, 0x0, 0x0, 0xFFFFFFFF, 0x0, false⟩,
    ⟨"E2E_RESEND_LO", .bar0, 0x20048, 1, 4, 0x0, 0x0, 0x0, 0xFFFFFFFF, 0x0, true⟩,
    ⟨"E2E_RESEND_HI", .bar0, 0x2004C, 1, 4, 0x0, 0x0, 0x0, 0xFFFFFFFF, 0x0, false⟩,
    ⟨"GROUP_MISMATCH", .bar0, 0x20050, 1, 4, 0x0, 0x0, 0x0, 0xFFFF, 0x0, false⟩,
    ⟨"PORT_STATUS", .bar0, 0x20100, 36, 64, 0x0, 0x0, 0x0, 0x1FFFFFFF, 0x1, false⟩,
    ⟨"PORT_CTRL", .bar0, 0x20104, 36, 64, 0x1, 0x0, 0x0, 0x0, 0x1, false⟩,
    ⟨"RTT_NS", .bar0, 0x20108, 36, 64, 0x0, 0x0, 0x0, 0xFFFF, 0x0, false⟩,
    ⟨"LANE_MAP", .bar0, 0x2010C, 36, 64, 0x0, 0x0, 0x0, 0xFFFFFFFF, 0x76543210, false⟩,
    ⟨"LANE_STATE", .bar0, 0x20110, 36, 64, 0x0, 0x0, 0x0, 0x1FFF, 0x8, false⟩,
    ⟨"FEC_CORR_LO", .bar0, 0x20118, 36, 64, 0x0, 0x0, 0x0, 0xFFFFFFFF, 0x0, true⟩,
    ⟨"FEC_CORR_HI", .bar0, 0x2011C, 36, 64, 0x0, 0x0, 0x0, 0xFFFFFFFF, 0x0, false⟩,
    ⟨"BAD_FRAME_LO", .bar0, 0x20120, 36, 64, 0x0, 0x0, 0x0, 0xFFFFFFFF, 0x0, true⟩,
    ⟨"BAD_FRAME_HI", .bar0, 0x20124, 36, 64, 0x0, 0x0, 0x0, 0xFFFFFFFF, 0x0, false⟩,
    ⟨"REPLAY_LO", .bar0, 0x20128, 36, 64, 0x0, 0x0, 0x0, 0xFFFFFFFF, 0x0, true⟩,
    ⟨"REPLAY_HI", .bar0, 0x2012C, 36, 64, 0x0, 0x0, 0x0, 0xFFFFFFFF, 0x0, false⟩ ]

/-- Rows of R458, part 8. -/
def regRows8 : List RegDesc :=
  [ ⟨"RETRAINS", .bar0, 0x20130, 36, 64, 0x0, 0x0, 0x0, 0xFFFFFFFF, 0x0, false⟩,
    ⟨"LINK_ERR", .bar0, 0x20134, 36, 64, 0x0, 0x0, 0x0, 0xFFFFFFFF, 0x0, false⟩,
    ⟨"TX_SEQ", .bar0, 0x20138, 36, 64, 0x0, 0x0, 0x0, 0xFFFFFFFF, 0x0, false⟩,
    ⟨"RX_SEQ", .bar0, 0x2013C, 36, 64, 0x0, 0x0, 0x0, 0xFFFFFFFF, 0x0, false⟩,
    ⟨"FAR_SEL", .window, 0x6000, 1, 4, 0xFFFFFF, 0x0, 0x0, 0x0, 0x0, false⟩,
    ⟨"FAR_NODE", .window, 0x6004, 1, 4, 0xFFF, 0x0, 0x0, 0x0, 0x0, false⟩,
    ⟨"FAR_EXP", .window, 0x6008, 1, 4, 0xFFFF, 0x0, 0x0, 0x0, 0x0, false⟩,
    ⟨"FAR_CFG", .window, 0x600C, 1, 4, 0xFF0F, 0x0, 0x0, 0x0, 0x1, false⟩,
    ⟨"FAR_CTRL", .window, 0x6010, 1, 4, 0x0, 0x0, 0x0, 0x0, 0x0, false⟩,
    ⟨"FAR_STATUS", .window, 0x6014, 1, 4, 0x0, 0x0, 0x0, 0x7FF01, 0x0, false⟩,
    ⟨"FAR_GRAN", .window, 0x6018, 1, 4, 0x0, 0x0, 0x0, 0xFFFFF, 0x0, false⟩,
    ⟨"WNW_CAPS", .bar0, 0x21000, 1, 4, 0x0, 0x0, 0x0, 0x1FF0007, 0x1000004, false⟩,
    ⟨"WNW_BUSY", .bar0, 0x21004, 1, 4, 0x0, 0x0, 0x0, 0xF, 0x0, false⟩,
    ⟨"WNW_ELEM_LO", .bar0, 0x21010, 4, 8, 0x0, 0x0, 0x0, 0xFFFFFFFF, 0x0, true⟩,
    ⟨"WNW_ELEM_HI", .bar0, 0x21014, 4, 8, 0x0, 0x0, 0x0, 0xFFFFFFFF, 0x0, false⟩,
    ⟨"WNW_SAT_LO", .bar0, 0x21030, 1, 4, 0x0, 0x0, 0x0, 0xFFFFFFFF, 0x0, true⟩,
    ⟨"WNW_SAT_HI", .bar0, 0x21034, 1, 4, 0x0, 0x0, 0x0, 0xFFFFFFFF, 0x0, false⟩,
    ⟨"WNW_NAN_LO", .bar0, 0x21038, 1, 4, 0x0, 0x0, 0x0, 0xFFFFFFFF, 0x0, true⟩,
    ⟨"WNW_NAN_HI", .bar0, 0x2103C, 1, 4, 0x0, 0x0, 0x0, 0xFFFFFFFF, 0x0, false⟩,
    ⟨"DIGEST_CTRL", .window, 0x7000, 1, 4, 0x1, 0x0, 0x0, 0x0, 0x0, false⟩,
    ⟨"DIGEST_LO", .window, 0x7004, 1, 4, 0x0, 0x0, 0x0, 0xFFFFFFFF, 0x0, true⟩,
    ⟨"DIGEST_HI", .window, 0x7008, 1, 4, 0x0, 0x0, 0x0, 0xFFFFFFFF, 0x0, false⟩,
    ⟨"UNITS_LO", .window, 0x700C, 1, 4, 0x0, 0x0, 0x0, 0xFFFFFFFF, 0x0, false⟩,
    ⟨"UNITS_HI", .window, 0x7010, 1, 4, 0x0, 0x0, 0x0, 0xFFFFFFFF, 0x0, false⟩,
    ⟨"DET_INJECT", .bar0, 0x22000, 1, 4, 0xFFFF0003, 0x0, 0x0, 0x0, 0x0, false⟩,
    ⟨"DET_RATE", .bar0, 0x22004, 1, 4, 0xFFFFFFFF, 0x0, 0x0, 0x0, 0x0, false⟩,
    ⟨"DET_INJ_LO", .bar0, 0x22008, 1, 4, 0x0, 0x0, 0x0, 0xFFFFFFFF, 0x0, true⟩,
    ⟨"DET_INJ_HI", .bar0, 0x2200C, 1, 4, 0x0, 0x0, 0x0, 0xFFFFFFFF, 0x0, false⟩,
    ⟨"WPK_SEL", .window, 0x8000, 1, 4, 0x3FF, 0x0, 0x0, 0x0, 0x0, false⟩ ]

/-- Rows of R458, part 9. -/
def regRows9 : List RegDesc :=
  [ ⟨"WPK_MAN_LO", .window, 0x8004, 1, 4, 0xFFFFFFFF, 0x0, 0x0, 0x0, 0x0, false⟩,
    ⟨"WPK_MAN_HI", .window, 0x8008, 1, 4, 0xFFFFFFFF, 0x0, 0x0, 0x0, 0x0, false⟩,
    ⟨"WPK_MAN_LEN", .window, 0x800C, 1, 4, 0xFFFFF, 0x0, 0x0, 0x0, 0x0, false⟩,
    ⟨"WPK_TAGS_LO", .window, 0x8010, 1, 4, 0xFFFFFFFF, 0x0, 0x0, 0x0, 0x0, false⟩,
    ⟨"WPK_TAGS_HI", .window, 0x8014, 1, 4, 0xFFFFFFFF, 0x0, 0x0, 0x0, 0x0, false⟩,
    ⟨"WPK_BODY_LO", .window, 0x8018, 1, 4, 0xFFFFFFFF, 0x0, 0x0, 0x0, 0x0, false⟩,
    ⟨"WPK_BODY_HI", .window, 0x801C, 1, 4, 0xFFFFFFFF, 0x0, 0x0, 0x0, 0x0, false⟩,
    ⟨"WPK_SRC", .window, 0x8020, 1, 4, 0x7, 0x0, 0x0, 0x0, 0x7, false⟩,
    ⟨"WPK_DST", .window, 0x8024, 1, 4, 0xFFFFFF, 0x0, 0x0, 0x0, 0x0, false⟩,
    ⟨"WPK_DST_OFF", .window, 0x8028, 1, 4, 0x7FFFF, 0x0, 0x0, 0x0, 0x0, false⟩,
    ⟨"WPK_FIRST", .window, 0x802C, 1, 4, 0xFFFFF, 0x0, 0x0, 0x0, 0x0, false⟩,
    ⟨"WPK_COUNT", .window, 0x8030, 1, 4, 0x7FF, 0x0, 0x0, 0x0, 0x0, false⟩,
    ⟨"WPK_CFG", .window, 0x8034, 1, 4, 0x1FF, 0x0, 0x0, 0x0, 0x0, false⟩,
    ⟨"WPK_CTRL", .window, 0x8038, 1, 4, 0x0, 0x0, 0x0, 0x0, 0x0, false⟩,
    ⟨"WPK_STATUS", .window, 0x803C, 1, 4, 0x0, 0x0, 0x0, 0xFF07, 0x0, false⟩,
    ⟨"WPK_CHUNKS", .window, 0x8040, 1, 4, 0x0, 0x0, 0x0, 0x1FFFFF, 0x0, false⟩,
    ⟨"WPK_ERR_CHUNK", .window, 0x8044, 1, 4, 0x0, 0x0, 0x0, 0xFFFFF, 0x0, false⟩,
    ⟨"WPK_SEAL", .window, 0x8048, 1, 4, 0x0, 0x0, 0x0, 0x3, 0x0, false⟩,
    ⟨"KV_REC_LO", .bar0, 0x23000, 1, 4, 0xFFFFFFFF, 0x0, 0x0, 0x0, 0x0, false⟩,
    ⟨"KV_REC_HI", .bar0, 0x23004, 1, 4, 0xFFFFFFFF, 0x0, 0x0, 0x0, 0x0, false⟩,
    ⟨"KV_CTRL", .bar0, 0x23008, 1, 4, 0x0, 0x0, 0x0, 0x0, 0x0, false⟩,
    ⟨"KV_STATUS", .bar0, 0x2300C, 1, 4, 0x0, 0x0, 0x0, 0x3FFFF03, 0x0, false⟩,
    ⟨"KV_OWNER_SEQ", .bar0, 0x23010, 1, 4, 0x0, 0x0, 0x0, 0xFFFFFFFF, 0x0, false⟩,
    ⟨"KV_PLAN_SLOTS", .bar0, 0x23014, 1, 4, 0x0, 0x0, 0x0, 0xFF, 0x0, false⟩,
    ⟨"KV_PUB_SEL", .bar0, 0x23018, 1, 4, 0x3F, 0x0, 0x0, 0x0, 0x0, false⟩,
    ⟨"KV_PUB_INFO", .bar0, 0x2301C, 1, 4, 0x0, 0x0, 0x0, 0xFFFF0007, 0x0, false⟩,
    ⟨"KV_SLOTS_USED", .bar0, 0x23020, 1, 4, 0x0, 0x0, 0x0, 0x7FF, 0x0, false⟩,
    ⟨"KV_FW_VERSION", .bar0, 0x23024, 1, 4, 0x0, 0x0, 0x0, 0xFFFFFFFF, 0x0, false⟩,
    ⟨"KV_SIG_FAIL_LO", .bar0, 0x23028, 1, 4, 0x0, 0x0, 0x0, 0xFFFFFFFF, 0x0, true⟩ ]

/-- Rows of R458, part 10. -/
def regRows10 : List RegDesc :=
  [ ⟨"KV_SIG_FAIL_HI", .bar0, 0x2302C, 1, 4, 0x0, 0x0, 0x0, 0xFFFFFFFF, 0x0, false⟩,
    ⟨"KV_DEVID_PUB", .bar0, 0x23100, 25, 4, 0x0, 0x0, 0x0, 0xFFFFFFFF, 0x0, false⟩,
    ⟨"KV_PKG_PUB", .bar0, 0x23180, 25, 4, 0x0, 0x0, 0x0, 0xFFFFFFFF, 0x0, false⟩,
    ⟨"CTXSEL", .page, 0x10000, 1, 4, 0xFFF, 0x0, 0x0, 0x0, 0x0, false⟩,
    ⟨"FN_INFO", .page, 0x10004, 1, 4, 0x0, 0x0, 0x0, 0xFF, 0x0, false⟩,
    ⟨"FN_CTX_RANGE", .page, 0x10008, 1, 4, 0x0, 0x0, 0x0, 0x1FFF0FFF, 0x0, false⟩,
    ⟨"FN_LATCH_RANGE", .page, 0x1000C, 1, 4, 0x0, 0x0, 0x0, 0x1FFF0FFF, 0x0, false⟩,
    ⟨"FN_DB_BAD", .page, 0x10010, 1, 4, 0x0, 0x0, 0xFFFF, 0x0, 0x0, false⟩,
    ⟨"APT_OBJ", .page, 0x10020, 1, 4, 0xFFFFFF, 0x0, 0x0, 0x0, 0x0, false⟩,
    ⟨"APT_BASE", .page, 0x10024, 1, 4, 0xFFFFFF, 0x0, 0x0, 0x0, 0x0, false⟩,
    ⟨"APT_STATUS", .page, 0x10028, 1, 4, 0x0, 0x10000, 0x0, 0xFF03, 0x0, false⟩,
    ⟨"IRQ_MOD", .page, 0x11000, 2048, 4, 0xFF03FF, 0x0, 0x0, 0x0, 0x0, false⟩,
    ⟨"HOST_CAPS", .bar0, 0x0, 1, 4, 0x0, 0x0, 0x0, 0x7FF03FF, 0x7FF03FF, false⟩,
    ⟨"HOST_LINK", .bar0, 0x4, 1, 4, 0x0, 0x0, 0x0, 0x7FF, 0x0, false⟩,
    ⟨"HOST_POISON_LO", .bar0, 0x10, 1, 4, 0x0, 0x0, 0x0, 0xFFFFFFFF, 0x0, true⟩,
    ⟨"HOST_POISON_HI", .bar0, 0x14, 1, 4, 0x0, 0x0, 0x0, 0xFFFFFFFF, 0x0, false⟩,
    ⟨"HOST_CPL_FAIL_LO", .bar0, 0x18, 1, 4, 0x0, 0x0, 0x0, 0xFFFFFFFF, 0x0, true⟩,
    ⟨"HOST_CPL_FAIL_HI", .bar0, 0x1C, 1, 4, 0x0, 0x0, 0x0, 0xFFFFFFFF, 0x0, false⟩,
    ⟨"HOST_ATS_INV_LO", .bar0, 0x20, 1, 4, 0x0, 0x0, 0x0, 0xFFFFFFFF, 0x0, true⟩,
    ⟨"HOST_ATS_INV_HI", .bar0, 0x24, 1, 4, 0x0, 0x0, 0x0, 0xFFFFFFFF, 0x0, false⟩,
    ⟨"HOST_BAD_ACCESS_LO", .bar0, 0x28, 1, 4, 0x0, 0x0, 0x0, 0xFFFFFFFF, 0x0, true⟩,
    ⟨"HOST_BAD_ACCESS_HI", .bar0, 0x2C, 1, 4, 0x0, 0x0, 0x0, 0xFFFFFFFF, 0x0, false⟩,
    ⟨"HOST_BAD_INFO", .bar0, 0x30, 1, 4, 0x0, 0x0, 0x0, 0xFFF, 0x0, false⟩,
    ⟨"HOST_BAD_OFF", .bar0, 0x34, 1, 4, 0x0, 0x0, 0x0, 0xFFFFFFFF, 0x0, false⟩,
    ⟨"FN_STATUS", .bar0, 0x1000, 256, 4, 0x0, 0x0, 0x0, 0x1FFF001F, 0x0, false⟩,
    ⟨"PWR_CTRL", .bar0, 0x24000, 1, 4, 0x0, 0x0, 0x0, 0x0, 0x0, false⟩,
    ⟨"PWR_STATUS", .bar0, 0x24004, 1, 4, 0x0, 0x0, 0x0, 0xFFFF3F, 0x0, false⟩,
    ⟨"PWR_CFG", .bar0, 0x24008, 1, 4, 0x3FFF, 0x0, 0x0, 0x0, 0x30C9, false⟩,
    ⟨"WAKE_CFG", .bar0, 0x24010, 1, 4, 0x1FFF77F, 0x0, 0x0, 0x0, 0x1E00000, false⟩ ]

/-- Rows of R458, part 11. -/
def regRows11 : List RegDesc :=
  [ ⟨"WAKE_CAUSE", .bar0, 0x24014, 1, 4, 0x0, 0x1F, 0x0, 0x0, 0x0, false⟩,
    ⟨"COMP_COUNT", .bar0, 0x24018, 1, 4, 0x0, 0x0, 0xFFFF, 0x10000, 0x0, false⟩,
    ⟨"PWR_BUDGET", .bar0, 0x24020, 1, 4, 0x0, 0x0, 0x0, 0xFFF0FFF, 0x2580258, false⟩,
    ⟨"PWR_IN", .bar0, 0x24024, 1, 4, 0x0, 0x0, 0x0, 0xFFF0FFF, 0x0, false⟩,
    ⟨"IN_ENERGY_LO", .bar0, 0x24028, 1, 4, 0x0, 0x0, 0x0, 0xFFFFFFFF, 0x0, true⟩,
    ⟨"IN_ENERGY_HI", .bar0, 0x2402C, 1, 4, 0x0, 0x0, 0x0, 0xFFFFFFFF, 0x0, false⟩,
    ⟨"LOSS_ENERGY_LO", .bar0, 0x24030, 1, 4, 0x0, 0x0, 0x0, 0xFFFFFFFF, 0x0, true⟩,
    ⟨"LOSS_ENERGY_HI", .bar0, 0x24034, 1, 4, 0x0, 0x0, 0x0, 0xFFFFFFFF, 0x0, false⟩,
    ⟨"THERM_CFG", .bar0, 0x24038, 1, 4, 0xFFFFFF, 0x0, 0x0, 0x0, 0x5A5F55, false⟩,
    ⟨"PWR_IRQ", .bar0, 0x2403C, 1, 4, 0xFFF, 0x1F0000, 0x0, 0x0, 0x0, false⟩,
    ⟨"SPRINT_NS_LO", .bar0, 0x24040, 1, 4, 0x0, 0x0, 0x0, 0xFFFFFFFF, 0x0, true⟩,
    ⟨"SPRINT_NS_HI", .bar0, 0x24044, 1, 4, 0x0, 0x0, 0x0, 0xFFFFFFFF, 0x0, false⟩,
    ⟨"THROTTLE_NS_LO", .bar0, 0x24048, 1, 4, 0x0, 0x0, 0x0, 0xFFFFFFFF, 0x0, true⟩,
    ⟨"THROTTLE_NS_HI", .bar0, 0x2404C, 1, 4, 0x0, 0x0, 0x0, 0xFFFFFFFF, 0x0, false⟩,
    ⟨"ACLK_STATUS", .bar0, 0x24100, 16, 4, 0x0, 0x0, 0x0, 0x1FFFFFF, 0x1364B0, false⟩,
    ⟨"PHASE", .bar0, 0x24400, 160, 4, 0x0, 0x0, 0x0, 0x3FFFF03, 0x0, false⟩,
    ⟨"RAIL", .bar0, 0x24800, 52, 4, 0x0, 0x0, 0x0, 0x3FF07FF, 0x0, false⟩,
    ⟨"REL_NOTICE", .bar0, 0x28000, 1, 4, 0x0, 0x7F, 0x0, 0x80, 0x0, false⟩,
    ⟨"REL_IRQ", .bar0, 0x28004, 1, 4, 0xFFF, 0x0, 0x0, 0x0, 0x0, false⟩,
    ⟨"HEALTH_SUM", .bar0, 0x28008, 1, 4, 0x0, 0x0, 0x0, 0xFFFFFFFF, 0x0, false⟩,
    ⟨"SPARE_LEFT", .bar0, 0x28010, 16, 4, 0x0, 0x0, 0x0, 0x1F37, 0x0, false⟩,
    ⟨"BG_CFG", .bar0, 0x28060, 1, 4, 0xFFFFFFFF, 0x0, 0x0, 0x0, 0xF3C3C18, false⟩,
    ⟨"BG_STATUS", .bar0, 0x28080, 6, 4, 0x0, 0x800, 0x0, 0xFFFF07FF, 0x0, false⟩,
    ⟨"TIME_LO", .bar0, 0x28200, 1, 4, 0x0, 0x0, 0x0, 0xFFFFFFFF, 0x0, true⟩,
    ⟨"TIME_HI", .bar0, 0x28204, 1, 4, 0x0, 0x0, 0x0, 0xFFFFFFFF, 0x0, false⟩,
    ⟨"TIME_STEP_LO", .bar0, 0x28208, 1, 4, 0xFFFFFFFF, 0x0, 0x0, 0x0, 0x0, false⟩,
    ⟨"TIME_STEP_HI", .bar0, 0x2820C, 1, 4, 0xFFFFFFFF, 0x0, 0x0, 0x0, 0x0, false⟩,
    ⟨"TIME_CTRL", .bar0, 0x28210, 1, 4, 0x0, 0x0, 0x0, 0x0, 0x0, false⟩,
    ⟨"TIME_SLEW", .bar0, 0x28214, 1, 4, 0x3FF, 0x0, 0x0, 0x0, 0x0, false⟩ ]

/-- Rows of R458, part 12. -/
def regRows12 : List RegDesc :=
  [ ⟨"ELOG_WR_LO", .bar0, 0x28300, 1, 4, 0x0, 0x0, 0x0, 0xFFFFFFFF, 0x0, true⟩,
    ⟨"ELOG_WR_HI", .bar0, 0x28304, 1, 4, 0x0, 0x0, 0x0, 0xFFFFFFFF, 0x0, false⟩,
    ⟨"ELOG_RD_LO", .bar0, 0x28308, 1, 4, 0xFFFFFFFF, 0x0, 0x0, 0x0, 0x0, true⟩,
    ⟨"ELOG_RD_HI", .bar0, 0x2830C, 1, 4, 0xFFFFFFFF, 0x0, 0x0, 0x0, 0x0, false⟩,
    ⟨"ELOG_LOST_LO", .bar0, 0x28310, 1, 4, 0x0, 0x0, 0x0, 0xFFFFFFFF, 0x0, true⟩,
    ⟨"ELOG_LOST_HI", .bar0, 0x28314, 1, 4, 0x0, 0x0, 0x0, 0xFFFFFFFF, 0x0, false⟩,
    ⟨"ELOG_SEL", .bar0, 0x28318, 1, 4, 0xFFF, 0x0, 0x0, 0x0, 0x0, false⟩,
    ⟨"ELOG_ENTRY", .bar0, 0x28320, 8, 4, 0x0, 0x0, 0x0, 0xFFFFFFFF, 0x0, false⟩,
    ⟨"MCTP_STATUS", .bar0, 0x28400, 1, 4, 0x0, 0x0, 0x0, 0xFFFFFFFF, 0x0, false⟩,
    ⟨"TEL_VALUE", .bar0, 0x29000, 312, 4, 0x0, 0x0, 0x0, 0x1FFFFFF, 0xFF0000, false⟩,
    ⟨"RAIL_ENERGY_LO", .bar0, 0x29800, 52, 8, 0x0, 0x0, 0x0, 0xFFFFFFFF, 0x0, true⟩,
    ⟨"RAIL_ENERGY_HI", .bar0, 0x29804, 52, 8, 0x0, 0x0, 0x0, 0xFFFFFFFF, 0x0, false⟩,
    ⟨"WM_SEL", .bar0, 0x2A000, 1, 4, 0xFFF, 0x0, 0x0, 0x0, 0x0, false⟩,
    ⟨"WM_SRC", .bar0, 0x2A004, 1, 4, 0xFFFFFF, 0x0, 0x0, 0x0, 0x0, false⟩,
    ⟨"WM_HI", .bar0, 0x2A008, 1, 4, 0xFFFFFFFF, 0x0, 0x0, 0x0, 0xFFFFFFFF, false⟩,
    ⟨"WM_LO", .bar0, 0x2A00C, 1, 4, 0xFFFFFFFF, 0x0, 0x0, 0x0, 0x0, false⟩,
    ⟨"WM_CFG", .bar0, 0x2A010, 1, 4, 0xF, 0x0, 0x0, 0x0, 0x6, false⟩,
    ⟨"WM_STATUS", .bar0, 0x2A014, 1, 4, 0x0, 0x6, 0x0, 0x1, 0x0, false⟩,
    ⟨"WM_COUNT", .bar0, 0x2A018, 1, 4, 0x0, 0x0, 0xFFFF, 0x0, 0x0, false⟩,
    ⟨"WM_PENDING", .bar0, 0x2B000, 128, 4, 0x0, 0xFFFFFFFF, 0x0, 0x0, 0x0, false⟩,
    ⟨"RST_STATUS", .bar0, 0x30000, 1, 4, 0x0, 0x0, 0x0, 0x7071F, 0x0, false⟩,
    ⟨"RST_CTRL", .bar0, 0x30004, 1, 4, 0x0, 0x0, 0x0, 0x0, 0x0, false⟩,
    ⟨"BOOT_STATUS", .bar0, 0x30008, 1, 4, 0x0, 0x0, 0x0, 0xFFFF0F, 0x2300, false⟩,
    ⟨"BOOT_CFG", .bar0, 0x3000C, 1, 4, 0xFFF1, 0x0, 0x0, 0x0, 0x3E80, false⟩,
    ⟨"BOOT_CTRL", .bar0, 0x30010, 1, 4, 0x0, 0x0, 0x0, 0x0, 0x0, false⟩,
    ⟨"START_MS", .bar0, 0x30014, 1, 4, 0x0, 0x0, 0x0, 0xFFFF, 0x0, false⟩,
    ⟨"WARM_COUNT_LO", .bar0, 0x30018, 1, 4, 0x0, 0x0, 0x0, 0xFFFFFFFF, 0x0, true⟩,
    ⟨"WARM_COUNT_HI", .bar0, 0x3001C, 1, 4, 0x0, 0x0, 0x0, 0xFFFFFFFF, 0x0, false⟩,
    ⟨"CREDIT_STALL", .bar0, 0x20A00, 144, 4, 0x0, 0x0, 0x0, 0xFFFF, 0x0, false⟩ ]

/-- R458: every register. -/
def regRows : List RegDesc :=
  regRows1 ++ regRows2 ++ regRows3 ++ regRows4 ++ regRows5 ++ regRows6 ++ regRows7 ++ regRows8 ++ regRows9 ++ regRows10 ++ regRows11 ++ regRows12

/-- The entry of a register that lies at `off`, if one does. -/
def RegDesc.entry? (d : RegDesc) (sp : RegSpace) (off : Nat) : Option Nat :=
  if d.space = sp ∧ d.off ≤ off ∧ (off - d.off) % d.stride = 0 ∧ (off - d.off) / d.stride < d.count
  then some ((off - d.off) / d.stride) else none

/-- The register at an offset, with its entry number. -/
def findRegIn : List RegDesc → RegSpace → Nat → Option (RegDesc × Nat)
  | [], _, _ => none
  | d :: ds, sp, off =>
    match d.entry? sp off with
    | some i => some (d, i)
    | none => findRegIn ds sp off

/-- R7, R456: the register that a place holds; none for a reserved offset. -/
def findReg (sp : RegSpace) (off : Nat) : Option (RegDesc × Nat) := findRegIn regRows sp off

end Sys2Proof.Machine
end

