-- ==== Sys2Proof/Machine/State.lean ====
section
/-! DEFINITION. Sys2Proof/Machine/State.lean: the state of the block as plain data, the faults and refusals, and the state
after cold reset. A sparse table (`Tbl`) lists what differs from its default; `Store` holds what a command reads as
committed (R73, R135), so that an attempt keeps a copy of it. -/

namespace Sys2Proof.Machine

open Sys2Proof

/-! ### Module organisation (01_architecture.md) -/

/-- R20: the states of a physical slot. -/
inductive SlotSt where
  | inService | spare | moving | retired
deriving DecidableEq, Repr

/-- R35: one physical slot: its state, the field index it serves, and the doubled field index it hosts. -/
structure PhysSlot where
  st : SlotSt
  field : Nat
  doubled : Option Nat
deriving DecidableEq, Repr

/-- R34: how a field index is served. -/
inductive MapSt where
  | own | moving | doubled
deriving DecidableEq, Repr

/-- R34: where a field index is served. -/
structure ArrayEnt where
  die : Nat
  slot : Nat
  st : MapSt
deriving DecidableEq, Repr

/-- R26, R37: one die link: modules up, and its lane repairs (RETRAINS is in `State.regs`). -/
structure D2DLink where
  up : Nat
  repairs : Nat
deriving DecidableEq, Repr

/-- R20, R493: a rotation in progress on a die: the outgoing slot, the spare, and whether the copy has been made. -/
structure Rotation where
  from_ : Nat
  spare : Nat
  copied : Bool
deriving DecidableEq, Repr

/-- The topology of R17 to R37. -/
structure Topo where
  arrays : Tbl ArrayEnt          -- by field index; unlisted: the identity of R18
  slots : Tbl PhysSlot           -- by 68 × die + slot; unlisted: R18
  links : Tbl D2DLink            -- by link number of R24
  mapGen : DWord                 -- R33
  diePresent : List Nat          -- R32: bits 0 to 19 that are 1
  rotations : Tbl Rotation       -- by die
deriving DecidableEq, Repr

/-! ### Field plan (02_field_plan.md) -/

structure PlotEnt where
  plot : Nat
  first : Nat
  num : Nat
deriving DecidableEq, Repr
structure QueueEnt where
  plot : Nat
  cls : Nat
  queues : Nat
  depth : Nat
deriving DecidableEq, Repr
structure CribEnt where
  die : Nat
  scratch : Nat
deriving DecidableEq, Repr
structure LoftEnt where
  region : Nat
  mask : Nat
  granules : Nat
  size : Nat
deriving DecidableEq, Repr
structure SiloEnt where
  port : Nat
  region : Nat
  granules : Nat
deriving DecidableEq, Repr
structure WinEnt where
  prio : Nat
  kind : Nat
  access : Nat
  plots : Nat
  base : Nat
  limit : Nat
deriving DecidableEq, Repr
structure QuotaEnt where
  cls : Nat
  mode : Nat
  loft : Nat
  pinned : Nat
  silo : Nat
deriving DecidableEq, Repr
structure GroupEnt where
  self : Nat
  size : Nat
  gid : Nat
deriving DecidableEq, Repr
structure RouteEnt where
  first : Nat
  last : Nat
  prio : Nat
  ports : Nat
deriving DecidableEq, Repr
structure TreeEnt where
  tree : Nat
  parent : Nat
  fanin : Nat
  children : Nat
deriving DecidableEq, Repr
structure OpEnt where
  die : Nat
  mode : Nat
deriving DecidableEq, Repr
structure EnableEnt where
  caravan : Nat
  silo : Nat
  features : Nat
deriving DecidableEq, Repr

/-- The sections of a configuration (R43, R45); `none` where an image does not carry the section. -/
structure Sections where
  plots : Option (List PlotEnt)
  queues : Option (List QueueEnt)
  cribs : Option (List CribEnt)
  lofts : Option (List LoftEnt)
  silos : Option (List SiloEnt)
  windows : Option (List WinEnt)
  quotas : Option (List QuotaEnt)
  group : Option (List GroupEnt)
  routes : Option (List RouteEnt)
  trees : Option (List TreeEnt)
  opPoints : Option (List OpEnt)
  powerCap : Option (List Nat)
  enable : Option (List EnableEnt)
deriving DecidableEq, Repr

/-- A validated image in a staging slot (R39, R52). -/
structure PlanImage where
  kind : Nat
  planId : Nat
  baseId : Nat
  keyIndex : Nat
  secs : Sections
deriving DecidableEq, Repr

/-- Names one fetched command. -/
structure CmdRef where
  ctx : Nat
  ring : Nat
  serial : Nat
deriving DecidableEq, Repr

/-- R56: an APPLY past its step 2: the slot, the changed plots, the commands step 3 waits for, the time of step 1. -/
structure ApplyRun where
  slot : Nat
  plots : List Nat
  waits : List CmdRef
  began : DWord
deriving DecidableEq, Repr

/-- R52, R54: a LOAD or PREPARE whose image is being read: the operation and its slot; the boot LOAD of R520 apart. -/
structure FpOp where
  op : Nat
  slot : Nat
  addr : Nat
  len : Nat
  boot : Bool
deriving DecidableEq, Repr

/-- The field plan (R39 to R66, R543). -/
structure PlanSt where
  slots : Tbl PlanImage          -- staging slots 0 to 4 that hold an image
  active : Nat                   -- FP_ACTIVE.ACTIVE_SLOT
  force : Option Sections        -- the configuration in force: the active bank of the dies' registers (R53, R56)
  op : Option FpOp
  apply : Option ApplyRun
  result : Status                -- FP_STATUS.RESULT
  lastOp : Nat
  lastSlot : Nat
  errAt : Option (Nat × Nat)     -- SECTION and FP_ERR_ENTRY when SEC_VALID
  gen : DWord                    -- FP_GEN
  overlaps : Nat                 -- FP_OVERLAPS
  applyNs : Nat                  -- FP_APPLY_NS
deriving DecidableEq, Repr

/-! ### Objects and granules (06_memory_tiers.md) -/

/-- R186, R193: an entry of a context's object table: the storage it names, and whether it is an alias. -/
structure ObjEnt where
  sid : Nat
  alias_ : Bool
deriving DecidableEq, Repr

/-- R189, R190, R193, R428: the storage behind an object: its owner, attributes and size; `live` while the source object is
in its owner's table. -/
structure Body where
  ctx : Nat
  num : Nat
  size : Nat
  place : Nat
  writable : Bool
  replica : Bool
  stack : Nat
  reserved : Bool                -- allocated at once (R208)
  isSealed : Bool
  farOk : Bool
  live : Bool
deriving DecidableEq, Repr

/-- R356: a far object: an entry of the object table bound to a peer's export. -/
structure FarObj where
  node : Nat
  expo : Nat
  gen : Nat
  size : Nat
  read : Bool
  write : Bool
  secure : Bool
  isSealed : Bool                -- seal and FAR_OK of the export, as recorded at BIND (R428)
  farOk : Bool
deriving DecidableEq, Repr

/-- R189, R206: the Loft object heap, the Loft pinned heap, the Silo object heap. -/
inductive Tier where
  | loft | pinned | silo
deriving DecidableEq, Repr

/-- R209: why a migration runs. -/
inductive MigCause where
  | pressure | access | heat | request
deriving DecidableEq, Repr

/-- R211: a migration in progress: the destination's heap offset and sectors, its cause, and how many attempts it has had. -/
structure Migration where
  dst : Nat
  sectors : Nat
  cause : MigCause
  tries : Nat
deriving DecidableEq, Repr

/-- R219: a granule's replica: port, logical granule and sectors. -/
structure Replica where
  port : Nat
  lg : Nat
  sectors : Nat
deriving DecidableEq, Repr

/-- R194, R196, R212: an allocated granule: tier, heap offset, sectors in Silo, migration or repair in progress, replica, and
the reads of R209 and R210. -/
structure Gran where
  tier : Tier
  heap : Nat
  sectors : Nat
  mig : Option Migration
  repairing : Bool
  replica : Option Replica
  reads : Nat
  lastRead : DWord
deriving DecidableEq, Repr

/-- R211: a source copy kept for commands dispatched before the remap. -/
structure OldCopy where
  sid : Nat
  gran : Nat
  tier : Tier
  heap : Nat
  sectors : Nat
  readers : List CmdRef
deriving DecidableEq, Repr

/-! ### Sequences (07_generation.md) -/

inductive SeqSt where
  | free | open_ | cancelled
deriving DecidableEq, Repr

/-- R227: a slot record; the map sheaves' entries are `map`, by block number. -/
structure SeqSlot where
  st : SeqSt
  insert : Bool
  steered : Bool
  detached : Bool
  husk : Bool
  owner : Nat
  layers : Nat
  headDim : Nat
  kvHeads : Nat
  steerSet : Nat
  model : Nat
  committed : Nat
  tentative : Nat
  pfx : Option Nat               -- PREFIX
  pfxGen : Nat
  mapSheaf : Tbl Nat             -- MAP[0..7]: sheaf numbers
  map : Tbl Nat                  -- block number to stook number
  sampling : List Byte
  random : List Byte
  huskFirst : Option Nat
  lastUse : DWord
deriving DecidableEq, Repr

inductive StookSt where
  | free | live | husk | refilling
deriving DecidableEq, Repr

/-- R234: a stook record. -/
structure Stook where
  st : StookSt
  tent : Bool
  layers : Nat
  refs : Nat
  allocCtx : Nat
  block : Nat
  model : Nat
  pins : List CmdRef
  lastRead : DWord
  tokens : Tbl Nat               -- position in the block to token
  sheaf : Tbl Nat                -- layer to KV sheaf
  valid : List Nat               -- layers whose VALID bit is 1
deriving DecidableEq, Repr

/-- R250: a Drift node; `head` is the first node of bucket k. -/
structure DriftNode where
  used : Bool
  group : Nat
  model : Nat
  parent : Option Nat
  parentGen : Nat
  gen : Nat
  stook : Nat
  next : Option Nat
  head : Option Nat
  children : Nat
  hash : Nat
  lastUse : DWord
  tokens : List Nat
deriving DecidableEq, Repr

/-- R260: an installed steering set: owner context, its effective group, the image's storage address. -/
structure SteerSet where
  ctx : Nat
  eg : Nat
  sid : Nat
  off : Nat
deriving DecidableEq, Repr

/-- R264: a detached map: the stooks that still hold its reference, by block, and its map sheaves. -/
structure DetMap where
  stooks : Tbl Nat
  sheaves : List Nat
deriving DecidableEq, Repr

/-- What commands read as committed at their dispatch (R73, R135): object bytes and poison marks, host memory, the object
tables, the sequence table, the stooks and the KV bytes, and the steering sets. Object bytes are keyed by
`sid × 2^40 + offset`, poison marks by that key ÷ 64, KV bytes by `sheaf × 2^17 + offset`. -/
structure Store where
  mem : List Host.Cell
  poison : List Nat
  host : List Host.Cell
  objs : Tbl ObjEnt              -- by ctx × 2^24 + object number
  far : Tbl FarObj               -- by ctx × 2^24 + object number
  bodies : Tbl Body              -- by sid
  slots : Tbl SeqSlot            -- by slot number
  stooks : Tbl Stook             -- by stook number
  kv : List Host.Cell
  sets : Tbl SteerSet            -- by set number
deriving DecidableEq, Repr

/-! ### Commands (04_commands_and_commit.md) -/

/-- Where a fetched command stands (R132, R138, R141, R179, R328). -/
inductive Phase where
  | waiting        -- at or behind the dispatch point
  | running        -- dispatched, its engine at work
  | computed       -- its attempt has ended; the outputs are staged
  | deciding       -- a provisional UPDATE waiting for its decision (R328)
  | peers          -- a REDUCE whose term is in, waiting for its collective; its Tally is free (R361, R370)
  | latchWait      -- a LATCH acquire on the waiting list (R179)
  | repair         -- killed; its rerun waits for a repair (R141)
  | done           -- its status is final
deriving DecidableEq, Repr

/-- R290 to R292: what a verify SAMPLE commits for one sequence: its slots, COMMITTED and TENTATIVE at dispatch, the form, the
storage key and bytes of its entries, the tokens to accept, the tree rows accepted in depth order. -/
structure VerifyFx where
  slot : Nat
  draft : Nat
  n : Nat
  t : Nat
  apply_ : Bool
  tree : Bool
  out : Nat
  entries : List Byte
  toks : List Nat
  rows : List Nat
deriving DecidableEq, Repr

/-- A staged effect of an attempt, made live by the commit (R135, R136). -/
inductive Eff where
  | write (cell : Nat) (data : List Byte)            -- object bytes, by storage key
  | hostWrite (addr : Nat) (data : List Byte)
  | farCommit (obj : FarObj) (epoch attempt bytes : Nat)     -- COMMIT of a far MOVE (R357)
  | counter (reg : Nat) (n : Nat)                    -- a 64-bit module counter advances
  | kvWrite (slot layer pos : Nat) (refill : Bool) (k v : List Byte)   -- one position's K and V (R245)
  | advance (slot n : Nat)                           -- TENTATIVE += n (R245)
  | refillDone (slot layer firstBlock nBlocks : Nat) -- R239
  | seqOpen (slot : Nat) (blk : List Byte)
  | seqClose (slot : Nat)
  | seqAccept (slot : Nat) (toks : List Nat)
  | seqRollBack (slot : Nat)
  | seqMatch (slot : Nat) (toks : List Nat) (out : Nat)  -- result written at the storage key `out`
  | useSlot (slot : Nat)                             -- LAST_USE
  | slotWrite (slot : Nat) (cell : Nat) (data : List Byte)   -- output rows omitted on a Cancelled slot (R263)
  | verify (x : VerifyFx)                            -- R290 to R292
  | lastDec (skip clipped : Nat) (norm stepNo : Nat) -- THR_LAST_* (R334)
  | wnwElem (engine n sat nan : Nat)                 -- Winnow counts (R398)
deriving DecidableEq, Repr

/-- What an attempt has computed. -/
structure Outcome_ where
  status : Status
  detail : Nat
  nonfinite : Bool
  effs : List Eff
deriving DecidableEq, Repr

/-- R235: what an attempt allocated for keys and values: a map sheaf of a slot, a stook for a block of a slot, a layer's sheaf
of a stook. -/
inductive KvHold where
  | mapSheaf (slot i sheaf : Nat)
  | stook (slot block stook : Nat)
  | sheaf (stook layer : Nat)
deriving DecidableEq, Repr

/-- One dispatched attempt: engine instance, queue, time of dispatch, the committed state it reads, what it holds. -/
structure Attempt where
  inst : Nat
  queue : Nat
  t0 : DWord
  t1 : DWord                     -- the end of its engine time
  snap : Store
  scratch : Nat                  -- 64 KiB units of crib scratch on die `scratchDie`
  scratchDie : Nat
  grans : List Nat               -- granules this attempt allocated (key sid × 2^19 + granule)
  touched : List Nat             -- granules its accesses cover
  ostd : Nat                     -- CART_OSTD at dispatch (R223)
  kv : List KvHold               -- the last first
  wsids : List Nat               -- storages it writes
  degraded : Bool                -- a degraded path or place at dispatch (R13)
deriving DecidableEq, Repr

/-- A fetched command (R112 to R114, R121, R138 to R141, R271). -/
structure Cmd where
  desc : List Byte
  serial : Nat
  slot : Nat                     -- index of its first slot
  nslots : Nat
  phase : Phase
  kills : Nat
  rerun : Bool
  preempted : Bool
  expiries : Nat
  injected : Nat
  hostFaults : Tbl Nat           -- attempts that met a failed read, by page (R222)
  param : Option (List Byte)     -- the parameter-block copy, from first dispatch
  seed : DWord
  degraded : Bool                -- a rerun after a retirement (R13, R218)
  att : Option Attempt
  out : Option Outcome_
  status : Status                -- the final status once `done`
  nonfinite : Bool               -- CFLAGS and DETAIL of the final record, its times
  detail : Nat
  ns : Nat
  doneNs : DWord
  recDue : Bool                  -- final, its record not yet written (R107: the write breached)
  joined : DWord                 -- when a WAIT, LATCH or decision wait began
  cancelMark : Bool              -- its slot was cancelled while it waited (R262)
  avoid : Option Nat             -- R140: the instance whose watchdog expired
deriving DecidableEq, Repr

inductive RingSt where
  | disabled | running | halted | flushing | frozen
deriving DecidableEq, Repr

/-- R109, R149: a ring. Its RW registers are in `State.regs`. -/
structure Ring where
  st : RingSt
  before : RingSt                -- the state before freezing
  after : RingSt                 -- the state a flush in progress leads to
  lastErr : Status
  depth : Nat
  head : Nat
  tail : Nat
  retire : Nat
  epoch : Word
  serial : Nat
  cmds : List Cmd                -- fetched and not retired, in ring order
deriving DecidableEq, Repr

/-! ### Contexts, sharing, latches (05_contexts_and_scheduling.md) -/

inductive CtxSt where
  | free | active | frozen | destroying | resetting
deriving DecidableEq, Repr

/-- R171, R172: what a freeze in its steps will record. -/
structure Freeze where
  cause : Nat
  write : Bool
  serValid : Bool
  ring : Nat
  addr : Nat
  serial : Nat
deriving DecidableEq, Repr

/-- An operation of a context window that runs for a time (R192, R260, R427, R376): its code and operands. -/
structure WinOp where
  op : Nat
  a : Nat
  b : Nat
deriving DecidableEq, Repr

/-- R153 to R184: a context. Its RW registers are in `State.regs`. -/
structure Ctx where
  st : CtxSt
  freezing : Option Freeze       -- the freeze steps of R172 run
  lastErr : Status
  freezeCount : Nat
  info : Freeze                  -- FREEZE_INFO, FREEZE_ADDR, FREEZE_SER
  haltRing : Option Nat          -- the ring that held the breaching command (R174)
  cyc : Tbl DWord                -- by class
  lost : Tbl DWord
  vt : Tbl DWord
  rem : Tbl Nat
  energy : DWord
  frac : Nat
  model : Nat                    -- modelled energy of the interval (R168)
  seed : DWord                   -- R271
  seedLo : Option Word           -- the held low half (R297)
  objErr : Status                -- OBJ_STATUS.LAST_ERR
  objOp : Option WinOp           -- an OBJ_CTRL operation in progress
  cancel : Option Nat            -- the slot of a cancellation in progress (R262)
  cancelRes : Status
  steerErr : Status
  steerOp : Option WinOp
  steerWaits : List CmdRef       -- steered commands a REMOVE waits for (R260)
  farErr : Status
  farOp : Option WinOp
  wpkErr : Status
  wpkOp : Option WinOp
  wpkErrChunk : Nat
  xts : Nat                      -- R204: the context's key pair
  digest : DWord                 -- R407
  units : DWord
deriving DecidableEq, Repr

inductive LatchSt where
  | free | held (ctx : Nat) | broken
deriving DecidableEq, Repr

/-- R178: a latch. -/
structure Latch where
  st : LatchSt
  waiters : List CmdRef
  gen : Word
deriving DecidableEq, Repr

/-- The scheduler's own state (R161 to R175). -/
structure Sched where
  clocks : Tbl DWord             -- virtual clocks by (plot × 8 + class) × 256 + queue; unlisted: none
  eligible : List Nat            -- (ctx × 64 + ring) found eligible last (R163)
  grants : Tbl Nat               -- last granted requester by class × 1024 + instance (R175)
  idleUj : DWord                 -- ACCT_IDLE
  idleFrac : Nat
  idleModel : Nat
  ratio : Word                   -- ACCT_RATIO

deriving DecidableEq, Repr

/-! ### Caravan fabric (10_caravan_fabric.md) -/

/-- R346: the states of a port. -/
inductive PortSt where
  | off | training | ident | up | active | retrain | down
deriving DecidableEq, Repr

/-- A data flit on a virtual lane, with its poison mark; `own` is the XID of the packet of this module that it belongs to. -/
structure Flit where
  vl : Nat
  data : List Byte
  poison : Bool
  own : Option Nat := none
deriving DecidableEq, Repr

/-- R431: a key agreement in progress: the bytes of the own and the peer's HELLO, the own ephemeral private key, the peer's
ephemeral public key and certificate chain, whether the peer's FINISH has verified. -/
structure Agreement where
  mine : List Byte
  priv : Nat
  theirs : List Byte
  peerKey : List Byte
  chain : List Byte
  finished : Bool
deriving DecidableEq, Repr

/-- R372, R432: the keys of a session: MS, the own rank, the key epochs of the two directions, the phases, and the frames sent
under the current key. -/
structure LinkKeys where
  ms : List Byte
  lower : Bool
  epochTx : Nat
  epochRx : Nat
  phaseTx : Bool
  phaseRx : Bool
  frames : Nat
deriving DecidableEq, Repr

/-- A Caravan port (R335 to R350, R372, R375). Its PORT_CTRL and counters are in `State.regs`. -/
structure Port where
  st : PortSt
  narrow : Bool
  enc : Bool                     -- frames of this session are encrypted
  peerNode : Option Nat          -- none: the peer reported 0xFFFF, or nothing yet
  peerPort : Nat
  peerGroup : Nat
  peerReady : Bool
  identified : Bool
  rtt : Nat
  laneMap : List Nat             -- physical lane of each logical lane
  spare : Option Nat
  spareCal : Bool                -- the spare is calibrated
  retired : List Nat
  calAt : Tbl DWord              -- last calibration of each physical lane
  txSeq : Nat
  rxSeq : Nat
  retry : List Flit              -- unacknowledged flits, the oldest first
  sendNext : Nat                 -- next number to put on the wire
  replayFlag : Bool              -- the next frame is the first of a replay
  replayEnd : Option Nat         -- a replay in progress ends at this number
  replayAck : Option (Nat × DWord)   -- ACK value and start of the last replay
  replays : Nat                  -- replays completed with no advance of ACK
  nak : Bool                     -- flits are discarded until a replay arrives
  tx : List Flit                 -- flits waiting to be sent
  rx : List Flit                 -- flits received, of packets not complete
  sent : List Nat                -- flits sent by virtual lane
  cred : List Nat                -- credits the peer has returned, cumulative
  ret : List Nat                 -- credits returned to the peer, cumulative
  txFrame : Nat                  -- frame indices
  rxFrame : Nat
  lcmd : Nat                     -- lane command repeated in control flits
  larg : Nat
  req : Option (Nat × Nat)       -- own unanswered ROTATE_REQ: logical lane, frame
  swap : Option (Nat × Nat)      -- agreed rotation
  agree : Option Agreement
  keys : Option LinkKeys
  tagFails : Nat                 -- consecutive tag failures
  linkOut : List LinkMsg         -- LINK messages sent, the last first
  lastFrame : List Byte          -- the frame last sent
deriving DecidableEq, Repr

/-- R355: an export. -/
structure Export where
  ctx : Nat
  obj : Nat
  gen : Nat
  read : Bool
  write : Bool
  secure : Bool
  ctrEn : Bool
  ctr : Nat
deriving DecidableEq, Repr

/-- R357, R359: bytes staged at the exporter for an epoch: (offset, bytes, marked 64-byte pieces). -/
structure FarStage where
  attempt : Nat
  expo : Nat
  parts : List (Nat × List Byte × List Nat)
  last : DWord
deriving DecidableEq, Repr

/-- R358: what a request asks for. -/
inductive FarKind where
  | write | read | commit | bind
deriving DecidableEq, Repr

/-- R357, R358: a request of this module: its packet, the command or context it serves, whether it has been answered or sent
again, and the bytes a read returned with their marks. -/
structure FarReq where
  kind : FarKind
  pkt : FarPacket
  cmd : Option CmdRef
  ctx : Nat
  answered : Bool
  resent : Bool
  deadSince : Option DWord
  got : List Byte
  marks : List Nat
deriving DecidableEq, Repr

/-- R363, R365: one contribution to a segment: from a child port, in a pass. -/
structure CollPart where
  port : Nat
  pass : Nat
  elem0 : Nat
  terms : Nat
  data : List Nat
deriving DecidableEq, Repr

/-- R363: a local term: its command, the kills of the attempt that brought it last, its values in FP32. -/
structure CollTerm where
  ref : CmdRef
  kills : Nat
  words : List Word
deriving DecidableEq, Repr

/-- R361 to R370, R545: one instance of a collective at this module: identity and instance, home port, what its members agree
on, the local terms, the children's partials, the final records and results by segment, the packets sent up. -/
structure Coll where
  tree : Nat
  seq : Nat
  group : Nat
  inst : Nat
  port : Nat
  elements : Nat
  rop : Nat
  fmt : Nat
  exact_ : Nat
  terms : List CollTerm
  parts : List CollPart
  sentUp : List TallyPacket
  finals : Tbl (List Nat)
  results : Tbl (List Nat)
  ended : Bool
  failed : Option Status
deriving DecidableEq, Repr

/-- R545: the count of ended instances of an identity, and the later collectives its Tally has ended. -/
structure CollCount where
  tree : Nat
  seq : Nat
  group : Nat
  port : Nat
  count : Nat
  later : Nat
deriving DecidableEq, Repr

/-- The fabric. -/
structure Fabric where
  ports : Tbl Port
  exports : Tbl Export
  expGens : Tbl Nat              -- export generations (R355)
  stages : Tbl FarStage          -- by epoch
  farDone : List Nat             -- committed epochs
  reqs : Tbl FarReq              -- by XID
  nextXid : Nat
  asks : List FarPacket          -- questions and answers of BIND sent, the last first
  colls : List Coll
  counts : List CollCount
deriving DecidableEq, Repr

/-! ### Host interface (14_host_interface_and_registers.md) -/

/-- One MSI-X table entry. -/
structure MsixEnt where
  addr : DWord
  data : Word
  mask : Bool
deriving DecidableEq, Repr

/-- R450, R451: a vector's count: events since its last message, the time of the first, and the moderation in force. -/
structure VecCount where
  n : Nat
  first : DWord
  holdoff : Nat
  need : Nat
deriving DecidableEq, Repr

/-- A function (R440 to R454). CTXSEL, APT_OBJ, APT_BASE, IRQ_MOD are in `State.regs`. -/
structure Fn where
  mse : Bool
  bme : Bool
  d3 : Bool
  flr : Bool
  msixEn : Bool
  fnMask : Bool
  ats : Bool
  mps : Nat
  mrrs : Nat
  pme : Bool
  table : Tbl MsixEnt
  pba : List Nat
  counts : Tbl VecCount
  aptErr : Status
  aptSet : Bool                  -- APT_STATUS.ERR
deriving DecidableEq, Repr

/-- A message the block has sent (R449). -/
structure Msg where
  fn : Nat
  vec : Nat
  addr : DWord
  data : Word
deriving DecidableEq, Repr

/-- The host port (R436, R455). -/
structure HostSt where
  vfEnable : Bool
  numVFs : Nat
  speed : Nat
  width : Nat
  flit : Bool
  badFn : Nat
  badBar : Nat
  badWrite : Bool
  badOff : Nat
  msgs : List Msg                -- messages sent, the last first
deriving DecidableEq, Repr

/-! ### Records the block writes -/

/-- R138: a trace record: the command and the status it reads (KILLED or CANCELLED). -/
structure TraceRec where
  cmd : CmdRef
  status : Status
deriving DecidableEq, Repr

/-- R501: an entry of the error log. -/
structure LogEnt where
  time : DWord
  seq : Nat
  cls : Nat
  unit : Nat
  status : Nat
  count : Nat
  ctx : Nat
  loc : Nat
deriving DecidableEq, Repr

/-- R501, R502: the error log: entries by slot, the next and the oldest entry number, the overwritten ones, the held low half
of ELOG_RD, the shadow of ELOG_ENTRY. -/
structure Elog where
  ents : Tbl LogEnt
  wr : Nat
  rd : Nat
  lost : Nat
  rdLo : Option Word
  shadow : List Byte
deriving DecidableEq, Repr

/-- R488, R489, R518: a Silo port: its expander trained, its capacity in bytes, retired; the tries of its oldest request. -/
structure SiloPort where
  trained : Bool
  capacity : Nat
  retired : Bool
  tries : Nat
deriving DecidableEq, Repr

/-- R482, R483, R493: the events of each resource by time, the retirements in force and those written to the health record,
the ageing counts of the slots. Resources are numbered `kind × 2^16 + index`. -/
structure Rel where
  faults : Tbl (List DWord)
  retired : List Nat
  recorded : List Nat
  ageing : Tbl Nat
  copying : List Nat             -- pseudo-channels being copied to their spares (R485)
deriving DecidableEq, Repr

/-- R416, R417: a publisher slot. -/
structure PubKey where
  alg : Nat
  fn : Nat
  key : List Byte
deriving DecidableEq, Repr

/-- R425, R426: an Open package slot: its context, content key, publisher slot, tag table, CHUNKS, content length, ALLOW_FAR and
PACKAGE_ID. -/
structure PkgSlot where
  ctx : Nat
  key : List Byte
  pub : Nat
  tags : List Byte
  chunks : Nat
  len : Nat
  allowFar : Bool
  id : List Byte
deriving DecidableEq, Repr

/-- R415 to R421, R434: the key vault: owner key and OWNER_SEQ, plan-signing keys, publisher keys, package slots, the fuses, what
the running firmware's header gives, the operation in progress and the last result. -/
structure Vault where
  owner : Option (List Byte)
  ownerSeq : Nat
  planKeys : Tbl (List Byte)
  pubKeys : Tbl PubKey
  pkgs : Tbl PkgSlot
  svn : Nat
  revoked : Nat
  fwVersion : Nat
  fwSvn : Nat
  fwRevoke : Nat
  lifecycle : Nat                -- 0 Manufacturing, 1 Production, 2 Return
  alias_ : Nat                   -- the Alias private key of this boot (R413)
  measured : List Byte           -- the three digests of CDI_1
  op : Option Nat
  result : Status
  opens : List Nat               -- contexts whose OPEN waits or runs, in order of arrival (R425)
deriving DecidableEq, Repr

/-! ### Watermarks (16_reliability_and_telemetry.md) -/

/-- R497, R498, R509: a watermark monitor; `afresh`: ABOVE is to be set anew at the next evaluation. -/
structure Monitor where
  kind : Nat
  index : Nat
  hi : Nat
  lo : Nat
  en : Bool
  rise : Bool
  fall : Bool
  irq : Bool
  above : Bool
  event : Bool
  err : Bool
  count : Nat
  afresh : Bool
deriving DecidableEq, Repr

/-- R495: a sensor: the last sample, whether it is valid, and when it was taken. -/
structure Sensor where
  value : Nat
  valid : Bool
  at_ : Option DWord
deriving DecidableEq, Repr

/-! ### Power (15_power_and_clocks.md) -/

/-- R464: the power states. -/
inductive PwrState where
  | run | hold | nap | fallow
deriving DecidableEq, Repr

/-- R476 to R478: a compute die's clock: sprint granted, the ceilings of R476 and R478, R477 in force, the array rail's voltage in
mV and the frequency that a raise in progress leads to. -/
structure DiePower where
  sprint : Bool
  ceil : Nat
  therm : Nat
  held : Bool
  mv : Nat
  rising : Option Nat
deriving DecidableEq, Repr

/-- R474, R480: a phase: 0 active, 1 shed, 2 spare, 3 retired; the rail it supplies and its current in 0.1 A. -/
structure PhaseSt where
  st : Nat
  rail : Nat
  amps : Nat
deriving DecidableEq, Repr

/-- R475: a rail: step 1 holds, a modelled current limit or a derating holds, the highest ACLK in MHz (for other rails: 1,500 when
nothing is halved) that they allow. -/
structure RailSt where
  held : Bool
  limit : Bool
  derated : Bool
  cap : Nat
deriving DecidableEq, Repr

/-- The power controller (R464 to R480): `shake` is the target of a handshake and the participants that have accepted, `moving` the
state that the entry or exit steps lead to, `wake` a wake event that waits for the end of those steps. -/
structure Power where
  state : PwrState
  shake : Option (PwrState × List Nat)
  moving : Option PwrState
  wake : Bool
  reason : Nat
  result : Status
  refuser : Nat
  armed : Bool                   -- R471: the comparator is armed
  tripped : Bool                 -- R478: in Fallow by a thermal trip
  keepLoft : Bool                -- LOFT_KEEP at the entry of Fallow
  dies : Tbl DiePower
  phases : Tbl PhaseSt
  rails : Tbl RailSt
  granted : List Nat             -- sprinting dies, the last granted first
  lastDie : Nat                  -- the die last granted (R175)
  halved : Bool                  -- R476: Loft and Caravan issue rates halved at the floor
deriving DecidableEq, Repr

/-! ### Start-up, management, pins (16 to 18) -/

/-- R512 to R526: start-up: STEP, whether its steps run, step 10 ended; the bytes of SPI NOR. -/
structure Boot where
  step : Nat
  running : Bool
  done : Bool
  kind : Nat
  fail : Nat
  began : DWord                  -- the end of the last reset
  trainAt : DWord                -- the end of step 6 (R518, R520)
  startMs : Nat
  image : Nat
  fallback : Bool
  pendFail : Bool
  planResult : Status
  opResult : Status
  op : Option (Nat × Nat)        -- a STORE in progress: address and length
  areaA : List Byte
  areaB : List Byte
  active : Nat
  pend : Option Nat
  plan : List Byte
  wrapKey : Nat                  -- R523: the wrapping key in the retention store; 0 when destroyed
deriving DecidableEq, Repr

/-- R489, R505, R506: the management cores' restarts, and whether platform events are enabled. -/
structure Mgmt where
  restarts : List (Nat × DWord)
  events : Bool                  -- platform events enabled by the management controller
deriving DecidableEq, Repr

/-- R490: the current pass of a background activity: its start and the units done (the rest is in BG_STATUS). -/
structure Bg where
  began : DWord
  units : Nat
deriving DecidableEq, Repr

/-- R527 to R536: the pins that carry an event or a state: inputs, then outputs (asserted). -/
structure Pins where
  aux : Bool                     -- P3V3_AUX in range
  v12 : Bool
  sysref : Bool
  crvRef : Bool
  perst : Bool                   -- PERST_N asserted
  strap : Nat                    -- SB_ADDR1, SB_ADDR0
  sbAddr : Nat                   -- R531: the sideband address sampled at step 0
  wakeN : Bool
  thermtrip : Bool
deriving DecidableEq, Repr

/-- Why the block stops. No rule of the spec stops it: every failure it describes is a status, a count, a freeze or a reset.
The one constructor is raised by nobody (safe). -/
inductive Fault where
  /-- Raised by no command (safe). -/
  | none_
deriving DecidableEq, Repr

/-- Why a command has no meaning. -/
inductive Refusal where
  /-- A command not modelled yet; raised by `exec`'s refused arms only (safe). -/
  | notModelled (mnemonic : String)
deriving DecidableEq, Repr

/-- The state of the block. -/
structure State where
  pending : List Instr           -- the commands that wait, first in first out
  regs : Tbl Word                -- stored register fields by key (see Machine/Registers.lean); unlisted: the reset value
  shadows : Tbl Word             -- latch shadows by reader and register (R33, R442)
  reply : List Byte              -- what the last read returned
  replyPoison : Bool             -- with the poisoned attribute (R447)
  free : Nat                     -- the model's own: counts the free values drawn
  time : DWord                   -- the time base (R503)
  tclk : Nat                     -- TCLK cycles, modulo 10^6: where TIME_SLEW adds or withholds (R503)
  topo : Topo
  plan : PlanSt
  com : Store
  nextSid : Nat
  grans : Tbl Gran               -- by sid × 2^19 + granule
  olds : List OldCopy
  replMem : List Host.Cell       -- replica bytes, keyed as `com.mem`
  replPoison : List Nat
  rings : Tbl Ring               -- by ctx × 64 + ring
  evc : Tbl DWord                -- by ctx × 256 + counter
  ctxs : Tbl Ctx
  latches : Tbl Latch
  sched : Sched
  nodes : Tbl DriftNode
  driftKey : Nat                 -- DRIFT_KEY, 128 bits
  usedSheaves : List Nat
  recSheaves : List Nat
  relQueue : List DetMap
  groupFree : List Nat           -- contexts whose nodes wait to be freed (R258)
  fns : Tbl Fn
  host : HostSt
  trace : List TraceRec          -- the last first
  elog : Elog
  silo : Tbl SiloPort            -- by port
  aclk : Tbl Nat                 -- R463: ACLK in MHz, by compute die
  rel : Rel
  vault : Vault
  fab : Fabric
  withdrawn : Tbl Nat            -- R486: channel groups withdrawn, by stack
  mons : Tbl Monitor
  sensors : Tbl Sensor
  pwr : Power
  boot : Boot
  mgmt : Mgmt
  bg : Tbl Bg                    -- by activity of R490, 0 to 5
  pins : Pins
deriving DecidableEq, Repr

/-! ### The state after cold reset -/

/-- R18, R32: the identity map, no die tested yet. -/
def Topo.reset : Topo :=
  { arrays := [], slots := [], links := [], mapGen := 0, diePresent := [], rotations := [] }

/-- R61, R64, R65: no image in any slot. -/
def PlanSt.reset : PlanSt :=
  { slots := [], active := 0, force := none, op := none, apply := none, result := .notReady, lastOp := 0, lastSlot := 0,
    errAt := none, gen := 0, overlaps := 0, applyNs := 0 }

/-- R227: a Free slot. -/
def SeqSlot.reset : SeqSlot :=
  { st := .free, insert := false, steered := false, detached := false, husk := false, owner := 0, layers := 0, headDim := 0,
    kvHeads := 0, steerSet := 0, model := 0, committed := 0, tentative := 0, pfx := none, pfxGen := 0, mapSheaf := [], map := [],
    sampling := [], random := [], huskFirst := none, lastUse := 0 }

/-- R250: a Free node. -/
def DriftNode.reset : DriftNode :=
  { used := false, group := 0, model := 0, parent := none, parentGen := 0, gen := 0, stook := 0, next := none, head := none,
    children := 0, hash := 0, lastUse := 0, tokens := [] }

/-- No object, no sequence, no byte listed. -/
def Store.reset : Store :=
  { mem := [], poison := [], host := [], objs := [], far := [], bodies := [], slots := [], stooks := [], kv := [], sets := [] }

/-- R151: a ring at reset. -/
def Ring.reset : Ring :=
  { st := .disabled, before := .disabled, after := .disabled, lastErr := .ok, depth := 0, head := 0, tail := 0, retire := 0,
    epoch := 0, serial := 0, cmds := [] }

/-- R184: no freeze recorded. -/
def Freeze.reset : Freeze := { cause := 0, write := false, serValid := false, ring := 0, addr := 0, serial := 0 }

/-- R184: a context at reset. -/
def Ctx.reset : Ctx :=
  { st := .free, freezing := none, lastErr := .ok, freezeCount := 0, info := Freeze.reset, haltRing := none, cyc := [],
    lost := [], vt := [], rem := [], energy := 0, frac := 0, model := 0, seed := 0, seedLo := none, objErr := .ok,
    objOp := none, cancel := none, cancelRes := .ok, steerErr := .ok, steerOp := none, steerWaits := [], farErr := .ok,
    farOp := none, wpkErr := .ok, wpkOp := none, wpkErrChunk := 0, xts := 0, digest := 0, units := 0 }

/-- R178: a latch at reset. -/
def Latch.reset : Latch := { st := .free, waiters := [], gen := 0 }

/-- R185: the scheduler at reset. -/
def Sched.reset : Sched :=
  { clocks := [], eligible := [], grants := [], idleUj := 0, idleFrac := 0, idleModel := 0, ratio := 0x10000 }

/-- R440 to R455: a function at reset. -/
def Fn.reset : Fn :=
  { mse := false, bme := false, d3 := false, flr := false, msixEn := false, fnMask := false, ats := false,
    mps := 128, mrrs := 512, pme := false, table := [], pba := [], counts := [], aptErr := .ok, aptSet := false }

/-- R455: the host port at reset. -/
def HostSt.reset : HostSt :=
  { vfEnable := false, numVFs := 0, speed := 0, width := 0, flit := false, badFn := 0, badBar := 0, badWrite := false,
    badOff := 0, msgs := [] }

/-- R501: the error log at reset. -/
def Elog.reset : Elog := { ents := [], wr := 0, rd := 0, lost := 0, rdLo := none, shadow := [] }

/-- R518: a Silo port at reset. -/
def SiloPort.reset : SiloPort := { trained := false, capacity := 0, retired := false, tries := 0 }

/-- R483: no resource retired (log entry 12). -/
def Rel.reset : Rel := { faults := [], retired := [], recorded := [], ageing := [], copying := [] }

/-- R417: no key installed (log entry 12). -/
def Vault.reset : Vault :=
  { owner := none, ownerSeq := 0, planKeys := [], pubKeys := [], pkgs := [], svn := 0, revoked := 0, fwVersion := 0, fwSvn := 0,
    fwRevoke := 0, lifecycle := 1, alias_ := 0, measured := [], op := none, result := .ok, opens := [] }

/-- R335, R375: a port at reset. -/
def Port.reset : Port :=
  { st := .training, narrow := false, enc := false, peerNode := none, peerPort := 0, peerGroup := 0, peerReady := false,
    identified := false, rtt := 0, laneMap := [0, 1, 2, 3, 4, 5, 6, 7], spare := some 8, spareCal := false,
    retired := [], calAt := [], txSeq := 0, rxSeq := 0, retry := [], sendNext := 0, replayFlag := false, replayEnd := none,
    replayAck := none, replays := 0, nak := false, tx := [], rx := [], sent := [0, 0, 0], cred := [0, 0, 0], ret := [0, 0, 0],
    txFrame := 0, rxFrame := 0, lcmd := 0, larg := 0, req := none, swap := none, agree := none, keys := none, tagFails := 0,
    linkOut := [], lastFrame := [] }

/-- The fabric at reset. -/
def Fabric.reset : Fabric :=
  { ports := [], exports := [], expGens := [], stages := [], farDone := [], reqs := [], nextXid := 0, asks := [], colls := [],
    counts := [] }

/-- R509: a monitor at reset. -/
def Monitor.reset : Monitor :=
  { kind := 0, index := 0, hi := 0xFFFFFFFF, lo := 0, en := false, rise := true, fall := true, irq := false, above := false,
    event := false, err := false, count := 0, afresh := false }

/-- R495, R509: a sensor before its first sample. -/
def Sensor.reset : Sensor := { value := 0, valid := false, at_ := none }

/-- R461, R480: a die at the energy point. -/
def DiePower.reset : DiePower := { sprint := false, ceil := 1200, therm := 1200, held := false, mv := 620, rising := none }

/-- R473, R480: a phase as built. -/
def PhaseSt.reset (i : Nat) : PhaseSt :=
  if 152 ≤ i then { st := 2, rail := 0xFF, amps := 0 }
  else { st := 0, amps := 0,
         rail := if i < 64 then i / 4 else if i < 96 then 16 + (i - 64) / 2 else if i < 128 then 32 + (i - 96) / 2
                 else if i < 137 then 48 else if i < 146 then 49 else if i < 150 then 50 else 51 }

/-- A rail with nothing held. -/
def RailSt.reset : RailSt := { held := false, limit := false, derated := false, cap := 1500 }

/-- R479: the power controller at reset. -/
def Power.reset : Power :=
  { state := .run, shake := none, moving := none, wake := false, reason := 0, result := .ok, refuser := 0, armed := true,
    tripped := false, keepLoft := true, dies := [], phases := [], rails := [], granted := [], lastDie := 15, halved := false }

/-- R512, R513, R525: start-up at step 0 with the firmware that the module ships with (log entry 27). -/
def Boot.reset : Boot :=
  { step := 0, running := true, done := false, kind := 0, fail := 0, began := 0, trainAt := 0, startMs := 0, image := 0, fallback := false,
    pendFail := false, planResult := .notReady, opResult := .ok, op := none, areaA := Config.firmware,
    areaB := Config.firmware, active := 0, pend := none, plan := [], wrapKey := 0 }

/-- No management event yet. -/
def Mgmt.reset : Mgmt := { restarts := [], events := false }

/-- Supplies and clocks present, PERST_N deasserted, straps low (log entry 12). -/
def Pins.reset : Pins :=
  { aux := true, v12 := true, sysref := true, crvRef := true, perst := false, strap := 0, sbAddr := 0x60, wakeN := false,
    thermtrip := false }

/-- The state after cold reset: every field at the value the spec states; the values it does not state are those of the
log entries 1, 2 and 12. -/
def State.reset : State :=
  { pending := [], regs := [], shadows := [], reply := [], replyPoison := false, free := 0, time := 0, tclk := 0, topo := Topo.reset,
    plan := PlanSt.reset, com := Store.reset, nextSid := 0, grans := [], olds := [], replMem := [], replPoison := [],
    rings := [], evc := [], ctxs := [], latches := [], sched := Sched.reset, nodes := [], driftKey := 0, usedSheaves := [],
    recSheaves := [], relQueue := [], groupFree := [], fns := [], host := HostSt.reset, trace := [], elog := Elog.reset, silo := [],
    aclk := [], rel := Rel.reset, vault := Vault.reset, fab := Fabric.reset, withdrawn := [], mons := [], sensors := [], pwr := Power.reset,
    boot := Boot.reset, mgmt := Mgmt.reset, bg := [], pins := Pins.reset }

end Sys2Proof.Machine
end

