-- ==== Sys2Proof/Machine/Ops.lean ====
section
/-! DEFINITION. Sys2Proof/Machine/Ops.lean: the named operations over tables, memory, registers, counters, the error log and
the interrupt vectors, on which every meaning rests. -/

namespace Sys2Proof.Machine

open Sys2Proof

/-- What a meaning answers. -/
abbrev Out := Host.Outcome State Fault Refusal

/-! ### Sparse tables -/

/-- The entry of a key, if the table lists one. -/
def tblFind {α : Type} : Tbl α → Nat → Option α
  | [], _ => none
  | (j, v) :: t, k => if k = j then some v else if k < j then none else tblFind t k

/-- The table with `k` listed as `v`. -/
def tblIns {α : Type} : Tbl α → Nat → α → Tbl α
  | [], k, v => [(k, v)]
  | (j, w) :: t, k, v =>
    if k = j then (k, v) :: t else if k < j then (k, v) :: (j, w) :: t else (j, w) :: tblIns t k v

/-- The table without `k`. -/
def tblDel {α : Type} : Tbl α → Nat → Tbl α
  | [], _ => []
  | (j, w) :: t, k => if k = j then t else if k < j then (j, w) :: t else (j, w) :: tblDel t k

/-- What a table with default `d` holds at `k`. -/
def tblGet {α : Type} (d : α) (t : Tbl α) (k : Nat) : α := (tblFind t k).getD d

/-- The table with default `d` holding `v` at `k`: the default is never listed. -/
def tblSet {α : Type} [DecidableEq α] (d : α) (t : Tbl α) (k : Nat) (v : α) : Tbl α :=
  if v = d then tblDel t k else tblIns t k v

/-- Every listed key is above `n`, and keys rise. -/
def tblAbove {α : Type} : Nat → Tbl α → Bool
  | _, [] => true
  | n, (j, _) :: t => decide (n < j) && tblAbove j t

/-- The keys rise strictly. -/
def tblSorted {α : Type} : Tbl α → Bool
  | [] => true
  | (j, _) :: t => tblAbove j t

/-- The canonical form of a table with default `d`: keys rise and the default is not listed. -/
def tblCanon {α : Type} [DecidableEq α] (d : α) (t : Tbl α) : Bool := tblSorted t && t.all (fun e => decide (e.2 ≠ d))

/-- The lowest number from `n` on that meets `p`, trying `fuel` of them. -/
def firstFrom (p : Nat → Bool) : Nat → Nat → Option Nat
  | 0, _ => none
  | fuel + 1, n => if p n then some n else firstFrom p fuel (n + 1)

/-- A set of numbers as a rising list: with `k`. -/
def setIns : List Nat → Nat → List Nat
  | [], k => [k]
  | j :: t, k => if k = j then j :: t else if k < j then k :: j :: t else j :: setIns t k

/-- A set of numbers as a rising list: without `k`. -/
def setDel (l : List Nat) (k : Nat) : List Nat := l.filter (fun j => decide (j ≠ k))

/-! ### Memory -/

/-- Bytes by address; an unlisted byte is zero (R187: what nothing has written reads as zero). -/
abbrev Memory := List Host.Cell

/-- The canonical form: addresses rise and no zero byte is listed. -/
def Memory.wf (m : Memory) : Bool := tblCanon 0#8 m

/-- The byte at an address. -/
def memGet (m : Memory) (a : Nat) : Byte := tblGet 0#8 m a

/-- The memory with one byte written. -/
def memPut (m : Memory) (a : Nat) (b : Byte) : Memory := tblSet 0#8 m a b

/-- The memory with bytes written from an address on. -/
def memWrite (m : Memory) : Nat → List Byte → Memory
  | _, [] => m
  | a, b :: bs => memWrite (memPut m a b) (a + 1) bs

/-- `n` bytes from an address on. -/
def memRead (m : Memory) (a : Nat) : Nat → List Byte
  | 0 => []
  | n + 1 => memGet m a :: memRead m (a + 1) n

/-- The memory without the bytes from `a` to `a + n - 1` (they read as zero). -/
def memClear (m : Memory) (a n : Nat) : Memory := m.filter (fun c => decide (c.1 < a ∨ a + n ≤ c.1))

/-- The cells from `a` to `a + n - 1`. -/
def memSlice (m : Memory) (a n : Nat) : Memory := m.filter (fun c => decide (a ≤ c.1 ∧ c.1 < a + n))

/-- The cells of `src` at `a` to `a + n - 1` written over those of `m`, which take their content. -/
def memCopy (m src : Memory) (a n : Nat) : Memory :=
  (memSlice src a n).foldl (fun m c => memPut m c.1 c.2) (memClear m a n)

/-! ### Indexed state -/

def State.ctx (s : State) (c : Nat) : Ctx := tblGet Ctx.reset s.ctxs c
def State.setCtx (s : State) (c : Nat) (x : Ctx) : State := { s with ctxs := tblSet Ctx.reset s.ctxs c x }
def State.ring (s : State) (c n : Nat) : Ring := tblGet Ring.reset s.rings (c * 64 + n)
def State.setRing (s : State) (c n : Nat) (r : Ring) : State := { s with rings := tblSet Ring.reset s.rings (c * 64 + n) r }
def State.latch (s : State) (l : Nat) : Latch := tblGet Latch.reset s.latches l
def State.setLatch (s : State) (l : Nat) (x : Latch) : State := { s with latches := tblSet Latch.reset s.latches l x }
def State.fn (s : State) (f : Nat) : Fn := tblGet Fn.reset s.fns f
def State.setFn (s : State) (f : Nat) (x : Fn) : State := { s with fns := tblSet Fn.reset s.fns f x }
def State.evctr (s : State) (c k : Nat) : DWord := tblGet 0 s.evc (c * 256 + k)
def State.setEvctr (s : State) (c k : Nat) (v : DWord) : State := { s with evc := tblSet 0 s.evc (c * 256 + k) v }
def State.setCom (s : State) (m : Store) : State := { s with com := m }

/-- Log entry 1. The next free value, and the state with the draw counted. -/
def State.draw (s : State) : Nat × State := (Config.freeValue s.free, { s with free := s.free + 1 })

/-! ### Registers -/

/-- Key of a BAR0 register, of a register of context `c`'s window, of a register of function `f`'s page. -/
def kBar0 (off : Nat) : Nat := off
def kWin (c off : Nat) : Nat := 2 ^ 32 * (1 + c) + off
def kPage (f off : Nat) : Nat := 2 ^ 32 * (8192 + f) + off

/-- The space, the owner (context or function) and the offset of a key. -/
def keySpace (k : Nat) : RegSpace × Nat × Nat :=
  let hi := k / 2 ^ 32
  let off := k % 2 ^ 32
  if hi = 0 then (.bar0, 0, off) else if hi < 8192 then (.window, hi - 1, off) else (.page, hi - 8192, off)

/-- The reset value of a key (R458's tables; FN_CTX[0] and FN_LATCH[0] by R185). -/
def regReset (k : Nat) : Word :=
  if k = 0xB400 ∨ k = 0xB404 then 0x10000000#32 else
  match findReg (keySpace k).1 (keySpace k).2.2 with
  | some (d, _) => BitVec.ofNat 32 d.reset
  | none => 0

/-- The stored bits of a register. -/
def State.reg (s : State) (k : Nat) : Word := tblGet (regReset k) s.regs k

/-- A register stored. -/
def State.setReg (s : State) (k : Nat) (v : Word) : State := { s with regs := tblSet (regReset k) s.regs k v }

/-- Field of `n` bits at `lo` of a stored register. -/
def State.regField (s : State) (k lo n : Nat) : Nat := bits (s.reg k).toNat lo n

/-- A register's word with the field of `n` bits at `lo` set to `v`. -/
def setField (w : Word) (lo n v : Nat) : Word :=
  let m := BitVec.ofNat 32 ((2 ^ n - 1) * 2 ^ lo)
  (w &&& ~~~m) ||| (BitVec.ofNat 32 (v % 2 ^ n * 2 ^ lo))

/-- The 64-bit counter whose low half is at key `k` (R33). -/
def State.ctr64 (s : State) (k : Nat) : Nat := (s.reg k).toNat + 2 ^ 32 * (s.reg (k + 4)).toNat

/-- The 64-bit counter advanced by `n`, modulo 2^64. -/
def State.bump (s : State) (k n : Nat) : State :=
  let v := s.ctr64 k + n
  (s.setReg k (BitVec.ofNat 32 v)).setReg (k + 4) (BitVec.ofNat 32 (v / 2 ^ 32))

/-- A count in the low 16 bits that holds at 65,535, advanced by `n`. -/
def State.bump16 (s : State) (k n : Nat) : State :=
  s.setReg k (setField (s.reg k) 0 16 (min 65535 (s.regField k 0 16 + n)))

/-- Bits of a register set. -/
def State.setBits (s : State) (k m : Nat) : State := s.setReg k (s.reg k ||| BitVec.ofNat 32 m)

/-! ### Status codes -/

/-- R9, R459: the value of a status. -/
def statusCode : Status → Nat
  | .ok => 0x00 | .pending => 0x01 | .killed => 0x10 | .cancelled => 0x11 | .skipped => 0x12
  | .length => 0x20 | .format => 0x21 | .quota => 0x22 | .notReady => 0x23 | .brokenLatch => 0x24
  | .noObject => 0x25 | .signature => 0x26 | .frozen => 0x30 | .degraded => 0x40 | .dataLost => 0x41
  | .planBase => 0x50 | .tooLong => 0x51 | .latchBusy => 0x52 | .notHolder => 0x53 | .hostFault => 0x54
  | .steerDenied => 0x55 | .slotState => 0x56 | .kvDropped => 0x57 | .kvFull => 0x58
  | .unreachable => 0x59 | .collMismatch => 0x5A | .peerTimeout => 0x5B | .sealedObj => 0x5C | .keyScope => 0x5D

/-- R149: an error status is any final status other than OK, DEGRADED, SKIPPED and CANCELLED. -/
def statusIsError (st : Status) : Bool := !(st == .ok || st == .degraded || st == .skipped || st == .cancelled)

/-! ### Interrupt vectors (R449 to R451) -/

/-- An MSI-X table entry at reset (PCI Express: masked). -/
def MsixEnt.reset : MsixEnt := { addr := 0, data := 0, mask := true }

/-- R453: the function is quiesced: in D3hot, or without bus mastering. -/
def Fn.stopped (x : Fn) : Bool := x.d3 || !x.bme

/-- R450, R453: the message of a vector is due: sent, or held in the PBA while the vector or the function is masked, or the function
is quiesced. -/
def messageDue (s : State) (f v : Nat) : State :=
  let x := s.fn f
  let e := tblGet MsixEnt.reset x.table v
  let x := { x with counts := tblDel x.counts v }
  if e.mask || x.fnMask || x.stopped then s.setFn f { x with pba := setIns x.pba v }
  else
    let s := s.setFn f x
    { s with host := { s.host with msgs := { fn := f, vec := v, addr := e.addr, data := e.data } :: s.host.msgs } }

/-- R450: an event of vector `v` of function `f`. R449: discarded while MSI-X Enable or Bus Master Enable is 0. An event while
the vector's message is held in the PBA is covered by that message. -/
def signalVector (s : State) (f v : Nat) : State :=
  let x := s.fn f
  if !x.msixEn || !x.bme || x.pba.contains v then s else
  let c : VecCount :=
    match tblFind x.counts v with
    | some c => { c with n := c.n + 1 }
    | none => { n := 1, first := s.time, holdoff := s.regField (kPage f (0x11000 + 4 * v)) 0 10,
                need := s.regField (kPage f (0x11000 + 4 * v)) 16 8 }
  let s := s.setFn f { x with counts := tblIns x.counts v c }
  if c.holdoff = 0 ∨ (2 ≤ c.need ∧ c.need ≤ c.n) then messageDue s f v else s

/-- A module event of the PF whose register at `k` holds VECTOR in [10:0] and EN in [11]. -/
def signalModule (s : State) (k : Nat) : State :=
  if s.regField k 11 1 = 1 then signalVector s 0 (s.regField k 0 11) else s

/-! ### Notices (R500) -/

/-- R500: a notice sets, and the REL_IRQ vector is signalled when EN is 1. The bits are those of REL_NOTICE (R508): 0 RETIRE,
1 SPARE_LOW, 2 SPARE_OUT, 3 DEGRADED, 4 DATA_LOST, 5 LOG_LOST, 6 BG_LATE. -/
def notice (s : State) (b : Nat) : State := signalModule (s.setBits (kBar0 0x28000) (2 ^ b)) (kBar0 0x28004)

/-! ### The error log (R501, R502) -/

/-- The newest entry, if it has not been released. -/
def Elog.newest (e : Elog) : Option LogEnt := if e.rd < e.wr then tblFind e.ents ((e.wr - 1) % 4096) else none

/-- R501: a class 0 or 1 event merges into the newest unread entry of the same UNIT and LOCATION within 1 s. -/
def LogEnt.merges (n x : LogEnt) : Bool :=
  x.cls ≤ 1 && n.unit == x.unit && n.loc == x.loc && x.time.toNat - n.time.toNat ≤ 1000000000

/-- R501, R502: an entry written: merged, or in the next slot, overwriting the oldest when the log is full. -/
def logEntry (s : State) (cls unit : Nat) (st : Nat) (ctx loc : Nat) : State :=
  let x : LogEnt := { time := s.time, seq := s.elog.wr, cls := cls, unit := unit, status := st, count := 1, ctx := ctx, loc := loc }
  match s.elog.newest with
  | some n =>
    if n.merges x then
      { s with elog := { s.elog with ents := tblIns s.elog.ents (n.seq % 4096) { n with count := min 255 (n.count + 1) } } }
    else
      let full := s.elog.wr - s.elog.rd == 4096
      let s := if full then notice s 5 else s
      { s with elog := { s.elog with ents := tblIns s.elog.ents (x.seq % 4096) x, wr := s.elog.wr + 1,
                                     rd := if full then s.elog.rd + 1 else s.elog.rd,
                                     lost := if full then s.elog.lost + 1 else s.elog.lost } }
  | none =>
    { s with elog := { s.elog with ents := tblIns s.elog.ents (x.seq % 4096) x, wr := s.elog.wr + 1 } }

/-- No context concerned (R501). -/
def noCtx : Nat := 0xFFFF

/-! ### Function ranges (R154, R155) -/

def fnCtxBase (s : State) (f : Nat) : Nat := s.regField (kBar0 (0xB400 + 8 * f)) 0 12
def fnCtxCount (s : State) (f : Nat) : Nat := s.regField (kBar0 (0xB400 + 8 * f)) 16 13
def fnLatchBase (s : State) (f : Nat) : Nat := 16 * s.regField (kBar0 (0xB404 + 8 * f)) 0 12
def fnLatchCount (s : State) (f : Nat) : Nat := 16 * s.regField (kBar0 (0xB404 + 8 * f)) 16 13

/-- The context lies in the function's range. -/
def ctxOwnedBy (s : State) (f c : Nat) : Bool := fnCtxBase s f ≤ c && c < fnCtxBase s f + fnCtxCount s f

/-- The function that owns a context. -/
def ownerFn (s : State) (c : Nat) : Option Nat := firstFrom (fun f => ctxOwnedBy s f c) 256 0

/-- R449: an event of a context's vector. -/
def signalCtxVector (s : State) (c v : Nat) : State :=
  match ownerFn s c with
  | some f => signalVector s f v
  | none => s

/-- R455: the function is enabled. -/
def fnEnabled (s : State) (f : Nat) : Bool := f == 0 || (s.host.vfEnable && 1 ≤ f && f ≤ s.host.numVFs)

/-- R446: the context that the function's CTXSEL shows, if it lies in its range. -/
def shownCtx (s : State) (f : Nat) : Option Nat :=
  let c := s.regField (kPage f 0x10000) 0 12
  if ctxOwnedBy s f c then some c else none

/-- R455: HOST_BAD_ACCESS counts and HOST_BAD_INFO, HOST_BAD_OFF record an ignored access. -/
def badAccess (s : State) (f bar off : Nat) (write : Bool) : State :=
  let s := s.bump (kBar0 0x28) 1
  { s with host := { s.host with badFn := f, badBar := bar, badWrite := write, badOff := off } }

/-- Requests to a function's BARs reach it: enabled, Memory Space Enable 1, in D0 (R441, R453). -/
def barOpen (s : State) (f : Nat) : Bool := fnEnabled s f && (s.fn f).mse && !(s.fn f).d3

end Sys2Proof.Machine
end

