-- ==== Sys2Proof/Machine/Clock.lean ====
section
/-! DEFINITION. Sys2Proof/Machine/Clock.lean: what an idle block does: its time base counts one cycle (R503, R521; log entry 4). -/

namespace Sys2Proof.Machine

open Sys2Proof

/-- R461, R521: TCLK runs from start-up step 1 on, while SYSREF_CLK is present; in Fallow and in a warm reset the step is 0. -/
def tclkOn (s : State) : Bool := decide (1 ≤ s.boot.step) && s.pins.sysref

/-- R521: step 0 after a cold reset, at whose end the time base is zero. -/
def coldStep0 (s : State) : Bool := decide (s.boot.step = 0) && s.boot.running

/-- R503: TIME_SLEW in ppm. -/
def slewPpm (s : State) : Int := (BitVec.ofNat 10 (s.regField (kBar0 0x28214) 0 10)).toInt

/-- R503: the cycle is one of the evenly spaced cycles, `p` in a million, at which an increment is added or withheld. -/
def slewed (p cycle : Nat) : Bool := (cycle + 1) * p / 1000000 != cycle * p / 1000000

/-- R503: the nanoseconds of the next TCLK cycle. -/
def tclkNs (s : State) : Nat :=
  if slewed (slewPpm s).natAbs s.tclk then (if 0 < slewPpm s then 20 else 0) else 10

/-- One cycle of the clock that the time base counts: TCLK, or WCLK while TCLK is off. -/
def idleTick (s : State) : State :=
  if !s.pins.aux || coldStep0 s then s
  else if tclkOn s then { s with time := s.time + BitVec.ofNat 64 (tclkNs s), tclk := (s.tclk + 1) % 1000000 }
  else { s with time := s.time + 30518 }

end Sys2Proof.Machine
end

