-- ==== Sys2Proof/Machine/Pack.lean ====
section
/-! DEFINITION. Sys2Proof/Machine/Pack.lean: pack coding of a granule at rest in Silo (R198 to R203). A granule's content is
given sparsely, as the cells of its non-zero bytes by offset. -/

namespace Sys2Proof.Machine

open Sys2Proof

/-- A package of the package-merge construction: its weight and its symbols. -/
abbrev Package := Nat × List Nat

/-- Packages in rising weight; equal weights in the order of the tie ranks (log entry 7). -/
def packageLe (hist : List Nat) (a b : Package) : Bool :=
  if a.1 < b.1 then true else if b.1 < a.1 then false
  else Config.packTie hist (a.2.headD 0) ≤ Config.packTie hist (b.2.headD 0)

/-- One package inserted in order. -/
def packageIns (hist : List Nat) (p : Package) : List Package → List Package
  | [] => [p]
  | q :: l => if packageLe hist p q then p :: q :: l else q :: packageIns hist p l

/-- Consecutive pairs joined; a last single one is dropped. -/
def packagePairs : List Package → List Package
  | a :: b :: l => (a.1 + b.1, a.2 ++ b.2) :: packagePairs l
  | _ => []

/-- The symbols that occur, as packages in order. -/
def packageLeaves (hist : List Nat) : List Package :=
  ((hist.zip (List.range 16)).filter (fun e => e.1 ≠ 0)).foldl (fun l e => packageIns hist (e.1, [e.2]) l) []

/-- `n` levels of package-merge. -/
def packageLevels (hist : List Nat) (leaves : List Package) : Nat → List Package
  | 0 => []
  | n + 1 => (packagePairs (packageLevels hist leaves n)).foldl (fun l p => packageIns hist p l) leaves

/-- R202: the code lengths of the 16 symbols: a Huffman code limited to 12 bits; a single symbol has length 1. -/
def codeLengths (hist : List Nat) : List Nat :=
  let leaves := packageLeaves hist
  if leaves.length ≤ 1 then hist.map (fun n => if n = 0 then 0 else 1) else
  let used := ((packageLevels hist leaves 12).take (2 * leaves.length - 2)).map (·.2)
  (List.range 16).map (fun s => (used.map (fun l => l.count s)).sum)

/-- Low and high nibble of a byte. -/
def loNib (b : Byte) : Nat := b.toNat % 16
def hiNib (b : Byte) : Nat := b.toNat / 16

/-- Histogram of 16 values. -/
def nibHist (l : List Nat) (zeros : Nat) : List Nat :=
  (List.range 16).map (fun s => l.count s + (if s = 0 then zeros else 0))

/-- R202: T4, from every nibble of the granule. -/
def packT4 (cells : Memory) : List Nat :=
  codeLengths (nibHist (cells.flatMap (fun c => [loNib c.2, hiNib c.2])) (2 * (2 ^ 21 - cells.length)))

/-- R202: T8, from the high nibbles. -/
def packT8 (cells : Memory) : List Nat :=
  codeLengths (nibHist (cells.map (fun c => hiNib c.2)) (2 ^ 21 - cells.length))

/-- R199: the modes of a 4 KiB unit. -/
inductive PackMode where
  | raw | zero | nibble | byte
deriving DecidableEq, Repr

/-- R199, R202: the mode of a unit and its 16-byte blocks: the fewest blocks, in the order ZERO, NIBBLE, BYTE, RAW. -/
def unitMode (t4 t8 : List Nat) (cells : Memory) : PackMode × Nat :=
  if cells.isEmpty then (.zero, 0) else
  let z := 4096 - cells.length
  let nib := ceilDiv ((cells.map (fun c => t4.getD (loNib c.2) 0 + t4.getD (hiNib c.2) 0)).sum + z * (2 * t4.getD 0 0)) 128
  let byt := ceilDiv ((cells.map (fun c => t8.getD (hiNib c.2) 0 + 4)).sum + z * (t8.getD 0 0 + 4)) 128
  if nib ≤ byt ∧ nib ≤ 256 then (.nibble, nib) else if byt ≤ 256 then (.byte, byt) else (.raw, 256)

/-- R198: the sectors of a granule's packed image: a directory of 1,040 bytes and the units' blocks, or raw. -/
def packedSectors (cells : Memory) : Nat :=
  if cells.isEmpty then 1 else
  let t4 := packT4 cells
  let t8 := packT8 cells
  let blocks := ((List.range 512).map (fun u => (unitMode t4 t8 (memSlice cells (4096 * u) 4096)).2)).sum
  let bytes := 1040 + 16 * blocks
  if 2 ^ 21 ≤ bytes then 32 else ceilDiv bytes 65536

/-! ### Codes and images (R200, R201, R203) -/

/-- R200: symbols with codes, by length, then by value. -/
def codedSymbols (lens : List Nat) : List (Nat × Nat) :=
  (List.range 12).flatMap (fun n => ((lens.zip (List.range 16)).filter (fun e => e.1 == n + 1)))

/-- R200: canonical codes: (symbol, length, code). -/
def assignCodes : Nat → Nat → List (Nat × Nat) → List (Nat × Nat × Nat)
  | _, _, [] => []
  | prev, code, (len, sym) :: l =>
    let c := code * 2 ^ (len - prev)
    (sym, len, c) :: assignCodes len (c + 1) l

/-- R200: the code of each symbol of a length table. -/
def canonicalCodes (lens : List Nat) : List (Nat × Nat × Nat) :=
  match codedSymbols lens with
  | [] => []
  | (len, sym) :: l => (sym, len, 0) :: assignCodes len 1 l

/-- R200: the lengths of a table in use satisfy the Kraft inequality and lie from 0 to 12. -/
def lengthsOk (lens : List Nat) : Bool :=
  lens.all (fun n => n ≤ 12) && ((lens.filter (fun n => n ≠ 0)).map (fun n => 2 ^ (12 - n))).sum ≤ 4096

/-- R201: a field enters the stream from its most significant bit. -/
def msbFirst (v : Nat) : Nat → List Bool
  | 0 => []
  | n + 1 => (v / 2 ^ n % 2 == 1) :: msbFirst v n

/-- The stream of a symbol. -/
def codeBits (codes : List (Nat × Nat × Nat)) (sym : Nat) : List Bool :=
  match codes.find? (fun c => c.1 == sym) with
  | some (_, len, c) => msbFirst c len
  | none => []

/-- R201: stream bit j is bit (j mod 8) of byte j div 8; zero bits pad to whole blocks. -/
def streamBytes (bs : List Bool) (blocks : Nat) : List Byte :=
  (List.range (16 * blocks)).map (fun i =>
    BitVec.ofNat 8 (((List.range 8).map (fun j => if bs.getD (8 * i + j) false then 2 ^ j else 0)).sum))

/-- R199: the image of a unit of 4,096 bytes. -/
def unitImage (t4 t8 : List Nat) (m : PackMode) (blocks : Nat) (bytes : List Byte) : List Byte :=
  match m with
  | .raw => bytes
  | .zero => []
  | .nibble =>
    let c4 := canonicalCodes t4
    streamBytes (bytes.flatMap (fun b => codeBits c4 (loNib b) ++ codeBits c4 (hiNib b))) blocks
  | .byte =>
    let c8 := canonicalCodes t8
    streamBytes (bytes.flatMap (fun b => codeBits c8 (hiNib b) ++ msbFirst (loNib b) 4)) blocks

/-- The bits of an image in stream order. -/
def imageBits (img : List Byte) : List Bool :=
  img.flatMap (fun b => (List.range 8).map (fun j => b.toNat / 2 ^ j % 2 == 1))

/-- One symbol off a stream: at most 12 bits. -/
def takeSymbol (codes : List (Nat × Nat × Nat)) : Nat → Nat → Nat → List Bool → Option (Nat × List Bool)
  | 0, _, _, _ => none
  | _ + 1, _, _, [] => none
  | fuel + 1, len, acc, b :: bs =>
    let acc := 2 * acc + (if b then 1 else 0)
    match codes.find? (fun c => c.2.1 == len + 1 && c.2.2 == acc) with
    | some (sym, _, _) => some (sym, bs)
    | none => takeSymbol codes fuel (len + 1) acc bs

/-- `n` bytes off a NIBBLE stream. -/
def takeNibbles (codes : List (Nat × Nat × Nat)) : Nat → List Bool → Option (List Byte × List Bool)
  | 0, bs => some ([], bs)
  | n + 1, bs => do
    let (lo, bs) ← takeSymbol codes 12 0 0 bs
    let (hi, bs) ← takeSymbol codes 12 0 0 bs
    let (l, bs) ← takeNibbles codes n bs
    return (BitVec.ofNat 8 (lo + 16 * hi) :: l, bs)

/-- Value of bits, most significant first. -/
def msbValue (bs : List Bool) : Nat := bs.foldl (fun v b => 2 * v + (if b then 1 else 0)) 0

/-- `n` bytes off a BYTE stream. -/
def takeBytes (codes : List (Nat × Nat × Nat)) : Nat → List Bool → Option (List Byte × List Bool)
  | 0, bs => some ([], bs)
  | n + 1, bs => do
    let (hi, bs) ← takeSymbol codes 12 0 0 bs
    if bs.length < 4 then none
    let (l, bs') ← takeBytes codes n (bs.drop 4)
    return (BitVec.ofNat 8 (msbValue (bs.take 4) + 16 * hi) :: l, bs')

/-- R203: the 4,096 bytes of a unit image, or none where the unit is uncorrectable. -/
def unpackUnit (t4 t8 : List Nat) (m : PackMode) (img : List Byte) : Option (List Byte) :=
  let done (r : Option (List Byte × List Bool)) : Option (List Byte) :=
    match r with
    | some (l, rest) => if rest.all (fun b => !b) then some l else none
    | none => none
  match m with
  | .raw => if img.length = 4096 then some img else none
  | .zero => if img.isEmpty then some (List.replicate 4096 0) else none
  | .nibble => if lengthsOk t4 then done (takeNibbles (canonicalCodes t4) 4096 (imageBits img)) else none
  | .byte => if lengthsOk t8 then done (takeBytes (canonicalCodes t8) 4096 (imageBits img)) else none

end Sys2Proof.Machine
end

