-- ==== Sys2Proof/Machine/Mem.lean ====
section
/-! DEFINITION. Sys2Proof/Machine/Mem.lean: the configuration in force, windows, objects, granules, quotas, allocation,
migration, poison and replicas (R43 to R53, R186 to R220). -/

namespace Sys2Proof.Machine

open Sys2Proof

/-! ### The configuration in force -/

/-- R53: the sections an overlay carries replace those of the full plan. -/
def Sections.over (o b : Sections) : Sections :=
  { plots := o.plots <|> b.plots, queues := o.queues <|> b.queues, cribs := o.cribs <|> b.cribs, lofts := o.lofts <|> b.lofts,
    silos := o.silos <|> b.silos, windows := o.windows <|> b.windows, quotas := o.quotas <|> b.quotas,
    group := o.group <|> b.group, routes := o.routes <|> b.routes, trees := o.trees <|> b.trees,
    opPoints := o.opPoints <|> b.opPoints, powerCap := o.powerCap <|> b.powerCap, enable := o.enable <|> b.enable }

/-- R53: the configuration of a slot over the full plan in slot 0. -/
def configOf (p : PlanSt) (slot : Nat) : Option Sections :=
  match tblFind p.slots 0 with
  | none => none
  | some b =>
    if slot = 0 then some b.secs else
    match tblFind p.slots slot with
    | some o => some (Sections.over o.secs b.secs)
    | none => none

/-- R52, R53, R56: the configuration in force since the last LOAD or APPLY; none without a plan (R61). -/
def inForce (s : State) : Option Sections := s.plan.force

/-- A section of the configuration in force, empty where there is none. -/
def secList {α : Type} (s : State) (f : Sections → Option (List α)) : List α := ((inForce s).bind f).getD []

/-- R46: FEATURES of ENABLE in force. -/
def featureOn (s : State) (b : Nat) : Bool := (secList s Sections.enable).any (fun e => bits e.features b 1 == 1)

/-- The plot that holds a field index. -/
def plotOfField (s : State) (f : Nat) : Option Nat :=
  ((secList s Sections.plots).find? (fun e => e.first ≤ f && f < e.first + e.num)).map (·.plot)

/-- The field index lies in the plot. -/
def fieldInPlot (s : State) (plot f : Nat) : Bool := plotOfField s f == some plot

/-- The field indices of a plot, rising. -/
def plotFields (s : State) (plot : Nat) : List Nat := (List.range 1024).filter (fieldInPlot s plot)

/-- The QUEUE entry of a plot and class. -/
def queueEntry (s : State) (plot cls : Nat) : Option QueueEnt :=
  (secList s Sections.queues).find? (fun q => q.plot == plot && q.cls == cls)

/-- CTX_CFG fields (R184). -/
def ctxPlot (s : State) (c : Nat) : Nat := s.regField (kWin c 0) 0 6
def ctxQuotaClass (s : State) (c : Nat) : Nat := s.regField (kWin c 0) 8 8
def ctxShareGroup (s : State) (c : Nat) : Nat := s.regField (kWin c 0) 16 12

/-! ### Windows (R49, R50) -/

/-- R49: among the entries that cover, the highest PRIORITY, the lowest entry number on a tie. -/
def bestWindow : List WinEnt → Option WinEnt
  | [] => none
  | w :: l =>
    match bestWindow l with
    | some b => if w.prio < b.prio then some b else some w
    | none => some w

/-- R50: the winning window of a kind over `[lo, lo + len)` for a plot. -/
def windowFor (s : State) (plot kind lo len : Nat) : Option WinEnt :=
  bestWindow ((secList s Sections.windows).filter (fun w =>
    w.kind == kind && bits w.plots plot 1 == 1 && w.base ≤ lo && lo + len - 1 ≤ w.limit))

/-- R50: the winning window grants the access. -/
def windowAllows (s : State) (plot kind lo len : Nat) (write : Bool) : Bool :=
  match windowFor s plot kind lo len with
  | some w => bits w.access (if write then 1 else 0) 1 == 1
  | none => false

/-- The window KIND of a tier (R45). -/
def Tier.kind : Tier → Nat
  | .loft => 0 | .pinned => 1 | .silo => 2

/-- R197: a heap offset of a tier may be chosen for an object of a context. -/
def placeAllowed (s : State) (plot : Nat) (t : Tier) (heap : Nat) (writable : Bool) : Bool :=
  windowAllows s plot t.kind heap (2 ^ 21) false && (!writable || windowAllows s plot t.kind heap (2 ^ 21) true)

/-! ### Objects (R186 to R193) -/

/-- Object number and offset of a device address (R186). -/
def addrObj (a : Nat) : Nat := a / 2 ^ 40
def addrOff (a : Nat) : Nat := a % 2 ^ 40

/-- Key of a context's object table. -/
def objKey (c o : Nat) : Nat := c * 2 ^ 24 + o

/-- The storage an object number names: its number and body. -/
def objBody (m : Store) (c o : Nat) : Option (Nat × Body × Bool) :=
  match tblFind m.objs (objKey c o) with
  | some e => (tblFind m.bodies e.sid).map (fun b => (e.sid, b, e.alias_))
  | none => none

/-- A far object under the number (R356). -/
def farBody (m : Store) (c o : Nat) : Option FarObj := tblFind m.far (objKey c o)

/-- The number is present in the context's object table. -/
def objExists (m : Store) (c o : Nat) : Bool := (objBody m c o).isSome || (farBody m c o).isSome

/-- Bytes of an object (R187, R356). -/
def objBytes (m : Store) (c o : Nat) : Option Nat :=
  match objBody m c o with
  | some (_, b, _) => some (b.size * 2 ^ 21)
  | none => (farBody m c o).map (fun f => f.size * 2 ^ 21)

/-- Key of a byte of storage. -/
def cellKey (sid off : Nat) : Nat := sid * 2 ^ 40 + off
/-- Key of a granule. -/
def granKey (sid g : Nat) : Nat := sid * 2 ^ 19 + g

/-- The byte at a device address of a context, as committed. -/
def devByte (m : Store) (c a : Nat) : Byte :=
  match tblFind m.objs (objKey c (addrObj a)) with
  | some e => memGet m.mem (cellKey e.sid (addrOff a))
  | none => 0

/-- `n` bytes from a device address. -/
def devBytes (m : Store) (c a n : Nat) : List Byte := (List.range n).map (fun i => devByte m c (a + i))

/-- R216: bytes committed to storage: a 64-byte unit wholly replaced loses its poison mark. -/
def putBytes (m : Store) (cell : Nat) (bs : List Byte) : Store :=
  { m with mem := memWrite m.mem cell bs,
           poison := m.poison.filter (fun u => !(decide (cell ≤ 64 * u) && decide (64 * u + 64 ≤ cell + bs.length))) }

/-- R216: the units of `[cell, cell + n)` that carry a mark. -/
def poisonedIn (m : Store) (cell n : Nat) : List Nat :=
  m.poison.filter (fun u => decide (cell < 64 * u + 64) && decide (64 * u < cell + n))

/-! ### Granules and use (R194 to R196, R206) -/

/-- The context whose quota a storage is charged to. -/
def sidOwner (s : State) (sid : Nat) : Option Nat := (tblFind s.com.bodies sid).map (·.ctx)

/-- Granules of the module with the storage that each belongs to. -/
def ownedGrans (s : State) (c : Nat) : List (Nat × Gran) :=
  s.grans.filter (fun e => sidOwner s (e.1 / 2 ^ 19) == some c)

/-- Old copies charged to a context (R211). -/
def ownedOlds (s : State) (c : Nat) : List OldCopy := s.olds.filter (fun o => sidOwner s o.sid == some c)

/-- R206: object-heap granules held, destinations of promotions included. -/
def useLoft (s : State) (c : Nat) : Nat :=
  ((ownedGrans s c).filter (fun e => e.2.tier == .loft || (e.2.tier == .silo && e.2.mig.isSome))).length
    + ((ownedOlds s c).filter (fun o => o.tier == .loft)).length

/-- R206: pinned-heap granules held. -/
def usePinned (s : State) (c : Nat) : Nat := ((ownedGrans s c).filter (fun e => e.2.tier == .pinned)).length

/-- Silo sectors of a granule: at rest, at a destination, in a replica. -/
def granSectors (g : Gran) : Nat :=
  (if g.tier == .silo then g.sectors else 0)
    + (match g.mig with | some m => if g.tier == .loft then m.sectors else 0 | none => 0)
    + (match g.replica with | some r => r.sectors | none => 0)

/-- R206: sectors held in Silo. -/
def siloSectors (s : State) (c : Nat) : Nat :=
  ((ownedGrans s c).map (fun e => granSectors e.2)).sum
    + (((ownedOlds s c).filter (fun o => o.tier == .silo)).map (·.sectors)).sum

/-- R206: Silo use in granules. -/
def useSilo (s : State) (c : Nat) : Nat := ceilDiv (siloSectors s c) 32

/-- The QUOTA entry of a context's class (R206). -/
def quotaOf (s : State) (c : Nat) : Option QuotaEnt :=
  (secList s Sections.quotas).find? (fun q => q.cls == ctxQuotaClass s c)

/-- R207, R208: the context's quota mode is reservation at admission. -/
def reservesAtAdmission (s : State) (c : Nat) : Bool := (quotaOf s c).any (fun q => q.mode == 1)

/-- R45: a quota value of 0xFFFF_FFFF is bounded by the carve only. -/
def withinQuota (limit use : Nat) : Bool := limit == 0xFFFFFFFF || use ≤ limit

/-- R206: one more granule of a tier (or `sectors` more in Silo) stays within the context's quota. -/
def quotaAllows (s : State) (c : Nat) (t : Tier) (sectors : Nat) : Bool :=
  match quotaOf s c with
  | none => true
  | some q =>
    match t with
    | .loft => withinQuota q.loft (useLoft s c + 1)
    | .pinned => withinQuota q.pinned (usePinned s c + 1)
    | .silo => withinQuota q.silo (ceilDiv (siloSectors s c + sectors) 32)

/-- The carve of a Loft region. -/
def loftCarve (s : State) (region : Nat) : Option LoftEnt := (secList s Sections.lofts).find? (fun e => e.region == region)

/-- The region of a Loft tier (R45). -/
def Tier.region : Tier → Nat
  | .pinned => 4 | _ => 3

/-- Heap offsets in use in a tier, migrations' destinations and old copies included. -/
def heapUsed (s : State) (t : Tier) : List Nat :=
  s.grans.filterMap (fun e => if e.2.tier == t then some e.2.heap else none)
    ++ s.grans.filterMap (fun e =>
        match e.2.mig with
        | some m => if (e.2.tier == .loft && t == .silo) || (e.2.tier == .silo && t == .loft) then some m.dst else none
        | none => none)
    ++ s.olds.filterMap (fun o => if o.tier == t then some o.heap else none)

/-- R486: granules by which the carves of a stack exceed what its groups in service leave them. -/
def loftShort (s : State) (n : Nat) : Nat :=
  (((secList s Sections.lofts).filter (fun e => bits e.mask n 1 == 1)).map (·.granules)).sum - (24320 - 1536 * tblGet 0 s.withdrawn n)

/-- Object-heap granules in use in a stack. -/
def loftInUse (s : State) (n : Nat) : Nat := ((heapUsed s .loft).filter (fun h => h / 2 ^ 36 == n)).length

/-- R225, R486: free object-heap granules of a stack. -/
def loftFree (s : State) (n : Nat) : Nat :=
  match loftCarve s 3 with
  | some e => if bits e.mask n 1 == 1 then e.granules - loftShort s n - loftInUse s n else 0
  | none => 0

/-- R194, R197: the lowest allowed free heap granule of a stack. -/
def loftSlotIn (s : State) (used : List Nat) (plot : Nat) (t : Tier) (writable : Bool) (n : Nat) : Option Nat :=
  match loftCarve s t.region with
  | none => none
  | some e =>
    if bits e.mask n 1 == 1 && (t != .loft || loftFree s n != 0) then
      (firstFrom (fun g => !used.contains (n * 2 ^ 36 + g * 2 ^ 21) && placeAllowed s plot t (n * 2 ^ 36 + g * 2 ^ 21) writable)
        e.granules 0).map (fun g => n * 2 ^ 36 + g * 2 ^ 21)
    else none

/-- R195: the stacks to try: the preferred one, then the following, wrapping from 15 to 0. -/
def stackOrder (stack obj g : Nat) : List Nat :=
  let n := if stack = 0x1F then (obj + g) % 16 else stack
  (List.range 16).map (fun i => (n + i) % 16)

/-- R195: where a new Loft granule of an object goes. -/
def loftPlace (s : State) (b : Body) (t : Tier) (g : Nat) : Option Nat :=
  (stackOrder b.stack b.num g).findSome? (loftSlotIn s (heapUsed s t) (ctxPlot s b.ctx) t b.writable)

/-- R45: granules of a Silo carve of a port. -/
def siloUnits (s : State) (p region : Nat) : Nat :=
  (((secList s Sections.silos).filter (fun e => e.port == p && e.region == region)).map (·.granules)).sum

/-- Sectors in use in a port's object heap. -/
def siloUsed (s : State) (p : Nat) : Nat :=
  (s.grans.map (fun e =>
      (if e.2.tier == .silo && e.2.heap / 2 ^ 40 == p then e.2.sectors else 0)
        + (match e.2.mig with | some m => if e.2.tier == .loft && m.dst / 2 ^ 40 == p then m.sectors else 0 | none => 0))).sum
    + (s.olds.map (fun o => if o.tier == .silo && o.heap / 2 ^ 40 == p then o.sectors else 0)).sum

/-- R225: free object-heap sectors of a port. -/
def siloFree (s : State) (p : Nat) : Nat := 32 * siloUnits s p 0 - siloUsed s p

/-- R225: logical granules held on a port. -/
def siloHeld (s : State) (p : Nat) : Nat := ((heapUsed s .silo).filter (fun h => h / 2 ^ 40 == p)).length

def State.siloPort (s : State) (p : Nat) : SiloPort := tblGet SiloPort.reset s.silo p
def State.setSiloPort (s : State) (p : Nat) (x : SiloPort) : State := { s with silo := tblSet SiloPort.reset s.silo p x }

/-- R196: the lowest allowed free logical granule of a port. -/
def siloSlotIn (s : State) (plot : Nat) (writable : Bool) (p : Nat) : Option Nat :=
  (firstFrom (fun g => !(heapUsed s .silo).contains (p * 2 ^ 40 + g * 2 ^ 21)
      && placeAllowed s plot .silo (p * 2 ^ 40 + g * 2 ^ 21) writable) (2 * siloUnits s p 0) 0).map
    (fun g => p * 2 ^ 40 + g * 2 ^ 21)

/-- The port with the most, the lower number on a tie. -/
def mostFree (free : Nat → Nat) : List Nat → Option Nat
  | [] => none
  | p :: l =>
    match mostFree free l with
    | some q => if free p < free q then some q else some p
    | none => some p

/-- R196: where a granule of `sectors` sectors goes in Silo; `not` is the port of its replica. -/
def siloPlace (s : State) (b : Body) (sectors : Nat) (not : Option Nat) : Option Nat :=
  let plot := ctxPlot s b.ctx
  let cand := (List.range 12).filter (fun p =>
    !(s.siloPort p).retired && not != some p && sectors ≤ siloFree s p && (siloSlotIn s plot b.writable p).isSome)
  (mostFree (siloFree s) cand).bind (siloSlotIn s plot b.writable)

/-- Sectors in use in a port's replica area, and its logical granules in use. -/
def replicaSectors (s : State) (p : Nat) : Nat :=
  (s.grans.map (fun e => match e.2.replica with | some r => if r.port == p then r.sectors else 0 | none => 0)).sum
def replicaUsed (s : State) (p : Nat) : List Nat :=
  s.grans.filterMap (fun e => match e.2.replica with | some r => if r.port == p then some r.lg else none | none => none)

/-- R219: where a new replica of `sectors` sectors goes; `not` is the port that holds the granule. -/
def replicaPlace (s : State) (sectors : Nat) (not : Option Nat) : Option Replica :=
  let free := fun p => 32 * siloUnits s p 1 - replicaSectors s p
  let lg := fun p => firstFrom (fun g => !(replicaUsed s p).contains g) (2 * siloUnits s p 1) 0
  let cand := (List.range 12).filter (fun p =>
    !(s.siloPort p).retired && not != some p && sectors ≤ free p && (lg p).isSome)
  (mostFree free cand).bind (fun p => (lg p).map (fun g => { port := p, lg := g, sectors := sectors }))

/-- The placement's tier (R189). -/
def placeTier (place : Nat) : Tier := if place = 1 then .silo else if place = 2 then .pinned else .loft

/-- The content of a granule, sparsely by offset within it. -/
def granCells (m : Store) (sid g : Nat) : Memory :=
  (memSlice m.mem (cellKey sid (g * 2 ^ 21)) (2 ^ 21)).map (fun e => (e.1 - cellKey sid (g * 2 ^ 21), e.2))

def State.setGran (s : State) (k : Nat) (g : Gran) : State := { s with grans := tblIns s.grans k g }

/-- A granule just allocated. -/
def Gran.fresh (s : State) (t : Tier) (heap sectors : Nat) : Gran :=
  { tier := t, heap := heap, sectors := if t == .silo then sectors else 0, mig := none, repairing := false, replica := none,
    reads := 0, lastRead := s.time }

/-- How an allocation ends. -/
inductive Alloc where
  | done (s : State)
  | overQuota
  | noSpace (t : Tier)
deriving DecidableEq, Repr

/-- R195, R196, R206, R207, R208: a granule of a storage allocated, holding zeros. -/
def allocGran (s : State) (sid g : Nat) (b : Body) : Alloc :=
  let t := placeTier b.place
  let sectors := if b.reserved then 32 else 1
  if !quotaAllows s b.ctx t sectors then .overQuota else
  match (if t == .silo then siloPlace s b sectors none else loftPlace s b t g) with
  | some h => .done (s.setGran (granKey sid g) (Gran.fresh s t h sectors))
  | none => .noSpace t

/-- Several granules of one storage, or the first failure. -/
def allocGrans (s : State) (sid : Nat) (b : Body) : List Nat → Alloc
  | [] => .done s
  | g :: l =>
    match allocGran s sid g b with
    | .done s => allocGrans s sid b l
    | r => r

/-- The granules of `[off, off + len)`. -/
def granRange (off len : Nat) : List Nat :=
  if len = 0 then [] else (List.range ((off + len - 1) / 2 ^ 21 - off / 2 ^ 21 + 1)).map (fun i => off / 2 ^ 21 + i)

/-- Those of a list that are Unallocated. -/
def unallocated (s : State) (sid : Nat) (gs : List Nat) : List Nat :=
  gs.filter (fun g => (tblFind s.grans (granKey sid g)).isNone)

/-! ### Migration (R209 to R214) -/

/-- TIER_FULL, MIG_ABORT, MIG_PROMOTE, MIG_EVICT, PSN_* (R225). -/
def kMigPromote : Nat := kBar0 0xC010
def kMigEvict : Nat := kBar0 0xC018
def kMigAbort : Nat := kBar0 0xC020
def kPsnTrans : Nat := kBar0 0xC028
def kPsnRepair : Nat := kBar0 0xC030
def kPsnLost : Nat := kBar0 0xC038
def kTierFull : Nat := kBar0 0xC040

/-- R209, R210: a promotion starts, or is counted in MIG_ABORT when quota or heap cannot take the granule. -/
def startPromotion (s : State) (k : Nat) (cause : MigCause) (tries : Nat) : State :=
  match tblFind s.grans k, tblFind s.com.bodies (k / 2 ^ 19) with
  | some g, some b =>
    if g.tier == .silo && g.mig.isNone && !g.repairing && !b.reserved && b.place != 2 then
      match (if quotaAllows s b.ctx .loft 0 then loftPlace s b .loft (k % 2 ^ 19) else none) with
      | some h => s.setGran k { g with mig := some { dst := h, sectors := 0, cause := cause, tries := tries } }
      | none => s.bump kMigAbort 1
    else s
  | _, _ => s

/-- R210, R196: the destination of an eviction of a granule, if quota and a port can take it. -/
def evictionPlace (s : State) (k : Nat) : Option (Nat × Nat) :=
  match tblFind s.grans k, tblFind s.com.bodies (k / 2 ^ 19) with
  | some g, some b =>
    let n := packedSectors (granCells s.com (k / 2 ^ 19) (k % 2 ^ 19))
    if g.tier == .loft && g.mig.isNone && !g.repairing && !b.reserved && b.place != 2 && quotaAllows s b.ctx .silo n then
      (siloPlace s b n (g.replica.map (·.port))).map (fun h => (h, n))
    else none
  | _, _ => none

/-- An eviction of a granule starts, where its destination can be had. -/
def startEviction (s : State) (k : Nat) (cause : MigCause) (tries : Nat) : Option State :=
  match tblFind s.grans k, evictionPlace s k with
  | some g, some (h, n) => some (s.setGran k { g with mig := some { dst := h, sectors := n, cause := cause, tries := tries } })
  | _, _ => none

/-- R210: the order of eviction: placement 1 first, then least recently read, then lower context, object, granule. -/
def evictBefore (s : State) (a b : Nat × Gran) : Bool :=
  let ba := tblFind s.com.bodies (a.1 / 2 ^ 19)
  let bb := tblFind s.com.bodies (b.1 / 2 ^ 19)
  let ka : Nat := (ba.map (fun x => if x.place = 1 then 0 else 1)).getD 2
  let kb : Nat := (bb.map (fun x => if x.place = 1 then 0 else 1)).getD 2
  if ka ≠ kb then ka < kb else
  if a.2.lastRead ≠ b.2.lastRead then a.2.lastRead.toNat < b.2.lastRead.toNat else
  let ca : Nat := (ba.map (fun x => x.ctx * 2 ^ 24 + x.num)).getD 0
  let cb : Nat := (bb.map (fun x => x.ctx * 2 ^ 24 + x.num)).getD 0
  if ca ≠ cb then ca < cb else a.1 % 2 ^ 19 < b.1 % 2 ^ 19

/-- The first of a list under an order. -/
def firstBy {α : Type} (lt : α → α → Bool) : List α → Option α
  | [] => none
  | a :: l =>
    match firstBy lt l with
    | some b => if lt b a then some b else some a
    | none => some a

/-- R210: the granule of stack `n` that an eviction takes, among those that meet `ok`. -/
def evictVictim (s : State) (ok : Nat × Gran → Bool) : Option Nat :=
  (firstBy (evictBefore s) (s.grans.filter (fun e => ok e && (evictionPlace s e.1).isSome))).map (·.1)

/-- Granules of stack `n` being evicted. -/
def evictingIn (s : State) (n : Nat) : Nat :=
  (s.grans.filter (fun e => e.2.tier == .loft && e.2.mig.isSome && e.2.heap / 2 ^ 36 == n)).length

/-- R209: evictions from stack `n` until its free count, with those under way, reaches LOFT_HIGH. -/
def pressureEvict (n high : Nat) : Nat → State → State
  | 0, s => s
  | fuel + 1, s =>
    if high ≤ loftFree s n + evictingIn s n then s else
    match evictVictim s (fun e => e.2.heap / 2 ^ 36 == n) with
    | some k =>
      match startEviction s k .pressure 0 with
      | some s => pressureEvict n high fuel s
      | none => s
    | none => s

/-- R211, R212: a migration abandoned: its destination released. -/
def abandonMigration (s : State) (k : Nat) : State :=
  match tblFind s.grans k with
  | some g => if g.mig.isSome then (s.setGran k { g with mig := none }).bump kMigAbort 1 else s
  | none => s

/-- R213: after a commit abandoned a requested migration it starts again, up to three attempts. -/
def restartMigration (s : State) (k : Nat) (m : Migration) : State :=
  if m.cause == .request ∧ m.tries < 2 then
    match tblFind s.grans k with
    | some g =>
      if g.tier == .silo then startPromotion s k .request (m.tries + 1)
      else (startEviction s k .request (m.tries + 1)).getD s
    | none => s
  else s

/-- R209, R210: a command reads a granule: counted, and a placement 0 or 3 granule in Silo asks for its promotion. -/
def readGran (s : State) (k : Nat) : State :=
  match tblFind s.grans k, tblFind s.com.bodies (k / 2 ^ 19) with
  | some g, some b =>
    let s := s.setGran k { g with reads := g.reads + 1, lastRead := s.time }
    if g.tier == .silo && (b.place == 0 || b.place == 3) then startPromotion s k .access 0 else s
  | _, _ => s

/-- R193, R212: the granules of a storage from index `g` on released; its bytes and marks go with them. -/
def freeGransFrom (s : State) (sid g : Nat) : State :=
  let dead := fun k => decide (granKey sid g ≤ k) && decide (k < granKey (sid + 1) 0)
  let lo := cellKey sid (g * 2 ^ 21)
  let n := cellKey (sid + 1) 0 - lo
  let gone := fun u => decide (lo ≤ 64 * u) && decide (64 * u < lo + n)
  { s with grans := s.grans.filter (fun e => !dead e.1),
           com := { s.com with mem := memClear s.com.mem lo n, poison := s.com.poison.filter (fun u => !gone u) },
           replMem := memClear s.replMem lo n, replPoison := s.replPoison.filter (fun u => !gone u) }

/-- R193: a number leaves the table; storage whose source and aliases are all gone is freed. -/
def dropObject (s : State) (c o : Nat) : State :=
  match tblFind s.com.objs (objKey c o) with
  | none => { s with com := { s.com with far := tblDel s.com.far (objKey c o) } }
  | some e =>
    let s := { s with com := { s.com with objs := tblDel s.com.objs (objKey c o) } }
    let s := if e.alias_ then s else
      match tblFind s.com.bodies e.sid with
      | some b => { s with com := { s.com with bodies := tblIns s.com.bodies e.sid { b with live := false } } }
      | none => s
    if s.com.objs.any (fun x => x.2.sid == e.sid) then s else
    let s := freeGransFrom s e.sid 0
    { s with com := { s.com with bodies := tblDel s.com.bodies e.sid } }

/-- R188: objects of the module, aliases and far objects included. -/
def objectCount (s : State) : Nat := s.com.objs.length + s.com.far.length

/-- R206, R224: OBJ_LOFT and OBJ_SILO. -/
def objInLoft (s : State) (sid : Nat) : Nat :=
  (s.grans.filter (fun e => e.1 / 2 ^ 19 == sid && e.2.tier != .silo)).length
def objInSilo (s : State) (sid : Nat) : Nat :=
  (s.grans.filter (fun e => e.1 / 2 ^ 19 == sid && e.2.tier == .silo)).length

end Sys2Proof.Machine
end

