-- ==== Sys2Proof/Machine/Operands.lean ====
section
/-! DEFINITION. Sys2Proof/Machine/Operands.lean: the fields of a descriptor (R115, R119), the checks over them (R130, R131) and
the accesses a command makes. -/

namespace Sys2Proof.Machine

open Sys2Proof

/-- The little-endian field of `n` bytes at `off` (R4, R115). -/
def fld (d : List Byte) (off n : Nat) : Nat := leValue ((d.drop off).take n)
/-- A four-byte field as a word. -/
def fldW (d : List Byte) (off : Nat) : Word := BitVec.ofNat 32 (fld d off 4)

/-- R115: the header. -/
def dOpcode (d : List Byte) : Nat := fld d 0 1
def dSlots (d : List Byte) : Nat := fld d 1 1
def dFlags (d : List Byte) : Nat := fld d 2 2
def dOrder (d : List Byte) : Bool := bits (dFlags d) 0 1 == 1
def dWaitEn (d : List Byte) : Bool := bits (dFlags d) 1 1 == 1
def dIrq (d : List Byte) : Bool := bits (dFlags d) 2 1 == 1
def dCmdId (d : List Byte) : Nat := fld d 4 4
def dScratch (d : List Byte) : Nat := fld d 8 4
def dTarget (d : List Byte) : Nat := fld d 12 2
def dSigCtr (d : List Byte) : Nat := fld d 14 1
def dWaitCtr (d : List Byte) : Nat := fld d 15 1
def dSigInc (d : List Byte) : Nat := fld d 16 2
def dWaitVal (d : List Byte) : Nat := fld d 24 8

/-- TARGET 0xFFFF (R116). -/
def anyTarget : Nat := 0xFFFF

/-- The opcodes of R117. -/
def opTile : Nat := 0x01
def opAttnFwd : Nat := 0x02
def opAttnBwd : Nat := 0x03
def opMerge : Nat := 0x04
def opElem : Nat := 0x05
def opRoute : Nat := 0x10
def opGather : Nat := 0x11
def opScatter : Nat := 0x12
def opUpdate : Nat := 0x18
def opMove : Nat := 0x20
def opSample : Nat := 0x28
def opSeq : Nat := 0x2C
def opReduce : Nat := 0x30
def opReshard : Nat := 0x38
def opWait : Nat := 0x40
def opSignal : Nat := 0x41
def opLatch : Nat := 0x48

/-- WAIT, SIGNAL and LATCH act as fences and need no engine (R28, R133). -/
def isFence (op : Nat) : Bool := op == opWait || op == opSignal || op == opLatch

/-- R117: the engine class that executes an opcode; SEQ goes through a Sieve queue. -/
def opClass (op : Nat) : Option Nat :=
  if op = opTile ∨ op = opAttnFwd ∨ op = opAttnBwd ∨ op = opMerge ∨ op = opElem then some 0
  else if op = opRoute ∨ op = opGather ∨ op = opScatter then some 1
  else if op = opUpdate then some 2
  else if op = opMove then some 3
  else if op = opSample ∨ op = opSeq then some 4
  else if op = opReduce then some 5
  else if op = opReshard then some 6
  else none

/-- R117: the slots of an opcode; ELEM's by R123. -/
def opSlots (d : List Byte) : Nat :=
  let op := dOpcode d
  if op = opTile then 3
  else if op = opElem then ceilDiv (160 + 3 * fld d 40 1) 64
  else if op = opMerge ∨ op = opMove ∨ op = opSeq ∨ isFence op then 1
  else 2

/-- The outcome of a check: the status and DETAIL of a failure. -/
abbrev Chk := Option (Status × Nat)

/-- A failure when `bad` holds. -/
def failIf (bad : Bool) (st : Status) (det : Nat) : Chk := if bad then some (st, det) else none

/-- The first failure of a list. -/
def firstFail : List Chk → Chk
  | [] => none
  | some f :: _ => some f
  | none :: l => firstFail l

/-- R131: DETAIL when no single field is at fault, and the offset of a field of the parameter block. -/
def noField : Nat := 0xFFFF
def inParam (off : Nat) : Nat := 0x8000 + off

/-- The offset of a field at fault, when `bad` holds. -/
def badAt (bad : Bool) (det : Nat) : List Nat := if bad then [det] else []

/-- R115: reserved bytes, given as (offset, size), must be zero: the offset of the first non-zero one. -/
def reservedAt (d : List Byte) (rs : List (Nat × Nat)) : List Nat :=
  ((rs.flatMap (fun r => (List.range r.2).map (fun i => r.1 + i))).filter (fun o => fld d o 1 != 0)).take 1

/-- A count or size outside `lo` to `hi` (R130). -/
def outside (v lo hi det : Nat) : List Nat := badAt (v < lo || hi < v) det

/-- An encoding that is not in a list. -/
def notIn (v : Nat) (l : List Nat) (det : Nat) : List Nat := badAt (!l.contains v) det

/-- R131: a check fails with its status at the first field at fault. -/
def leastFail (st : Status) (l : List Nat) : Chk := l.min?.map (fun o => (st, o))

/-- One access of a command: a range of device addresses or of host bus addresses; `det` is the field that names it. -/
structure Access where
  write : Bool
  host : Bool
  addr : Nat
  len : Nat
  det : Nat
  of_ : Option Nat := none       -- the context whose address it is, where it is not the issuer's
deriving DecidableEq, Repr

def rd (addr len det : Nat) : Access := { write := false, host := false, addr := addr, len := len, det := det }
def wr (addr len det : Nat) : Access := { write := true, host := false, addr := addr, len := len, det := det }

/-- The context whose address an access of context `c` names. -/
def Access.ctx (a : Access) (c : Nat) : Nat := a.of_.getD c

/-- Checks 5 and 7: the object of every device address is present (R186, R131). -/
def objectsPresent (m : Store) (c : Nat) : List Access → Chk
  | [] => none
  | a :: l => if a.host || objExists m (a.ctx c) (addrObj a.addr) then objectsPresent m c l else some (.noObject, a.det)

/-- Check 8: every range lies within its object (R186). -/
def rangesWithin (m : Store) (c : Nat) : List Access → Chk
  | [] => none
  | a :: l =>
    if a.host then rangesWithin m c l else
    match objBytes m (a.ctx c) (addrObj a.addr) with
    | some n => if addrOff a.addr + a.len ≤ n then rangesWithin m c l else some (.length, a.det)
    | none => some (.noObject, a.det)

/-- Check 9 on one access to device memory: the first breaching address, if any. Unallocated granules are matched against no
window (R187, R197); a write to a read-only object or through an alias, or to a far object without write access, is a breach
(R190, R357). -/
def devBreach (s : State) (c : Nat) (write : Bool) (addr len : Nat) : Option Nat :=
  match objBody s.com c (addrObj addr) with
  | none => if write && (farBody s.com c (addrObj addr)).any (fun f => !f.write) then some addr else none
  | some (sid, b, al) =>
    if len = 0 then none else
    if write && (al || !b.writable) then some addr else
    ((granRange (addrOff addr) len).find? (fun g =>
      match tblFind s.grans (granKey sid g) with
      | some x => !windowAllows s (ctxPlot s c) x.tier.kind x.heap (2 ^ 21) write
      | none => false)).map (fun g => max addr (addrObj addr * 2 ^ 40 + g * 2 ^ 21))

/-- Check 9 on one access to host memory: each 4 KiB page under windows of KIND 3 (R50). -/
def hostBreach (s : State) (c : Nat) (write : Bool) (addr len : Nat) : Option Nat :=
  if len = 0 then none else
  ((List.range ((addr + len - 1) / 4096 - addr / 4096 + 1)).find? (fun i =>
    !windowAllows s (ctxPlot s c) 3 ((addr / 4096 + i) * 4096) 4096 write)).map (fun i => max addr ((addr / 4096 + i) * 4096))

/-- Check 9: the first access that breaches: its address and whether it is a write. -/
def firstBreach (s : State) (c : Nat) : List Access → Option (Nat × Bool)
  | [] => none
  | a :: l =>
    match (if a.host then hostBreach s c a.write a.addr a.len else devBreach s (a.ctx c) a.write a.addr a.len) with
    | some x => some (x, a.write)
    | none => firstBreach s c l

/-- The granules of storage an access covers. -/
def accessGrans (m : Store) (c : Nat) (a : Access) : List Nat :=
  if a.host then [] else
  match objBody m (a.ctx c) (addrObj a.addr) with
  | some (sid, _, _) => (granRange (addrOff a.addr) a.len).map (granKey sid)
  | none => []

/-- The 64-byte units with a poison mark that an access reads (R141). -/
def accessPoison (m : Store) (c : Nat) (a : Access) : List Nat :=
  if a.host || a.write then [] else
  match objBody m (a.ctx c) (addrObj a.addr) with
  | some (sid, _, _) => if a.len = 0 then [] else poisonedIn m (cellKey sid (addrOff a.addr)) a.len
  | none => []

/-- The storage cell of a device address of a context. -/
def cellOf (m : Store) (c a : Nat) : Option Nat := (objBody m c (addrObj a)).map (fun x => cellKey x.1 (addrOff a))

/-- Staged bytes at a device address. -/
def stage (m : Store) (c a : Nat) (bs : List Byte) : List Eff :=
  match cellOf m c a with
  | some k => if bs.isEmpty then [] else [.write k bs]
  | none => []

/-- Staged planes of a tensor. -/
def stageAll (m : Store) (c : Nat) (l : List (Nat × List Byte)) : List Eff := l.flatMap (fun x => stage m c x.1 x.2)

/-! ### What an engine works on -/

/-- An attempt's inputs: the committed state it reads (R135), its context and effective group (R251), descriptor, parameter
block, run seed (R271) and engine instance. -/
structure Job where
  m : Store
  c : Nat
  eg : Nat
  d : List Byte
  p : List Byte
  seed : Nat
  inst : Nat
deriving DecidableEq, Repr

/-- A byte of the job's context. -/
def Job.rd (j : Job) : Nat → Byte := devByte j.m j.c

/-- A little-endian field of `n` bytes at a device address. -/
def Job.le (j : Job) (a n : Nat) : Nat := readLE j.rd a n

/-- An attempt that ends with OK and what it staged. -/
def okOut (nonfinite : Bool) (effs : List Eff) : Outcome_ := { status := .ok, detail := noField, nonfinite := nonfinite, effs := effs }

/-- An attempt that ends with a status and leaves nothing. -/
def endOut (st : Status) (det : Nat) : Outcome_ := { status := st, detail := det, nonfinite := false, effs := [] }

/-- A check that failed ends the attempt. -/
def failOut (x : Status × Nat) : Outcome_ := endOut x.1 x.2

/-- R120: the planes of a tensor of `n` elements at `a`, as (address, size). -/
def tensorPlanes (a code n : Nat) : List (Nat × Nat) :=
  (a, elemPlaneBytes code n) :: (if isMX code then [(scalePlane a code n, ceilDiv n 32)] else [])

/-- The accesses of planes. -/
def planeAccesses (write : Bool) (det : Nat) (l : List (Nat × Nat)) : List Access :=
  l.map (fun x => { write := write, host := false, addr := x.1, len := x.2, det := det })

/-- R70: the segments that planes need; one more for a plane off a 64 KiB boundary. -/
def segments (l : List Access) : Nat :=
  (l.map (fun a => if a.len = 0 then 0 else ceilDiv a.len 65536 + (if a.addr % 65536 = 0 then 0 else 1))).sum

/-- Staged tensor: values in a format under a rounding mode for each element (R76 to R78). -/
def stageTensor (j : Job) (code a : Nat) (md : Nat → RoundMode) (vals : List Word) : List Eff :=
  stageAll j.m j.c (storeTensor code a md vals)

end Sys2Proof.Machine
end

