-- ==== Sys2Proof/Machine/Flags.lean ====
section
/-! DEFINITION. Sys2Proof/Machine/Flags.lean: the flags and words the block computes: CFLAGS and the completion record (R146),
the status words of rings, contexts and objects, the non-finite flag of stored tensors (R87). -/

namespace Sys2Proof.Machine

open Sys2Proof

/-- R146: CFLAGS: bit 0 NONFINITE, bit 1 RERUN. -/
def cflags (nonfinite rerun : Bool) : Nat := (if nonfinite then 1 else 0) + (if rerun then 2 else 0)

/-- R146: the 32 bytes of a completion record. -/
def recordBytes (cmdId st flags detail serial ns kills done : Nat) : List Byte :=
  bytesLE cmdId 4 ++ bytesLE st 1 ++ bytesLE flags 1 ++ bytesLE detail 2 ++ bytesLE serial 8 ++ bytesLE ns 4
    ++ bytesLE kills 2 ++ bytesLE 0 2 ++ bytesLE done 8

/-- R114: the record at fetch: STATUS PENDING, CMD_ID and SERIAL, every other field zero. -/
def pendingRecord (c : Cmd) : List Byte :=
  recordBytes (dCmdId c.desc) (statusCode .pending) 0 0 c.serial 0 0 0

/-- R146: the final record. -/
def finalRecord (c : Cmd) : List Byte :=
  recordBytes (dCmdId c.desc) (statusCode c.status) (cflags c.nonfinite c.rerun) c.detail c.serial (min 0xFFFFFFFF c.ns)
    (min 65535 c.kills) c.doneNs.toNat

/-- R151: STATE of RING_STATUS. -/
def RingSt.code : RingSt → Nat
  | .disabled => 0 | .running => 1 | .halted => 2 | .flushing => 3 | .frozen => 4

/-- R184: STATE of CTX_STATUS. -/
def CtxSt.code : CtxSt → Nat
  | .free => 0 | .active => 1 | .frozen => 2 | .destroying => 3 | .resetting => 4

/-- A Bool as a bit. -/
def bit (b : Bool) (n : Nat) : Nat := if b then 2 ^ n else 0

/-- R151: RING_STATUS. -/
def ringStatusWord (r : Ring) : Word :=
  BitVec.ofNat 32 (r.st.code + statusCode r.lastErr * 2 ^ 8 + (if r.st == .disabled || r.depth == 0 then 0 else Nat.log2 r.depth) * 2 ^ 16)

/-- R184: CTX_STATUS: BUSY while an operation or the freeze steps run. -/
def ctxStatusWord (x : Ctx) : Word :=
  BitVec.ofNat 32 (x.st.code + bit (x.freezing.isSome || x.st == .destroying || x.st == .resetting) 3 + statusCode x.lastErr * 2 ^ 8
    + min 65535 x.freezeCount * 2 ^ 16)

/-- R184: FREEZE_INFO. -/
def freezeInfoWord (f : Freeze) : Word :=
  BitVec.ofNat 32 (f.cause + bit f.write 2 + bit f.serValid 3 + f.ring * 2 ^ 4)

/-- R224: OBJ_INFO.CFG; an alias reads WRITABLE 0. -/
def objInfoWord (b : Body) (al : Bool) : Word :=
  BitVec.ofNat 32 (b.place + bit (b.writable && !al) 2 + bit b.replica 3 + b.stack * 2 ^ 4)

/-- R185: LATCH_INFO. -/
def latchInfoWord (l : Latch) : Word :=
  let w := min 65535 l.waiters.length * 2 ^ 16
  match l.st with
  | .free => BitVec.ofNat 32 w
  | .held c => BitVec.ofNat 32 (1 + c * 2 ^ 2 + w)
  | .broken => BitVec.ofNat 32 (2 + w)

end Sys2Proof.Machine
end

