-- ==== Sys2Proof/Machine/Kv.lean ====
section
/-! DEFINITION. Sys2Proof/Machine/Kv.lean: sheaves, stooks, sequence slots, the Drift index (R226 to R239, R250 to R258, R264). -/

namespace Sys2Proof.Machine

open Sys2Proof

def State.seq (s : State) (n : Nat) : SeqSlot := tblGet SeqSlot.reset s.com.slots n
def State.setSeq (s : State) (n : Nat) (x : SeqSlot) : State :=
  { s with com := { s.com with slots := tblSet SeqSlot.reset s.com.slots n x } }
def State.setStook (s : State) (k : Nat) (x : Stook) : State :=
  { s with com := { s.com with stooks := tblIns s.com.stooks k x } }
def State.node (s : State) (k : Nat) : DriftNode := tblGet DriftNode.reset s.nodes k
def State.setNode (s : State) (k : Nat) (x : DriftNode) : State := { s with nodes := tblSet DriftNode.reset s.nodes k x }

/-- Counters of R266. -/
def kKvHusk : Nat := kBar0 0xD008
def kKvRefill : Nat := kBar0 0xD010
def kDriftHit : Nat := kBar0 0xD020
def kDriftEvict : Nat := kBar0 0xD028
def kDriftSkip : Nat := kBar0 0xD030

/-- SIZE of a region of LOFT_CARVE: slots (R226), nodes (R250). -/
def seqTableSize (s : State) : Nat := ((loftCarve s 0).map (·.size)).getD 0
def driftSize (s : State) : Nat := ((loftCarve s 1).map (·.size)).getD 0

/-- R232: S. -/
def kvTotal (s : State) : Nat :=
  match loftCarve s 2 with
  | some e => 16 * e.granules * ((List.range 16).filter (fun n => bits e.mask n 1 == 1)).length
  | none => 0

/-- R232: KV_FREE. -/
def kvFree (s : State) : Nat := kvTotal s - s.usedSheaves.length

/-- R235: KV sheaves held by a context as ALLOC_CTX. -/
def kvUse (s : State) (c : Nat) : Nat := ((s.com.stooks.filter (fun e => e.2.allocCtx == c)).map (fun e => e.2.sheaf.length)).sum

/-- SEQ_KV_MAX. -/
def kvMax (s : State) (c : Nat) : Nat := (s.reg (kWin c 0x4020)).toNat

/-! ### Sheaves and references (R232, R234) -/

/-- A sheaf returns to the free pool; its bytes are defined no longer. -/
def freeSheaf (s : State) (n : Nat) : State :=
  { s with usedSheaves := setDel s.usedSheaves n, com := { s.com with kv := memClear s.com.kv (n * 2 ^ 17) (2 ^ 17) } }

/-- The lowest free sheaf is taken (log entry 19). -/
def takeSheaf (s : State) : Option (Nat × State) :=
  (firstFrom (fun n => !s.usedSheaves.contains n) (kvTotal s) 0).map (fun n => (n, { s with usedSheaves := setIns s.usedSheaves n }))

/-- R232: a record sheaf whose last record is freed returns to the pool. -/
def freeRecord (s : State) (k : Nat) : State :=
  let r := k / 32
  if s.com.stooks.any (fun e => e.1 / 32 == r) then s
  else freeSheaf { s with recSheaves := setDel s.recSheaves r } r

/-- R234: a stook freed with its record and its sheaves. -/
def freeStook (s : State) (k : Nat) : State :=
  match tblFind s.com.stooks k with
  | some x =>
    let s := x.sheaf.foldl (fun s e => freeSheaf s e.2) s
    freeRecord { s with com := { s.com with stooks := tblDel s.com.stooks k } } k
  | none => s

/-- R234: a reference lost. -/
def dropRef (s : State) (k : Nat) : State :=
  match tblFind s.com.stooks k with
  | some x => if x.refs ≤ 1 then freeStook s k else s.setStook k { x with refs := x.refs - 1 }
  | none => s

/-- A reference gained. -/
def addRef (s : State) (k : Nat) : State :=
  match tblFind s.com.stooks k with
  | some x => s.setStook k { x with refs := x.refs + 1 }
  | none => s

/-- References from sequence maps, detached ones included. -/
def mapRefs (s : State) (k : Nat) : Nat :=
  (s.com.slots.map (fun e => (e.2.map.filter (fun b => b.2 == k)).length)).sum
    + (s.relQueue.map (fun d => (d.stooks.filter (fun b => b.2 == k)).length)).sum

/-! ### Husks (R236, R239) -/

/-- R227, R236, R239: HUSK and HUSK_FIRST of a slot: the blocks whose stook is not Live. -/
def huskBlocks (m : Store) (x : SeqSlot) : List Nat :=
  (x.map.filter (fun b => (tblFind m.stooks b.2).any (fun k => k.st != .live))).map (·.1)
def refreshHusk (m : Store) (x : SeqSlot) : SeqSlot :=
  { x with husk := !(huskBlocks m x).isEmpty, huskFirst := (huskBlocks m x).head? }

/-- Every slot that maps a stook takes its flags anew. -/
def refreshHusks (s : State) (k : Nat) : State :=
  { s with com := { s.com with slots := s.com.slots.map (fun e =>
      if e.2.map.any (fun b => b.2 == k) then (e.1, refreshHusk s.com e.2) else e) } }

/-- R236: droppable, whatever its pins. -/
def droppableOnceUnpinned (x : Stook) : Bool := (x.st == .live || x.st == .refilling) && !x.tent && !x.sheaf.isEmpty

/-- R236: droppable. -/
def droppable (x : Stook) : Bool := droppableOnceUnpinned x && x.pins.isEmpty

/-- R236: the order of victims: those that only nodes reference, then the oldest LAST_READ, then the lower number. -/
def victimBefore (s : State) (a b : Nat × Stook) : Bool :=
  let ga := mapRefs s a.1 != 0
  let gb := mapRefs s b.1 != 0
  if ga != gb then gb
  else if a.2.lastRead ≠ b.2.lastRead then a.2.lastRead.toNat < b.2.lastRead.toNat
  else a.1 < b.1

/-- R236: the victim, among the stooks charged to a context where one is named. -/
def kvVictim (s : State) (charged : Option Nat) : Option Nat :=
  (firstBy (victimBefore s) (s.com.stooks.filter (fun e => droppable e.2 && charged.all (fun c => e.2.allocCtx == c)))).map (·.1)

/-- R236: a stook dropped to a husk. -/
def dropStook (s : State) (k : Nat) : State :=
  match tblFind s.com.stooks k with
  | some x =>
    let s := x.sheaf.foldl (fun s e => freeSheaf s e.2) s
    let s := s.setStook k { x with st := .husk, sheaf := [], valid := [] }
    (refreshHusks s k).bump kKvHusk 1
  | none => s

/-! ### Allocation (R235, R236) -/

/-- How an allocation for keys and values ends. -/
inductive KvRes where
  | done (s : State) (got : List KvHold)
  | wait                         -- only pinned stooks are left
  | fail (st : Status)
deriving DecidableEq, Repr

/-- R236: the end of an allocation that found no victim; pins of the command itself do not make it wait (log entry 19). -/
def kvNoVictim (s : State) (own : CmdRef) (charged : Option Nat) : KvRes :=
  if s.com.stooks.any (fun e => droppableOnceUnpinned e.2 && !e.2.pins.contains own && charged.all (fun c => e.2.allocCtx == c))
  then .wait else .fail (if charged.isSome then .quota else .kvFull)

/-- R235, R236: a sheaf taken, dropping stooks as needed; charged to a context when it is a KV sheaf. -/
def kvTake (own : CmdRef) (charged : Option Nat) : Nat → State → KvRes × Option (Nat × State)
  | 0, _ => (.fail .kvFull, none)
  | fuel + 1, s =>
    if charged.any (fun c => kvMax s c < kvUse s c + 1) then
      match kvVictim s charged with
      | some k => kvTake own charged fuel (dropStook s k)
      | none => (kvNoVictim s own charged, none)
    else match takeSheaf s with
      | some x => (.done s [], some x)
      | none =>
        match kvVictim s none with
        | some k => kvTake own charged fuel (dropStook s k)
        | none => (kvNoVictim s own none, none)

/-- The fuel of `kvTake`: each try but the last drops a stook. -/
def kvFuel (s : State) : Nat := s.com.stooks.length + 1

/-- R235 step 1: the map sheaf of a block. -/
def needMapSheaf (own : CmdRef) (slot b : Nat) (s : State) : KvRes :=
  let x := s.seq slot
  if (tblFind x.mapSheaf (b / 32768)).isSome then .done s [] else
  match kvTake own none (kvFuel s) s with
  | (_, some (n, s)) => .done (s.setSeq slot { s.seq slot with mapSheaf := tblIns (s.seq slot).mapSheaf (b / 32768) n })
                          [.mapSheaf slot (b / 32768) n]
  | (r, none) => r

/-- A free record: the lowest number in a record sheaf (log entry 19). -/
def freeStookNumber (s : State) : Option Nat :=
  (s.recSheaves.flatMap (fun r => (List.range 32).map (fun i => 32 * r + i))).find? (fun k => (tblFind s.com.stooks k).isNone)

/-- R234, R235 step 2: the record of a new stook for a block of a slot. -/
def newStook (s : State) (c slot b k : Nat) : State :=
  let x := s.seq slot
  let s := s.setStook k { st := .live, tent := false, layers := x.layers, refs := 1, allocCtx := c, block := b, model := x.model,
                          pins := [], lastRead := s.time, tokens := [], sheaf := [], valid := [] }
  s.setSeq slot { x with map := tblIns x.map b k }

/-- R235 step 2: the stook of a block. -/
def needStook (own : CmdRef) (slot b : Nat) (s : State) : KvRes :=
  if (tblFind (s.seq slot).map b).isSome then .done s [] else
  match freeStookNumber s with
  | some k => .done (newStook s own.ctx slot b k) [.stook slot b k]
  | none =>
    match kvTake own none (kvFuel s) s with
    | (_, some (n, s)) =>
      .done (newStook { s with recSheaves := setIns s.recSheaves n } own.ctx slot b (32 * n)) [.stook slot b (32 * n)]
    | (r, none) => r

/-- R235 step 3: the layer's KV sheaf of a block; a refill into a Husk takes the charge over. -/
def needSheaf (own : CmdRef) (slot layer b : Nat) (s : State) : KvRes :=
  match (tblFind (s.seq slot).map b).bind (fun k => (tblFind s.com.stooks k).map (fun x => (k, x))) with
  | none => .done s []
  | some (k, x) =>
    if (tblFind x.sheaf layer).isSome then .done s [] else
    let ch := if x.st == .husk then own.ctx else x.allocCtx
    match kvTake own (some ch) (kvFuel s) s with
    | (_, some (n, s)) =>
      match tblFind s.com.stooks k with
      | some x => .done (s.setStook k { x with sheaf := tblIns x.sheaf layer n, allocCtx := ch,
                                               st := if x.st == .husk then .refilling else x.st }) [.sheaf k layer]
      | none => .done s []
    | (r, none) => r

/-- R235: steps in order, with what they took, the last first. -/
def kvSteps : List (State → KvRes) → State → List KvHold → KvRes
  | [], s, got => .done s got
  | f :: l, s, got =>
    match f s with
    | .done s g => kvSteps l s (g ++ got)
    | r => r

/-- R235: what an append or refill of a layer needs for the blocks its new positions enter. -/
def kvAllocate (own : CmdRef) (slot layer : Nat) (blocks : List Nat) (s : State) : KvRes :=
  kvSteps (blocks.flatMap (fun b => [needMapSheaf own slot b, needStook own slot b, needSheaf own slot layer b])) s []

/-- R235: one thing a killed attempt allocated is released. -/
def kvRelease1 (s : State) (h : KvHold) : State :=
  match h with
  | .sheaf k layer =>
    match tblFind s.com.stooks k with
    | some x =>
      match tblFind x.sheaf layer with
      | some n =>
        let y := { x with sheaf := tblDel x.sheaf layer, valid := setDel x.valid layer }
        (freeSheaf s n).setStook k { y with st := if y.sheaf.isEmpty && x.st == .refilling then .husk else x.st }
      | none => s
    | none => s
  | .stook slot b k =>
    if tblFind (s.seq slot).map b = some k then
      dropRef (s.setSeq slot { s.seq slot with map := tblDel (s.seq slot).map b }) k
    else s
  | .mapSheaf slot i n =>
    let x := s.seq slot
    if tblFind x.mapSheaf i = some n ∧ (x.map.all (fun b => b.1 / 32768 != i)) then
      freeSheaf (s.setSeq slot { x with mapSheaf := tblDel x.mapSheaf i }) n
    else s

/-- R235: a killed command releases what its attempt allocated. -/
def kvRelease (s : State) (l : List KvHold) : State := l.foldl kvRelease1 s

/-! ### Keys and values (R233, R245) -/

/-- The bytes of K and V of one position of a layer, where its sheaf is present: (K cell, V cell). -/
def kvCell (m : Store) (x : SeqSlot) (layer p : Nat) : Option (Nat × Nat) :=
  (((tblFind x.map (p / 64)).bind (fun k => tblFind m.stooks k)).bind (fun k => tblFind k.sheaf layer)).map (fun n =>
    (n * 2 ^ 17 + 1024 * (p % 64), n * 2 ^ 17 + 65536 + 1024 * (p % 64)))

/-- One position written; under REFILL only while the layer's VALID bit is 0 (R239). -/
def kvWrite (s : State) (slot layer p : Nat) (refill : Bool) (k v : List Byte) : State :=
  let x := s.seq slot
  match kvCell s.com x layer p, (tblFind x.map (p / 64)).bind (fun i => (tblFind s.com.stooks i).map (fun y => (i, y))) with
  | some (kc, vc), some (i, y) =>
    if refill && y.valid.contains layer then s else
    let s := { s with com := { s.com with kv := memWrite (memWrite s.com.kv kc k) vc v } }
    if refill then s else s.setStook i { y with tent := true, valid := setIns y.valid layer }
  | _, _ => s

/-- R239: a layer of a block refilled: VALID set; a stook with every bit set becomes Live. -/
def refillBlock (s : State) (slot layer b : Nat) : State :=
  match (tblFind (s.seq slot).map b).bind (fun i => (tblFind s.com.stooks i).map (fun y => (i, y))) with
  | some (i, y) =>
    if y.valid.contains layer || (tblFind y.sheaf layer).isNone then s else
    let y := { y with valid := setIns y.valid layer }
    let y := { y with st := if (List.range y.layers).all (fun l => y.valid.contains l) then .live else y.st }
    (refreshHusks (s.setStook i y) i).bump kKvRefill 1
  | none => s

/-! ### Slots (R228, R229, R264) -/

/-- The slot is Open and owned by the context. -/
def slotOpenOf (s : State) (c slot : Nat) : Bool := (s.seq slot).st == .open_ && (s.seq slot).owner == c

/-- R264: a slot's map detached and queued for release. -/
def detachMap (s : State) (slot : Nat) : State :=
  let x := s.seq slot
  if x.map.isEmpty && x.mapSheaf.isEmpty then s else
  { s.setSeq slot { x with map := [], mapSheaf := [] } with
    relQueue := s.relQueue ++ [{ stooks := x.map, sheaves := x.mapSheaf.map (·.2) }] }

/-- R264: the oldest detached map released: each stook loses one reference, in ascending block order. -/
def releaseOldest (s : State) : State :=
  match s.relQueue with
  | [] => s
  | d :: l =>
    let s := { s with relQueue := l }
    let s := d.stooks.foldl (fun s b => dropRef s b.2) s
    d.sheaves.foldl freeSheaf s

/-- R264: KV_RELEASE_PEND. -/
def releasePend (s : State) : Nat := (s.relQueue.map (fun d => d.stooks.length)).sum

/-- R228, R229: SEQ open takes effect: the record from the open block (R230). -/
def seqOpenFx (s : State) (c slot : Nat) (blk : List Byte) : State :=
  let f := fun o n => leValue ((blk.drop o).take n)
  s.setSeq slot { SeqSlot.reset with
    st := .open_, insert := bits (f 9 1) 0 1 == 1, steered := bits (f 9 1) 1 1 == 1, owner := c, layers := f 4 2,
    headDim := f 6 2, kvHeads := f 8 1, steerSet := f 10 2, model := f 0 4, sampling := (blk.drop 32).take 64,
    random := (blk.drop 96).take 16, lastUse := s.time }

/-- R228, R229: SEQ close takes effect; the record's other bytes of a Free slot hold no meaning. -/
def seqCloseFx (s : State) (slot : Nat) : State := (detachMap s slot).setSeq slot SeqSlot.reset

/-- R245, KFLAGS of R234: TENT of a slot's stooks: kept while the sequence holds tentative positions in the block. -/
def refreshTent (s : State) (slot : Nat) : State :=
  let x := s.seq slot
  x.map.foldl (fun s b =>
    if min x.tentative (64 * b.1 + 64) ≤ max x.committed (64 * b.1) then
      match tblFind s.com.stooks b.2 with
      | some y => if y.tent then s.setStook b.2 { y with tent := false } else s
      | none => s
    else s) s

/-- R229: SEQ roll back takes effect. -/
def seqRollBackFx (s : State) (slot : Nat) : State :=
  let x := s.seq slot
  let gone := x.map.filter (fun b => decide (x.committed ≤ 64 * b.1))
  let s := s.setSeq slot { x with tentative := x.committed, map := x.map.filter (fun b => decide (64 * b.1 < x.committed)) }
  let s := gone.foldl (fun s b => dropRef s b.2) s
  let s := refreshTent s slot
  s.setSeq slot (refreshHusk s.com (s.seq slot))

/-! ### The Drift index (R250 to R258) -/

/-- R251: the effective group. -/
def effGroup (s : State) (c : Nat) : Nat := if ctxShareGroup s c = 0 then 0x8000 + c else ctxShareGroup s c

/-- One SipRound of SipHash. -/
def sipRound (v : DWord × DWord × DWord × DWord) : DWord × DWord × DWord × DWord :=
  let (v0, v1, v2, v3) := v
  let v0 := v0 + v1
  let v1 := v1.rotateLeft 13 ^^^ v0
  let v0 := v0.rotateLeft 32
  let v2 := v2 + v3
  let v3 := v3.rotateLeft 16 ^^^ v2
  let v0 := v0 + v3
  let v3 := v3.rotateLeft 21 ^^^ v0
  let v2 := v2 + v1
  let v1 := v1.rotateLeft 17 ^^^ v2
  let v2 := v2.rotateLeft 32
  (v0, v1, v2, v3)

/-- SipHash-2-4 of a message under a 128-bit key. -/
def sipHash (key : Nat) (msg : List Byte) : DWord :=
  let k0 : DWord := BitVec.ofNat 64 key
  let k1 : DWord := BitVec.ofNat 64 (key / 2 ^ 64)
  let n := msg.length
  let words := (List.range (n / 8)).map (fun i => BitVec.ofNat 64 (leValue ((msg.drop (8 * i)).take 8)))
    ++ [BitVec.ofNat 64 (leValue (msg.drop (n / 8 * 8)) + n % 256 * 2 ^ 56)]
  let v := words.foldl (fun (v : DWord × DWord × DWord × DWord) m =>
    let (a, b, c, d) := sipRound (sipRound (v.1, v.2.1, v.2.2.1, v.2.2.2 ^^^ m))
    (a ^^^ m, b, c, d)) (k0 ^^^ 0x736f6d6570736575#64, k1 ^^^ 0x646f72616e646f6d#64, k0 ^^^ 0x6c7967656e657261#64,
      k1 ^^^ 0x7465646279746573#64)
  let (a, b, c, d) := sipRound (sipRound (sipRound (sipRound (v.1, v.2.1, v.2.2.1 ^^^ 0xFF#64, v.2.2.2))))
  a ^^^ b ^^^ c ^^^ d

/-- R252: the key of a node: GROUP, MODEL, PARENT, PARENT_GEN and TOKENS. -/
def nodeKey (group model : Nat) (parent : Option Nat) (parentGen : Nat) (toks : List Nat) : List Byte :=
  bytesLE group 2 ++ bytesLE model 4 ++ bytesLE (parent.getD 0xFFFFFFFF) 4 ++ bytesLE parentGen 4 ++ toks.flatMap (fun t => bytesLE t 4)

/-- The key a node stores. -/
def DriftNode.key (x : DriftNode) : List Byte := nodeKey x.group x.model x.parent x.parentGen x.tokens

/-- R252: the bucket of a key. -/
def bucketOf (s : State) (key : List Byte) : Nat := (sipHash s.driftKey key).toNat % driftSize s

/-- R253: the first node of a chain whose stored key equals `key`. -/
def chainFind (s : State) (key : List Byte) : Nat → Option Nat → Option Nat
  | 0, _ => none
  | _, none => none
  | fuel + 1, some k => if (s.node k).used && (s.node k).key == key then some k else chainFind s key fuel (s.node k).next

/-- R253: a lookup. -/
def driftLookup (s : State) (key : List Byte) : Option Nat :=
  if driftSize s = 0 then none else chainFind s key (driftSize s) (s.node (bucketOf s key)).head

/-- R257: a node unlinked from its bucket. -/
def unlinkNode (s : State) (k : Nat) : State :=
  let b := bucketOf s (s.node k).key
  let nx := (s.node k).next
  if (s.node b).head = some k then s.setNode b { s.node b with head := nx }
  else { s with nodes := s.nodes.map (fun e => if e.2.used && e.2.next == some k then (e.1, { e.2 with next := nx }) else e) }

/-- R257: a node freed: unlinked, its parent's CHILDREN lowered, its stook's reference released, GEN advanced. -/
def freeNode (s : State) (k : Nat) : State :=
  let x := s.node k
  let s := unlinkNode s k
  let s := match x.parent with
    | some p => s.setNode p { s.node p with children := (s.node p).children - 1 }
    | none => s
  let s := dropRef s x.stook
  let h := (s.node k).head
  (s.setNode k { DriftNode.reset with gen := (x.gen + 1) % 2 ^ 32, head := h }).bump kDriftEvict 1

/-- R257: the node that can be reclaimed first; never the node `keep` (log entry 20). -/
def reclaimable (s : State) (keep : Option Nat) : Option Nat :=
  (firstBy (fun a b : Nat × DriftNode =>
      if a.2.lastUse ≠ b.2.lastUse then decide (a.2.lastUse.toNat < b.2.lastUse.toNat) else decide (a.1 < b.1))
    (s.nodes.filter (fun e => e.2.used && e.2.children == 0 && keep != some e.1))).map (·.1)

/-- R256 step 3: a Free node, the lowest (log entry 20), or one reclaimed. -/
def takeNode (s : State) (keep : Option Nat) : Option (Nat × State) :=
  match firstFrom (fun k => !(s.node k).used) (driftSize s) 0 with
  | some k => some (k, s)
  | none => (reclaimable s keep).map (fun k => (k, freeNode s k))

/-- R229, R256: nodes of the chain from a node up to block 0. -/
def chainDepth (s : State) : Nat → Option Nat → Nat
  | 0, _ => 0
  | _, none => 0
  | fuel + 1, some k => 1 + chainDepth s fuel (s.node k).parent

/-- The depth of a slot's prefix chain. -/
def prefixDepth (s : State) (x : SeqSlot) : Nat := chainDepth s (driftSize s) x.pfx

/-- R256 step 1: PREFIX still names its node. -/
def prefixValid (s : State) (x : SeqSlot) : Bool :=
  match x.pfx with
  | some k => (s.node k).used && (s.node k).gen == x.pfxGen
  | none => true

/-- The generation that PARENT_GEN takes. -/
def genOf (s : State) (p : Option Nat) : Nat := match p with | some k => (s.node k).gen | none => 0

/-- R256: a block of a slot that becomes full. -/
def driftInsert (s : State) (c slot b : Nat) : State :=
  let x := s.seq slot
  if !x.insert || x.detached || !featureOn s 2 then s
  else if !prefixValid s x then s.setSeq slot { x with detached := true }
  else if prefixDepth s x ≠ b then s
  else match (tblFind x.map b).bind (fun k => (tblFind s.com.stooks k).map (fun y => (k, y))) with
  | none => s
  | some (k, y) =>
    let toks := (List.range 64).map (fun i => tblGet 0 y.tokens i)
    let key := nodeKey (effGroup s c) x.model x.pfx (genOf s x.pfx) toks
    match driftLookup s key with
    | some n =>
      (s.setSeq slot { x with pfx := some n, pfxGen := (s.node n).gen }).setNode n { s.node n with lastUse := s.time }
    | none =>
      match takeNode s x.pfx with
      | none => (s.setSeq slot { x with detached := true }).bump kDriftSkip 1
      | some (n, s) =>
        let bk := bucketOf s key
        let hd := (s.node bk).head
        let s := s.setNode n { s.node n with
          used := true, group := effGroup s c, model := x.model, parent := x.pfx, parentGen := genOf s x.pfx, stook := k,
          next := hd, children := 0, hash := (sipHash s.driftKey key).toNat, lastUse := s.time, tokens := toks }
        let s := s.setNode bk { s.node bk with head := some n }
        let s := match x.pfx with
          | some p => s.setNode p { s.node p with children := (s.node p).children + 1 }
          | none => s
        let s := addRef s k
        s.setSeq slot { s.seq slot with pfx := some n, pfxGen := (s.node n).gen }

/-- R229: one token recorded. -/
def recordToken (s : State) (slot p tok : Nat) : State :=
  match (tblFind (s.seq slot).map (p / 64)).bind (fun k => (tblFind s.com.stooks k).map (fun y => (k, y))) with
  | some (k, y) => s.setStook k { y with tokens := tblSet 0 y.tokens (p % 64) tok }
  | none => s

/-- R229, R256: SEQ accept takes effect. -/
def seqAcceptFx (s : State) (c slot : Nat) (toks : List Nat) : State :=
  let n := (s.seq slot).committed
  let s := toks.zipIdx.foldl (fun s t => recordToken s slot (n + t.2) t.1) s
  let s := s.setSeq slot { s.seq slot with committed := n + toks.length }
  let s := refreshTent s slot
  ((List.range ((n + toks.length) / 64 - n / 64)).map (fun i => n / 64 + i)).foldl (fun s b => driftInsert s c slot b) s

/-- R255 step 3: a hit: the node's stook joins the slot's map. -/
def matchHit (s : State) (slot b n : Nat) : State :=
  let k := (s.node n).stook
  let s := addRef s k
  let x := s.seq slot
  let s := s.setSeq slot { x with map := tblIns x.map b k, pfx := some n, pfxGen := (s.node n).gen }
  (s.setNode n { s.node n with lastUse := s.time }).bump kDriftHit 1

/-- R255: the walk over the blocks of a token list; answers the blocks matched and the husks among them. -/
def matchWalk (c slot : Nat) : List (List Nat) → Nat → State → State × Nat × Nat
  | [], _, s => (s, 0, 0)
  | toks :: l, b, s =>
    let x := s.seq slot
    match driftLookup s (nodeKey (effGroup s c) x.model x.pfx (genOf s x.pfx) toks) with
    | none => (s, 0, 0)
    | some n =>
      match needMapSheaf { ctx := c, ring := 0, serial := 0 } slot b s with
      | .done s _ =>
        let h := (tblFind s.com.stooks (s.node n).stook).any (fun y => y.st != .live)
        let r := matchWalk c slot l (b + 1) (matchHit s slot b n)
        (r.1, r.2.1 + 1, r.2.2 + (if h then 1 else 0))
      | _ => (s, 0, 0)

/-- R255: prefix match takes effect; the result of R230 as bytes. A PREFIX whose node is gone matches nothing. -/
def seqMatchFx (s : State) (c slot : Nat) (toks : List Nat) : State × List Byte :=
  let x := s.seq slot
  let d := if prefixValid s x then prefixDepth s x else 0
  let blocks := (chunks 64 toks.length toks).filter (fun l => l.length == 64)
  let (s, n, h) := if prefixValid s x then matchWalk c slot blocks d s else (s, 0, 0)
  let s := if n = 0 then s else s.setSeq slot { s.seq slot with committed := 64 * (d + n), tentative := 64 * (d + n) }
  (s.setSeq slot (refreshHusk s.com (s.seq slot)), bytesLE (64 * n) 4 ++ bytesLE n 4 ++ bytesLE h 4 ++ bytesLE 0 4)

/-- R258: the leaves of a group freed until none is left. -/
def freeGroup (eg : Nat) : Nat → State → State
  | 0, s => s
  | fuel + 1, s =>
    match s.nodes.find? (fun e => e.2.used && e.2.group == eg && e.2.children == 0) with
    | some e => freeGroup eg fuel (freeNode s e.1)
    | none => s

end Sys2Proof.Machine
end

