-- ==== Sys2Proof/Machine/Packets.lean ====
section
/-! DEFINITION. Sys2Proof/Machine/Packets.lean: the packets of the fabric as flits (R344, R351, R359, R362, R366), the choice of a
port (R352, R353, R373), and the requests of this module (R358). -/

namespace Sys2Proof.Machine

open Sys2Proof

def State.port (s : State) (p : Nat) : Port := tblGet Port.reset s.fab.ports p
def State.setFab (s : State) (f : Fabric) : State := { s with fab := f }
def State.setPort (s : State) (p : Nat) (x : Port) : State := s.setFab { s.fab with ports := tblSet Port.reset s.fab.ports p x }

/-- R374: node, GROUP_SIZE and GROUP_ID of the plan in force. -/
def groupEnt (s : State) : Option GroupEnt := (secList s Sections.group).head?
def selfNode (s : State) : Option Nat := (groupEnt s).map (·.self)
def groupSize (s : State) : Nat := ((groupEnt s).map (·.size)).getD 0
def groupId (s : State) : Nat := ((groupEnt s).map (·.gid)).getD 0

/-- R372: the port's bit of CRV_ENC. -/
def encBit (s : State) (p : Nat) : Bool :=
  if p < 32 then s.regField (kBar0 0x2000C) p 1 == 1 else s.regField (kBar0 0x20010) (p - 32) 1 == 1

/-- R375: register keys of a port. -/
def kPort (p off : Nat) : Nat := kBar0 (0x20100 + 0x40 * p + off)

/-- R374: counters. -/
def kCollDone : Nat := kBar0 0x20020
def kCollDup : Nat := kBar0 0x20028
def kCollFail : Nat := kBar0 0x20030
def kUnreach : Nat := kBar0 0x20038
def kHopDrop : Nat := kBar0 0x20040
def kE2eResend : Nat := kBar0 0x20048
/-- R375: PKT_BAD of a port: the high half of LINK_ERR. -/
def packetBad (s : State) (p : Nat) : State :=
  s.setReg (kPort p 0x34) (setField (s.reg (kPort p 0x34)) 16 16 (min 65535 (s.regField (kPort p 0x34) 16 16 + 1)))

/-- R434: KV_SIG_FAIL. -/
def kSigFail : Nat := kBar0 0x23028

/-- R45, R346: ENABLE in force enables the port. -/
def portEnabled (s : State) (p : Nat) : Bool := (secList s Sections.enable).any (fun e => bits e.caravan p 1 == 1)

/-- R346: Active ports that the plan in force no longer enables return to Up. -/
def portsAfterPlan (s : State) : State :=
  (List.range 36).foldl (fun s p =>
    if (s.port p).st == .active && !portEnabled s p then s.setPort p { s.port p with st := .up } else s) s

/-! ### Packet types (R344, R351) -/

def ptWrite : Nat := 0x01
def ptReadReq : Nat := 0x02
def ptReadData : Nat := 0x03
def ptCommit : Nat := 0x04
def ptAbort : Nat := 0x05
def ptDone : Nat := 0x06
def ptTallyUp : Nat := 0x10
def ptTallyDown : Nat := 0x11
def ptLink : Nat := 0x30

/-- R344: the virtual lane of a type. -/
def ptLane (t : Nat) : Option Nat :=
  if t = ptWrite ∨ t = ptReadReq ∨ t = ptCommit ∨ t = ptAbort ∨ t = ptLink then some 0
  else if t = ptReadData ∨ t = ptDone then some 1
  else if t = ptTallyUp ∨ t = ptTallyDown then some 2
  else none

/-! ### Codec -/

/-- R351: the first 16 bytes of a header flit. -/
def headBytes (t hops dest src len : Nat) (secure : Bool) (xid : Nat) : List Byte :=
  bytesLE t 1 ++ bytesLE hops 1 ++ bytesLE dest 2 ++ bytesLE src 2 ++ bytesLE len 1 ++ bytesLE (if secure then 1 else 0) 1
    ++ bytesLE xid 8

/-- A flit's 64 bytes. -/
def padFlit (l : List Byte) : List Byte := (l ++ List.replicate 64 0).take 64

/-- Bytes as data flits. -/
def dataFlits (l : List Byte) : List (List Byte) := (chunks 64 (ceilDiv l.length 64) l).map padFlit

/-- The flits of a packet. -/
def packetFlits (t hops dest src : Nat) (secure : Bool) (xid : Nat) (rest data : List Byte) (marks : List Nat) (own : Option Nat) :
    List Flit :=
  let vl := (ptLane t).getD 0
  let ds := dataFlits data
  { vl := vl, data := padFlit (headBytes t hops dest src ds.length secure xid ++ rest), poison := false, own := own }
    :: ds.zipIdx.map (fun x => { vl := vl, data := x.1, poison := marks.contains x.2, own := own })

/-- The status a code stands for. -/
def statusOf (n : Nat) : Status :=
  ([.ok, .quota, .noObject, .dataLost, .collMismatch, .length, .peerTimeout, .unreachable].find? (fun st => statusCode st == n)).getD .unreachable

/-- R359: bytes 16 to 63 of a far packet's header; log entry 24: the fields in the order of the table, then the status. -/
def farRest (k : FarPacket) : List Byte :=
  bytesLE k.expo 2 ++ bytesLE k.gen 2 ++ bytesLE k.attempt 2 ++ bytesLE k.off 8 ++ bytesLE k.epoch 16 ++ bytesLE k.bytes 4
    ++ bytesLE (statusCode k.status) 1
def farFlits (t : Nat) (k : FarPacket) (own : Option Nat) : List Flit :=
  packetFlits t 15 k.dest k.src k.secure k.xid (farRest k) k.data k.poison own

/-- Payload bytes of a far packet of a type. -/
def farCarries (t : Nat) : Bool := t == ptWrite || t == ptReadData

/-- A far packet from its flits. -/
def farParse (fs : List Flit) : FarPacket :=
  let h := (fs.map (·.data)).headD []
  let t := fld h 0 1
  { dest := fld h 2 2, src := fld h 4 2, secure := bits (fld h 7 1) 0 1 == 1, xid := fld h 8 8, expo := fld h 16 2, gen := fld h 18 2,
    attempt := fld h 20 2, off := fld h 22 8, epoch := fld h 30 16, bytes := fld h 46 4, status := statusOf (fld h 50 1), access := 0,
    group := 0, data := if farCarries t then ((fs.drop 1).flatMap (·.data)).take (fld h 46 4) else [],
    poison := (((fs.drop 1).zipIdx).filter (fun x => x.1.poison)).map (·.2) }
where
  /-- A little-endian field. -/
  fld (d : List Byte) (off n : Nat) : Nat := leValue ((d.drop off).take n)

/-- R366: bytes of an element in a Tally packet. -/
def tallyWidth (up : Bool) (pass fmt : Nat) : Nat :=
  if pass = 1 then 2 else if pass = 3 then 4 else if up then 12 else if fmt = 0 then 4 else 2

/-- R362: bytes 16 to 63 of a Tally packet's header. -/
def tallyRest (k : TallyPacket) : List Byte :=
  bytesLE k.tree 2 ++ bytesLE k.pass 1 ++ bytesLE k.rop 1 ++ bytesLE k.fmt 1 ++ bytesLE k.exact_ 1 ++ bytesLE k.group 2
    ++ bytesLE k.seq 8 ++ bytesLE k.elements 8 ++ bytesLE k.elem0 8 ++ bytesLE k.terms 4 ++ bytesLE (statusCode k.status) 1
    ++ bytesLE k.inst 1
def tallyFlits (up : Bool) (k : TallyPacket) (own : Option Nat) : List Flit :=
  packetFlits (if up then ptTallyUp else ptTallyDown) 15 k.dest k.src false k.xid (tallyRest k)
    (k.data.flatMap (fun v => bytesLE v (tallyWidth up k.pass k.fmt))) [] own

/-- R362, R366: a Tally packet from its flits. -/
def tallyParse (fs : List Flit) : TallyPacket :=
  let h := (fs.map (·.data)).headD []
  let f := fun off n => leValue ((h.drop off).take n)
  let w := tallyWidth (f 0 1 == ptTallyUp) (f 18 1) (f 20 1)
  let body := (fs.drop 1).flatMap (·.data)
  let n := if f 52 1 ≠ 0 then 0 else min 256 (f 32 8 - f 40 8)
  { dest := f 2 2, src := f 4 2, xid := f 8 8, tree := f 16 2, pass := f 18 1, rop := f 19 1, fmt := f 20 1, exact_ := f 21 1,
    group := f 22 2, seq := f 24 8, elements := f 32 8, elem0 := f 40 8, terms := f 48 4, status := statusOf (f 52 1), inst := f 53 1,
    data := (List.range n).map (fun i => leValue ((body.drop (w * i)).take w)) }

/-! ### Routing (R352, R353, R373) -/

/-- A port that a packet may leave on: Active, and encrypting where the packet is secure. -/
def portUsable (s : State) (secure : Bool) (p : Nat) : Bool := (s.port p).st == .active && (!secure || encBit s p)

/-- The usable ports of a route. -/
def routePorts (s : State) (secure : Bool) (e : RouteEnt) : List Nat :=
  (List.range 36).filter (fun p => bits e.ports p 1 == 1 && portUsable s secure p)

/-- R49: among entries the highest priority, the lowest entry number on a tie. -/
def bestRoute : List RouteEnt → Option RouteEnt
  | [] => none
  | e :: l =>
    match bestRoute l with
    | some b => if e.prio < b.prio then some b else some e
    | none => some e

/-- R352: the port for packet `xid` to a node, if there is one. -/
def routePort (s : State) (dest : Nat) (secure : Bool) (xid : Nat) : Option Nat :=
  if groupSize s ≤ dest then none else
  match bestRoute ((secList s Sections.routes).filter (fun e =>
      decide (e.first ≤ dest) && decide (dest ≤ e.last) && !(routePorts s secure e).isEmpty)) with
  | none => none
  | some e => (routePorts s secure e)[xid % (routePorts s secure e).length]?

/-- Flits queued on a port. -/
def queueFlits (s : State) (p : Nat) (fs : List Flit) : State := s.setPort p { s.port p with tx := (s.port p).tx ++ fs }

/-- R353: a packet sent; none without a route. -/
def sendFar (s : State) (t : Nat) (k : FarPacket) (own : Option Nat) : Option State :=
  (routePort s k.dest k.secure k.xid).map (fun p => queueFlits s p (farFlits t k own))

/-- A packet sent, or dropped without a route: its request is recovered by its own timer (R358). -/
def sendOrDrop (s : State) (t : Nat) (k : FarPacket) (own : Option Nat) : State := (sendFar s t k own).getD (s.bump kUnreach 1)

/-! ### Requests (R357 to R359) -/

/-- A packet with nothing but its addresses. -/
def FarPacket.blank : FarPacket :=
  { dest := 0, src := 0, secure := false, xid := 0, expo := 0, gen := 0, attempt := 0, off := 0, epoch := 0, bytes := 0, status := .ok,
    access := 0, group := 0, data := [], poison := [] }

/-- R359: the command epoch of a MOVE: node, tree 0xFFFF, context, ring and serial. -/
def cmdEpoch (node tree : Nat) (r : CmdRef) : Nat :=
  r.serial + 2 ^ 64 * r.ring + 2 ^ 80 * r.ctx + 2 ^ 96 * tree + 2 ^ 112 * node
def noTree : Nat := 0xFFFF

/-- The packet type of a request. -/
def FarKind.ptype : FarKind → Nat
  | .write => ptWrite | .read => ptReadReq | .commit => ptCommit | .bind => ptLink

/-- A request issued: it takes the next XID. None without a route. -/
def issueReq (s : State) (kind : FarKind) (k : FarPacket) (cmd : Option CmdRef) (ctx : Nat) : Option State :=
  let xid := s.fab.nextXid
  let k := { k with xid := xid, src := (selfNode s).getD 0xFFFF }
  let r : FarReq := { kind := kind, pkt := k, cmd := cmd, ctx := ctx, answered := false, resent := false, deadSince := none, got := [],
                      marks := [] }
  let add := fun (s : State) => s.setFab { s.fab with reqs := tblIns s.fab.reqs xid r, nextXid := xid + 1 }
  if kind == .bind then
    (routePort s k.dest k.secure xid).map (fun _ => add (s.setFab { s.fab with asks := k :: s.fab.asks }))
  else (sendFar s kind.ptype k (some xid)).map add

/-- The requests of a command. -/
def cmdReqs (s : State) (r : CmdRef) : List (Nat × FarReq) := s.fab.reqs.filter (fun e => e.2.cmd == some r && e.2.kind != .commit)

/-- The requests of a command dropped; its late answers find nothing. -/
def dropReqs (s : State) (r : CmdRef) : State :=
  s.setFab { s.fab with reqs := s.fab.reqs.filter (fun e => !(e.2.cmd == some r && e.2.kind != .commit)) }

/-- R359: a MOVE that is killed sends ABORT for what it has written. -/
def abortFar (s : State) (r : CmdRef) : State :=
  let ws := (cmdReqs s r).filter (fun e => e.2.kind == .write)
  let s := dropReqs s r
  match ws with
  | (_, w) :: _ => sendOrDrop s ptAbort { w.pkt with data := [], poison := [], bytes := 0, xid := s.fab.nextXid } none
  | [] => s

end Sys2Proof.Machine
end

