-- ==== Sys2Proof/Machine/Life.lean ====
section
/-! DEFINITION. Sys2Proof/Machine/Life.lean: the life of a fetched command after its fetch: charging, killing, freezing,
finishing with a record, event counters and latches (R107, R114, R138 to R150, R161, R167, R172, R178 to R182). -/

namespace Sys2Proof.Machine

open Sys2Proof

/-! ### Commands of a ring -/

def findCmd (r : Ring) (ser : Nat) : Option Cmd := r.cmds.find? (fun x => x.serial == ser)
def putCmd (r : Ring) (c : Cmd) : Ring := { r with cmds := r.cmds.map (fun x => if x.serial == c.serial then c else x) }
def State.cmd (s : State) (c n ser : Nat) : Option Cmd := findCmd (s.ring c n) ser
def State.setCmd (s : State) (c n : Nat) (x : Cmd) : State := s.setRing c n (putCmd (s.ring c n) x)

/-- A command whose attempt runs, waits or has ended without its commit (R138). -/
def Cmd.dispatched (x : Cmd) : Bool :=
  x.phase == .running || x.phase == .computed || x.phase == .deciding || x.phase == .latchWait || x.phase == .peers

/-- A command without final status. -/
def Cmd.open_ (x : Cmd) : Bool := x.phase != .done

/-- Ring registers of R151 by offset. -/
def ringReg (s : State) (c n off : Nat) : Nat := (s.reg (kWin c (0x1000 + 0x40 * n + off))).toNat
def ringHost (s : State) (c n : Nat) : Bool := bits (ringReg s c n 0) 12 1 == 1
def ringClass (s : State) (c n : Nat) : Nat := bits (ringReg s c n 0) 0 3
def ringIndex (s : State) (c n : Nat) : Nat := bits (ringReg s c n 0) 4 8
def ringHalts (s : State) (c n : Nat) : Bool := bits (ringReg s c n 0) 13 1 == 1
def ringIrqEn (s : State) (c n : Nat) : Bool := bits (ringReg s c n 0) 14 1 == 1
def ringVector (s : State) (c n : Nat) : Nat := bits (ringReg s c n 0) 16 11
def ringSq (s : State) (c n : Nat) : Nat := s.ctr64 (kWin c (0x1000 + 0x40 * n + 0x10))
def ringCq (s : State) (c n : Nat) : Nat := s.ctr64 (kWin c (0x1000 + 0x40 * n + 0x18))
def ringWaitTo (s : State) (c n : Nat) : Nat := ringReg s c n 0x0C

/-- All rings of a context. -/
def ringNums : List Nat := List.range 64

/-- Every command without final status of a context, with its ring. -/
def openCmds (s : State) (c : Nat) : List (Nat × Cmd) :=
  ringNums.flatMap (fun n => ((s.ring c n).cmds.filter Cmd.open_).map (fun x => (n, x)))

/-- Every listed ring as (context, ring, state). -/
def allRings (s : State) : List (Nat × Nat × Ring) := s.rings.map (fun e => (e.1 / 64, e.1 % 64, e.2))

/-- Every command of the module that meets `p`, as (context, ring, command). -/
def cmdsWhere (s : State) (p : Cmd → Bool) : List (Nat × Nat × Cmd) :=
  (allRings s).flatMap (fun e => (e.2.2.cmds.filter p).map (fun x => (e.1, e.2.1, x)))

/-! ### Accounts (R161, R167, R168) -/

/-- R461: ACLK of a compute die in MHz; the energy point until it changes. -/
def aclkMHz (s : State) (d : Nat) : Nat := tblGet 1200 s.aclk d

/-- R167: the clock of a class, in MHz; the array class's by the die of the field index. -/
def classMHz (s : State) (cls inst : Nat) : Nat :=
  if cls = 0 then aclkMHz s (inst / 64) else if cls = 1 ∨ cls = 4 then 1400 else if cls = 2 then 1000
  else if cls = 3 then 1600 else 1750

/-- The engine time of an attempt so far, or when it has ended, in ns (R161). -/
def attemptNs (s : State) (x : Cmd) : Nat :=
  match x.att with
  | some a => if x.phase == .computed || x.phase == .deciding || x.phase == .peers then (a.t1 - a.t0).toNat else (s.time - a.t0).toNat
  | none => 0

/-- The class an attempt is charged to; WAIT, SIGNAL and LATCH are charged nothing (R161). -/
def chargeClass (x : Cmd) : Option Nat := opClass (dOpcode x.desc)

/-- R161: the virtual time after a charge of `ns` at the context's weight. -/
def chargeVt (s : State) (c cls ns : Nat) : State :=
  let x := s.ctx c
  let w := s.regField (kWin c 4) 0 16
  let q := ns * 65536 + tblGet 0 x.rem cls
  s.setCtx c { x with vt := tblSet 0 x.vt cls (tblGet 0 x.vt cls + BitVec.ofNat 64 (q / w)), rem := tblSet 0 x.rem cls (q % w) }

/-- R161, R167, R168: an attempt ends; `charged` by R161. -/
def accountAttempt (s : State) (c : Nat) (x : Cmd) (charged : Bool) : State :=
  match chargeClass x, x.att with
  | some cls, some a =>
    let ns := attemptNs s x
    let cyc := BitVec.ofNat 64 (ns * classMHz s cls a.inst / 1000)
    let e := Config.attemptEnergy x.desc ns
    if charged then
      let s := chargeVt s c cls ns
      let y := s.ctx c
      s.setCtx c { y with cyc := tblSet 0 y.cyc cls (tblGet 0 y.cyc cls + cyc), model := y.model + e }
    else
      let y := s.ctx c
      let s := s.setCtx c { y with lost := tblSet 0 y.lost cls (tblGet 0 y.lost cls + cyc) }
      { s with sched := { s.sched with idleModel := s.sched.idleModel + e } }
  | _, _ => s

/-! ### Readers and pins -/

/-- R136, R211: a command reads old copies no longer. -/
def releaseReader (s : State) (r : CmdRef) : State :=
  { s with olds := s.olds.map (fun o => { o with readers := o.readers.filter (fun x => x != r) }) }

/-- R237: a command with final status pins no stook. -/
def unpin (s : State) (r : CmdRef) : State :=
  { s with com := { s.com with stooks := s.com.stooks.map (fun e => (e.1, { e.2 with pins := e.2.pins.filter (fun x => x != r) })) } }

/-! ### Kill (R138) -/

/-- R138, R152: the causes of a kill. -/
inductive KillCause where
  | preemption | poison | timeout | lostFlit | remap | freeze | cancel | flush | hostFault
deriving DecidableEq, Repr

/-- R152: the number of a cause. -/
def KillCause.code : KillCause → Nat
  | .preemption => 0 | .poison => 1 | .timeout => 2 | .lostFlit => 3 | .remap => 4 | .freeze => 5 | .cancel => 6 | .flush => 7
  | .hostFault => 8

/-- R161: kills by freeze, cancel and flush are charged. -/
def KillCause.charged (k : KillCause) : Bool := k == .freeze || k == .cancel || k == .flush

/-- R12, R138: no rerun follows a cancel or a flush. -/
def KillCause.final (k : KillCause) : Bool := k == .cancel || k == .flush

/-- R138 step 3, R207, R235: what an attempt allocated is released. -/
def releaseAttempt (s : State) (a : Attempt) : State :=
  let s := kvRelease s a.kv
  { s with grans := s.grans.filter (fun e => !a.grans.contains e.1) }

/-- R182: a waiting acquire leaves the list. -/
def leaveLatch (s : State) (r : CmdRef) (x : Cmd) : State :=
  if x.phase == .latchWait then
    let l := s.latch (fld x.desc 32 2)
    s.setLatch (fld x.desc 32 2) { l with waiters := l.waiters.filter (fun w => w != r) }
  else s

/-- R138: a dispatched command that has not begun its commit is killed: nothing staged is left, the trace record is written,
the cause counted, and the command is back at its ring's dispatch point. -/
def killCmd (s : State) (c n : Nat) (x : Cmd) (k : KillCause) : State :=
  let r : CmdRef := { ctx := c, ring := n, serial := x.serial }
  let s := if x.phase == .running then accountAttempt s c x k.charged else s
  let s := leaveLatch s r x
  let s := abortFar s r
  let s := releaseReader s r
  let s := match x.att with | some a => releaseAttempt s a | none => s
  let s := s.bump (kBar0 (0xA000 + 8 * k.code)) 1
  let s := { s with trace := { cmd := r, status := if k.final then .cancelled else .killed } :: s.trace }
  s.setCmd c n { x with phase := .waiting, att := none, out := none, rerun := true, kills := min 65535 (x.kills + 1),
                        preempted := x.preempted || k == .preemption }

/-- Every dispatched command of a ring is killed. -/
def killRing (s : State) (c n : Nat) (k : KillCause) : State :=
  ((s.ring c n).cmds.filter Cmd.dispatched).foldl (fun s x => killCmd s c n x k) s

/-- Every dispatched command of a context is killed. -/
def killCtx (s : State) (c : Nat) (k : KillCause) : State := ringNums.foldl (fun s n => killRing s c n k) s

/-- Every dispatched command of the module that meets `p` is killed. -/
def killWhere (s : State) (p : Cmd → Bool) (k : KillCause) : State :=
  (cmdsWhere s (fun x => x.dispatched && p x)).foldl (fun s e => killCmd s e.1 e.2.1 e.2.2 k) s

/-! ### Freeze (R171, R172) -/

/-- R149: a ring of a context that is frozen. -/
def freezeRing (s : State) (c n : Nat) : State :=
  let r := s.ring c n
  if r.st == .running || r.st == .halted then s.setRing c n { r with st := .frozen, before := r.st } else s

/-- R172 steps 1 and 2: the context is Frozen, its rings too, its dispatched commands are killed. Only an Active context
freezes (R157). -/
def beginFreeze (s : State) (c : Nat) (f : Freeze) : State :=
  let x := s.ctx c
  if x.st == .active then
    let s := s.setCtx c { x with st := .frozen, freezing := some f, freezeCount := min 65535 (x.freezeCount + 1) }
    let s := ringNums.foldl (fun s n => freezeRing s c n) s
    killCtx s c .freeze
  else s

/-- R107: a ring fetch or record write breached. -/
def areaBreach (s : State) (c n addr : Nat) (write : Bool) : State :=
  beginFreeze s c { cause := 1, write := write, serValid := false, ring := n, addr := addr, serial := 0 }

/-- Log entry 14: the breaching command's attempt ends without counting as a kill; it is charged (R161) and leaves nothing. -/
def dropAttempt (s : State) (c n : Nat) (x : Cmd) : State :=
  let s := if x.phase == .running then accountAttempt s c x true else s
  let s := releaseReader s { ctx := c, ring := n, serial := x.serial }
  let s := match x.att with | some a => releaseAttempt s a | none => s
  s.setCmd c n { x with phase := .waiting, att := none, out := none }

/-- R50, R171: a command breached a window. -/
def cmdBreach (s : State) (c n : Nat) (x : Cmd) (addr : Nat) (write : Bool) : State :=
  beginFreeze (dropAttempt s c n x) c { cause := 1, write := write, serValid := true, ring := n, addr := addr, serial := x.serial }

/-! ### Ring areas (R107) -/

/-- R107: an access to a ring's slots or completion area: the state with what it had to allocate, or none on a breach. -/
def ringArea (s : State) (c n : Nat) (write : Bool) (addr len : Nat) : Option State :=
  if ringHost s c n then (if (hostBreach s c write addr len).isNone then some s else none) else
  match objBody s.com c (addrObj addr) with
  | none => none
  | some (sid, b, al) =>
    if (write && (al || !b.writable)) || b.size * 2 ^ 21 < addrOff addr + len then none else
    match allocGrans s sid b (unallocated s sid (granRange (addrOff addr) len)) with
    | .done s => if (devBreach s c write addr len).isNone then some s else none
    | _ => none

/-- Bytes of a ring area. -/
def areaRead (s : State) (c n addr len : Nat) : List Byte :=
  if ringHost s c n then memRead s.com.host addr len else devBytes s.com c addr len

/-- Bytes written to a ring area. -/
def areaWrite (s : State) (c n addr : Nat) (bs : List Byte) : State :=
  if ringHost s c n then { s with com := { s.com with host := memWrite s.com.host addr bs } } else
  match cellOf s.com c addr with
  | some k => { s with com := putBytes s.com k bs }
  | none => s

/-- R109: where the record of the command whose first slot is `i` lies. -/
def recordAddr (s : State) (c n i : Nat) : Nat := ringCq s c n + 32 * (i % (s.ring c n).depth)
/-- R109: where slot `i` lies. -/
def slotAddr (s : State) (c n i : Nat) : Nat := ringSq s c n + 64 * (i % (s.ring c n).depth)

/-! ### Finishing (R109, R147 to R149) -/

/-- R109: RETIRE advances over commands whose status is final and whose record is written. -/
def retireRing (r : Ring) : Ring :=
  let rest := r.cmds.dropWhile (fun x => x.phase == .done && !x.recDue)
  { r with cmds := rest, retire := match rest with | x :: _ => x.slot | [] => r.head }

/-- R147, R148: the final record and the interrupt; R107: on a breach the context freezes and the record stays due. The first
byte that breaches is byte 8 of the record, which is written first (log entry 98). -/
def writeFinal (s : State) (c n : Nat) (x : Cmd) : State :=
  match ringArea s c n true (recordAddr s c n x.slot) 32 with
  | none => areaBreach s c n (recordAddr s c n x.slot + 8) true
  | some s =>
    let s := areaWrite s c n (recordAddr s c n x.slot) (finalRecord x)
    let s := s.setCmd c n { x with recDue := false }
    let s := if dIrq x.desc && ringIrqEn s c n then signalCtxVector s c (ringVector s c n) else s
    s.setRing c n (retireRing (s.ring c n))

/-- R149: a Running ring halts on an error status when HALT_ON_ERR is 1. -/
def haltRule (s : State) (c n : Nat) (st : Status) : State :=
  let r := s.ring c n
  if statusIsError st && ringHalts s c n && r.st == .running then s.setRing c n { r with st := .halted, lastErr := st } else s

/-- A command reaches a final status: record and interrupt (R147, R148). -/
def finishRecord (s : State) (c n : Nat) (x : Cmd) (st : Status) (nonfin : Bool) (det : Nat) : State :=
  let r : CmdRef := { ctx := c, ring := n, serial := x.serial }
  let s := unpin (releaseReader s r) r
  let y := { x with phase := .done, status := st, nonfinite := nonfin, detail := det, ns := attemptNs s x, doneNs := s.time,
                    att := none, out := none, param := none, recDue := true }
  let s := s.setCmd c n y
  let s := if st == .dataLost then notice (s.bump kPsnLost 1) 4 else if st == .degraded then notice s 3 else s
  writeFinal s c n y

/-- A command reaches a final status: record, interrupt, halt rule (R147 to R149). -/
def finishCmd (s : State) (c n : Nat) (x : Cmd) (st : Status) (nonfin : Bool) (det : Nat) : State :=
  haltRule (finishRecord s c n x st nonfin det) c n st

/-- R131: a command fails a check: final with no side effect, its attempt uncharged if it never ran. -/
def failCmd (s : State) (c n : Nat) (x : Cmd) (st : Status) (det : Nat) : State := finishCmd s c n x st false det

/-! ### Event counters (R144, R145) -/

/-- R144: an increment that would pass 2^64 − 1 leaves the counter there and is logged. -/
def evcInc (s : State) (c k n : Nat) : State :=
  let v := (s.evctr c k).toNat + n
  if 2 ^ 64 ≤ v then logEntry (s.setEvctr c k (BitVec.ofNat 64 (2 ^ 64 - 1))) 6 8 0 c k
  else s.setEvctr c k (BitVec.ofNat 64 v)

/-- R115, R136 step 3: the SIG_CTR increment of a commit; SIG_INC zero means none. -/
def sigEffect (s : State) (c : Nat) (d : List Byte) : State := if dSigInc d = 0 then s else evcInc s c (dSigCtr d) (dSigInc d)

/-! ### Latches (R178 to R182) -/

/-- R136, R179: a WAIT, SIGNAL or LATCH commits: its counter increment, record and interrupt. -/
def commitFence (s : State) (c n : Nat) (x : Cmd) (st : Status) : State :=
  finishCmd (sigEffect s c x.desc) c n x st false noField

/-- R178: the latch lies in the range of the context's CTX_LATCH. -/
def latchInRange (s : State) (c l : Nat) : Bool :=
  let b := 16 * s.regField (kWin c 8) 0 12
  b ≤ l && l < b + 16 * s.regField (kWin c 8) 16 13

/-- R180, R181: the latch passes to its first waiter, whose acquire commits with `st`, or takes state `free`. -/
def passLatch (s : State) (l : Nat) (st : Status) (free : LatchSt) : State :=
  let x := s.latch l
  match x.waiters with
  | [] => s.setLatch l { x with st := free }
  | w :: ws =>
    let s := s.setLatch l { x with st := .held w.ctx, waiters := ws }
    match s.cmd w.ctx w.ring w.serial with
    | some y => commitFence s w.ctx w.ring y st
    | none => s

/-- R181: a held latch breaks: its generation advances and its first waiter is granted with BROKEN_LATCH. -/
def breakLatch (s : State) (l : Nat) : State :=
  let x := s.latch l
  passLatch (s.setLatch l { x with gen := x.gen + 1 }) l .brokenLatch .broken

/-- R158 step 5: every latch the context holds breaks. -/
def breakLatches (s : State) (c : Nat) : State :=
  ((s.latches.filter (fun e => e.2.st == .held c)).map (·.1)).foldl breakLatch s

/-! ### Cancelling the commands of a ring (R150 step 4) -/

/-- The command of an unfetched item, as fetched. -/
def newCmd (d : List Byte) (serial slot nslots : Nat) : Cmd :=
  { desc := d, serial := serial, slot := slot, nslots := nslots, phase := .waiting, kills := 0, rerun := false,
    preempted := false, expiries := 0, injected := 0, hostFaults := [], param := none, seed := 0, degraded := false, att := none,
    out := none, status := .pending, nonfinite := false, detail := 0, ns := 0, doneNs := 0, recDue := false, joined := 0,
    cancelMark := false, avoid := none }

/-- R112, R113: the slots of the item at HEAD: its SLOTS field, or one where that is 0 or above 4. -/
def itemSlots (s : State) (c n : Nat) : Nat :=
  let v := ((areaRead s c n (slotAddr s c n (s.ring c n).head + 1) 1).headD 0).toNat
  if v = 0 ∨ 4 < v then 1 else v

/-- Slots between two indices, modulo 2 × DEPTH (R109). -/
def slotDist (r : Ring) (a b : Nat) : Nat := (b + 2 * r.depth - a) % (2 * r.depth)

/-- R112: the item at HEAD is complete. -/
def itemComplete (s : State) (c n : Nat) : Bool :=
  let r := s.ring c n
  r.head != r.tail && itemSlots s c n ≤ slotDist r r.head r.tail

/-- The descriptor of the item at HEAD. -/
def itemBytes (s : State) (c n k : Nat) : List Byte :=
  (List.range k).flatMap (fun i => areaRead s c n (slotAddr s c n ((s.ring c n).head + i)) 64)

/-- R114: the item at HEAD taken into the ring with the next serial. -/
def takeItem (s : State) (c n : Nat) : State × Cmd :=
  let k := itemSlots s c n
  let r := s.ring c n
  let x := newCmd (itemBytes s c n k) r.serial r.head k
  (s.setRing c n { r with head := (r.head + k) % (2 * r.depth), serial := r.serial + 1, cmds := r.cmds ++ [x] }, x)

/-- R150 step 4: every complete unfetched item takes a serial, in ring order. -/
def takeItems (c n : Nat) : Nat → State → State
  | 0, s => s
  | fuel + 1, s =>
    if itemComplete s c n && (ringArea s c n false (slotAddr s c n (s.ring c n).head) 64).isSome
    then takeItems c n fuel (takeItem s c n).1 else s

/-- R150 step 4: CANCELLED records for every command without final status. -/
def cancelOpen (s : State) (c n : Nat) : State :=
  ((s.ring c n).cmds.filter Cmd.open_).foldl (fun s x => finishCmd s c n x .cancelled false noField) s

/-- R150 steps 4 and 5: the flush of a ring ends in state `to`. -/
def flushEnd (s : State) (c n : Nat) (to_ : RingSt) : State :=
  let s := takeItems c n (s.ring c n).depth s
  let s := cancelOpen s c n
  let r := s.ring c n
  s.setRing c n { r with st := to_, tail := r.head, retire := r.head, epoch := r.epoch + 1,
                          cmds := r.cmds.filter (fun x => x.recDue) }

end Sys2Proof.Machine
end

