-- ==== Sys2Proof/Machine/Watch.lean ====
section
/-! DEFINITION. Sys2Proof/Machine/Watch.lean: crib scratch (R72, R487), the watermark monitors (R497 to R499), and how a row answers:
every change of a watched value is seen by its monitor. -/

namespace Sys2Proof.Machine

open Sys2Proof

/-! ### Crib scratch (R72, R487) -/

/-- R45: SCRATCH banks of a die under the configuration in force. -/
def cribBanks (s : State) (d : Nat) : Nat := (((secList s Sections.cribs).find? (fun e => e.die == d)).map (·.scratch)).getD 0

/-- R482: crib banks of a die retired (kind 10 of the resources: 32 × die + bank). -/
def banksRetired (s : State) (d : Nat) : Nat :=
  (s.rel.retired.filter (fun k => k / 2 ^ 16 == 10 && k % 2 ^ 16 / 32 == d)).length

/-- R487: scratch banks in service: retirements take the cache part first. -/
def cribInService (s : State) (d : Nat) : Nat := min (cribBanks s d) (32 - banksRetired s d)

/-- 64 KiB units of scratch that attempts hold on a die. -/
def scratchUsed (s : State) (d : Nat) : Nat :=
  ((cmdsWhere s Cmd.dispatched).map (fun e => match e.2.2.att with
    | some a => if a.scratchDie == d then a.scratch else 0
    | none => 0)).sum

/-- CRIB_STAT[d].FREE. -/
def scratchFree (s : State) (d : Nat) : Nat := 16 * cribInService s d - scratchUsed s d

/-! ### Monitors (R497 to R499) -/

def State.mon (s : State) (k : Nat) : Monitor := tblGet Monitor.reset s.mons k
def State.setMon (s : State) (k : Nat) (x : Monitor) : State := { s with mons := tblSet Monitor.reset s.mons k x }
def State.sensor (s : State) (i : Nat) : Sensor := tblGet Sensor.reset s.sensors i
def State.setSensor (s : State) (i : Nat) (x : Sensor) : State := { s with sensors := tblSet Sensor.reset s.sensors i x }

/-- DRIFT_USED. -/
def driftUsed (s : State) : Nat := (s.nodes.filter (fun e => e.2.used)).length

/-- R497: the number of indices of a kind; none for a reserved kind. -/
def kindIndices (k : Nat) : Option Nat :=
  match k with
  | 0x00 => some 1 | 0x01 => some 312 | 0x02 => some 16 | 0x03 => some 12 | 0x04 => some 1 | 0x05 => some 1 | 0x06 => some 1
  | 0x07 => some 4096 | 0x08 => some 4096 | 0x09 => some 4096 | 0x0A => some 1 | 0x0B => some 16
  | _ => none

/-- R497: the value of a source. -/
def sourceValue (s : State) (kind i : Nat) : Int :=
  match kind with
  | 0x01 => (BitVec.ofNat 16 (s.sensor i).value).toInt
  | 0x02 => loftFree s i
  | 0x03 => siloFree s i
  | 0x04 => kvFree s
  | 0x05 => driftUsed s
  | 0x06 => s.regField (kBar0 0x24024) 0 12
  | 0x07 => useLoft s i
  | 0x08 => useSilo s i
  | 0x09 => kvUse s i
  | 0x0A => s.elog.wr - s.elog.rd
  | 0x0B => scratchFree s i
  | _ => 0

/-- R497: a threshold: signed for sensors. -/
def threshold (kind v : Nat) : Int := if kind = 1 then (BitVec.ofNat 32 v).toInt else v

/-- R498: ABOVE set anew, with no crossing recorded. -/
def Monitor.enable (x : Monitor) (v : Int) : Monitor := { x with above := decide (threshold x.kind x.hi ≤ v), afresh := false }

/-- R498: one evaluation. -/
def Monitor.eval (x : Monitor) (v : Int) : Monitor :=
  if x.afresh then x.enable v
  else if !x.above && decide (threshold x.kind x.hi ≤ v) then
    { x with above := true, event := x.event || x.rise, count := if x.rise then min 65535 (x.count + 1) else x.count }
  else if x.above && decide (v ≤ threshold x.kind x.lo) then
    { x with above := false, event := x.event || x.fall, count := if x.fall then min 65535 (x.count + 1) else x.count }
  else x

/-- R498, R499: an enabled monitor evaluates its source; an EVENT that sets with IRQ_EN signals the REL_IRQ vector. -/
def evalMonitor (s : State) (k : Nat) : State :=
  let x := s.mon k
  if !x.en || x.kind == 0 then s else
  let y := x.eval (sourceValue s x.kind x.index)
  let s := s.setMon k y
  if y.irq && y.event && !x.event then signalModule s (kBar0 0x28004) else s

/-- Every monitor evaluates. -/
def watch (s : State) : State := (s.mons.map (·.1)).foldl evalMonitor s

/-! ### Background activities (R490, R494) -/

/-- The period of an activity in ns; zero: none. -/
def bgPeriod (s : State) (a : Nat) : Nat :=
  let f := fun lo => s.regField (kBar0 0x28060) lo 8
  match a with
  | 0 => 3600000000000 * min 168 (max 1 (f 0))
  | 1 => 60000000000 * max 1 (f 8)
  | 2 => 60000000000 * max 1 (f 24)
  | 3 => 1000000000 * s.regField (kBar0 0x20014) 0 16
  | 4 => 60000000000 * f 16
  | _ => 1000000

/-- Units of a pass (log entry 32): 64 KiB of Loft, 4 KiB of an array or bank, pseudo-channels, spare lanes, dies, sensors. -/
def bgTotal (a : Nat) : Nat :=
  match a with | 0 => 12582912 | 1 => 524288 | 2 => 1024 | 3 => 36 | 4 => 16 | _ => 312

/-- BG_STATUS[a]. -/
def kBg (a : Nat) : Nat := kBar0 (0x28080 + 4 * a)

/-- The period of the current pass has ended. -/
def bgLate (s : State) (a : Nat) : Bool :=
  bgPeriod s a != 0 && decide ((tblGet { began := 0, units := 0 } s.bg a).began.toNat + bgPeriod s a < s.time.toNat)

/-- R494: a pass completes, within its period or late. -/
def bgPassEnds (s : State) (a : Nat) : State :=
  let late := bgLate s a
  let w := s.reg (kBg a)
  let w := setField (setField w 16 16 (min 65535 (bits w.toNat 16 16 + 1))) 0 11 (if late && a ≤ 1 then 1024 else 0)
  let s := { s.setReg (kBg a) w with bg := tblIns s.bg a { began := s.time, units := 0 } }
  if late then logEntry (notice (s.setBits (kBg a) 0x800) 6) 7 8 0 noCtx a else s

/-- R490: one unit of an activity is done: DONE, and ESC when less than a tenth of the period remains. -/
def bgUnit (s : State) (a : Nat) : State :=
  let x := tblGet { began := 0, units := 0 } s.bg a
  if bgTotal a ≤ x.units + 1 then bgPassEnds s a else
  let w := setField (s.reg (kBg a)) 0 10 (1000 * (x.units + 1) / bgTotal a)
  let esc := a ≤ 1 && decide (9 * bgPeriod s a < 10 * (s.time.toNat - x.began.toNat))
  { s.setReg (kBg a) (if esc then w ||| 0x400#32 else w) with bg := tblIns s.bg a { x with units := x.units + 1 } }

/-! ### Wake events (R468, R469) -/

/-- PWR_IRQ, WAKE_CFG, WAKE_CAUSE. -/
def kPwrIrq : Nat := kBar0 0x2403C
def kWakeCfg : Nat := kBar0 0x24010
def kWakeCause : Nat := kBar0 0x24014

/-- R479: an event of PWR_IRQ: 16 STATE_DONE, 17 WAKE, 18 PHASE, 19 THERMAL, 20 LIMIT. -/
def pwrEvent (s : State) (b : Nat) : State := signalModule (s.setBits kPwrIrq (2 ^ b)) kPwrIrq

def State.setPwr (s : State) (p : Power) : State := { s with pwr := p }

/-- R469: the states that a source ends; of PCIE's events only the deassertion of PERST_N ends Fallow (R511). -/
def PwrState.endedBy (p : PwrState) (src : Nat) : Bool :=
  match p with
  | .run => false
  | .fallow => src == 0 || src == 2
  | _ => true

/-- R468: an entry handshake ends without the entry. -/
def abandonShake (s : State) (reason refuser : Nat) : State :=
  s.setPwr { s.pwr with shake := none, result := .notReady, reason := reason, refuser := refuser }

/-- R468, R469, R470: a wake event: a handshake is abandoned, Hold, Nap or Fallow is left; during the steps of an entry it waits
for their end. -/
def wakeAny (s : State) : State :=
  match s.pwr.moving with
  | some .run => s
  | some _ => pwrEvent (s.setPwr { s.pwr with wake := true }) 17
  | none =>
    let busy := s.pwr.shake.isSome
    let s := if busy then abandonShake s 2 0 else s
    if s.pwr.state != .run then pwrEvent (s.setPwr { s.pwr with moving := some .run, wake := false }) 17
    else if busy then pwrEvent s 17 else s

/-- R478: every sensor has read at least 20 °C below its trip point. -/
def cooled (s : State) : Bool :=
  s.sensors.all (fun e =>
    let v := (BitVec.ofNat 16 e.2.value).toInt
    if e.1 < 80 then decide (v ≤ 95 * 16) else if e.1 < 96 then decide (v ≤ 85 * 16)
    else if e.1 < 256 then decide (v ≤ 105 * 16) else true)

/-- R469: a source's event counts now: it ends the state, or an entry is under way. -/
def wakeMatters (s : State) (src : Nat) : Bool :=
  match s.pwr.moving with
  | some .run => s.pwr.state.endedBy src
  | some t => t.endedBy src
  | none => s.pwr.shake.isSome || s.pwr.state.endedBy src

/-- R469, R478: an event of a wake source: 0 COMP, 1 PCIE, 2 SIDEBAND, 3 FABRIC, 4 DOORBELL. In Fallow with PERST_N asserted the
module asserts WAKE_N, and waits for the deassertion. -/
def wakeSource (s : State) (src : Nat) : State :=
  if s.regField kWakeCfg (20 + src) 1 = 0 ∨ wakeMatters s src = false ∨ (s.pwr.tripped ∧ (src ≠ 2 ∨ cooled s = false)) then s else
  let s := s.setBits kWakeCause (2 ^ src)
  if s.pwr.state = .fallow ∧ s.pwr.moving = none ∧ s.pins.perst then
    { s with pins := { s.pins with wakeN := s.pins.wakeN || (s.fn 0).pme } }
  else wakeAny s

/-! ### What a row answers -/

/-- R464, R511, R512: the module's logic has power and its dies have started: from start-up step 6, and not in Fallow but while it
is being left. -/
def State.up (s : State) : Bool :=
  decide (6 ≤ s.boot.step) && (s.pwr.state != .fallow || s.pwr.moving == some .run)

/-- What a row that has run answers: every watched value that it changed is seen. -/
def done (s : State) : Out := .next (watch s)

/-- R533: a row of the always-on domain, or of the reset and start-up logic, which P3V3_AUX supplies. -/
def aon (s t : State) : Out := if s.pins.aux then done t else .next s

/-- A row of the module's logic: nothing operates while it is off. -/
def hub (s t : State) : Out := if s.up then done t else .next s

end Sys2Proof.Machine
end

