-- ==== Sys2Proof/Machine/Topology.lean ====
section
/-! DEFINITION. Sys2Proof/Machine/Topology.lean: field indices and physical slots, rotation and doubling, die links and routes,
fault events and retirement (R15 to R37, R481 to R488, R493), and the rows ROTATION_*, AGEING_TICK, DIE_LINK_*. -/

namespace Sys2Proof.Machine

open Sys2Proof

/-! ### Slots and field indices (R17 to R22, R34, R35) -/

/-- R18: field index `f` is served by CD(f div 64) slot (f mod 64). -/
def ArrayEnt.reset (f : Nat) : ArrayEnt := { die := f / 64, slot := f % 64, st := .own }
/-- R18, R35: slots 64 to 67 of a die are spare. -/
def PhysSlot.reset (k : Nat) : PhysSlot :=
  if k % 68 < 64 then { st := .inService, field := 64 * (k / 68) + k % 68, doubled := none }
  else { st := .spare, field := 0, doubled := none }

def State.arrayEnt (s : State) (f : Nat) : ArrayEnt := tblGet (ArrayEnt.reset f) s.topo.arrays f
def State.setArray (s : State) (f : Nat) (x : ArrayEnt) : State :=
  { s with topo := { s.topo with arrays := tblSet (ArrayEnt.reset f) s.topo.arrays f x } }
/-- A slot by its key 68 × die + slot. -/
def State.slot (s : State) (k : Nat) : PhysSlot := tblGet (PhysSlot.reset k) s.topo.slots k
def State.setSlot (s : State) (k : Nat) (x : PhysSlot) : State :=
  { s with topo := { s.topo with slots := tblSet (PhysSlot.reset k) s.topo.slots k x } }

/-- R20: one remap event. -/
def mapEvent (s : State) : State := { s with topo := { s.topo with mapGen := s.topo.mapGen + 1 } }

/-- R26: the ageing count of a slot (R493). -/
def slotAge (s : State) (k : Nat) : Nat := tblGet 0 s.rel.ageing k

/-- The slots of a die in a state. -/
def dieSlots (s : State) (d : Nat) (st : SlotSt) : List Nat :=
  ((List.range 68).map (fun i => 68 * d + i)).filter (fun k => (s.slot k).st == st)

/-- The spare slots that no rotation is using, lowest first. -/
def freeSpares (s : State) (d : Nat) : List Nat :=
  (dieSlots s d .spare).filter (fun k => (tblFind s.topo.rotations d).all (fun r => r.spare != k))

/-- R21: the host of a doubled field index: the lowest other field index of its plot on its die, else of its plot; without a
plan, of its die. -/
def hostOf (s : State) (f : Nat) : Option Nat :=
  let own := fun g => g != f && (s.arrayEnt g).st != .doubled
  match plotOfField s f with
  | some p =>
    let l := (plotFields s p).filter own
    match l.find? (fun g => g / 64 == f / 64) with
    | some g => some g
    | none => l.head?
  | none => ((List.range 64).map (fun i => 64 * (f / 64) + i)).find? own

/-- R21, R34, R35: a doubled field index placed on its host. -/
def placeDoubled (s : State) (f : Nat) : State :=
  let s := { s with topo := { s.topo with
    slots := s.topo.slots.map (fun e => if e.2.doubled == some f then (e.1, { e.2 with doubled := none }) else e) } }
  match hostOf s f with
  | some g =>
    let h := s.arrayEnt g
    let k := 68 * h.die + h.slot
    (s.setArray f { die := h.die, slot := h.slot, st := .doubled }).setSlot k { s.slot k with doubled := some f }
  | none => s.setArray f { s.arrayEnt f with st := .doubled }

/-- R21: the doubled field indices placed again, after a change of plots. -/
def placeDoubledAll (s : State) : State :=
  ((List.range 1024).filter (fun f => (s.arrayEnt f).st == .doubled)).foldl placeDoubled s

/-- R138: commands on a field index are killed with cause remap. -/
def killField (s : State) (f : Nat) : State :=
  killWhere s (fun x => opClass (dOpcode x.desc) == some 0 && x.att.any (fun a => a.inst == f)) .remap

/-- R20: a spare takes a field index over from an outgoing slot, with the doubled index that it hosts. -/
def takeOver (s : State) (f from_ to_ : Nat) (old : SlotSt) : State :=
  let o := s.slot from_
  let s := s.setSlot to_ { st := .inService, field := f, doubled := o.doubled }
  let s := s.setSlot from_ { st := old, field := if old == .spare then 0 else o.field, doubled := none }
  let s := s.setArray f { die := to_ / 68, slot := to_ % 68, st := .own }
  match o.doubled with
  | some g => s.setArray g { die := to_ / 68, slot := to_ % 68, st := .doubled }
  | none => s

/-- R484: a rotation abandoned: its copy discarded, its outgoing slot In service. -/
def abandonRotation (s : State) (d : Nat) : State :=
  match tblFind s.topo.rotations d with
  | some r =>
    let o := s.slot r.from_
    let s := if o.st == .moving then (s.setSlot r.from_ { o with st := .inService }).setArray o.field
               { die := r.from_ / 68, slot := r.from_ % 68, st := .own } else s
    let s := s.setSlot r.spare { st := .spare, field := 0, doubled := none }
    mapEvent { s with topo := { s.topo with rotations := tblDel s.topo.rotations d } }
  | none => s

/-! ### Retirement (R20, R21, R482 to R484) -/

/-- Kinds of resources: array slot (68 × die + slot), engine of class 1 to 6 (its instance), sequence walker, Silo port, Loft
pseudo-channel (68 × stack + number), crib bank (32 × die + bank), Caravan lane (16 × port + lane), phase, management core. -/
def kSlot : Nat := 0
def kWalker : Nat := 7
def kSiloPort : Nat := 8
def kPch : Nat := 9
def kBank : Nat := 10
def kLane : Nat := 11
def kPhase : Nat := 12
def kCore : Nat := 13
def resKey (kind i : Nat) : Nat := kind * 2 ^ 16 + i

/-- The resource has been retired. -/
def isRetired (s : State) (k : Nat) : Bool := s.rel.retired.contains k

/-- R483, R500: a retirement: in force at once, to be recorded, noticed and logged. -/
def markRetired (s : State) (k unit : Nat) : State :=
  logEntry (notice { s with rel := { s.rel with retired := setIns s.rel.retired k } } 0) 2 unit 0 noCtx (k % 2 ^ 16)

/-- R500: SPARE_LOW and SPARE_OUT when a number of spares has fallen to one or to none. -/
def spareNotice (s : State) (left : Nat) : State := if left = 1 then notice s 1 else if left = 0 then notice s 2 else s

/-- R20, R21, R484: a slot past its permanent threshold. -/
def retireSlot (s : State) (k : Nat) : State :=
  let d := k / 68
  let x := s.slot k
  match x.st with
  | .retired => s
  | .spare =>
    let s := if (tblFind s.topo.rotations d).any (fun r => r.spare == k) then abandonRotation s d else s
    let s := mapEvent (markRetired (s.setSlot k { x with st := .retired, field := 0 }) (resKey kSlot k) 0)
    spareNotice s (freeSpares s d).length
  | _ =>
    let s := killField s x.field
    let s := match x.doubled with | some g => killField s g | none => s
    let rotating := (tblFind s.topo.rotations d).any (fun r => r.from_ == k)
    let s := if rotating || ((freeSpares s d).isEmpty && (tblFind s.topo.rotations d).isSome) then abandonRotation s d else s
    let s := mapEvent (markRetired s (resKey kSlot k) 0)
    match (freeSpares s d).head? with
    | some n => spareNotice (takeOver s x.field k n .retired) (freeSpares (takeOver s x.field k n .retired) d).length
    | none =>
      let s := s.setSlot k { st := .retired, field := x.field, doubled := none }
      let s := placeDoubled s x.field
      match x.doubled with
      | some g => placeDoubled s g
      | none => s

/-- R482: an event against a resource: the time kept for `window` ns, the number of events now counting. -/
def faultEvent (s : State) (k window : Nat) : State × Nat :=
  let l := s.time :: (tblGet [] s.rel.faults k).filter (fun t => s.time.toNat < t.toNat + window)
  ({ s with rel := { s.rel with faults := tblIns s.rel.faults k l } }, l.length)

/-- 24 h and 1 h in ns. -/
def day : Nat := 86400000000000
def hour : Nat := 3600000000000

/-- R481, R482: a transient event of a resource whose threshold is 3 within 24 h: an array slot or an engine. -/
def engineEvent (s : State) (cls inst : Nat) : State :=
  if cls = 0 then
    let e := s.arrayEnt inst
    let k := 68 * e.die + e.slot
    let (s, n) := faultEvent (logEntry s 1 0 0 noCtx k) (resKey kSlot k) day
    if n < 3 then s else retireSlot s k
  else
    let (s, n) := faultEvent (logEntry s 1 7 0 noCtx (resKey cls inst)) (resKey cls inst) day
    if n < 3 then s else markRetired s (resKey cls inst) 7

/-! ### Die links and routes (R24 to R26) -/

/-- Dies: CD0 to CD15, then FD0, FD1, XD, HD as 16 to 19 (R175). -/
def dieFD0 : Nat := 16
def dieFD1 : Nat := 17
def dieXD : Nat := 18
def dieHD : Nat := 19

/-- R24: modules built of a link. -/
def linkBuilt (n : Nat) : Nat := if n ≤ 21 then 4 else if n ≤ 39 then 2 else 1

def D2DLink.reset : D2DLink := { up := 0, repairs := 0 }
def State.link (s : State) (n : Nat) : D2DLink := tblGet D2DLink.reset s.topo.links n
def State.setLink (s : State) (n : Nat) (x : D2DLink) : State :=
  { s with topo := { s.topo with links := tblSet D2DLink.reset s.topo.links n x } }

/-- R25 rule 1: between compute dies: along the source row, then across. -/
def routeCD (a b : Nat) : List Nat :=
  let row := a / 8
  let lo := min (a % 8) (b % 8)
  let hi := max (a % 8) (b % 8)
  (List.range (hi - lo)).map (fun i => 7 * row + lo + i) ++ (if a / 8 = b / 8 then [] else [14 + b % 8])

/-- The fabric die of a compute die's row. -/
def rowFD (a : Nat) : Nat := if a < 8 then dieFD0 else dieFD1

/-- R25: the links from die `a` to die `b`, where `a ≤ b`; `k` chooses the column between the fabric dies. -/
def routeUp (a b k : Nat) : List Nat :=
  if a = b then [] else
  if b < 16 then routeCD a b else
  if b ≤ 17 then
    if a < 16 then
      let c := if rowFD a = b then a else if a < 8 then a + 8 else a - 8
      routeCD a c ++ [22 + c]
    else [22 + k % 8, 14 + k % 8, 30 + k % 8]
  else if b = dieXD then
    if a < 16 then (if a < 8 then 38 :: routeCD 0 a else 39 :: routeCD 8 a) else [40 + (a - 16)]
  else
    if a < 16 then (if a < 8 then 43 :: routeCD 7 a else 44 :: routeCD 15 a)
    else if a = dieXD then [42] else [45 + (a - 16)]

/-- R25: the links between two dies; log entry 10: a pair is routed alike in both directions where R25 names only one. -/
def routeOf (a b k : Nat) : List Nat := if a < 16 ∧ b < 16 then routeCD a b else if a ≤ b then routeUp a b k else routeUp b a k

/-- R26: some link of the route is narrowed or detoured. -/
def routeDegraded (s : State) (a b k : Nat) : Bool := (routeOf a b k).any (fun n => (s.link n).up < linkBuilt n)

/-- The die on which an engine instance works (R28, R34). -/
def engineDie (s : State) (cls inst : Nat) : Nat :=
  if cls = 0 then (s.arrayEnt inst).die else if cls ≤ 2 then inst else if cls = 3 then inst / 16 else if cls = 4 then dieXD
  else if cls = 5 then 16 + inst / 18 else 16 + inst / 2

/-- The die on which a granule's bytes are reached: its stack's compute die, or XD for Silo. -/
def granDie (g : Gran) : Nat := if g.tier == .silo then dieXD else g.heap / 2 ^ 36

/-- The (die, granule number) pairs that an attempt's granules lie at. -/
def granPlaces (s : State) (ks : List Nat) : List (Nat × Nat) :=
  ks.filterMap (fun k => (tblFind s.grans k).map (fun g => (granDie g, k % 8)))

/-! ### Rows -/

/-- ROTATION_START (R493): the in-service slot with the highest ageing count starts moving to the spare with the lowest when
the first exceeds the second by more than 1 %. -/
def rotationStart (s : State) (d : Nat) : State :=
  if 16 ≤ d ∨ (tblFind s.topo.rotations d).isSome ∨ s.regField (kBar0 0x28060) 16 8 = 0 then s else
  let s := bgUnit s 4
  match firstBy (fun a b => slotAge s b < slotAge s a) (dieSlots s d .inService),
        firstBy (fun a b => slotAge s a < slotAge s b) (freeSpares s d) with
  | some o, some n =>
    if 101 * slotAge s n < 100 * slotAge s o then
      let x := s.slot o
      let s := s.setSlot o { x with st := .moving }
      let s := s.setArray x.field { s.arrayEnt x.field with st := .moving }
      mapEvent { s with topo := { s.topo with rotations := tblIns s.topo.rotations d { from_ := o, spare := n, copied := false } } }
    else s
  | _, _ => s

/-- The field index runs a command. -/
def fieldBusy (s : State) (f : Nat) : Bool :=
  !(cmdsWhere s (fun x => x.phase == .running && opClass (dOpcode x.desc) == some 0 && x.att.any (fun a => a.inst == f))).isEmpty

/-- ROTATION_COPY (R20): at a command boundary of the outgoing slot its array SRAM is copied; both slots report the index. -/
def rotationCopy (s : State) (d : Nat) : State :=
  match tblFind s.topo.rotations d with
  | some r =>
    let o := s.slot r.from_
    if r.copied || fieldBusy s o.field || o.doubled.any (fieldBusy s) then s else
    let s := s.setSlot r.spare { s.slot r.spare with field := o.field }
    { s with topo := { s.topo with rotations := tblIns s.topo.rotations d { r with copied := true } } }
  | none => s

/-- ROTATION_END (R20): the spare takes the field index, the outgoing slot becomes Spare. -/
def rotationEnd (s : State) (d : Nat) : State :=
  match tblFind s.topo.rotations d with
  | some r =>
    if !r.copied then s else
    let s := takeOver s (s.slot r.from_).field r.from_ r.spare .spare
    mapEvent { s with topo := { s.topo with rotations := tblDel s.topo.rotations d } }
  | none => s

/-- AGEING_TICK (R493): every in-service slot's count advances by its calibrated factor. -/
def ageingTick (s : State) : State :=
  let ks := (List.range 1088).filter (fun k => (s.slot k).st == .inService || (s.slot k).st == .moving)
  ks.foldl (fun s k => { s with rel := { s.rel with
    ageing := tblSet 0 s.rel.ageing k (slotAge s k + Config.ageFactor k s.time.toNat) } }) s

/-- Offset of D2D_LINK[n] (R37). -/
def kLink (n : Nat) : Nat := kBar0 (0x7400 + 4 * n)

/-- DIE_LINK_CRC_RETRY (R26, R37): the link layer retries; a lane repair or a retrain is counted, each count holding at 255. -/
def dieLinkCrcRetry (s : State) (n : Nat) (repaired retrained : Bool) : State :=
  if 47 ≤ n then s else
  let x := s.link n
  let s := if repaired then s.setLink n { x with repairs := min 255 (x.repairs + 1) } else s
  if retrained then s.setReg (kLink n) (setField (s.reg (kLink n)) 16 8 (min 255 (s.regField (kLink n) 16 8 + 1))) else s

/-- The granules that an attempt of a command touches, from its snapshot's side: those its accesses named. -/
def attemptCrosses (s : State) (x : Cmd) (n : Nat) : Bool :=
  match x.att, opClass (dOpcode x.desc) with
  | some a, some cls => (granPlaces s a.touched).any (fun p => (routeOf (engineDie s cls a.inst) p.1 p.2).contains n)
  | _, _ => false

/-- DIE_LINK_DOWN (R26): a link narrows to `up` modules, or goes down at 0: commands with data in flight on it are killed. -/
def dieLinkDown (s : State) (n up : Nat) : State :=
  let x := s.link n
  if 47 ≤ n ∨ x.up ≤ up then s else
  let s := if up = 0 then killWhere s (fun y => y.phase == .running && attemptCrosses s y n) .remap else s
  let s := s.setLink n { x with up := up }
  logEntry s 3 5 0 noCtx n

/-- D2D_LINK_RESTORED (R26): the link returns to full width. -/
def d2dLinkRestored (s : State) (n : Nat) : State :=
  if 47 ≤ n then s else s.setLink n { s.link n with up := linkBuilt n }

def execRotationStart (die : Nat) (s : State) : Out := hub s (rotationStart s die)
def execRotationCopy (die : Nat) (s : State) : Out := hub s (rotationCopy s die)
def execRotationEnd (die : Nat) (s : State) : Out := hub s (rotationEnd s die)
def execAgeingTick (s : State) : Out := hub s (ageingTick s)
def execDieLinkCrcRetry (link : Nat) (repaired retrained : Bool) (s : State) : Out :=
  hub s (dieLinkCrcRetry s link repaired retrained)
def execDieLinkDown (link up : Nat) (s : State) : Out := hub s (dieLinkDown s link up)
def execD2dLinkRestored (link : Nat) (s : State) : Out := hub s (d2dLinkRestored s link)

end Sys2Proof.Machine
end

