-- ==== Sys2Proof/Machine/Update.lean ====
section
/-! DEFINITION. Sys2Proof/Machine/Update.lean: UPDATE and its rules (R309 to R328): checks, the norm vote, the decision, the
element-wise and the matrix rules. -/

namespace Sys2Proof.Machine

open Sys2Proof

/-! ### The descriptor (R119, R309) -/

def upParam (d : List Byte) : Nat := fld d 32 8
def upRule (d : List Byte) : Nat := fld d 44 1
def upRound (d : List Byte) : Nat := fld d 45 1
def upPurpose (d : List Byte) : Nat := fld d 46 1
def upStep (d : List Byte) : Nat := fld d 48 4
def upStream (d : List Byte) : Nat := fld d 52 5
def upElems (d : List Byte) : Nat := fld d 64 8

def ruleMomentum : Nat := 0x00
def ruleAdaptive : Nat := 0x01
def ruleSignmom : Nat := 0x02
def rulePrep : Nat := 0x10
def ruleIter : Nat := 0x11
def ruleApply : Nat := 0x12
def ruleStats : Nat := 0x18
def ruleRoot : Nat := 0x19
def ruleKron : Nat := 0x1A
def ruleNorm : Nat := 0x20
def ruleDecide : Nat := 0x21
def allRules : List Nat := [0x00, 0x01, 0x02, 0x10, 0x11, 0x12, 0x18, 0x19, 0x1A, 0x20, 0x21]

/-- R309: the element-wise rules; the matrix rules. -/
def isElemRule (r : Nat) : Bool := r ≤ 2
def isMatrixRule (r : Nat) : Bool := 0x10 ≤ r && r ≤ 0x1A

/-- Check 3. -/
def updFormat (d : List Byte) : List Nat :=
  reservedAt d [(47, 1), (57, 7), (72, 56)] ++ notIn (upRule d) allRules 44 ++ badAt (2 < upRound d) 45
    ++ badAt (upRound d == 2 && !srPurposeOk (upPurpose d)) 46
/-- Check 4. -/
def updLength (d : List Byte) : List Nat :=
  outside (upElems d) 1 (2 ^ 40) 64 ++ badAt (upRule d == ruleDecide && upElems d != 1) 64

/-! ### The parameter block (R310, R315, R320, R322, R323) -/

def upW (p : List Byte) : Nat := fld p 0 8
def upG (p : List Byte) : Nat := fld p 8 8
def upS1 (p : List Byte) : Nat := fld p 16 8
def upS2 (p : List Byte) : Nat := fld p 24 8
def upDec (p : List Byte) : Nat := fld p 32 8
def upStepIn (p : List Byte) : Nat := fld p 40 8
def upPos0 (p : List Byte) : Nat := fld p 48 6
def upFmtW (p : List Byte) : Nat := fld p 54 1
def upFmtG (p : List Byte) : Nat := fld p 55 1
def upFmtS (p : List Byte) : Nat := fld p 56 1
def upFlag (p : List Byte) (b : Nat) : Bool := bits (fld p 57 1) b 1 == 1
def upNesterov (p : List Byte) : Bool := upFlag p 0
def upProvisional (p : List Byte) : Bool := upFlag p 1
def upSide (p : List Byte) : Bool := upFlag p 2
def upRoot4 (p : List Byte) : Bool := upFlag p 3
def upDecCtr (p : List Byte) : Nat := fld p 58 1
def upWd (p : List Byte) : Word := fldW p 60
def upLrMul (p : List Byte) : Word := fldW p 64
def upDecVal (p : List Byte) : Nat := fld p 72 8
def upB1 (p : List Byte) : Word := fldW p 80
def upOb1 (p : List Byte) : Word := fldW p 84
def upB2 (p : List Byte) : Word := fldW p 88
def upOb2 (p : List Byte) : Word := fldW p 92
def upEps0 (p : List Byte) : Word := fldW p 96
def upRows (p : List Byte) : Nat := fld p 80 4
def upCols (p : List Byte) : Nat := fld p 84 4
def upT (p : List Byte) : Nat := fld p 88 8
def upBorrow (p : List Byte) : Nat := fld p 96 2
def upBorrowCount (p : List Byte) : Nat := fld p 98 1
def upIter (p : List Byte) : Nat := fld p 99 1
def upCa (p : List Byte) : Word := fldW p 100
def upCb (p : List Byte) : Word := fldW p 104
def upCc (p : List Byte) : Word := fldW p 108
def upBeta (p : List Byte) : Word := fldW p 112
def upObeta (p : List Byte) : Word := fldW p 116
def upEps (p : List Byte) : Word := fldW p 120
def upOscale (p : List Byte) : Word := fldW p 124

/-- Finite and not negative (R314, R320). -/
def finiteNonNeg (w : Word) : Bool := !nonFinite w && (!negF32 w || isZeroF32 w)
/-- Positive finite, or +0 (R315). -/
def positiveOrZero (w : Word) : Bool := w == 0#32 || (!nonFinite w && !negF32 w && !isZeroF32 w)
/-- A signed 16-bit field. -/
def signed16 (v : Nat) : Int := if v < 32768 then (v : Int) else (v : Int) - 65536
/-- NSHIFT is from −256 to 256 (R310, R315). -/
def shiftOk (v : Nat) : Bool := -256 ≤ signed16 v && signed16 v ≤ 256

/-- Which operands a rule uses (R309). -/
def usesW (r : Nat) : Bool := isElemRule r || r == ruleApply || r == ruleKron
def usesG (r : Nat) : Bool := isElemRule r || r == rulePrep || r == ruleStats || r == ruleKron
def usesS1 (r : Nat) : Bool := isElemRule r || r == rulePrep || r == ruleStats || r == ruleRoot
def usesS2 (r : Nat) : Bool := r == ruleAdaptive || r == rulePrep || r == ruleIter || r == ruleApply || r == ruleRoot || r == ruleKron
def usesT (r : Nat) : Bool := r == ruleIter || r == ruleRoot || r == ruleKron
/-- R309, R320: S1 or S2 is held in FMT_S. -/
def usesFmtS (r : Nat) : Bool := isElemRule r || r == rulePrep

/-- R320: the UFLAGS bits a rule uses. -/
def flagMask (r : Nat) : Nat :=
  (if r == ruleMomentum || r == rulePrep then 1 else 0) + (if isElemRule r then 2 else 0) + (if r == ruleRoot then 12 else 0)

/-- R322, R323: the body fields (offset, size) a rule uses. -/
def bodyFields (r : Nat) : List (Nat × Nat) :=
  if r = ruleMomentum then [(80, 4)]
  else if r = ruleAdaptive then [(80, 4), (84, 4), (88, 4), (92, 4), (96, 4)]
  else if r = ruleSignmom then [(80, 4), (84, 4), (88, 4), (92, 4)]
  else [(80, 4), (84, 4)] ++ (if usesT r then [(88, 8)] else [])
    ++ (if r == ruleIter || r == ruleStats || r == ruleRoot || r == ruleKron then [(96, 2), (98, 1)] else [])
    ++ (if r == ruleIter || r == ruleRoot then [(99, 1)] else [])
    ++ (if r = ruleIter then [(100, 4), (104, 4), (108, 4)] else [])
    ++ (if r == rulePrep || r == ruleStats then [(112, 4)] else []) ++ (if r = ruleStats then [(116, 4)] else [])
    ++ (if r == rulePrep || r == ruleRoot then [(120, 4)] else [])
    ++ (if r == ruleApply || r == ruleKron then [(124, 4)] else [])

/-- The bytes of the body that a rule does not use. -/
def unusedBody (r : Nat) : List (Nat × Nat) :=
  ((List.range 48).map (fun i => 80 + i)).filterMap (fun o =>
    if (bodyFields r).any (fun f => decide (f.1 ≤ o) && decide (o < f.1 + f.2)) then none else some (o, 1))

/-- The rule borrows arrays (R323, R324). -/
def borrows (r : Nat) : Bool := r == ruleIter || r == ruleStats || r == ruleRoot || r == ruleKron
/-- R324: the borrowed field indices. -/
def borrowed (d p : List Byte) : List Nat :=
  if borrows (upRule d) then (List.range (upBorrowCount p)).map (fun i => upBorrow p + i) else []

/-- Check 7 part 1, FORMAT, rules 0x00 to 0x1A. -/
def ruleParamFormat (s : State) (c : Nat) (d p : List Byte) : List Nat :=
  let r := upRule d
  let zero := fun (used : Bool) (v o : Nat) => badAt (!used && v != 0) o
  (zero (usesW r) (upW p) 0 ++ zero (usesG r) (upG p) 8 ++ zero (usesS1 r) (upS1 p) 16 ++ zero (usesS2 r) (upS2 p) 24
    ++ zero (upProvisional p) (upStepIn p) 40 ++ badAt (usesW r && upFmtW p == 4 && upPos0 p % 32 != 0 && isElemRule r) 48
    ++ (if usesW r then notIn (upFmtW p) [1, 4] 54 else []) ++ badAt (usesG r && 1 < upFmtG p) 55
    ++ badAt (usesFmtS r && 1 < upFmtS p) 56 ++ badAt (fld p 57 1 &&& flagMask r != fld p 57 1) 57
    ++ reservedAt p ([(59, 1), (68, 4)] ++ unusedBody r) ++ badAt (!finiteNonNeg (upWd p)) 60
    ++ badAt (!finiteNonNeg (upLrMul p)) 64
    ++ badAt ((r == ruleIter || r == ruleRoot) && 7 < upIter p) 99
    ++ badAt (borrows r && decide (upBorrowCount p ≤ 64)
        && !((borrowed d p).all (fun f => fieldInPlot s (ctxPlot s c) f))) 96).map inParam

/-- Check 7 part 1, LENGTH, rules 0x00 to 0x1A. -/
def ruleParamLength (d p : List Byte) : List Nat :=
  let r := upRule d
  if isElemRule r then
    badAt (upFmtW p == 4 && upElems d % 32 != 0) 64 ++ badAt (upRound d == 2 && decide (2 ^ 48 < upPos0 p + upElems d)) (inParam 48)
  else
    badAt (upRows p < 64 || 16384 < upRows p || upRows p % 64 != 0) (inParam 80)
      ++ badAt (upCols p < 64 || 16384 < upCols p || upCols p % 64 != 0) (inParam 84)
      ++ badAt (upElems d != upRows p * upCols p) 64
      ++ (if borrows r then outside (upBorrowCount p) 1 64 (inParam 98) else [])
      ++ badAt (upRound d == 2 && decide (2 ^ 48 < upPos0 p + upRows p * upCols p)) (inParam 48)

/-- NORM's block (R310). -/
def nmAcc (p : List Byte) : Nat := fld p 8 8
def nmInit (p : List Byte) : Bool := bits (fld p 17 1) 0 1 == 1
def nmShift (p : List Byte) : Int := signed16 (fld p 18 2)
def normFormat (p : List Byte) : List Nat :=
  (badAt (1 < fld p 16 1) 16 ++ badAt (1 < fld p 17 1) 17 ++ badAt (!shiftOk (fld p 18 2)) 18 ++ reservedAt p [(20, 108)]).map inParam

/-- DECIDE's block (R315). -/
def dcVote (p : List Byte) : Nat := fld p 0 8
def dcStepIn (p : List Byte) : Nat := fld p 8 8
def dcPrev (p : List Byte) : Nat := fld p 16 8
def dcDec (p : List Byte) : Nat := fld p 24 8
def dcShift (p : List Byte) : Int := signed16 (fld p 32 2)
def dcPolicy (p : List Byte) : Nat := fld p 34 1
def dcClip (p : List Byte) : Word := fldW p 36
def dcAbsurd (p : List Byte) : Word := fldW p 40
def dcBeta (p : List Byte) : Word := fldW p 44
def dcWarmup (p : List Byte) : Nat := fld p 48 4
def decideFormat (p : List Byte) : List Nat :=
  (badAt (!shiftOk (fld p 32 2)) 32 ++ badAt (1 < dcPolicy p) 34 ++ reservedAt p [(35, 1), (52, 76)]
    ++ badAt (!positiveOrZero (dcClip p)) 36 ++ badAt (!positiveOrZero (dcAbsurd p)) 40
    ++ badAt (nonFinite (dcBeta p) || negF32 (dcBeta p) || isZeroF32 (dcBeta p) || fLt f32One (dcBeta p)) 44).map inParam

/-- Check 7 part 1. -/
def updContents (s : State) (c : Nat) (d p : List Byte) : Chk :=
  if upRule d = ruleNorm then leastFail .format (normFormat p)
  else if upRule d = ruleDecide then leastFail .format (decideFormat p)
  else firstFail [leastFail .format (ruleParamFormat s c d p), leastFail .length (ruleParamLength d p)]

/-! ### Planes -/

/-- R325: r and c of X. -/
def orthR (p : List Byte) : Nat := min (upRows p) (upCols p)
def orthC (p : List Byte) : Nat := max (upRows p) (upCols p)

/-- R326: the size of the side, and where an FP32 L and R pair holds it. -/
def kronN (p : List Byte) : Nat := if upSide p then upCols p else upRows p
def kronRPlane (p : List Byte) (a : Nat) : Nat := nextPlane a (4 * (upRows p * upRows p))
def kronPlane (p : List Byte) (a : Nat) : Nat := if upSide p then kronRPlane p a else a
/-- R325, R120: where B lies behind A in T. -/
def orthB (p : List Byte) : Nat := nextPlane (upT p) (2 * (orthR p * orthR p))

/-- A plane read, then written. -/
def rwPlanes (det : Nat) (l : List (Nat × Nat)) : List Access := planeAccesses false det l ++ planeAccesses true det l

/-- The accesses of a rule but its decision record and step block. -/
def ruleAccesses (d p : List Byte) : List Access :=
  let r := upRule d
  let n := upElems d
  let both := fun a => [(a, 4 * (upRows p * upRows p)), (kronRPlane p a, 4 * (upCols p * upCols p))]
  let side := fun a => [(kronPlane p a, 4 * (kronN p * kronN p))]
  (if usesG r then planeAccesses false (inParam 8) (tensorPlanes (upG p) (upFmtG p) n) else [])
    ++ (if usesW r then rwPlanes (inParam 0) (tensorPlanes (upW p) (upFmtW p) n) else [])
    ++ (if usesFmtS r then rwPlanes (inParam 16) (tensorPlanes (upS1 p) (upFmtS p) n) else [])
    ++ (if r = ruleStats then rwPlanes (inParam 16) (both (upS1 p)) else [])
    ++ (if r = ruleRoot then planeAccesses false (inParam 16) (side (upS1 p)) ++ rwPlanes (inParam 24) (side (upS2 p)) else [])
    ++ (if r = ruleAdaptive then rwPlanes (inParam 24) (tensorPlanes (upS2 p) (upFmtS p) n) else [])
    ++ (if r = rulePrep then [wr (upS2 p) (2 * n) (inParam 24)] else [])
    ++ (if r = ruleIter then
          rwPlanes (inParam 24) [(upS2 p, 2 * n)]
            ++ rwPlanes (inParam 88) [(upT p, 2 * (orthR p * orthR p)), (orthB p, 2 * (orthR p * orthR p))] else [])
    ++ (if r = ruleApply then [rd (upS2 p) (2 * n) (inParam 24)] else [])
    ++ (if r = ruleKron then planeAccesses false (inParam 24) (both (upS2 p)) ++ [wr (upT p) (2 * n) (inParam 88)] else [])
    ++ (if r = ruleRoot then rwPlanes (inParam 88) [(upT p, 4 * (kronN p * kronN p))] else [])

/-- The accesses of an UPDATE as an attempt makes them: a provisional one does not read its decision record (R328). -/
def updAccesses (d p : List Byte) : List Access :=
  [rd (upParam d) 128 32] ++
    (if upRule d = ruleNorm then
      [rd (fld p 0 8) (upElems d * (if fld p 16 1 = 0 then 4 else 2)) (inParam 0)]
        ++ (if nmInit p then [] else [rd (nmAcc p) 64 (inParam 8)]) ++ [wr (nmAcc p) 64 (inParam 8)]
    else if upRule d = ruleDecide then
      [rd (dcVote p) 64 (inParam 0), rd (dcStepIn p) 64 (inParam 8)] ++ (if dcPrev p = 0 then [] else [rd (dcPrev p) 64 (inParam 16)])
        ++ [wr (dcDec p) 64 (inParam 24)]
    else ruleAccesses d p
      ++ (if upProvisional p then [rd (upStepIn p) 64 (inParam 40)] else [rd (upDec p) 64 (inParam 32)]))

/-- The ranges that checks 7 to 9 judge: a provisional UPDATE's decision record among them. -/
def updRanges (d p : List Byte) : List Access :=
  updAccesses d p ++ (if isElemRule (upRule d) && upProvisional p then [rd (upDec p) 64 (inParam 32)] else [])

/-! ### NORM (R311) -/

/-- The word at index `i` of 16. -/
def accWord (rd : Nat → Byte) (a i : Nat) : Word := BitVec.ofNat 32 (readLE rd (a + 4 * i) 4)
/-- The value of a word that is an integer below `lim`. -/
def wordInt (lim : Nat) (w : Word) : Option Nat :=
  match f32 w with
  | .fin neg m e =>
    let v := shiftRightInt m (-e)
    if m = 0 then some 0 else if neg || decide (e < 0 ∧ v * 2 ^ (-e).toNat ≠ m) || decide (lim ≤ v) then none else some v
  | _ => none

/-- R311: the conditions on NORM's input accumulator. -/
def accOk (rd : Nat → Byte) (a : Nat) : Bool :=
  (List.range 11).all (fun k => (wordInt 256 (accWord rd a k)).isSome)
    && [11, 12].all (fun k => accWord rd a k == 0#32 || accWord rd a k == f32One)
    && [13, 14, 15].all (fun k => accWord rd a k == 0#32)

/-- R311: check 7 on the contents of the accumulator. -/
def normAccCheck (m : Store) (c : Nat) (d p : List Byte) : Chk :=
  failIf (upRule d == ruleNorm && !nmInit p && !accOk (devByte m c) (nmAcc p)) .format (inParam 8)

/-- Σ limb × 2^(8k) over words of up to 24 bits. -/
def limbSum (rd : Nat → Byte) (a : Nat) : Nat :=
  ((List.range 11).map (fun k => (wordInt (2 ^ 24) (accWord rd a k)).getD 0 * 2 ^ (8 * k))).sum

/-- R311: the square of a finite value, scaled and rounded to an integer, halves to even. -/
def squareLimbs (x : Ext) (shift : Int) : Nat :=
  match x with
  | .fin _ m e => if m = 0 then 0 else roundMag .rne (m * m) (2 * e + shift) 0
  | _ => 0

/-- An integer as an FP32 word. -/
def natF32 (n : Nat) : Word := rneF32 (.fin false n 0)

/-- R311: the accumulator of an integer with NF and OVF. -/
def accBytes (i : Nat) (nf ovf : Bool) : List Byte :=
  ((List.range 11).map (fun k => natF32 (i / 2 ^ (8 * k) % 256))
    ++ [if nf then f32One else 0#32, if ovf then f32One else 0#32, 0#32, 0#32, 0#32]).flatMap (fun w => bytesLE w.toNat 4)

/-- NORM: an attempt. -/
def normRun (j : Job) : Outcome_ :=
  let n := upElems j.d
  let a := nmAcc j.p
  let el := fun i => readElem j.rd (fld j.p 16 1) (fld j.p 0 8) n i
  let bad := fun i => match el i with | .fin _ _ _ => false | _ => true
  let start := if nmInit j.p then 0 else limbSum j.rd a
  let i := start + ((List.range n).map (fun k => squareLimbs (el k) (nmShift j.p))).sum
  let nf := (!nmInit j.p && accWord j.rd a 11 == f32One) || (List.range n).any bad
  let over_ := decide (2 ^ 88 ≤ i)
  let ovf := (!nmInit j.p && accWord j.rd a 12 == f32One) || over_
  okOut false (stage j.m j.c a (accBytes (if over_ then 2 ^ 88 - 1 else i) nf ovf))

/-! ### The decision (R314 to R318) -/

/-- A step block or decision record field. -/
def recWord (rd : Nat → Byte) (a o : Nat) : Word := BitVec.ofNat 32 (readLE rd (a + o) 4)

/-- R314: LR, BC1 and BC2 are finite and not negative. -/
def stepBlockOk (rd : Nat → Byte) (a : Nat) : Bool := [0, 4, 8].all (fun o => finiteNonNeg (recWord rd a o))

/-- What R316 decides. -/
structure Decision where
  skip : Nat
  clipped : Nat
  scale : Word
  norm : Word
  mean : Word
  count : Nat
deriving DecidableEq, Repr

def infF32 : Word := 0x7F800000#32

/-- R316: the decision from the vote's n, NF and OVF and the previous MEAN and COUNT. -/
def decision (p : List Byte) (n nf ovf : Nat) (mean : Word) (count : Nat) : Decision :=
  let norm := if 0 < ovf then infF32 else fSqrt (rneF32 (.fin false n (-dcShift p)))
  let active := fLt 0#32 (dcAbsurd p) && decide (dcWarmup p ≤ count) && decide (0 < count)
  let a := if active then fMul (dcAbsurd p) mean else infF32
  let skip := if 0 < nf then 1 else if 0 < ovf then 2 else if fLt a norm && dcPolicy p == 0 then 2 else 0
  let c := if fLt 0#32 (dcClip p) then dcClip p else infF32
  let b := if dcPolicy p = 1 then a else infF32
  let lim := fMin c b
  let clips := skip == 0 && fLt lim norm
  let x := fMin norm a
  { skip := skip,
    clipped := if clips then (if fEq c lim then 1 else 0) + (if fEq b lim then 2 else 0) else 0,
    scale := if clips then fMul lim (fRcp norm) else f32One,
    norm := norm,
    mean := if skip != 0 then mean else if count = 0 then x else fFma (dcBeta p) (fSub x mean) mean,
    count := if skip != 0 then count else (count + 1) % 2 ^ 32 }

/-- R317: the decision record. -/
def decisionBytes (x : Decision) (lr bc1 bc2 stepNo : Word) (nf : Nat) : List Byte :=
  bytesLE x.skip 1 ++ bytesLE x.clipped 1 ++ bytesLE 0 2 ++ bytesLE x.scale.toNat 4 ++ bytesLE lr.toNat 4 ++ bytesLE x.norm.toNat 4
    ++ bytesLE x.mean.toNat 4 ++ bytesLE x.count 4 ++ bytesLE bc1.toNat 4 ++ bytesLE bc2.toNat 4 ++ bytesLE stepNo.toNat 4
    ++ bytesLE nf 4 ++ bytesLE 0 24

/-- DECIDE: an attempt. -/
def decideRun (j : Job) : Outcome_ :=
  let v := dcVote j.p
  let st := dcStepIn j.p
  if (List.range 16).any (fun k => (wordInt (2 ^ 24) (accWord j.rd v k)).isNone) then endOut .format (inParam 0)
  else if !stepBlockOk j.rd st then endOut .format (inParam 8)
  else
    let nf := (wordInt (2 ^ 24) (accWord j.rd v 11)).getD 0
    let ovf := (wordInt (2 ^ 24) (accWord j.rd v 12)).getD 0
    let prev := dcPrev j.p
    let x := decision j.p (limbSum j.rd v) nf ovf (if prev = 0 then 0#32 else recWord j.rd prev 16)
      (if prev = 0 then 0 else j.le (prev + 20) 4)
    okOut false
      (stage j.m j.c (dcDec j.p)
        (decisionBytes x (recWord j.rd st 0) (recWord j.rd st 4) (recWord j.rd st 8) (recWord j.rd st 12) nf)
        ++ [.lastDec x.skip x.clipped x.norm.toNat (recWord j.rd st 12).toNat])

/-! ### What a rule takes from a decision (R317, R319, R328) -/

/-- SCALE, LR, BC1 and BC2 as a rule uses them. -/
structure StepVals where
  scale : Word
  lr : Word
  bc1 : Word
  bc2 : Word
deriving DecidableEq, Repr

/-- R317: SKIP and the values of a decision record; none where the record is not valid. -/
def readDecision (rd : Nat → Byte) (a : Nat) : Option (Nat × StepVals) :=
  let skip := (rd a).toNat
  if 2 < skip ∨ 3 < (rd (a + 1)).toNat then none
  else some (skip, { scale := recWord rd a 4, lr := recWord rd a 8, bc1 := recWord rd a 24, bc2 := recWord rd a 28 })

/-- R328: the values a provisional UPDATE assumes. -/
def assumedVals (rd : Nat → Byte) (a : Nat) : StepVals :=
  { scale := f32One, lr := recWord rd a 0, bc1 := recWord rd a 4, bc2 := recWord rd a 8 }

/-! ### Element-wise rules (R321, R322) -/

/-- R322: rne(c − a × b), one rounding (FNMA of R127). -/
def fFnma (a b c : Word) : Word := rneF32 (((f32 a).mul (f32 b)).neg.add (f32 c))
/-- R322: sign. -/
def fSign (c : Word) : Word :=
  if isNaN c then f32NaN else if isZeroF32 c then 0#32 else if negF32 c then 0xBF800000#32 else f32One

/-- R322: lr and dk. -/
def stepLr (p : List Byte) (v : StepVals) : Word := fMul v.lr (upLrMul p)
def stepDk (p : List Byte) (v : StepVals) : Word := fSub f32One (fMul (stepLr p v) (upWd p))

/-- g of element `i`: rne(widen(g_in) × SCALE). -/
def stepGrad (j : Job) (v : StepVals) (i : Nat) : Word :=
  rneF32 ((readElem j.rd (upFmtG j.p) (upG j.p) (upElems j.d) i).mul (f32 v.scale))

/-- A state element widened. -/
def stepState (j : Job) (a i : Nat) : Word := loadElem j.rd (upFmtS j.p) a (upElems j.d) i

/-- The weight element `i`, exact, times dk, less `k × u`. -/
def stepWeight (j : Job) (v : StepVals) (k u : Word) (i : Nat) : Word :=
  fFnma k u (rneF32 ((readElem j.rd (upFmtW j.p) (upW j.p) (upElems j.d) i).mul (f32 (stepDk j.p v))))

/-- R321: the rounding of weight element `i`. -/
def weightRound (j : Job) (i : Nat) : RoundMode :=
  roundModeAt (upRound j.d) j.seed (upPurpose j.d) (upStream j.d) (upStep j.d) (upPos0 j.p + i)

/-- Staged weights and their non-finite flag. -/
def weightOut (j : Job) (ws : List Word) : Bool × List Eff :=
  (storedNonFinite (upFmtW j.p) (weightRound j) ws, stageTensor j (upFmtW j.p) (upW j.p) (weightRound j) ws)

/-- Staged values under RNE and their non-finite flag. -/
def rneOut (j : Job) (code a : Nat) (vs : List Word) : Bool × List Eff :=
  (storedNonFinite code (fun _ => .rne) vs, stageTensor j code a (fun _ => .rne) vs)

/-- Outputs joined. -/
def joinOut (l : List (Bool × List Eff)) : Outcome_ := okOut (l.any (·.1)) (l.flatMap (·.2))

/-- R322: MOMENTUM on element `i`: m and u. -/
def momentumStep (j : Job) (v : StepVals) (i : Nat) : Word × Word :=
  let g := stepGrad j v i
  let m := fFma (upB1 j.p) (stepState j (upS1 j.p) i) g
  (m, if upNesterov j.p then fFma (upB1 j.p) m g else m)

/-- R322: ADAPTIVE on element `i`: m1, m2 and u. -/
def adaptiveStep (j : Job) (v : StepVals) (i : Nat) : Word × Word × Word :=
  let g := stepGrad j v i
  let m1 := fFma (upOb1 j.p) g (fMul (upB1 j.p) (stepState j (upS1 j.p) i))
  let m2 := fFma (upOb2 j.p) (fMul g g) (fMul (upB2 j.p) (stepState j (upS2 j.p) i))
  (m1, m2, fMul (fMul m1 v.bc1) (fRcp (fAdd (fSqrt (fMul m2 v.bc2)) (upEps0 j.p))))

/-- R322: SIGNMOM on element `i`: m and u. -/
def signmomStep (j : Job) (v : StepVals) (i : Nat) : Word × Word :=
  let g := stepGrad j v i
  let m := stepState j (upS1 j.p) i
  (fFma (upOb2 j.p) g (fMul (upB2 j.p) m), fSign (fFma (upOb1 j.p) g (fMul (upB1 j.p) m)))

/-- The elements of the command. -/
def upIdx (j : Job) : List Nat := List.range (upElems j.d)

/-- The rules 0x00 to 0x02 under the values of a decision. -/
def momentumBody (j : Job) (v : StepVals) : Outcome_ :=
  let xs := (upIdx j).map (momentumStep j v)
  let ws := (upIdx j).zip xs |>.map (fun e => stepWeight j v (stepLr j.p v) e.2.2 e.1)
  joinOut [weightOut j ws, rneOut j (upFmtS j.p) (upS1 j.p) (xs.map (·.1))]
def adaptiveBody (j : Job) (v : StepVals) : Outcome_ :=
  let xs := (upIdx j).map (adaptiveStep j v)
  let ws := (upIdx j).zip xs |>.map (fun e => stepWeight j v (stepLr j.p v) e.2.2.2 e.1)
  joinOut [weightOut j ws, rneOut j (upFmtS j.p) (upS1 j.p) (xs.map (·.1)), rneOut j (upFmtS j.p) (upS2 j.p) (xs.map (·.2.1))]
def signmomBody (j : Job) (v : StepVals) : Outcome_ :=
  let xs := (upIdx j).map (signmomStep j v)
  let ws := (upIdx j).zip xs |>.map (fun e => stepWeight j v (stepLr j.p v) e.2.2 e.1)
  joinOut [weightOut j ws, rneOut j (upFmtS j.p) (upS1 j.p) (xs.map (·.1))]

/-! ### Matrices (R79, R323) -/

/-- A matrix of FP32 words, row-major. -/
structure Mat where
  rows : Nat
  cols : Nat
  e : List Word
deriving DecidableEq, Repr

def Mat.at_ (a : Mat) (i k : Nat) : Word := a.e.getD (i * a.cols + k) 0#32
/-- A matrix from its elements. -/
def Mat.of (r c : Nat) (f : Nat → Nat → Word) : Mat :=
  { rows := r, cols := c, e := (List.range (r * c)).map (fun i => f (i / c) (i % c)) }
def Mat.map2 (f : Word → Word → Word) (a b : Mat) : Mat := { a with e := (a.e.zip b.e).map (fun x => f x.1 x.2) }
def Mat.map (f : Word → Word) (a : Mat) : Mat := { a with e := a.e.map f }
def Mat.transpose (a : Mat) : Mat := Mat.of a.cols a.rows (fun i k => a.at_ k i)

/-- Converted to BF16 under RNE, widened. -/
def toBf16 (w : Word) : Word := rneF32 (decodeFloat fmtBF16 (encodeFloat fmtBF16 .rne (f32 w)))
def Mat.bf16 (a : Mat) : Mat := a.map toBf16

/-- R323: a product of BF16 operands, G = 8, from +0. -/
def Mat.times (a b : Mat) : Mat :=
  let x := a.bf16
  let y := b.bf16
  Mat.of a.rows b.cols (fun i k =>
    (List.range (ceilDiv a.cols 8)).foldl (fun acc g =>
      accGroup acc ((List.range (min 8 (a.cols - 8 * g))).map (fun q => (f32 (x.at_ i (8 * g + q))).mul (f32 (y.at_ (8 * g + q) k))))
        (.fin false 1 0)) 0#32)

/-- A matrix of a stored format. -/
def loadMat (j : Job) (code a r c : Nat) : Mat := Mat.of r c (fun i k => loadElem j.rd code a (r * c) (i * c + k))
/-- Staged matrix under RNE. -/
def matOut (j : Job) (code a : Nat) (x : Mat) : Bool × List Eff := rneOut j code a x.e

/-- R325: a direction in the stored arrangement of X, and back. -/
def toX (p : List Byte) (a : Mat) : Mat := if upRows p ≤ upCols p then a else a.transpose
def fromX (p : List Byte) (x : Mat) : Mat := if upRows p ≤ upCols p then x else x.transpose

/-- The gradient matrix. -/
def gradMat (j : Job) (v : StepVals) : Mat := Mat.of (upRows j.p) (upCols j.p) (fun i k => stepGrad j v (i * upCols j.p + k))

/-- The exact sum of squares, rounded. -/
def squareSum (l : List Word) : Word := rneF32 (exactSum (l.map (fun y => (f32 y).mul (f32 y))))

/-- R325: ORTHO_PREP. -/
def prepBody (j : Job) (v : StepVals) : Outcome_ :=
  let g := gradMat j v
  let m := Mat.map2 (fun m g => fFma (upBeta j.p) m g) (loadMat j (upFmtS j.p) (upS1 j.p) (upRows j.p) (upCols j.p)) g
  let y := if upNesterov j.p then Mat.map2 (fun m g => fFma (upBeta j.p) m g) m g else m
  let k := fRcp (fAdd (fSqrt (squareSum y.e)) (upEps j.p))
  let x := toX j.p (y.map (fun e => toBf16 (fMul e k)))
  joinOut [matOut j (upFmtS j.p) (upS1 j.p) m, matOut j codeBF16 (upS2 j.p) x]

/-- R325: ORTHO_ITER. -/
def iterBody (j : Job) : Outcome_ :=
  let x := loadMat j codeBF16 (upS2 j.p) (orthR j.p) (orthC j.p)
  let a := (x.times x.transpose).bf16
  let b := (Mat.map2 (fun q e => fFma (upCc j.p) q (fMul (upCb j.p) e)) (a.times a) a).bf16
  let x' := (Mat.map2 (fun e q => fFma (upCa j.p) e q) x (b.times x)).bf16
  joinOut [matOut j codeBF16 (upS2 j.p) x', matOut j codeBF16 (upT j.p) a, matOut j codeBF16 (orthB j.p) b]

/-- R325, R326: the weights moved along a direction by lr × OSCALE. -/
def alongDirection (j : Job) (v : StepVals) (u : Mat) : Bool × List Eff :=
  let k := fMul (stepLr j.p v) (upOscale j.p)
  weightOut j ((upIdx j).map (fun i => stepWeight j v k (u.e.getD i 0#32) i))

/-- R325: ORTHO_APPLY. -/
def orthApplyBody (j : Job) (v : StepVals) : Outcome_ :=
  joinOut [alongDirection j v (fromX j.p (loadMat j codeBF16 (upS2 j.p) (orthR j.p) (orthC j.p)))]

/-- R326: KRON_STATS. -/
def statsBody (j : Job) (v : StepVals) : Outcome_ :=
  let gb := (gradMat j v).bf16
  let upd := fun (f q : Mat) => Mat.map2 (fun q f => fFma (upObeta j.p) q (fMul (upBeta j.p) f)) q f
  let l := upd (loadMat j codeF32 (upS1 j.p) (upRows j.p) (upRows j.p)) (gb.times gb.transpose)
  let r := upd (loadMat j codeF32 (kronRPlane j.p (upS1 j.p)) (upCols j.p) (upCols j.p)) (gb.transpose.times gb)
  joinOut [matOut j codeF32 (upS1 j.p) l, matOut j codeF32 (kronRPlane j.p (upS1 j.p)) r]

/-- R326: p + 1 and 1 ÷ p as FP32. -/
def rootOrder (p : List Byte) : Nat := if upRoot4 p then 4 else 2
def rootInv (p : List Byte) : Word := if upRoot4 p then 0x3E800000#32 else kHalf

/-- R326: the first iterate: xr and mm from the damped statistic. -/
def rootStart (j : Job) : Mat × Mat :=
  let n := kronN j.p
  let f := loadMat j codeF32 (kronPlane j.p (upS1 j.p)) n n
  let a := Mat.of n n (fun i k => if i = k then fAdd (f.at_ i k) (upEps j.p) else f.at_ i k)
  let c := fRcp (fSqrt (squareSum a.e))
  let xd := fExp2 (fMul (fLog2 c) (rootInv j.p))
  (Mat.of n n (fun i k => if i = k then xd else 0#32), a.map (fun e => fMul c e))

/-- R326: KRON_ROOT. -/
def rootBody (j : Job) : Outcome_ :=
  let n := kronN j.p
  let (xr, mm) := if upIter j.p = 0 then rootStart j else
    (loadMat j codeF32 (kronPlane j.p (upS2 j.p)) n n, loadMat j codeF32 (upT j.p) n n)
  let t := Mat.of n n (fun i k => fMul (fSub (if i = k then natF32 (rootOrder j.p + 1) else 0#32) (mm.at_ i k)) (rootInv j.p))
  let xr := xr.times t
  let t2 := t.times t
  let tp := if upRoot4 j.p then t2.times t2 else t2
  joinOut [matOut j codeF32 (kronPlane j.p (upS2 j.p)) xr, matOut j codeF32 (upT j.p) (tp.times mm)]

/-- R326: KRON_APPLY. -/
def kronBody (j : Job) (v : StepVals) : Outcome_ :=
  let l := loadMat j codeF32 (upS2 j.p) (upRows j.p) (upRows j.p)
  let r := loadMat j codeF32 (kronRPlane j.p (upS2 j.p)) (upCols j.p) (upCols j.p)
  let q := (l.times (gradMat j v)).bf16
  joinOut [alongDirection j v (q.times r), matOut j codeBF16 (upT j.p) q]

/-! ### Attempts -/

/-- The rules 0x00 to 0x1A under the values of a decision. -/
def ruleBody (j : Job) (v : StepVals) : Outcome_ :=
  let r := upRule j.d
  if r = ruleMomentum then momentumBody j v else if r = ruleAdaptive then adaptiveBody j v else if r = ruleSignmom then signmomBody j v
  else if r = rulePrep then prepBody j v else if r = ruleIter then iterBody j else if r = ruleApply then orthApplyBody j v
  else if r = ruleStats then statsBody j v else if r = ruleRoot then rootBody j else kronBody j v

/-- Weight elements an UPDATE writes (R334). -/
def weightCount (d : List Byte) : Nat := if usesW (upRule d) then upElems d else 0

/-- R334: THR_ELEM of a die advances at commit. -/
def countElems (die : Nat) (d : List Byte) (o : Outcome_) : Outcome_ :=
  if o.status == .ok && decide (0 < weightCount d) then { o with effs := o.effs ++ [.counter (kBar0 (0xF100 + 8 * die)) (weightCount d)] }
  else o

/-- R319, R328: an UPDATE of the rules 0x00 to 0x1A: an attempt. -/
def ruleRun (j : Job) : Outcome_ :=
  if isElemRule (upRule j.d) && upProvisional j.p then
    if stepBlockOk j.rd (upStepIn j.p) then countElems j.inst j.d (ruleBody j (assumedVals j.rd (upStepIn j.p)))
    else endOut .format (inParam 40)
  else
    match readDecision j.rd (upDec j.p) with
    | none => endOut .format (inParam 32)
    | some (skip, v) => if skip = 0 then countElems j.inst j.d (ruleBody j v) else endOut .skipped noField

/-- UPDATE: an attempt. -/
def updateRun (j : Job) : Outcome_ :=
  if upRule j.d = ruleNorm then normRun j else if upRule j.d = ruleDecide then decideRun j else ruleRun j

end Sys2Proof.Machine
end

