-- ==== Sys2Proof/Machine/Instances.lean ====
section
/-! DEFINITION. Sys2Proof/Machine/Instances.lean: engine instances (R28, R116, R324, R488): which instance a TARGET names, which are
healthy and idle, what makes an execution DEGRADED (R13). -/

namespace Sys2Proof.Machine

open Sys2Proof

/-- Instances of the engines that execute an opcode: SEQ's are the sequence walkers. -/
def instCount (op : Nat) : Nat :=
  match opClass op with
  | some 0 => 1024 | some 1 => 16 | some 2 => 16 | some 3 => 256
  | some 4 => if op = opSeq then 4 else 8
  | some 5 => 36 | some 6 => 4
  | _ => 0

/-- Two opcodes run on the same engines. -/
def sameEngines (a b : Nat) : Bool := opClass a == opClass b && (a == opSeq) == (b == opSeq)

/-- The resource that an instance is (R482); walkers are a kind of their own. -/
def engineKey (op inst : Nat) : Nat := resKey (if op = opSeq then kWalker else (opClass op).getD 0) inst

/-- The instance has not been retired; a field index always has an array, its own or its host's (R21). -/
def healthy (s : State) (op inst : Nat) : Bool := opClass op == some 0 || !isRetired s (engineKey op inst)

/-- The compute die of an instance of classes 0 to 3, by field index for an array. -/
def instDie (op inst : Nat) : Nat :=
  match opClass op with
  | some 0 => inst / 64 | some 3 => inst / 16 | _ => inst

/-- R116: the instances that a plot has. -/
def inPlot (s : State) (plot op inst : Nat) : Bool :=
  match opClass op with
  | some 0 => fieldInPlot s plot inst
  | some c => if c ≤ 3 then (List.range 64).any (fun i => fieldInPlot s plot (64 * instDie op inst + i)) else true
  | none => false

/-- The instances that a TARGET names. -/
def namedBy (op t inst : Nat) : Bool := if opClass op = some 3 then instDie op inst == t else inst == t

/-- R72: 64 KiB units of crib scratch. -/
def scratchUnits (d : List Byte) : Nat := ceilDiv (dScratch d) 65536

/-- R72: the die's whole scratch part holds the command's need. -/
def scratchFits (s : State) (d : List Byte) (inst : Nat) : Bool :=
  scratchUnits d == 0 || scratchUnits d ≤ 16 * cribBanks s (instDie (dOpcode d) inst)

/-- The instances that a command may use when all are healthy (R116). -/
def wantedInsts (s : State) (plot : Nat) (d : List Byte) : List Nat :=
  (List.range (instCount (dOpcode d))).filter (fun i =>
    if dTarget d = anyTarget then inPlot s plot (dOpcode d) i else namedBy (dOpcode d) (dTarget d) i)

/-- R488: the substitute of instances that are all retired. -/
def substitute (s : State) (plot : Nat) (d : List Byte) : Option Nat :=
  let op := dOpcode d
  let ok := (List.range (instCount op)).filter (healthy s op)
  if opClass op = some 5 then
    ok.find? (fun p => p / 18 == dTarget d / 18 && p != dTarget d && (s.port p).st == .active)
  else match ok.find? (inPlot s plot op) with
    | some i => some i
    | none => ok.head?

/-- R116, R488: the instances on which a command may run now. -/
def candidates (s : State) (plot : Nat) (d : List Byte) : List Nat :=
  match (wantedInsts s plot d).filter (healthy s (dOpcode d)) with
  | [] => (substitute s plot d).toList
  | l => l.filter (scratchFits s d)

/-- R488: a substitute serves the command. -/
def substituted (s : State) (plot : Nat) (d : List Byte) : Bool :=
  ((wantedInsts s plot d).filter (healthy s (dOpcode d))).isEmpty

/-- R34: the physical array that serves a field index. -/
def arrayPlace (s : State) (f : Nat) : Nat := 68 * (s.arrayEnt f).die + (s.arrayEnt f).slot

/-- R324: the arrays that a running command occupies: its own, or those that its UPDATE borrows. -/
def heldArrays (s : State) (x : Cmd) : List Nat :=
  match x.att with
  | some a =>
    if opClass (dOpcode x.desc) = some 0 then [arrayPlace s a.inst]
    else if dOpcode x.desc = opUpdate then (borrowed x.desc (x.param.getD [])).map (arrayPlace s)
    else []
  | none => []

/-- The running commands. -/
def runningCmds (s : State) : List (Nat × Nat × Cmd) := cmdsWhere s (fun x => x.phase == .running)

/-- R116: an instance runs no command. -/
def instIdle (s : State) (op inst : Nat) : Bool :=
  if opClass op = some 0 then (runningCmds s).all (fun e => !(heldArrays s e.2.2).contains (arrayPlace s inst))
  else (runningCmds s).all (fun e => !(sameEngines op (dOpcode e.2.2.desc) && e.2.2.att.any (fun a => a.inst == inst)))

/-! ### Reduced resources (R13) -/

/-- The ACLK that the plan and the budget give a die. -/
def plannedMHz (s : State) (d : Nat) : Nat :=
  if (secList s Sections.opPoints).any (fun e => e.die == d && e.mode != 0) then 1500
  else min 1200 (tblGet DiePower.reset s.pwr.dies d).ceil

/-- R475: a limit or a derating of a rail holds its block down. -/
def railHolds (s : State) (r level : Nat) : Bool :=
  let x := tblGet RailSt.reset s.pwr.rails r
  (x.limit || x.derated) && decide (x.cap < level)

/-- R475: the rails of an engine's die hold it down. -/
def dieHeld (s : State) (die : Nat) : Bool :=
  if die < 16 then railHolds s die (plannedMHz s die) || railHolds s (16 + die) (plannedMHz s die)
  else if die = dieXD then railHolds s 50 1500 else false

/-- R495: a sampled temperature that is not valid. -/
def sensorBad (s : State) (i : Nat) : Bool := !(s.sensor i).valid && (s.sensor i).at_.isSome

/-- R495: a compute die, or a stack, with no valid temperature sensor. -/
def dieBlind (s : State) (d : Nat) : Bool := d < 16 && (List.range 4).all (fun i => sensorBad s (4 * d + i))
def stackBlind (s : State) (n : Nat) : Bool := sensorBad s (80 + n)

/-- The Loft stacks that some granules lie in. -/
def granStacks (s : State) (ks : List Nat) : List Nat :=
  ks.filterMap (fun k => (tblFind s.grans k).bind (fun g => if g.tier == .silo then none else some (g.heap / 2 ^ 36)))

/-- R350, R475: a port narrowed, or on a fabric die held down. -/
def portReduced (s : State) (p : Nat) : Bool := (s.port p).narrow || railHolds s (48 + p / 18) 1500

/-- The ports that a command's packets use: those of its requests, or of its tree (R361). -/
def packetPorts (s : State) (r : CmdRef) (d : List Byte) : List Nat :=
  if dOpcode d = opReduce then
    match (secList s Sections.trees).find? (fun e => e.tree == fld d 56 2) with
    | some e => (List.range 36).filter (fun p => bits e.children p 1 == 1 || e.parent == p)
    | none => []
  else (cmdReqs s r).filterMap (fun q => routePort s q.2.pkt.dest q.2.pkt.secure q.1)

/-- R13: an execution on instance `inst` over granules `ks` uses reduced resources. -/
def reduced (s : State) (r : CmdRef) (d : List Byte) (inst : Nat) (ks : List Nat) : Bool :=
  match opClass (dOpcode d) with
  | none => false
  | some cls =>
    let die := engineDie s cls inst
    (cls == 0 && (s.arrayEnt inst).st == .doubled) || substituted s (ctxPlot s r.ctx) d
      || (granPlaces s ks).any (fun p => routeDegraded s die p.1 p.2)
      || (granStacks s ks).any (fun n => tblGet 0 s.withdrawn n != 0 || stackBlind s n)
      || dieHeld s die || dieBlind s die || (packetPorts s r d).any (portReduced s)

end Sys2Proof.Machine
end

