-- ==== Sys2Proof/Machine/Crypto.lean ====
section
/-! DEFINITION. Sys2Proof/Machine/Crypto.lean: the standards that the spec names by reference: CRC-32C (R338), SHA-2, HMAC and
HKDF (R413, R423, R432), Ed25519 (R42, R417), P-384 (R413, R422, R431), AES-256-GCM (R372, R424) and HPKE opening (R423).
PRESUMED (log entry 11): the spec names the standards and gives no arithmetic. -/

namespace Sys2Proof.Machine

open Sys2Proof

/-! ### Bytes -/

/-- Big-endian value. -/
def beValue (l : List Byte) : Nat := l.foldl (fun v b => 256 * v + b.toNat) 0
/-- The `n` bytes of a value, big-endian. -/
def bytesBE (v n : Nat) : List Byte := (bytesLE v n).reverse
/-- The ASCII bytes of a text. -/
def ascii (s : String) : List Byte := s.toList.map (fun c => BitVec.ofNat 8 c.toNat)
/-- Byte-wise exclusive or. -/
def xorBytes (a b : List Byte) : List Byte := (a.zip b).map (fun x => x.1 ^^^ x.2)

/-! ### CRC-32C (Castagnoli, reflected) -/

def crcBit (c : Nat) : Nat := if c % 2 = 1 then (c / 2) ^^^ 0x82F63B78 else c / 2
def crcByte (c : Nat) (b : Byte) : Nat :=
  crcBit (crcBit (crcBit (crcBit (crcBit (crcBit (crcBit (crcBit (c ^^^ b.toNat))))))))
def crc32c (l : List Byte) : Nat := l.foldl crcByte 0xFFFFFFFF ^^^ 0xFFFFFFFF

/-! ### SHA-384 and SHA-512 (FIPS 180-4) -/

/-- The first 80 primes. -/
def primes80 : List Nat :=
  ((List.range 410).filter (fun n => 2 ≤ n && (List.range n).all (fun d => d < 2 || n % d != 0))).take 80

/-- The largest r with r^k ≤ n, for n below 2^(k × bits), by bisection on bits. -/
def iroot (k n : Nat) : Nat → Nat → Nat
  | 0, r => r
  | b + 1, r => iroot k n b (if (r + 2 ^ b) ^ k ≤ n then r + 2 ^ b else r)

/-- The round constants: fractions of the cube roots. -/
def shaK : List DWord := primes80.map (fun p => BitVec.ofNat 64 (iroot 3 (p * 2 ^ 192) 67 0))
/-- The initial values: fractions of the square roots, of the first eight primes and of the next eight. -/
def shaInit (i : Nat) : List DWord := ((primes80.drop i).take 8).map (fun p => BitVec.ofNat 64 (iroot 2 (p * 2 ^ 128) 69 0))

def rotr64 (x : DWord) (n : Nat) : DWord := x.rotateRight n

/-- The message schedule, the last word first. -/
def shaSchedule : Nat → List DWord → List DWord
  | 0, w => w
  | n + 1, w =>
    let x := w.getD 14 0
    let y := w.getD 1 0
    let s0 := rotr64 x 1 ^^^ rotr64 x 8 ^^^ (x >>> 7)
    let s1 := rotr64 y 19 ^^^ rotr64 y 61 ^^^ (y >>> 6)
    shaSchedule n ((w.getD 15 0 + s0 + w.getD 6 0 + s1) :: w)

/-- One round on (a, …, h). -/
def shaRound (v : List DWord) (kw : DWord × DWord) : List DWord :=
  match v with
  | [a, b, c, d, e, f, g, h] =>
    let s1 := rotr64 e 14 ^^^ rotr64 e 18 ^^^ rotr64 e 41
    let t1 := h + s1 + ((e &&& f) ^^^ (~~~e &&& g)) + kw.1 + kw.2
    let s0 := rotr64 a 28 ^^^ rotr64 a 34 ^^^ rotr64 a 39
    let t2 := s0 + ((a &&& b) ^^^ (a &&& c) ^^^ (b &&& c))
    [t1 + t2, a, b, c, d + t1, e, f, g]
  | v => v

/-- One 128-byte block. -/
def shaBlock (h : List DWord) (block : List Byte) : List DWord :=
  let w := (List.range 16).map (fun i => BitVec.ofNat 64 (beValue ((block.drop (8 * i)).take 8)))
  let v := (shaK.zip (shaSchedule 64 w.reverse).reverse).foldl shaRound h
  (h.zip v).map (fun x => x.1 + x.2)

/-- The padded message. -/
def shaPad (m : List Byte) : List Byte :=
  m ++ [0x80] ++ List.replicate ((239 - m.length % 128) % 128) 0 ++ bytesBE (8 * m.length) 16

def shaRun (init : List DWord) (m : List Byte) : List Byte :=
  let p := shaPad m
  ((chunks 128 (p.length / 128) p).foldl shaBlock init).flatMap (fun w => bytesBE w.toNat 8)
def sha512 (m : List Byte) : List Byte := shaRun (shaInit 0) m
def sha384 (m : List Byte) : List Byte := (shaRun (shaInit 8) m).take 48

/-! ### HMAC and HKDF with SHA-384 (RFC 2104, RFC 5869) -/

def hmacKey (key : List Byte) : List Byte :=
  let k := if 128 < key.length then sha384 key else key
  k ++ List.replicate (128 - k.length) 0
def hmac384 (key msg : List Byte) : List Byte :=
  let k := hmacKey key
  sha384 (k.map (· ^^^ 0x5C#8) ++ sha384 (k.map (· ^^^ 0x36#8) ++ msg))
/-- HKDF-Extract. -/
def hkdfExtract (salt ikm : List Byte) : List Byte := hmac384 salt ikm
/-- HKDF-Expand, `n` blocks of 48 bytes. -/
def hkdfBlocks (prk info : List Byte) : Nat → Nat → List Byte → List Byte
  | 0, _, _ => []
  | n + 1, i, t =>
    let t := hmac384 prk (t ++ info ++ [BitVec.ofNat 8 i])
    t ++ hkdfBlocks prk info n (i + 1) t
def hkdfExpand (prk info : List Byte) (len : Nat) : List Byte := (hkdfBlocks prk info (ceilDiv len 48) 1 []).take len
/-- HKDF with no salt. -/
def hkdf (ikm info : List Byte) (len : Nat) : List Byte := hkdfExpand (hkdfExtract [] ikm) info len

/-! ### Modular arithmetic -/

/-- x^e mod m, over the bits of e. -/
def powMod (m : Nat) : Nat → Nat → Nat → Nat → Nat
  | 0, _, _, acc => acc
  | fuel + 1, x, e, acc => if e = 0 then acc else powMod m fuel (x * x % m) (e / 2) (if e % 2 = 1 then acc * x % m else acc)
def modPow (m x e : Nat) : Nat := powMod m 520 (x % m) e (1 % m)
/-- The inverse modulo a prime. -/
def modInv (p x : Nat) : Nat := modPow p x (p - 2)
def modSub (p a b : Nat) : Nat := (a + p - b % p) % p

/-! ### Ed25519 (RFC 8032) -/

def edP : Nat := 2 ^ 255 - 19
def edL : Nat := 2 ^ 252 + 27742317777372353535851937790883648493
def edD : Nat := (edP - 121665) * modInv edP 121666 % edP

/-- A point in projective coordinates. -/
structure EdPt where
  x : Nat
  y : Nat
  z : Nat
deriving DecidableEq, Repr

/-- The complete addition law. -/
def edAdd (a b : EdPt) : EdPt :=
  let p := edP
  let zz := a.z * b.z % p
  let bb := zz * zz % p
  let c := a.x * b.x % p
  let d := a.y * b.y % p
  let e := edD * c % p * d % p
  let f := modSub p bb e
  let g := (bb + e) % p
  { x := zz * f % p * modSub p ((a.x + a.y) * (b.x + b.y) % p) (c + d) % p, y := zz * g % p * ((d + c) % p) % p, z := f * g % p }

def edMul : Nat → Nat → EdPt → EdPt → EdPt
  | 0, _, _, acc => acc
  | fuel + 1, k, q, acc => if k = 0 then acc else edMul fuel (k / 2) (edAdd q q) (if k % 2 = 1 then edAdd acc q else acc)
def edScale (k : Nat) (q : EdPt) : EdPt := edMul 520 k q { x := 0, y := 1, z := 1 }

/-- RFC 8032 5.1.3: the point of an encoding. -/
def edDecode (enc : List Byte) : Option EdPt :=
  let v := leValue enc
  let y := v % 2 ^ 255
  let sign := v / 2 ^ 255 % 2
  if enc.length ≠ 32 ∨ edP ≤ y then none else
  let p := edP
  let u := modSub p (y * y) 1
  let w := (edD * y % p * y + 1) % p
  let c := u * modPow p w 3 % p * modPow p (u * modPow p w 7 % p) ((p - 5) / 8) % p
  let x := if w * c % p * c % p = u then some c
    else if w * c % p * c % p = (p - u) % p then some (c * modPow p 2 ((p - 1) / 4) % p) else none
  match x with
  | none => none
  | some x => if x = 0 ∧ sign = 1 then none else some { x := if x % 2 = sign then x else p - x, y := y, z := 1 }

def edBase : Option EdPt := edDecode (bytesLE (4 * modInv edP 5 % edP) 32)
def edEq (a b : EdPt) : Bool := a.x * b.z % edP == b.x * a.z % edP && a.y * b.z % edP == b.y * a.z % edP

/-- RFC 8032 5.1.7: the signature verifies, by the equation without the cofactor. -/
def ed25519Verifies (key msg sig : List Byte) : Bool :=
  let r := sig.take 32
  let s := leValue (sig.drop 32)
  match edDecode key, edDecode r, edBase with
  | some a, some rp, some b =>
    sig.length == 64 && decide (s < edL)
      && edEq (edScale s b) (edAdd rp (edScale (leValue (sha512 (r ++ key ++ msg)) % edL) a))
  | _, _, _ => false

/-! ### P-384 (FIPS 186-5, SEC 1) -/

def p384P : Nat := 2 ^ 384 - 2 ^ 128 - 2 ^ 96 + 2 ^ 32 - 1
def p384N : Nat := 0xFFFFFFFFFFFFFFFFFFFFFFFFFFFFFFFFFFFFFFFFFFFFFFFFC7634D81F4372DDF581A0DB248B0A77AECEC196ACCC52973
def p384B : Nat := 0xB3312FA7E23EE7E4988E056BE3F82D19181D9C6EFE8141120314088F5013875AC656398D8A2ED19D2A85C8EDD3EC2AEF
def p384Gx : Nat := 0xAA87CA22BE8B05378EB1C71EF320AD746E1D3B628BA79B9859F741E082542A385502F25DBF55296C3A545E3872760AB7
def p384Gy : Nat := 0x3617DE4A96262C6F5D9E98BF9292DC29F8F41DBD289A147CE9DA3113B5F0B8C00A60B1CE1D7E819D7A431D7C90EA0E5F

/-- A point: none is the point at infinity. -/
abbrev EcPt := Option (Nat × Nat)

def ecAdd (a b : EcPt) : EcPt :=
  let p := p384P
  match a, b with
  | none, q => q
  | q, none => q
  | some (x1, y1), some (x2, y2) =>
    if x1 = x2 ∧ (y1 + y2) % p = 0 then none else
    let l := if x1 = x2 then (3 * x1 * x1 + p - 3) % p * modInv p (2 * y1) % p
      else modSub p y2 y1 * modInv p (modSub p x2 x1) % p
    let x3 := modSub p (l * l) (x1 + x2)
    some (x3, modSub p (l * modSub p x1 x3) y1)

def ecMul : Nat → Nat → EcPt → EcPt → EcPt
  | 0, _, _, acc => acc
  | fuel + 1, k, q, acc => if k = 0 then acc else ecMul fuel (k / 2) (ecAdd q q) (if k % 2 = 1 then ecAdd acc q else acc)
def ecScale (k : Nat) (q : EcPt) : EcPt := ecMul 390 k q none
def p384G : EcPt := some (p384Gx, p384Gy)

def onCurve (x y : Nat) : Bool := x < p384P && y < p384P && y * y % p384P == (x * x % p384P * x + (p384P - 3) * x + p384B) % p384P

/-- The 97-byte uncompressed form, and the point of one. -/
def ecEncode (q : EcPt) : List Byte := match q with | some (x, y) => [0x04] ++ bytesBE x 48 ++ bytesBE y 48 | none => [0]
def ecDecode (l : List Byte) : EcPt :=
  let x := beValue ((l.drop 1).take 48)
  let y := beValue (l.drop 49)
  if l.length = 97 ∧ l.head? = some 0x04 ∧ onCurve x y then some (x, y) else none

/-- The private key of 48 bytes of derived output (R413). -/
def ecPrivate (l : List Byte) : Nat := beValue l % (p384N - 1) + 1
def ecPublic (d : Nat) : List Byte := ecEncode (ecScale d p384G)

/-- ECDSA with SHA-384: verification of r and s, 48 bytes each. -/
def ecdsaVerifies (key msg sig : List Byte) : Bool :=
  let n := p384N
  let r := beValue (sig.take 48)
  let s := beValue (sig.drop 48)
  match ecDecode key with
  | none => false
  | some q =>
    if sig.length ≠ 96 ∨ r = 0 ∨ n ≤ r ∨ s = 0 ∨ n ≤ s then false else
    let w := modInv n s
    match ecAdd (ecScale (beValue (sha384 msg) * w % n) p384G) (ecScale (r * w % n) (some q)) with
    | some (x, _) => x % n == r
    | none => false

/-- ECDSA with SHA-384: a signature with the secret number `k`. -/
def ecdsaSign (d k : Nat) (msg : List Byte) : List Byte :=
  let n := p384N
  match ecScale k p384G with
  | some (x, _) => bytesBE (x % n) 48 ++ bytesBE (modInv n k * (beValue (sha384 msg) + x % n * d) % n) 48
  | none => List.replicate 96 0

/-- ECDH: the x coordinate. -/
def ecdh (d : Nat) (key : List Byte) : Option (List Byte) :=
  match ecDecode key with
  | some q => (ecScale d (some q)).map (fun x => bytesBE x.1 48)
  | none => none

/-! ### AES-256 (FIPS 197) -/

/-- Multiplication by x in GF(2^8). -/
def xtime (b : Byte) : Byte := (b <<< 1) ^^^ (if b.msb then 0x1B#8 else 0#8)
/-- Multiplication in GF(2^8) over the bits of `b`. -/
def gfMul : Nat → Byte → Byte → Byte → Byte
  | 0, _, _, acc => acc
  | n + 1, a, b, acc => gfMul n (xtime a) (b >>> 1) (if b.toNat % 2 = 1 then acc ^^^ a else acc)
def gf (a b : Byte) : Byte := gfMul 8 a b 0#8
/-- a^254: the inverse, 0 for 0. -/
def gfInv (a : Byte) : Byte :=
  let a2 := gf a a
  let a4 := gf a2 a2
  let a8 := gf a4 a4
  let a16 := gf a8 a8
  let a32 := gf a16 a16
  let a64 := gf a32 a32
  gf (gf (gf a2 a4) (gf a8 a16)) (gf (gf a32 a64) (gf a64 a64))
def sboxOf (a : Byte) : Byte :=
  let b := gfInv a
  b ^^^ b.rotateLeft 1 ^^^ b.rotateLeft 2 ^^^ b.rotateLeft 3 ^^^ b.rotateLeft 4 ^^^ 0x63#8
def sboxTable : List Byte := (List.range 256).map (fun i => sboxOf (BitVec.ofNat 8 i))
def sbox (a : Byte) : Byte := sboxTable.getD a.toNat 0#8

/-- Key expansion: words, the last first. -/
def aesExpand : Nat → Nat → Byte → List (List Byte) → List (List Byte)
  | 0, _, _, w => w
  | n + 1, i, rc, w =>
    let t := w.headD []
    let t' := if i % 8 = 0 then
        match t with
        | [a, b, c, d] => [sbox b ^^^ rc, sbox c, sbox d, sbox a]
        | t => t
      else if i % 8 = 4 then t.map sbox else t
    aesExpand n (i + 1) (if i % 8 = 0 then xtime rc else rc) (xorBytes (w.getD 7 []) t' :: w)
/-- The 15 round keys. -/
def aesKeys (key : List Byte) : List (List Byte) :=
  chunks 16 15 ((aesExpand 52 8 0x01#8 (chunks 4 8 key).reverse).reverse.flatten)

def shiftRows (s : List Byte) : List Byte := (List.range 16).map (fun i => s.getD ((i + 4 * (i % 4)) % 16) 0)
def mixColumn (c : List Byte) : List Byte :=
  match c with
  | [a, b, c, d] =>
    [xtime a ^^^ xtime b ^^^ b ^^^ c ^^^ d, a ^^^ xtime b ^^^ xtime c ^^^ c ^^^ d, a ^^^ b ^^^ xtime c ^^^ xtime d ^^^ d,
     xtime a ^^^ a ^^^ b ^^^ c ^^^ xtime d]
  | c => c
def aesBlock (keys : List (List Byte)) (block : List Byte) : List Byte :=
  let s := xorBytes block (keys.headD [])
  let s := ((keys.drop 1).take 13).foldl (fun s k =>
    xorBytes ((chunks 4 4 (shiftRows (s.map sbox))).flatMap mixColumn) k) s
  xorBytes (shiftRows (s.map sbox)) (keys.getD 14 [])

/-! ### GCM (SP 800-38D) with a 96-bit nonce -/

/-- Multiplication in GF(2^128), bit 0 the most significant, over the bits of `y`. -/
def ghashMul : Nat → Nat → Nat → Nat → Nat
  | 0, _, _, acc => acc
  | n + 1, x, y, acc =>
    ghashMul n (if x % 2 = 1 then (x / 2) ^^^ (0xE1 * 2 ^ 120) else x / 2) y (if y.testBit n then acc ^^^ x else acc)
def padBlock (l : List Byte) : List Byte := l ++ List.replicate ((16 - l.length % 16) % 16) 0
def ghash (h : Nat) (l : List Byte) : Nat :=
  (chunks 16 (l.length / 16) l).foldl (fun y b => ghashMul 128 (y ^^^ beValue b) h 0) 0
/-- CTR key stream from counter block `nonce ‖ i`. -/
def ctrMode (keys : List (List Byte)) (nonce : List Byte) (i : Nat) (m : List Byte) : List Byte :=
  (((chunks 16 (ceilDiv m.length 16) m).zipIdx).flatMap (fun b => xorBytes b.1 (aesBlock keys (nonce ++ bytesBE (i + b.2) 4))))
def gcmTag (keys : List (List Byte)) (nonce aad ct : List Byte) : List Byte :=
  let h := beValue (aesBlock keys (List.replicate 16 0))
  let s := ghash h (padBlock aad ++ padBlock ct ++ bytesBE (8 * aad.length) 8 ++ bytesBE (8 * ct.length) 8)
  xorBytes (bytesBE s 16) (aesBlock keys (nonce ++ bytesBE 1 4))
/-- The ciphertext and the tag. -/
def gcmSeal (key nonce aad pt : List Byte) : List Byte × List Byte :=
  let keys := aesKeys key
  let ct := ctrMode keys nonce 2 pt
  (ct, gcmTag keys nonce aad ct)
/-- The plaintext, if the tag verifies. -/
def gcmOpen (key nonce aad ct tag : List Byte) : Option (List Byte) :=
  let keys := aesKeys key
  if gcmTag keys nonce aad ct = tag then some (ctrMode keys nonce 2 ct) else none

/-! ### HPKE, base mode, P-384, HKDF-SHA-384, AES-256-GCM (RFC 9180; R423) -/

def hpkeKem : List Byte := ascii "KEM" ++ [0x00, 0x11]
def hpkeSuite : List Byte := ascii "HPKE" ++ [0x00, 0x11, 0x00, 0x02, 0x00, 0x02]
def hpkeExtract (suite salt : List Byte) (label : String) (ikm : List Byte) : List Byte :=
  hkdfExtract salt (ascii "HPKE-v1" ++ suite ++ ascii label ++ ikm)
def hpkeExpand (suite prk : List Byte) (label : String) (info : List Byte) (len : Nat) : List Byte :=
  hkdfExpand prk (bytesBE len 2 ++ ascii "HPKE-v1" ++ suite ++ ascii label ++ info) len
/-- Opening with the recipient's private key `d`. -/
def hpkeOpen (d : Nat) (enc info aad sealed_ : List Byte) : Option (List Byte) := do
  let dh ← ecdh d enc
  let prk := hpkeExtract hpkeKem [] "eae_prk" dh
  let secret := hpkeExpand hpkeKem prk "shared_secret" (enc ++ ecPublic d) 48
  let ctx := [0x00] ++ hpkeExtract hpkeSuite [] "psk_id_hash" [] ++ hpkeExtract hpkeSuite [] "info_hash" info
  let sec := hpkeExtract hpkeSuite secret "secret" []
  let key := hpkeExpand hpkeSuite sec "key" ctx 32
  let nonce := hpkeExpand hpkeSuite sec "base_nonce" ctx 12
  let n := sealed_.length - 16
  gcmOpen key nonce aad (sealed_.take n) (sealed_.drop n)

end Sys2Proof.Machine
end

