-- ==== Sys2Proof/Machine/PlanImage.lean ====
section
/-! DEFINITION. Sys2Proof/Machine/PlanImage.lean: the bytes of a field-plan image and their validation (R39 to R51). -/

namespace Sys2Proof.Machine

open Sys2Proof

/-- Where and how a validation fails: the status, and the directory index and entry number where they apply (R48). -/
structure PlanFail where
  st : Status
  at_ : Option (Nat × Nat)
deriving DecidableEq, Repr

/-- R43: a section type: number, entry size, greatest COUNT, mandatory in a full plan, allowed in an overlay. -/
structure SecType where
  ty : Nat
  size : Nat
  maxCount : Nat
  mandatory : Bool
  overlay : Bool
deriving DecidableEq, Repr

/-- R43: the section types; GROUP is mandatory by the condition of R47. -/
def secTypes : List SecType :=
  [ ⟨0x01, 8, 1024, true, true⟩, ⟨0x02, 8, 448, true, true⟩, ⟨0x03, 4, 16, true, true⟩, ⟨0x04, 16, 5, true, false⟩,
    ⟨0x05, 8, 24, false, false⟩, ⟨0x06, 32, 4096, true, false⟩, ⟨0x07, 32, 256, false, true⟩, ⟨0x08, 16, 1, false, false⟩,
    ⟨0x09, 16, 8192, false, true⟩, ⟨0x0A, 16, 1024, false, true⟩, ⟨0x0B, 4, 16, true, true⟩, ⟨0x0C, 8, 1, true, true⟩,
    ⟨0x0D, 16, 1, true, true⟩ ]

/-- A directory entry (R41). -/
structure DirEnt where
  ty : Nat
  off : Nat
  count : Nat
  len : Nat
deriving DecidableEq, Repr

/-- R39, R40, R48 step 1: MAGIC, VERSION, KIND with the operation's precondition on it, SECTIONS and IMAGE_LEN. -/
def headerCheck1 (img : List Byte) (given want : Nat) : Option Status :=
  let kind := fld img 6 1
  let n := fld img 7 1
  let len := fld img 8 4
  if fld img 0 4 ≠ 0x4E4C5046 ∨ fld img 4 2 ≠ 1 then some .format
  else if (kind ≠ 1 ∧ kind ≠ 2) ∨ kind ≠ want then some .format
  else if n = 0 ∨ 16 < n then some .length
  else if len < 176 ∨ (if kind = 1 then 4194304 else 1048576) < len ∨ len % 8 ≠ 0 ∨ len ≠ given ∨ len < 48 + 16 * n + 64
  then some .length
  else none

/-- R39, R42 step 2: KEY_INDEX and the signature. -/
def signatureCheck (s : State) (img : List Byte) : Option Status :=
  let k := fld img 36 1
  match (if k ≤ 7 then tblFind s.vault.planKeys k else none) with
  | none => some .signature
  | some key =>
    if ed25519Verifies key (img.take (img.length - 64)) (img.drop (img.length - 64)) then none else some .signature

/-- R39 step 3: the rest of the header; STEPPING of TOPO_ID is 0x11 (R31). -/
def headerCheck3 (s : State) (img : List Byte) : Option Status :=
  if fld img 12 2 ≠ 0x0020 ∨ 0x11 < fld img 14 1 ∨ fld img 15 1 ≠ 0 ∨ fld img 16 8 = 0 then some .format
  else if fld img 6 1 = 1 ∧ fld img 24 8 ≠ 0 then some .format
  else if s.vault.fwVersion < fld img 32 4 ∨ (reservedAt img [(37, 11)]) ≠ [] then some .format
  else none

/-- Entry `i` of the directory. -/
def dirEnt (img : List Byte) (i : Nat) : DirEnt :=
  let b := 48 + 16 * i
  { ty := fld img b 1, off := fld img (b + 4) 4, count := fld img (b + 8) 4, len := fld img (b + 12) 4 }

/-- R41, R43, R44: a directory entry given those before it; log entry 13: FORMAT faults of its own fields first, then LENGTH,
then overlaps and sections not allowed. -/
def dirCheck (img : List Byte) (kind : Nat) (before : List DirEnt) (i : Nat) : Option Status :=
  let e := dirEnt img i
  let endBody := fld img 8 4 - 64
  match secTypes.find? (fun t => t.ty == e.ty) with
  | none => some .format
  | some t =>
    if fld img (48 + 16 * i + 1) 3 ≠ 0 ∨ e.off % 8 ≠ 0 then some .format
    else if e.count = 0 ∨ t.maxCount < e.count ∨ e.len ≠ e.count * t.size ∨ endBody < e.off + e.len then some .length
    else if e.off < 48 + 16 * fld img 7 1 ∨ before.any (fun b => b.ty == e.ty)
      ∨ before.any (fun b => e.off < b.off + b.len && b.off < e.off + e.len) then some .format
    else if kind = 2 ∧ !t.overlay then some .format
    else none

/-- R41: the directory in order. -/
def readDir (img : List Byte) (kind : Nat) : Nat → Nat → List DirEnt → List DirEnt ⊕ PlanFail
  | 0, _, acc => .inl acc
  | n + 1, i, acc =>
    match dirCheck img kind acc i with
    | some st => .inr { st := st, at_ := some (i, 0) }
    | none => readDir img kind n (i + 1) (acc ++ [dirEnt img i])

/-- A count or size field (R44). -/
def countField (v hi : Nat) : Option Status := if v = 0 ∨ hi < v then some .length else none
/-- Any other field (R44). -/
def codeField (bad : Bool) : Option Status := if bad then some .format else none

/-- Bits above bit 35 are clear. -/
def ports36 (v : Nat) : Bool := v < 2 ^ 36

/-- The first failing check of a list. -/
def firstSome : List (Option Status) → Option Status
  | [] => none
  | some st :: _ => some st
  | none :: l => firstSome l

/-- R44, R45: one entry of a section, its fields in the order of their offsets, reserved bytes included. -/
def entryCheck (ty : Nat) (e : List Byte) : Option Status :=
  let z := fun o n => codeField (!(reservedAt e [(o, n)]).isEmpty)
  let f := fld e
  match ty with
  | 0x01 => firstSome [codeField (63 < f 0 1), z 1 1, codeField (1023 < f 2 2), countField (f 4 2) (1024 - f 2 2), z 6 2]
  | 0x02 => firstSome [codeField (63 < f 0 1), codeField (6 < f 1 1), countField (f 2 2) 256, countField (f 4 4) 65536,
      codeField (f 4 4 < 64 || 2 ^ Nat.log2 (f 4 4) != f 4 4)]
  | 0x03 => firstSome [codeField (15 < f 0 1), if 32 < f 1 1 then some .length else none, z 2 2]
  | 0x04 => firstSome [codeField (4 < f 0 1), z 1 1, codeField (f 2 2 == 0), countField (f 4 4) 24320,
      (if f 0 1 = 0 then countField (f 8 4) 131072 else if f 0 1 = 1 then countField (f 8 4) 16777216
       else codeField (f 8 4 != 0)), z 12 4]
  | 0x05 => firstSome [codeField (11 < f 0 1), codeField (1 < f 1 1), z 2 2, countField (f 4 4) 262144]
  | 0x06 => firstSome [codeField (3 < f 1 1), codeField (f 2 1 == 0 || 3 < f 2 1), z 3 5, codeField (f 24 8 < f 16 8)]
  | 0x07 => firstSome [codeField (1 < f 1 1), z 2 2, z 16 16]
  | 0x08 => firstSome [codeField (4095 < f 0 2), countField (f 2 2) 4096, codeField (f 2 2 ≤ f 0 2), codeField (f 4 4 == 0),
      z 8 8]
  | 0x09 => firstSome [codeField (f 2 2 < f 0 2), z 5 3, codeField (f 8 8 == 0 || !ports36 (f 8 8))]
  | 0x0A => firstSome [codeField (1023 < f 0 2), codeField (35 < f 2 1 && f 2 1 != 0xFF), z 3 1, countField (f 4 2) 4096,
      z 6 2, codeField (!ports36 (f 8 8))]
  | 0x0B => firstSome [codeField (15 < f 0 1), codeField (1 < f 1 1), z 2 2]
  | 0x0C => firstSome [codeField (f 0 2 < 600 || 2400 < f 0 2), z 2 6]
  | _ => firstSome [codeField (!ports36 (f 0 8)), codeField (4095 < f 8 2), codeField (63 < f 10 1), z 11 5]

/-- The entries of a section. -/
def secEntries (img : List Byte) (d : DirEnt) : List (List Byte) :=
  let sz := d.len / d.count
  (List.range d.count).map (fun i => (img.drop (d.off + sz * i)).take sz)

/-- R48 step 5: the first failing entry of a section. -/
def entriesCheck (ty sec : Nat) : Nat → List (List Byte) → Option PlanFail
  | _, [] => none
  | i, e :: l =>
    match entryCheck ty e with
    | some st => some { st := st, at_ := some (sec, i) }
    | none => entriesCheck ty sec (i + 1) l

/-- R48 step 5: the sections in directory order. -/
def sectionsCheck (img : List Byte) : Nat → List DirEnt → Option PlanFail
  | _, [] => none
  | i, d :: l =>
    match entriesCheck d.ty i 0 (secEntries img d) with
    | some f => some f
    | none => sectionsCheck img (i + 1) l

/-- The entries of a section type, read by `f`; none when the image does not carry it. -/
def secIn {α : Type} (img : List Byte) (dir : List DirEnt) (ty : Nat) (f : List Byte → α) : Option (List α) :=
  (dir.find? (fun d => d.ty == ty)).map (fun d => (secEntries img d).map f)

/-- R45: the sections as entries. -/
def readSections (img : List Byte) (dir : List DirEnt) : Sections :=
  { plots := secIn img dir 1 (fun e => ⟨fld e 0 1, fld e 2 2, fld e 4 2⟩),
    queues := secIn img dir 2 (fun e => ⟨fld e 0 1, fld e 1 1, fld e 2 2, fld e 4 4⟩),
    cribs := secIn img dir 3 (fun e => ⟨fld e 0 1, fld e 1 1⟩),
    lofts := secIn img dir 4 (fun e => ⟨fld e 0 1, fld e 2 2, fld e 4 4, fld e 8 4⟩),
    silos := secIn img dir 5 (fun e => ⟨fld e 0 1, fld e 1 1, fld e 4 4⟩),
    windows := secIn img dir 6 (fun e => ⟨fld e 0 1, fld e 1 1, fld e 2 1, fld e 8 8, fld e 16 8, fld e 24 8⟩),
    quotas := secIn img dir 7 (fun e => ⟨fld e 0 1, fld e 1 1, fld e 4 4, fld e 8 4, fld e 12 4⟩),
    group := secIn img dir 8 (fun e => ⟨fld e 0 2, fld e 2 2, fld e 4 4⟩),
    routes := secIn img dir 9 (fun e => ⟨fld e 0 2, fld e 2 2, fld e 4 1, fld e 8 8⟩),
    trees := secIn img dir 10 (fun e => ⟨fld e 0 2, fld e 2 1, fld e 4 2, fld e 8 8⟩),
    opPoints := secIn img dir 11 (fun e => ⟨fld e 0 1, fld e 1 1⟩),
    powerCap := secIn img dir 12 (fun e => fld e 0 2),
    enable := secIn img dir 13 (fun e => ⟨fld e 0 8, fld e 8 2, fld e 10 1⟩) }

/-! ### Conditions on the configuration (R47) -/

/-- Position of the first element that an earlier one matches. -/
def dupAt {α : Type} (same : α → α → Bool) : Nat → List α → List α → Option Nat
  | _, _, [] => none
  | i, seen, a :: l => if seen.any (same a) then some i else dupAt same (i + 1) (a :: seen) l

/-- Position of the first element that meets `p`. -/
def posOf {α : Type} (p : α → Bool) : Nat → List α → Option Nat
  | _, [] => none
  | i, a :: l => if p a then some i else posOf p (i + 1) l

/-- A window lies inside the carve of its heap (R47, R194, R196). -/
def windowInside (c : Sections) (w : WinEnt) : Bool :=
  if w.kind = 3 then true else
  let shift := if w.kind = 2 then 2 ^ 40 else 2 ^ 36
  let n := w.base / shift
  let granules :=
    if w.kind = 2 then 2 * (((c.silos.getD []).filter (fun e => e.port == n && e.region == 0)).map (·.granules)).sum
    else match (c.lofts.getD []).find? (fun e => e.region == (if w.kind = 0 then 3 else 4)) with
      | some e => if bits e.mask n 1 = 1 then e.granules else 0
      | none => 0
  w.limit / shift == n && w.limit % shift < granules * 2 ^ 21

/-- Stacks of a mask. -/
def popCount (v n : Nat) : Nat := ((List.range n).filter (fun i => bits v i 1 == 1)).length

/-- R47: the conditions in table order; the failing section by type and entry. -/
def planConditions (s : State) (c : Sections) : Option (Status × Option (Nat × Nat)) :=
  let plots := c.plots.getD []
  let queues := c.queues.getD []
  let cribs := c.cribs.getD []
  let lofts := c.lofts.getD []
  let silos := c.silos.getD []
  let wins := c.windows.getD []
  let quotas := c.quotas.getD []
  let routes := c.routes.getD []
  let trees := c.trees.getD []
  let ops := c.opPoints.getD []
  let en := (c.enable.getD []).headD ⟨0, 0, 0⟩
  let hit := fun (p : Option Nat) (st : Status) (ty : Nat) => p.map (fun i => (st, some (ty, i)))
  let bad := fun (b : Bool) (st : Status) (ty : Nat) => if b then some (st, some (ty, 0)) else none
  let used := fun p => plots.any (fun e => e.plot == p)
  let trained := fun p => (s.siloPort p).trained
  let stackOver := fun n =>
    24320 - 1536 * tblGet 0 s.withdrawn n < ((lofts.filter (fun e => bits e.mask n 1 == 1)).map (·.granules)).sum
  let small := fun (r unit : Nat) =>
    hit (posOf (fun e => e.region == r && e.granules * popCount e.mask 16 * 2 ^ 21 < e.size * unit) 0 lofts) .length 4
  let siloOver := fun p => trained p && decide ((s.siloPort p).capacity / 2 ^ 21
    < ((silos.filter (fun e => e.port == p)).map (·.granules)).sum)
  let has := fun r => lofts.any (fun e => e.region == r)
  [ hit (dupAt (fun a b => a.first < b.first + b.num && b.first < a.first + a.num) 0 [] plots) .format 1,
    bad ((List.range 64).any (fun p => used p && (queues.filter (fun q => q.plot == p && q.cls == 0)).length != 1)) .format 2,
    hit (posOf (fun q => !used q.plot) 0 queues) .format 2,
    hit (dupAt (fun a b => a.plot == b.plot && a.cls == b.cls) 0 [] queues) .format 2,
    bad (16384 < (queues.map (·.queues)).sum) .length 2,
    bad (cribs.length != 16 || (dupAt (fun a b => a.die == b.die) 0 [] cribs).isSome) .format 3,
    bad (ops.length != 16 || (dupAt (fun a b => a.die == b.die) 0 [] ops).isSome) .format 11,
    hit (dupAt (fun a b => a.region == b.region) 0 [] lofts) .format 4,
    bad (!has 0 || !has 3) .format 4,
    bad ((List.range 16).any stackOver) .length 4,
    small 0 256, small 1 512,
    bad ((bits en.features 2 1 == 1 && (!has 1 || !has 2)) || (bits en.features 0 1 == 1 && !has 2)) .format 4,
    bad ((List.range 12).any siloOver) .length 5,
    hit (posOf (fun e => !trained e.port) 0 silos) .notReady 5,
    bad ((List.range 12).any (fun p => bits en.silo p 1 == 1 && !trained p)) .notReady 13,
    hit (posOf (fun (e : RouteEnt) => e.ports &&& en.caravan != e.ports) 0 routes) .format 9,
    hit (posOf (fun (e : TreeEnt) => e.children &&& en.caravan != e.children
      || (e.parent != 0xFF && bits en.caravan e.parent 1 == 0)) 0 trees) .format 10,
    (if en.caravan ≠ 0 ∧ c.group.isNone then some (.format, none) else none),
    hit (posOf (fun (e : RouteEnt) => (c.group.getD []).any (fun g => g.size ≤ e.last)) 0 routes) .format 9,
    hit (dupAt (fun a b => a.cls == b.cls) 0 [] quotas) .format 7,
    hit (dupAt (fun a b => a.tree == b.tree) 0 [] trees) .format 10,
    hit (posOf (fun w => !windowInside c w) 0 wins) .length 6 ].findSome? id

/-- R47, R48 step 6: the condition that fails, with the directory index of its section where the image carries it. -/
def conditionsCheck (s : State) (c : Sections) (dir : List DirEnt) : Option PlanFail :=
  (planConditions s c).map (fun r =>
    { st := r.1, at_ := r.2.bind (fun p => (posOf (fun d => d.ty == p.1) 0 dir).map (fun i => (i, p.2))) })

/-- R51: equal-priority overlapping pairs of windows and of routes; the count holds at 65,535. -/
def overlapPairs (c : Sections) : Nat :=
  let pairs := fun {α : Type} (p : α → α → Bool) (l : List α) =>
    ((List.range l.length).map (fun i => match l[i]? with
      | some a => ((l.drop (i + 1)).filter (p a)).length
      | none => 0)).sum
  min 65535 (
    pairs (fun (a b : WinEnt) => a.prio == b.prio && a.kind == b.kind && a.plots &&& b.plots != 0
      && a.base ≤ b.limit && b.base ≤ a.limit) (c.windows.getD [])
    + pairs (fun (a b : RouteEnt) => a.prio == b.prio && a.first ≤ b.last && b.first ≤ a.last) (c.routes.getD []))

/-- R48 steps 1 to 5, given what the operation asks of the image it applies to (R52): the directory. -/
def checkImage (s : State) (img : List Byte) (given kind : Nat) (baseOk : Bool) : List DirEnt ⊕ PlanFail :=
  let no := fun st => (.inr { st := st, at_ := none } : List DirEnt ⊕ PlanFail)
  if given < 176 ∨ 4194304 < given ∨ given % 8 ≠ 0 then no .length else
  match headerCheck1 img given kind with
  | some st => no st
  | none =>
  match signatureCheck s img with
  | some st => no st
  | none =>
  match headerCheck3 s img with
  | some st => no st
  | none =>
  if !baseOk then no .planBase else
  match readDir img kind (fld img 7 1) 0 [] with
  | .inr f => .inr f
  | .inl dir =>
  if kind = 1 ∧ secTypes.any (fun t => t.mandatory && !dir.any (fun d => d.ty == t.ty)) then no .format else
  match sectionsCheck img 0 dir with
  | some f => .inr f
  | none => .inl dir

/-- R48: an image validated for LOAD (kind 1) or PREPARE (kind 2), with the preconditions of R52 on its fields. -/
def validateImage (s : State) (img : List Byte) (given kind : Nat) : PlanImage ⊕ PlanFail :=
  let base := (tblFind s.plan.slots 0)
  match checkImage s img given kind (kind != 2 || base.any (fun b => b.planId == fld img 24 8)) with
  | .inr f => .inr f
  | .inl dir =>
  let secs := readSections img dir
  let comb := if kind = 2 then (match base with | some b => Sections.over secs b.secs | none => secs) else secs
  match conditionsCheck s comb dir with
  | some f => .inr f
  | none => .inl { kind := kind, planId := fld img 16 8, baseId := fld img 24 8, keyIndex := fld img 36 1, secs := secs }

/-- R526: the checks of STORE: steps 1 to 5 of R48, for an image of either kind. -/
def storeCheck (s : State) (img : List Byte) (given : Nat) : Option PlanFail :=
  match checkImage s img given (fld img 6 1) true with
  | .inr f => some f
  | .inl _ => none

/-- R520: the Silo ports that an image names, in its SILO_EXP and ENABLE sections. -/
def namedSiloPorts (img : List Byte) : List Nat :=
  match readDir img (fld img 6 1) (fld img 7 1) 0 [] with
  | .inl dir =>
    let c := readSections img dir
    (c.silos.getD []).map (·.port)
      ++ (List.range 12).filter (fun p => (c.enable.getD []).any (fun e => bits e.silo p 1 == 1))
  | .inr _ => []

end Sys2Proof.Machine
end

