-- ==== Sys2Proof/Machine/FieldPlan.lean ====
section
/-! DEFINITION. Sys2Proof/Machine/FieldPlan.lean: the operations of FP_CTRL (R16, R52 to R65, R543) and the rows LOAD to UNLOAD,
APPLY_*, FP_OPERATION_DONE. -/

namespace Sys2Proof.Machine

open Sys2Proof

/-- R440, R441, R517: an agent's access to BAR0 reaches it: the PF through its open BAR, the MCTP path from the end of start-up
step 9, the firmware. -/
def bar0Open (s : State) (a : Agent) : Bool :=
  match a with
  | .host f => f == 0 && barOpen s 0
  | .mctp => s.boot.step == 10
  | .firmware => true

/-- R454, R469: a write to offset `off` of BAR0; a host's is a memory request, which wakes the module, and is counted while the PF is
under a function-level reset. -/
def viaBar0 (s : State) (a : Agent) (off : Nat) (go : State → State) : State :=
  if bar0Open s a then
    match a with
    | .host f => if (s.fn f).flr then badAccess (wakeSource s 1) f 0 off true else go (wakeSource s 1)
    | _ => go s
  else s

/-- FP_CTRL, FP_SRC, FP_STATUS, FP_IRQ. -/
def kFpSrc : Nat := kBar0 0x8004
def kFpStatus : Nat := kBar0 0x8010
def kFpIrq : Nat := kBar0 0x8034

/-- R64: an operation runs. -/
def fpBusy (s : State) : Bool := s.plan.op.isSome || s.plan.apply.isSome

/-- R52, R543: an operation ends: RESULT, the failing section and entry, DONE and its vector. -/
def fpEnd (s : State) (st : Status) (at_ : Option (Nat × Nat)) : State :=
  let s := { s with plan := { s.plan with op := none, apply := none, result := st, errAt := at_ } }
  signalModule (s.setBits kFpIrq 0x10000) kFpIrq

/-- A context exists (R52). -/
def someContext (s : State) : Bool := s.ctxs.any (fun e => e.2.st != .free)

/-- R16, R514: every die passed its start-up test, and every stack trained. -/
def allDies (s : State) : Bool := (List.range 20).all (fun d => s.topo.diePresent.contains d) && s.boot.fail != 4

/-- A full plan is loaded. -/
def planLoaded (s : State) : Bool := (tblFind s.plan.slots 0).isSome

/-- R54, R64: an operation is taken up, unless one runs (REJECTED). -/
def fpBegin (s : State) (op slot : Nat) (go : State → State) : State :=
  if fpBusy s then s.setBits kFpStatus 0x200 else
  let s := { s with plan := { s.plan with lastOp := op, lastSlot := slot } }
  if 4 < slot then fpEnd s .format none else go s

/-- R52: the image is to be read: LOAD or PREPARE runs. -/
def fpRead (op slot : Nat) (s : State) : State :=
  { s with plan := { s.plan with op := some { op := op, slot := slot, addr := s.ctr64 kFpSrc,
                                              len := (s.reg (kBar0 0x800C)).toNat, boot := false } } }

/-- R52: LOAD: its state preconditions in order. -/
def fpLoad (s : State) (slot : Nat) : State :=
  fpBegin s 1 slot (fun s =>
    if s.ctr64 kFpSrc % 8 ≠ 0 then fpEnd s .format none
    else if someContext s || !allDies s then fpEnd s .notReady none
    else fpRead 1 slot s)

/-- R52: PREPARE: its state preconditions in order. -/
def fpPrepare (s : State) (slot : Nat) : State :=
  fpBegin s 2 slot (fun s =>
    if slot = 0 ∨ s.ctr64 kFpSrc % 8 ≠ 0 then fpEnd s .format none
    else if !planLoaded s then fpEnd s .notReady none
    else fpRead 2 slot s)

/-- R55: the plots whose ranges or queues differ between two configurations. -/
def changedPlots (a b : Sections) : List Nat :=
  (List.range 64).filter (fun p =>
    (a.plots.getD []).filter (fun e => e.plot == p) != (b.plots.getD []).filter (fun e => e.plot == p)
    || (a.queues.getD []).filter (fun e => e.plot == p) != (b.queues.getD []).filter (fun e => e.plot == p))

/-- R55: the trees whose entries differ. -/
def changedTrees (a b : Sections) : List Nat :=
  (List.range 1024).filter (fun t =>
    (a.trees.getD []).filter (fun e => e.tree == t) != (b.trees.getD []).filter (fun e => e.tree == t))

/-- The rings of contexts that are not Free and bound to a plot of the list. -/
def ringsOfPlots (s : State) (ps : List Nat) : List (Nat × Nat × Ring) :=
  (allRings s).filter (fun e => (s.ctx e.1).st != .free && ps.contains (ctxPlot s e.1))

/-- R55: a queue of a changed plot holds a command that has not started, a complete unfetched item included. -/
def holdsUnstarted (s : State) (ps : List Nat) : Bool :=
  (ringsOfPlots s ps).any (fun e =>
    e.2.2.cmds.any (fun x => x.open_ && !x.dispatched) || (e.2.2.depth != 0 && itemComplete s e.1 e.2.1))

/-- R55: a REDUCE is in progress on a tree. -/
def reducesOn (s : State) (ts : List Nat) : Bool :=
  !(cmdsWhere s (fun x => x.dispatched && dOpcode x.desc == opReduce && ts.contains (fld x.desc 56 2))).isEmpty

/-- R55, R56 steps 1 and 2: APPLY checks quiescence, stops dispatch on the changed plots and notes what executes there. -/
def fpApply (s : State) (slot : Nat) : State :=
  fpBegin s 3 slot (fun s =>
    match inForce s, configOf s.plan slot with
    | some a, some b =>
      let ps := changedPlots a b
      if holdsUnstarted s ps || reducesOn s (changedTrees a b) then
        fpEnd { s with plan := { s.plan with applyNs := 0 } } .notReady none
      else
        let waits := (ringsOfPlots s ps).flatMap (fun e =>
          (e.2.2.cmds.filter Cmd.dispatched).map (fun x => ({ ctx := e.1, ring := e.2.1, serial := x.serial } : CmdRef)))
        { s with plan := { s.plan with apply := some { slot := slot, plots := ps, waits := waits, began := s.time } } }
    | _, _ => fpEnd s .notReady none)

/-- The command of a reference. -/
def State.refCmd (s : State) (r : CmdRef) : Option Cmd := s.cmd r.ctx r.ring r.serial

/-- R56: a command APPLY waits for has no final status yet, or a kill has returned it to its dispatch point. -/
def applyWaiting (s : State) (r : ApplyRun) : Bool := r.waits.any (fun w => (s.refCmd w).any (fun x => x.dispatched))
def applyReturned (s : State) (r : ApplyRun) : Bool :=
  r.waits.any (fun w => (s.refCmd w).any (fun x => x.open_ && !x.dispatched))

/-- R65: FP_APPLY_NS at the end of an APPLY that began at `t`. -/
def applyTimed (s : State) (t : DWord) : State :=
  { s with plan := { s.plan with applyNs := min 0xFFFFFFFF (s.time - t).toNat } }

/-- Virtual clocks of the queues that the configuration in force leaves in place (R163). -/
def keepClocks (s : State) (old : Option Sections) : State :=
  let defd := fun (c : Option Sections) k =>
    ((c.bind Sections.queues).getD []).any (fun q => q.plot * 8 + q.cls == k / 256 && k % 256 < q.queues)
  { s with sched := { s.sched with clocks := s.sched.clocks.filter (fun e => defd (inForce s) e.1 && defd old e.1) } }

/-- R56 step 4, R463, R477: dies whose ACLK_MODE does not permit sprint lose it and drop to the energy point. -/
def capAclk (s : State) : State :=
  let may := fun d => (secList s Sections.opPoints).any (fun e => e.die == d && e.mode == 1)
  (s.pwr.granted.filter (fun d => !may d)).foldl (fun s d =>
    let x := tblGet DiePower.reset s.pwr.dies d
    { s with aclk := tblSet 1200 s.aclk d (min 1200 (aclkMHz s d)),
             pwr := { s.pwr with granted := setDel s.pwr.granted d,
                                 dies := tblSet DiePower.reset s.pwr.dies d { x with sprint := false, rising := none, mv := min 620 x.mv } } }) s

/-- What follows a change of the configuration in force: FP_GEN, clocks, hosts of doubled indices, frequencies. -/
def configSwitched (s : State) (old : Option Sections) : State :=
  let s := { s with plan := { s.plan with gen := s.plan.gen + 1,
                                          overlaps := match inForce s with | some c => overlapPairs c | none => 0 } }
  portsAfterPlan (capAclk (placeDoubledAll (keepClocks s old)))

/-- APPLY_BANK_SWITCH (R56 steps 3 to 5): every awaited command is final: the banks switch at once; NOT_READY if a kill has
returned one to its dispatch point. -/
def applyBankSwitch (s : State) : State :=
  match s.plan.apply with
  | none => s
  | some r =>
    if applyReturned s r then fpEnd (applyTimed s r.began) .notReady none
    else if applyWaiting s r then s
    else
      let old := inForce s
      let s := configSwitched { s with plan := { s.plan with active := r.slot, force := configOf s.plan r.slot } } old
      fpEnd (applyTimed s r.began) .ok none

/-- APPLY_WAIT_TIMEOUT (R56): 2 ms have passed with a command not final. -/
def applyWaitTimeout (s : State) : State :=
  match s.plan.apply with
  | some r => if applyWaiting s r || applyReturned s r then fpEnd (applyTimed s r.began) .notReady none else s
  | none => s

/-- APPLY_ACK_TIMEOUT (R57): a die does not acknowledge: the previous bank stays, the die is logged. -/
def applyAckTimeout (s : State) (die : Nat) : State :=
  match s.plan.apply with
  | some r =>
    if applyWaiting s r || applyReturned s r then s
    else fpEnd (logEntry (applyTimed s r.began) 6 8 (statusCode .notReady) noCtx die) .notReady none
  | none => s

/-- R52: DISCARD. -/
def fpDiscard (s : State) (slot : Nat) : State :=
  fpBegin s 4 slot (fun s =>
    if slot = 0 then fpEnd s .format none
    else if slot = s.plan.active then fpEnd s .notReady none
    else fpEnd { s with plan := { s.plan with slots := tblDel s.plan.slots slot } } .ok none)

/-- R52: UNLOAD. -/
def fpUnload (s : State) (slot : Nat) : State :=
  fpBegin s 5 slot (fun s =>
    if someContext s then fpEnd s .notReady none
    else
      let old := inForce s
      fpEnd (configSwitched { s with plan := { s.plan with slots := [], active := 0, force := none } } old) .ok none)

/-- R54, R252: the sequence table and the Drift index initialised, with a new DRIFT_KEY. -/
def initCarves (s : State) : State :=
  let (k, s) := s.draw
  { s with driftKey := k % 2 ^ 128, com := { s.com with slots := [], stooks := [], kv := [], sets := [] }, nodes := [], usedSheaves := [],
           recSheaves := [], relQueue := [] }

/-- R52: a LOAD succeeds. -/
def loadDone (s : State) (img : PlanImage) : State :=
  let old := inForce s
  let s := { s with plan := { s.plan with slots := [(0, img)], active := 0, force := some img.secs } }
  let s := configSwitched (initCarves s) old
  { s with sched := { s.sched with clocks := [] } }

/-- R520: step 10 ends with the outcome of its LOAD; a failure is logged as class 5. -/
def bootPlanEnds (s : State) (st : Status) : State :=
  let s := { s with boot := { s.boot with planResult := st, done := true, running := false } }
  if st == .ok then s else logEntry s 5 8 (statusCode st) noCtx 0

/-- R520: the LOAD of step 10 has ended; a host LOAD that completes before it has started cancels it. -/
def loadEnded (s : State) (o : FpOp) (st : Status) : State :=
  if o.boot then bootPlanEnds s st
  else if o.op = 1 ∧ s.boot.running then { s with boot := { s.boot with done := true, running := false } } else s

/-- FP_OPERATION_DONE (R48, R52): the image has been read, from host memory or, at step 10, from SPI NOR, and validated. -/
def fpOperationDone (s : State) : State :=
  match s.plan.op with
  | none => s
  | some o =>
    let img := if o.boot then s.boot.plan else memRead s.com.host o.addr (if o.len ≤ 4194304 then o.len else 0)
    match validateImage s img o.len o.op with
    | .inr f => loadEnded (fpEnd (if f.st == .signature then s.bump kSigFail 1 else s) f.st f.at_) o f.st
    | .inl img =>
      if o.op = 1 then loadEnded (fpEnd (loadDone s img) .ok none) o .ok
      else fpEnd { s with plan := { s.plan with slots := tblIns s.plan.slots o.slot img } } .ok none

/-- R52: OP values 6 and 7 set RESULT to FORMAT. -/
def fpReserved (s : State) (op slot : Nat) : State :=
  if fpBusy s then s.setBits kFpStatus 0x200
  else fpEnd { s with plan := { s.plan with lastOp := op, lastSlot := slot } } .format none

/-- R62: a write to FP_CTRL. -/
def fpCtrl (s : State) (v : Word) : State :=
  let slot := bits v.toNat 4 3
  match bits v.toNat 0 3 with
  | 0 => if fpBusy s then s.setBits kFpStatus 0x200 else s
  | 1 => fpLoad s slot
  | 2 => fpPrepare s slot
  | 3 => fpApply s slot
  | 4 => fpDiscard s slot
  | 5 => fpUnload s slot
  | n => fpReserved s n slot

/-- R64: FP_STATUS but for REJECTED. -/
def fpStatusWord (p : PlanSt) : Word :=
  let busy := p.op.isSome || p.apply.isSome
  BitVec.ofNat 32 ((if busy then 1 else statusCode p.result) + bit busy 8 + p.lastOp * 2 ^ 10 + p.lastSlot * 2 ^ 13
    + (match p.errAt with | some (sec, _) => sec * 2 ^ 16 + 2 ^ 20 | none => 0))

def execFpLoad (a : Agent) (slot : Nat) (s : State) : Out := hub s (viaBar0 s a 0x8000 (fun s => fpLoad s (slot % 8)))
def execFpPrepare (a : Agent) (slot : Nat) (s : State) : Out := hub s (viaBar0 s a 0x8000 (fun s => fpPrepare s (slot % 8)))
def execFpApply (a : Agent) (slot : Nat) (s : State) : Out := hub s (viaBar0 s a 0x8000 (fun s => fpApply s (slot % 8)))
def execApplyBankSwitch (s : State) : Out := hub s (applyBankSwitch s)
def execApplyWaitTimeout (s : State) : Out := hub s (applyWaitTimeout s)
def execApplyAckTimeout (die : Nat) (s : State) : Out := hub s (applyAckTimeout s die)
def execFpDiscard (a : Agent) (slot : Nat) (s : State) : Out := hub s (viaBar0 s a 0x8000 (fun s => fpDiscard s (slot % 8)))
def execFpUnload (a : Agent) (slot : Nat) (s : State) : Out := hub s (viaBar0 s a 0x8000 (fun s => fpUnload s (slot % 8)))
def execFpOperationDone (s : State) : Out := hub s (fpOperationDone s)

end Sys2Proof.Machine
end

