-- ==== Sys2Proof/Machine/Rings.lean ====
section
/-! DEFINITION. Sys2Proof/Machine/Rings.lean: ring operations, doorbells and EVC_ADD (R106 to R111, R144, R149, R150, R448,
R544) and the rows ENABLE, RESUME, FLUSH, DISABLE, FLUSH_COMPLETE, DOORBELL, DOORBELL_PAGE_WRITE, EVC_ADD. -/

namespace Sys2Proof.Machine

open Sys2Proof

/-- R441, R444, R446, R454: a write by function `f` at offset `off` of its BAR2 below the aperture's reach: lost while the BAR
is closed, counted while a function-level reset runs, else done for the context that CTXSEL shows, if it shows one. -/
def viaWindow (s : State) (f off : Nat) (go : Nat → State) : State :=
  if !barOpen s f then s
  else if (s.fn f).flr then wakeSource (badAccess s f 2 off true) 1
  else match shownCtx s f with
    | some c => wakeSource (go c) 1
    | none => wakeSource s 1

/-- Offset of a register of ring `n` in the window (R151). -/
def ringOff (n r : Nat) : Nat := 0x1000 + 0x40 * n + r

/-- LAST_ERR of a ring. -/
def ringErr (s : State) (c n : Nat) (st : Status) : State := s.setRing c n { s.ring c n with lastErr := st }

/-- Enabled rings of a context and of the module (R106). -/
def enabledRings (s : State) (c : Nat) : List Nat := ringNums.filter (fun n => (s.ring c n).st != .disabled)
def enabledTotal (s : State) : Nat := ((allRings s).filter (fun e => e.2.2.st != .disabled)).length

/-- R544 condition 8: the granules of an area allocated. -/
def allocArea (s : State) (c addr len : Nat) : Option State :=
  match objBody s.com c (addrObj addr) with
  | some (sid, b, _) =>
    match allocGrans s sid b (unallocated s sid (granRange (addrOff addr) len)) with
    | .done s => some s
    | _ => none
  | none => none

/-- The object's placement is 2; an area lies within its object. -/
def areaPinned (s : State) (c addr : Nat) : Bool :=
  match objBody s.com c (addrObj addr) with
  | some (_, b, _) => b.place == 2
  | none => false
def areaFits (s : State) (c addr len : Nat) : Bool :=
  match objBody s.com c (addrObj addr) with
  | some (_, b, _) => addrOff addr + len ≤ b.size * 2 ^ 21
  | none => false

/-- R544: the checks of ENABLE in order: the status of the first failure, or the state with the granules of condition 8. -/
def enableChecks (s : State) (c n : Nat) : State ⊕ Status :=
  match (queueEntry s (ctxPlot s c) (ringClass s c n)).filter (fun q => ringIndex s c n < q.queues) with
  | none => .inr .notReady
  | some q =>
    if 64 ≤ (enabledRings s c).length ∨ 65536 ≤ enabledTotal s then .inr .quota
    else if (enabledRings s c).any (fun m => m != n && ringClass s c m == ringClass s c n && ringIndex s c m == ringIndex s c n)
    then .inr .format
    else if ringSq s c n % 4096 ≠ 0 ∨ ringCq s c n % 4096 ≠ 0 then .inr .format
    else if ringHost s c n then .inl s
    else if (objBody s.com c (addrObj (ringSq s c n))).isNone ∨ (objBody s.com c (addrObj (ringCq s c n))).isNone
    then .inr .noObject
    else if !areaPinned s c (ringSq s c n) || !areaPinned s c (ringCq s c n) then .inr .format
    else if !areaFits s c (ringSq s c n) (q.depth * 64) || !areaFits s c (ringCq s c n) (q.depth * 32) then .inr .length
    else match (allocArea s c (ringSq s c n) (q.depth * 64)).bind (fun s => allocArea s c (ringCq s c n) (q.depth * 32)) with
      | some s => .inl s
      | none => .inr .quota

/-- R108: the DEPTH in force for the ring's queue. -/
def queueDepth (s : State) (c n : Nat) : Nat :=
  match queueEntry s (ctxPlot s c) (ringClass s c n) with
  | some q => q.depth
  | none => 0

/-- R149, R544: ENABLE. -/
def ringEnable (s : State) (c n : Nat) : State :=
  if (s.ring c n).st != .disabled then ringErr s c n .notReady else
  match enableChecks s c n with
  | .inr st => ringErr s c n st
  | .inl s' =>
    s'.setRing c n { s'.ring c n with st := .running, depth := queueDepth s c n, head := 0, tail := 0, retire := 0, serial := 0,
                                      cmds := [] }

/-- R149: RESUME. -/
def ringResume (s : State) (c n : Nat) : State :=
  let r := s.ring c n
  if r.st == .halted then s.setRing c n { r with st := .running } else ringErr s c n .notReady

/-- R149, R150 steps 1 and 2: FLUSH. -/
def ringFlush (s : State) (c n : Nat) : State :=
  let r := s.ring c n
  if r.st == .running || r.st == .halted then killRing (s.setRing c n { r with st := .flushing, after := .running }) c n .flush
  else if r.st == .frozen then flushEnd (killRing s c n .flush) c n .frozen
  else ringErr s c n .notReady

/-- R149, R150 steps 1 and 2: DISABLE. -/
def ringDisable (s : State) (c n : Nat) : State :=
  let r := s.ring c n
  if r.st == .running || r.st == .halted then killRing (s.setRing c n { r with st := .flushing, after := .disabled }) c n .flush
  else ringErr s c n .notReady

/-- FLUSH_COMPLETE (R150 steps 3 to 5). -/
def flushComplete (s : State) (c n : Nat) : State :=
  let r := s.ring c n
  if r.st == .flushing then flushEnd s c n r.after else s

/-- R151: a write to RING_CTRL. A Free context has no ring to act on (R153). -/
def ringCtrl (s : State) (c n : Nat) (v : Word) : State :=
  match bits v.toNat 0 3 with
  | 0 => s
  | 1 => ringEnable s c n
  | 2 => ringResume s c n
  | 3 => ringFlush s c n
  | 4 => ringDisable s c n
  | _ => ringErr s c n .format

/-- R151: RING_CFG, SQ_BASE and CQ_BASE are writable only while the ring is Disabled. -/
def ringCfgWrite (s : State) (c n off : Nat) (v : Word) : State :=
  if (s.ring c n).st == .disabled then s.setReg (kWin c (ringOff n off)) v else ringErr s c n .notReady

/-- DB_DROPS of a ring. -/
def kDbDrops (c n : Nat) : Nat := kWin c (ringOff n 0x38)

/-- R109, R111: free space of a ring: RETIRE + DEPTH − TAIL, modulo 2 × DEPTH. -/
def ringSpace (r : Ring) : Nat := slotDist r r.tail ((r.retire + r.depth) % (2 * r.depth))

/-- R110: the TAIL index of a doorbell, modulo 2 × DEPTH. -/
def doorbellTail (r : Ring) (v : Word) : Nat := bits v.toNat 0 17 % (2 * r.depth)

/-- R111: the device accepts a doorbell. The states in which a ring takes doorbells: Running, Halted, Frozen (R448); none is
taken while the ring is Disabled or flushes (R150) or its context is Destroying or Resetting (R158). -/
def doorbellOk (s : State) (c n : Nat) (v : Word) : Bool :=
  let r := s.ring c n
  (r.st == .running || r.st == .halted || r.st == .frozen)
    && ((s.ctx c).st == .active || (s.ctx c).st == .frozen)
    && bits v.toNat 20 12 == r.epoch.toNat % 4096 && bits v.toNat 17 3 == 0
    && slotDist r r.tail (doorbellTail r v) ≤ ringSpace r

/-- R111: a doorbell to ring `n` of context `c`. -/
def ringDoorbell (s : State) (c n : Nat) (v : Word) : State :=
  if doorbellOk s c n v then wakeSource (s.setRing c n { s.ring c n with tail := doorbellTail (s.ring c n) v }) 4 else s.bump16 (kDbDrops c n) 1

/-- R448: one whole unit of a BAR4 write, at a page and an offset in it. -/
def doorbellUnit (s : State) (f page off : Nat) (v : Word) : State :=
  if fnCtxCount s f ≤ page ∨ 0x100 ≤ off then s.bump16 (kPage f 0x10010) 1
  else ringDoorbell s (fnCtxBase s f + page) (off / 4) v

/-- A BAR4 write reaches the function (R441, R453, R454). -/
def viaBar4 (s : State) (f off : Nat) (go : State) : State :=
  if !barOpen s f then s else wakeSource (if (s.fn f).flr then badAccess s f 4 off true else go) 1

/-- DOORBELL (R110, R111): a 4-byte write to RING_DB[ring] of a page. -/
def doorbell (s : State) (f page ring : Nat) (v : Word) : State :=
  viaBar4 s f (4096 * page + 4 * ring) (doorbellUnit s f page (4 * ring) v)

/-- R448: the units that a write of bytes at `off` covers, in ascending order: offset, and the value where it is whole. -/
def bar4Units (off : Nat) (data : List Byte) : List (Nat × Option Word) :=
  if data.isEmpty then [] else
  (List.range ((off + data.length - 1) / 4 - off / 4 + 1)).map (fun i =>
    let a := (off / 4 + i) * 4
    (a, if off ≤ a ∧ a + 4 ≤ off + data.length then some (BitVec.ofNat 32 (leValue ((data.drop (a - off)).take 4))) else none))

/-- R448: one unit of a BAR4 write; a unit covered only in part is ignored. -/
def bar4Unit (s : State) (f : Nat) (u : Nat × Option Word) : State :=
  match u.2 with
  | some v => doorbellUnit s f (u.1 / 4096) (u.1 % 4096) v
  | none => s.bump16 (kPage f 0x10010) 1

/-- DOORBELL_PAGE_WRITE (R448). -/
def doorbellPageWrite (s : State) (f off : Nat) (data : List Byte) : State :=
  viaBar4 s f off ((bar4Units off data).foldl (fun s u => bar4Unit s f u) s)

/-- R144, R152: a write to EVC_ADD: an increment as a commit. A Free context has no counters (R144). -/
def evcAdd (s : State) (c k inc : Nat) : State :=
  if (s.ctx c).st == .free ∨ inc = 0 then s else evcInc s c k inc

def execRingEnable (fn ring : Nat) (s : State) : Out :=
  hub s (viaWindow s fn (ringOff (ring % 64) 4) (fun c => ringEnable s c (ring % 64)))
def execRingResume (fn ring : Nat) (s : State) : Out :=
  hub s (viaWindow s fn (ringOff (ring % 64) 4) (fun c => ringResume s c (ring % 64)))
def execRingFlush (fn ring : Nat) (s : State) : Out :=
  hub s (viaWindow s fn (ringOff (ring % 64) 4) (fun c => ringFlush s c (ring % 64)))
def execRingDisable (fn ring : Nat) (s : State) : Out :=
  hub s (viaWindow s fn (ringOff (ring % 64) 4) (fun c => ringDisable s c (ring % 64)))
def execFlushComplete (ctx ring : Nat) (s : State) : Out := hub s (flushComplete s ctx ring)
def execDoorbell (fn page ring : Nat) (v : Word) (s : State) : Out := hub s (doorbell s fn page (ring % 64) v)
def execDoorbellPageWrite (fn off : Nat) (data : List Byte) (s : State) : Out := hub s (doorbellPageWrite s fn off data)
def execEvcAdd (fn ctr inc : Nat) (s : State) : Out :=
  hub s (viaWindow s fn (0x2800 + 4 * (ctr % 256)) (fun c => evcAdd s c (ctr % 256) (inc % 65536)))

end Sys2Proof.Machine
end

