-- ==== Sys2Proof/Machine/Contexts.lean ====
section
/-! DEFINITION. Sys2Proof/Machine/Contexts.lean: contexts, function ranges, freezing and thawing, accounts (R153 to R185) and the
rows CREATE, DESTROY, THAW, RESET, RESET_COMPLETE, FREEZE_COMPLETE, FN_RANGE_WRITE, CTX_WEIGHT_WRITE, PREEMPTION_CHECK,
VT_IDLE_ADJUST, ENERGY_RECONCILE. -/

namespace Sys2Proof.Machine

open Sys2Proof

/-- CTX_STATUS.LAST_ERR. -/
def ctxErr (s : State) (c : Nat) (st : Status) : State := s.setCtx c { s.ctx c with lastErr := st }

/-- R184: an operation runs, or the freeze steps run. -/
def ctxBusy (x : Ctx) : Bool := x.freezing.isSome || x.st == .destroying || x.st == .resetting

/-- R156: the checks of CREATE in order. -/
def createCheck (s : State) (f c : Nat) : Option Status :=
  let lb := 16 * s.regField (kWin c 8) 0 12
  let ln := 16 * s.regField (kWin c 8) 16 13
  if (s.ctx c).st != .free then some .notReady
  else if !planLoaded s then some .notReady
  else if s.regField (kWin c 4) 0 16 = 0 then some .format
  else if (match (inForce s).bind Sections.quotas with
    | some l => !l.any (fun q => q.cls == ctxQuotaClass s c)
    | none => ctxQuotaClass s c != 0) then some .format
  else if ln ≠ 0 ∧ (lb < fnLatchBase s f ∨ fnLatchBase s f + fnLatchCount s f < lb + ln) then some .format
  else none

/-- R144, R157: the event counters of a context at zero. -/
def zeroCounters (s : State) (c : Nat) : State :=
  { s with evc := s.evc.filter (fun e => e.1 / 256 != c) }

/-- R149, R157: the rings of a new context. -/
def zeroRings (s : State) (c : Nat) : State := { s with rings := s.rings.filter (fun e => e.1 / 64 != c) }

/-- R156, R157: CREATE, with the context's XTS keys (R204, a free value); log entry 15: FREEZE_COUNT, the rings and the digest of a new context are as at reset. -/
def ctxCreate (s : State) (f c : Nat) : State :=
  if ctxBusy (s.ctx c) then ctxErr s c .notReady else
  match createCheck s f c with
  | some st => ctxErr s c st
  | none =>
    let (k, s) := s.draw
    (zeroRings (zeroCounters (s.setCtx c { Ctx.reset with st := .active, lastErr := (s.ctx c).lastErr, xts := k % 2 ^ 512 }) c) c).setReg (kWin c 0x7000) 0

/-- R158 step 4: CANCELLED records for a ring, which becomes Disabled. -/
def cancelRing (s : State) (c n : Nat) : State :=
  let s := takeItems c n (s.ring c n).depth s
  let s := cancelOpen s c n
  let r := s.ring c n
  s.setRing c n { r with st := .disabled, tail := r.head, retire := r.head, cmds := [], depth := 0 }

/-- R158 step 4 over the rings that are not Disabled. -/
def cancelRings (s : State) (c : Nat) : State := (enabledRings s c).foldl (fun s n => cancelRing s c n) s

/-- R260: the steering sets of a context removed. -/
def dropSets (s : State) (c : Nat) : State := s.setCom { s.com with sets := s.com.sets.filter (fun e => e.2.ctx != c) }

/-- R157, R158: DESTROY: steps 1 to 5; R260: its steering sets go after step 2. -/
def ctxDestroy (s : State) (c : Nat) : State :=
  let x := s.ctx c
  if ctxBusy x || !(x.st == .active || x.st == .frozen) then ctxErr s c .notReady else
  let s := s.setCtx c { x with st := .destroying }
  breakLatches (cancelRings (dropSets (killCtx s c .cancel) c) c) c

/-- R157, R158 steps 1 and 2: RESET. -/
def ctxReset (s : State) (c : Nat) : State :=
  let x := s.ctx c
  if ctxBusy x || !(x.st == .active || x.st == .frozen) then ctxErr s c .notReady else
  killCtx (s.setCtx c { x with st := .resetting }) c .cancel

/-- R159: every FLUSH_EPOCH advances by one. -/
def advanceEpochs (s : State) (c : Nat) : State :=
  ringNums.foldl (fun s n => s.setRing c n { s.ring c n with epoch := (s.ring c n).epoch + 1 }) s

/-- RESET_COMPLETE (R158 steps 3 to 5, R159; R411). -/
def resetComplete (s : State) (c : Nat) : State :=
  if (s.ctx c).st != .resetting then s else
  let s := breakLatches (cancelRings s c) c
  let s := (zeroCounters (advanceEpochs s c) c).setReg (kWin c 0x7000) 0
  s.setCtx c { s.ctx c with st := .active, digest := 0, units := 0 }

/-- Records that breached are due again (R107); log entry 14. -/
def redoRecords (s : State) (c n : Nat) : State :=
  ((s.ring c n).cmds.filter (fun x => x.recDue)).foldl (fun s x =>
    if x.phase == .done then writeFinal s c n x else
    match ringArea s c n true (recordAddr s c n x.slot) 32 with
    | none => areaBreach s c n (recordAddr s c n x.slot) true
    | some s => (areaWrite s c n (recordAddr s c n x.slot) (pendingRecord x)).setCmd c n { x with recDue := false }) s

/-- R149, R174: a ring at a thaw. -/
def thawRing (s : State) (c n : Nat) : State :=
  let r := s.ring c n
  if r.st == .frozen then s.setRing c n { r with st := r.before } else s

/-- R174: THAW: the rings return to their states, the ring of the breaching command applies the halt rule to FROZEN. -/
def ctxThaw (s : State) (c : Nat) : State :=
  let x := s.ctx c
  if ctxBusy x || x.st != .frozen then ctxErr s c .notReady else
  let s := s.setCtx c { x with st := .active, haltRing := none }
  let s := ringNums.foldl (fun s n => thawRing s c n) s
  let s := match x.haltRing with | some n => haltRule s c n .frozen | none => s
  ringNums.foldl (fun s n => redoRecords s c n) s

/-- FREEZE_COMPLETE (R172 step 4): FREEZE_INFO and the FROZEN record are written, the vector is signalled. -/
def freezeComplete (s : State) (c : Nat) : State :=
  match (s.ctx c).freezing with
  | none => s
  | some f =>
    let s := s.setCtx c { s.ctx c with freezing := none, info := f, haltRing := if f.serValid then some f.ring else none }
    let s := if f.serValid then
        match s.cmd c f.ring f.serial with
        | some x => if x.open_ then finishRecord s c f.ring x .frozen false noField else s
        | none => s
      else s
    if s.regField (kWin c 0x14) 11 1 = 1 then signalCtxVector s c (s.regField (kWin c 0x14) 0 11) else s

/-- R184: a write to CTX_CTRL. -/
def ctxCtrl (s : State) (f c : Nat) (v : Word) : State :=
  match bits v.toNat 0 3 with
  | 0 => s
  | 1 => ctxCreate s f c
  | 2 => ctxDestroy s c
  | 3 => ctxThaw s c
  | 4 => ctxReset s c
  | _ => if ctxBusy (s.ctx c) then ctxErr s c .notReady else ctxErr s c .format

/-- R156: CTX_CFG and CTX_LATCH are writable only while the context is Free. -/
def ctxCfgWrite (s : State) (c off mask : Nat) (v : Word) : State :=
  if (s.ctx c).st == .free then s.setReg (kWin c off) (v &&& BitVec.ofNat 32 mask) else ctxErr s c .notReady

/-- R164: a write to CTX_WEIGHT; zero is ignored. -/
def ctxWeightWrite (s : State) (c : Nat) (v : Word) : State :=
  if bits v.toNat 0 16 = 0 then ctxErr s c .format else s.setReg (kWin c 4) (v &&& 0xFFFF#32)

/-- SCHED_STATUS. -/
def kSchedStatus : Nat := kBar0 0xB004

/-- R154: a range [a, a + n) meets [b, b + m). -/
def rangesMeet (a n b m : Nat) : Bool := n != 0 && m != 0 && a < b + m && b < a + n

/-- R154: a write to FN_CTX[fn] or FN_LATCH[fn]. -/
def fnRangeWrite (s : State) (f : Nat) (latches : Bool) (v : Word) : State :=
  let off := (if latches then 0xB404 else 0xB400) + 8 * f
  let b := bits v.toNat 0 12
  let n := bits v.toNat 16 13
  let u := if latches then 16 else 1
  let base := fun g => if latches then fnLatchBase s g else fnCtxBase s g
  let count := fun g => if latches then fnLatchCount s g else fnCtxCount s g
  let fits := b * u + n * u ≤ (if latches then 65536 else 4096)
  let apart := (List.range 256).all (fun g => g == f || !rangesMeet (b * u) (n * u) (base g) (count g))
  let newCtx := fun c => if latches then false else decide (b ≤ c) && decide (c < b + n)
  let free := s.ctxs.all (fun e => !(ctxOwnedBy s f e.1 || newCtx e.1) || e.2.st == .free)
  if fits && apart && free then s.setReg (kBar0 off) (v &&& 0x1FFF0FFF#32)
  else s.setBits kSchedStatus 0x10000

/-! ### Virtual time (R161 to R165) -/

/-- R161: `a` precedes `b` in serial arithmetic. -/
def vtBefore (a b : DWord) : Bool := 1 ≤ (b - a).toNat && (b - a).toNat < 2 ^ 63

/-- R163: a virtual time adjusted to a queue's clock: when it precedes it, or lies after it by more than 2^62. -/
def vtAdjusted (vt clk : DWord) : DWord := if vtBefore vt clk || 2 ^ 62 < (vt - clk).toNat then clk else vt

/-- VT[c][x]. -/
def ctxVt (s : State) (c cls : Nat) : DWord := tblGet 0 (s.ctx c).vt cls

/-- Key of a queue's clock. -/
def clockKey (plot cls q : Nat) : Nat := (plot * 8 + cls) * 256 + q

/-- R163 "Idle contexts": the least clock among the queues of a class in a plot, in serial order. -/
def leastClock (s : State) (plot cls : Nat) : Option DWord :=
  firstBy vtBefore ((s.sched.clocks.filter (fun e => e.1 / 256 == plot * 8 + cls)).map (·.2))

/-- R160: the context is eligible on some queue of the class (found eligible last). -/
def eligibleInClass (s : State) (c cls : Nat) : Bool :=
  ringNums.any (fun n => s.sched.eligible.contains (c * 64 + n) && ringClass s c n == cls)

/-- R163: one context's VT of one class adjusted while idle. -/
def idleAdjust (s : State) (c cls : Nat) : State :=
  if eligibleInClass s c cls then s else
  match leastClock s (ctxPlot s c) cls with
  | some clk => s.setCtx c { s.ctx c with vt := tblSet 0 (s.ctx c).vt cls (vtAdjusted (ctxVt s c cls) clk) }
  | none => s

/-- VT_IDLE_ADJUST (R163): every Active context, every class. -/
def vtIdleAdjust (s : State) : State :=
  ((s.ctxs.filter (fun e => e.2.st == .active)).map (·.1)).foldl (fun s c => (List.range 7).foldl (fun s x => idleAdjust s c x) s) s

/-- R165, R185: the slice in ns. -/
def sliceNs (s : State) : Nat := 1000 * min 2000 (s.regField (kBar0 0xB000) 0 12)

/-- R161: the charge an attempt would make if it ended now. -/
def chargeNow (s : State) (c cls : Nat) (x : Cmd) : DWord :=
  BitVec.ofNat 64 ((attemptNs s x * 65536 + tblGet 0 (s.ctx c).rem cls) / s.regField (kWin c 4) 0 16)

/-- R160, R165: another context, eligible on a queue of the class in the plot for the same instance, has a VT below. -/
def preemptor (s : State) (c cls : Nat) (x : Cmd) : Bool :=
  s.sched.eligible.any (fun k =>
    k / 64 != c && (s.ctx (k / 64)).st == .active && ctxPlot s (k / 64) == ctxPlot s c && ringClass s (k / 64) (k % 64) == cls
      && ((s.ring (k / 64) (k % 64)).cmds.find? (fun y => y.phase == .waiting)).any (fun y =>
        sameEngines (dOpcode y.desc) (dOpcode x.desc)
          && x.att.any (fun a => (candidates s (ctxPlot s (k / 64)) y.desc).contains a.inst))
      && vtBefore (ctxVt s (k / 64) cls) (ctxVt s c cls + chargeNow s c cls x))

/-- R165: a running command is preempted at a check. Waits and decision waits never are. -/
def preemptable (s : State) (c : Nat) (x : Cmd) : Bool :=
  x.phase == .running && !isFence (dOpcode x.desc) && !x.preempted && sliceNs s != 0 && sliceNs s ≤ attemptNs s x
    && (chargeClass x).any (fun cls => preemptor s c cls x)

/-- PREEMPTION_CHECK (R165). -/
def preemptionCheck (s : State) : State :=
  (cmdsWhere s (fun x => x.phase == .running)).foldl (fun s e =>
    if preemptable s e.1 e.2.2 then killCmd s e.1 e.2.1 e.2.2 .preemption else s) s

/-! ### Energy (R169) -/

/-- R169: one context's share of the measured energy. -/
def shareCtx (eMeas m : Nat) (x : Ctx) : Ctx :=
  let share := x.model * eMeas + x.frac
  { x with energy := x.energy + BitVec.ofNat 64 (share / m), frac := share % m, model := 0 }

/-- ENERGY_RECONCILE (R169, R185, R496): the measured energies of the rails in µJ, rail by rail; M is the modelled total. With
no modelled energy in the interval nothing is shared (log entry 16). -/
def energyReconcile (s : State) (rails : List Nat) : State :=
  let eMeas := rails.sum
  let s := (rails.zip (List.range 52)).foldl (fun s e => s.bump (kBar0 (0x29800 + 8 * e.2)) e.1) s
  let m := (s.ctxs.map (fun e => e.2.model)).sum + s.sched.idleModel
  if m = 0 then s else
  let share := s.sched.idleModel * eMeas + s.sched.idleFrac
  let s := s.ctxs.foldl (fun s e => s.setCtx e.1 (shareCtx eMeas m e.2)) s
  { s with sched := { s.sched with idleUj := s.sched.idleUj + BitVec.ofNat 64 (share / m), idleFrac := share % m,
                                   idleModel := 0, ratio := BitVec.ofNat 32 (eMeas * 65536 / m) } }

/-! ### Rows -/

def execCtxCreate (fn : Nat) (s : State) : Out := hub s (viaWindow s fn 0x0C (fun c => ctxCreate s fn c))
def execCtxDestroy (fn : Nat) (s : State) : Out := hub s (viaWindow s fn 0x0C (fun c => ctxDestroy s c))
def execCtxThaw (fn : Nat) (s : State) : Out := hub s (viaWindow s fn 0x0C (fun c => ctxThaw s c))
def execCtxReset (fn : Nat) (s : State) : Out := hub s (viaWindow s fn 0x0C (fun c => ctxReset s c))
def execResetComplete (ctx : Nat) (s : State) : Out := hub s (resetComplete s ctx)
def execFreezeComplete (ctx : Nat) (s : State) : Out := hub s (freezeComplete s ctx)
def execFnRangeWrite (a : Agent) (fn : Nat) (latches : Bool) (v : Word) (s : State) : Out :=
  hub s (viaBar0 s a ((if latches then 0xB404 else 0xB400) + 8 * fn) (fun s => if fn < 256 then fnRangeWrite s fn latches v else s))
def execCtxWeightWrite (fn : Nat) (v : Word) (s : State) : Out :=
  hub s (viaWindow s fn 0x04 (fun c => ctxWeightWrite s c v))
def execPreemptionCheck (s : State) : Out := hub s (preemptionCheck s)
def execVtIdleAdjust (s : State) : Out := hub s (vtIdleAdjust s)
def execEnergyReconcile (railUj : List Nat) (s : State) : Out := hub s (energyReconcile s railUj)

end Sys2Proof.Machine
end

