-- ==== Sys2Proof/Machine/Attn.lean ====
section
/-! DEFINITION. Sys2Proof/Machine/Attn.lean: ATTN_FWD and MERGE (R240 to R248), with the tree form of R283 and R284. -/

namespace Sys2Proof.Machine

open Sys2Proof

/-! ### Fields (R119, R240) -/

def atParam (d : List Byte) : Nat := fld d 32 8
def atHeads (d : List Byte) : Nat := fld d 44 2
def atDim (d : List Byte) : Nat := fld d 46 2
def atRows (d : List Byte) : Nat := fld d 48 4
def atLen (d : List Byte) : Nat := fld d 52 4
def atOut (d : List Byte) : Nat := fld d 56 8
def atStats (d : List Byte) : Nat := fld d 64 8
def atSeq (d : List Byte) : Nat := fld d 72 4
def atLayer (d : List Byte) : Nat := fld d 76 2
def atFmtOut (d : List Byte) : Nat := fld d 78 1
def atMask (d : List Byte) : Nat := fld d 79 1
/-- No sequence is named. -/
def noSeq : Nat := 0xFFFFFFFF
def atHasSeq (d : List Byte) : Bool := atSeq d != noSeq

def apQ (p : List Byte) : Nat := fld p 0 8
def apK (p : List Byte) : Nat := fld p 8 8
def apV (p : List Byte) : Nat := fld p 16 8
def apKvHeads (p : List Byte) : Nat := fld p 40 1
def apFlag (p : List Byte) (b : Nat) : Bool := bits (fld p 41 1) b 1 == 1
def apAppend (p : List Byte) : Bool := apFlag p 0
def apRefill (p : List Byte) : Bool := apFlag p 1
def apFinal (p : List Byte) : Bool := apFlag p 2
def apAdvance (p : List Byte) : Bool := apFlag p 3
def apNew (p : List Byte) : Bool := apAppend p || apRefill p
def apLevel (p : List Byte) : Nat := fld p 42 1
def apFmtQ (p : List Byte) : Nat := fld p 43 1
def apIndex (p : List Byte) : Nat := fld p 44 4
def apFmtSrc (p : List Byte) : Nat := fld p 48 1
def apTree (p : List Byte) : Nat := fld p 56 8

/-- Checks 3 and 4 of R131 for ATTN_FWD and ATTN_BWD's shared fields. -/
def attnFormat (d : List Byte) : List Nat :=
  reservedAt d [(80, 48)] ++ notIn (atDim d) [64, 128] 46 ++ badAt (1 < atFmtOut d) 78
    ++ badAt (1 < atMask d || (atMask d == 0 && atHasSeq d)) 79
def attnLength (d : List Byte) : List Nat :=
  outside (atHeads d) 1 128 44 ++ outside (atRows d) 1 65536 48 ++ outside (atLen d) 1 16777216 52
    ++ badAt (atLen d < atRows d) 48 ++ badAt (atHasSeq d && decide (131071 < atSeq d)) 72

/-- N of R240. -/
def atBlocks (d : List Byte) : Nat := ceilDiv (atLen d) 64

/-- R240: the first block of the part and the block after its last. -/
def partRange (d p : List Byte) : Nat × Nat :=
  if apLevel p = 0xFF then (0, atBlocks d)
  else (apIndex p * 2 ^ apLevel p, min (atBlocks d) ((apIndex p + 1) * 2 ^ apLevel p))

/-! ### Tree descriptors (R283, R284) -/

/-- T and the parent row of node `i`, of a tree descriptor's bytes. -/
def treeNodes (t : List Byte) : Nat := fld t 0 1
def treeParent (t : List Byte) (i : Nat) : Nat := fld t (64 + (i - 1)) 1

/-- Depth of a row. -/
def treeDepth (t : List Byte) : Nat → Nat → Nat
  | 0, _ => 0
  | fuel + 1, r => if r = 0 then 0 else 1 + treeDepth t fuel (treeParent t r)
def rowDepth (t : List Byte) (r : Nat) : Nat := treeDepth t 65 r

/-- The ancestor of a row at a depth, the row itself included. -/
def ancestorAt (t : List Byte) : Nat → Nat → Nat → Nat
  | 0, r, _ => r
  | fuel + 1, r, k => if rowDepth t r ≤ k then r else ancestorAt t fuel (treeParent t r) k

/-- R283: the checks of a tree descriptor at DETAIL `det`. -/
def treeCheck (t : List Byte) (det : Nat) : Chk :=
  firstFail
    [failIf (treeNodes t < 1 || 64 < treeNodes t) .length det,
     failIf ((List.range (treeNodes t)).any (fun i => i + 1 ≤ treeParent t (i + 1))) .format det,
     failIf ((List.range (treeNodes t)).any (fun i => 16 < rowDepth t (i + 1))) .format det,
     failIf (!(reservedAt t [(1, 63), (64 + treeNodes t, 64 - treeNodes t)]).isEmpty) .format det]

/-! ### Checks 6 and 7 of ATTN_FWD (R240, R241) -/

/-- Bytes of a list at a device address, where its object is present. -/
def listAt (m : Store) (c a n : Nat) : Option (List Byte) := if (objBody m c (addrObj a)).isSome then some (devBytes m c a n) else none

/-- R240: check 7 part 1: offsets at fault with FORMAT. -/
def attnParamFormat (d p : List Byte) : List Nat :=
  reservedAt p [(49, 7), (64, 64)] |>.map inParam
    |> (· ++ badAt (0 < fld p 41 1 / 16 || (apAppend p && apRefill p) || (apNew p && !atHasSeq d) || (apAdvance p && !apAppend p)
          || (apFinal p != (apLevel p == 0xFF))) (inParam 41)
      ++ badAt (18 < apLevel p && apLevel p != 0xFF) (inParam 42)
      ++ badAt (2 < apFmtQ p) (inParam 43)
      ++ badAt (apLevel p == 0xFF && apIndex p != 0) (inParam 44)
      ++ badAt (atFmtOut d != 0 && !apFinal p) 78
      ++ (if atHasSeq d then
            badAt (apKvHeads p != 0) (inParam 40) ++ badAt (apNew p && decide (1 < apFmtSrc p)) (inParam 48)
              ++ (if apNew p then [] else badAt (apK p != 0) (inParam 8) ++ badAt (apV p != 0) (inParam 16))
          else notIn (apFmtSrc p) [1, 2] (inParam 48)
            ++ badAt (1 ≤ apKvHeads p && apKvHeads p ≤ 128 && atHeads d % apKvHeads p != 0) (inParam 40))
      ++ badAt (apTree p != 0 && (!atHasSeq d || atMask d != 1)) (inParam 56))

/-- R240, R284: check 7 part 1: offsets at fault with LENGTH. -/
def attnParamLength (d p : List Byte) : List Nat :=
  (if atHasSeq d then [] else outside (apKvHeads p) 1 128 (inParam 40))
    ++ badAt (apLevel p ≤ 18 && decide (atBlocks d ≤ apIndex p * 2 ^ apLevel p)) (inParam 44)

/-- R240, R284: check 7 part 1, with the tree descriptor. -/
def attnContents (m : Store) (c : Nat) (d p : List Byte) : Chk :=
  firstFail
    [leastFail .format (attnParamFormat d p), leastFail .length (attnParamLength d p),
     if apTree p = 0 then none else
     match listAt m c (apTree p) 128 with
     | some t => firstFail [treeCheck t (inParam 56), failIf (atRows d != treeNodes t + 1) .length 48]
     | none => none]

/-- The KV heads in use. -/
def attnKvHeads (m : Store) (d p : List Byte) : Nat :=
  if atHasSeq d then (tblGet SeqSlot.reset m.slots (atSeq d)).kvHeads else apKvHeads p

/-- Bytes of `n` elements of a code. -/
def elemsBytes (code n : Nat) : Nat := elemPlaneBytes code n

/-- The accesses of an ATTN_FWD. -/
def attnAccesses (m : Store) (d p : List Byte) : List Access :=
  let q := atRows d * atHeads d * atDim d
  let kv := (if apNew p then atRows d else if atHasSeq d then 0 else atLen d) * attnKvHeads m d p * atDim d
  [rd (atParam d) 128 32, rd (apQ p) (elemsBytes (apFmtQ p) q) (inParam 0)]
    ++ (if kv = 0 then [] else [rd (apK p) (elemsBytes (apFmtSrc p) kv) (inParam 8), rd (apV p) (elemsBytes (apFmtSrc p) kv) (inParam 16)])
    ++ (if apTree p = 0 then [] else [rd (apTree p) 128 (inParam 56)])
    ++ [wr (atOut d) (elemsBytes (if apFinal p then atFmtOut d else 0) q) 56,
        wr (atStats d) (64 + 8 * atRows d * atHeads d) 64]

/-- R226: the state that most commands require of the slot they name. -/
def slotCheck (s : State) (c slot det : Nat) : Chk :=
  if seqTableSize s ≤ slot then some (.length, det)
  else if (s.seq slot).st == .free || (s.seq slot).owner != c then some (.slotState, det)
  else if (s.seq slot).st == .cancelled then some (.cancelled, det)
  else none

/-- R240: check 7 part 3. -/
def attnSlotCheck (s : State) (c : Nat) (d : List Byte) : Chk :=
  if !atHasSeq d then none else
  firstFail
    [slotCheck s c (atSeq d) 72,
     failIf ((s.seq (atSeq d)).kvHeads == 0 || atHeads d % (s.seq (atSeq d)).kvHeads != 0) .format 44,
     failIf (atDim d != (s.seq (atSeq d)).headDim) .format 46]

/-- R241: after check 8: the conditions on the record's lengths. -/
def attnLengthsCheck (s : State) (d p : List Byte) : Chk :=
  if !atHasSeq d then none else
  let x := s.seq (atSeq d)
  let n := atLen d
  let r := partRange d p
  let covers := fun a b => decide (r.1 ≤ a) && decide (b < r.2)
  let len := if apAppend p then
      failIf (n != x.tentative + atRows d || 16777216 < n) .length 52
    else if apRefill p then
      failIf (x.committed < n || (n - atRows d) % 64 != 0 || (n % 64 != 0 && n != x.committed)) .length 52
    else failIf (x.tentative < min n (64 * r.2)) .length 52
  firstFail
    [len, failIf (x.layers ≤ atLayer d) .length 76,
     failIf (apAppend p && !covers (x.tentative / 64) ((n - 1) / 64)) .length (inParam 41),
     failIf (apTree p != 0 && apAppend p && (x.committed != x.tentative || x.tentative != n - atRows d)) .length 52]

/-- R237, R246: blocks of the range. -/
def attnBlocks (d p : List Byte) : List Nat := (List.range ((partRange d p).2 - (partRange d p).1)).map (fun i => (partRange d p).1 + i)

/-- R245: the first new position of an append or refill; KV_LEN otherwise. -/
def firstNew (d p : List Byte) : Nat := if apNew p then atLen d - atRows d else atLen d

/-- R235: the blocks that the new positions of an append or refill enter, in the range. -/
def newBlocks (d p : List Byte) : List Nat :=
  if apNew p then (attnBlocks d p).filter (fun b => decide (firstNew d p < 64 * b + 64)) else []

/-- R237: a block of the range with a position that is read from its sheaf lacks the layer's values. -/
def kvDropped (s : State) (d p : List Byte) : Bool :=
  atHasSeq d && (attnBlocks d p).any (fun b =>
    decide (64 * b < firstNew d p)
      && !((tblFind (s.seq (atSeq d)).map b).bind (fun k => tblFind s.com.stooks k)).any (fun y => y.valid.contains (atLayer d)))

/-! ### Partials (R242 to R244) -/

/-- A partial: maximum, sum, output; empty when nothing is seen. -/
structure Partial where
  empty : Bool
  m : Word
  l : Word
  o : List Word
deriving DecidableEq, Repr

def Partial.none_ (dim : Nat) : Partial := { empty := true, m := 0xFF800000#32, l := 0#32, o := List.replicate dim 0#32 }

/-- R242: exp2(rne(rne(a − b) × L)). -/
def expDiff (a b : Word) : Word := fExp2 (fMul (fSub a b) kL)

/-- R242: a leaf from scores and values: one (score, value vector) for each visible position, ascending. -/
def leafPartial (dim : Nat) (xs : List (Word × List Word)) : Partial :=
  let m := maxOf' (xs.map (·.1))
  if xs.isEmpty || m == 0xFF800000#32 then Partial.none_ dim else
  let es := xs.map (fun x => (expDiff x.1 m, x.2))
  { empty := false, m := m, l := es.foldl (fun l e => fAdd l e.1) 0#32,
    o := es.foldl (fun o e => (o.zip e.2).map (fun y => fFma e.1 y.2 y.1)) (List.replicate dim 0#32) }
where
  /-- MAX over a list. -/
  maxOf' (l : List Word) : Word := l.tail.foldl fMax (l.headD 0xFF800000#32)

/-- R243: the merge of A, at lower positions, and B. -/
def mergePartial (a b : Partial) : Partial :=
  if b.empty then a else if a.empty then b else
  let m := fMax a.m b.m
  let ca := expDiff a.m m
  let cb := expDiff b.m m
  { empty := false, m := m, l := fFma b.l cb (fMul a.l ca), o := (a.o.zip b.o).map (fun y => fFma y.2 cb (fMul y.1 ca)) }

/-- R244: the node of level `h` and index `i` over leaves, those from `n` on empty. -/
def treeNode (dim n : Nat) (leaf : Nat → Partial) : Nat → Nat → Partial
  | 0, i => if i < n then leaf i else Partial.none_ dim
  | h + 1, i =>
    if n ≤ i * 2 ^ (h + 1) then Partial.none_ dim
    else mergePartial (treeNode dim n leaf h (2 * i)) (treeNode dim n leaf h (2 * i + 1))

/-- The least H with 2^H ≥ n. -/
def leastLevel (n : Nat) : Nat := if n ≤ 1 then 0 else Nat.log2 (n - 1) + 1

/-- R244: an output row normalised. -/
def normalise (x : Partial) : List Word := if x.empty then x.o else x.o.map (fun v => fMul v (fRcp x.l))

/-! ### ATTN_FWD (R241, R242, R245) -/

/-- R245: a new key or value element quantised. -/
def quantKv (w mul : Word) : Byte := BitVec.ofNat 8 (encodeFloat fmtE4M3 .rne (f32 (fMul w mul)))

/-- R245: the new bytes of a position: K or V by the parameter's address, K multiplier at 28, V at 32. -/
def newKv (j : Job) (kvh : Nat) (src mulOff i : Nat) : List Byte :=
  let n := kvh * atDim j.d
  (List.range n).map (fun e =>
    quantKv (loadElem j.rd (apFmtSrc j.p) src (atRows j.d * n) (i * n + e)) (fldW j.p mulOff))

/-- A key or value element widened: of the stored position `p`, KV head `h`, dimension `e`; `v` chooses the value. -/
def kvElem (j : Job) (kvh : Nat) (v : Bool) (p h e : Nat) : Ext :=
  let n := kvh * atDim j.d
  let src := if v then apV j.p else apK j.p
  if !atHasSeq j.d then readElem j.rd (apFmtSrc j.p) src (atLen j.d * n) (p * n + h * atDim j.d + e)
  else if firstNew j.d j.p ≤ p then
    decodeFloat fmtE4M3 (quantKv (loadElem j.rd (apFmtSrc j.p) src (atRows j.d * n)
      ((p - firstNew j.d j.p) * n + h * atDim j.d + e)) (fldW j.p (if v then 32 else 28))).toNat
  else match kvCell j.m (tblGet SeqSlot.reset j.m.slots (atSeq j.d)) (atLayer j.d) p with
  | some c => decodeFloat fmtE4M3 (memGet j.m.kv ((if v then c.2 else c.1) + h * atDim j.d + e)).toNat
  | none => .fin false 0 0

/-- R242: a score: the dot product of R79 in groups of 32, times SCALE. -/
def attnScore (j : Job) (kvh r qh p : Nat) : Word :=
  let dim := atDim j.d
  let n := atRows j.d * atHeads j.d * dim
  let g := qh / (atHeads j.d / kvh)
  let dot := (List.range (dim / 32)).foldl (fun acc k =>
    accGroup acc ((List.range 32).map (fun i =>
      (readElem j.rd (apFmtQ j.p) (apQ j.p) n ((r * atHeads j.d + qh) * dim + 32 * k + i)).mul (kvElem j kvh false p g (32 * k + i))))
      (.fin false 1 0)) 0#32
  fMul dot (fldW j.p 24)

/-- R242: a value vector. -/
def attnValue (j : Job) (kvh qh p : Nat) : List Word :=
  (List.range (atDim j.d)).map (fun e =>
    rneF32 ((kvElem j kvh true p (qh / (atHeads j.d / kvh)) e).mul (f32 (fldW j.p 36))))

/-- R241, R284: the stored positions of block `b` that row `r` sees, by ascending logical position. -/
def visible (j : Job) (tree : Option (List Byte)) (r b : Nat) : List Nat :=
  let ps := (List.range 64).map (fun i => 64 * b + i)
  match tree with
  | none =>
    ps.filter (fun p => decide (p < atLen j.d) && (atMask j.d == 0 || decide (p + atRows j.d ≤ atLen j.d + r)))
  | some t =>
    let n := atLen j.d - atRows j.d
    (ps.filter (fun p => decide (p ≤ n + rowDepth t r))).map (fun p => if p < n then p else n + ancestorAt t 65 r (p - n))

/-- R245: the partial of a row and head: the canonical node of the part, or the root. -/
def attnPartial (j : Job) (tree : Option (List Byte)) (kvh r qh : Nat) : Partial :=
  let leaf := fun b => leafPartial (atDim j.d) ((visible j tree r b).map (fun p => (attnScore j kvh r qh p, attnValue j kvh qh p)))
  if apLevel j.p = 0xFF then treeNode (atDim j.d) (atBlocks j.d) leaf (leastLevel (atBlocks j.d)) 0
  else treeNode (atDim j.d) (atBlocks j.d) leaf (apLevel j.p) (apIndex j.p)

/-- R246: the STATS plane. -/
def statsBytes (level index len rows heads dim seq : Nat) (ps : List Partial) : List Byte :=
  bytesLE level 1 ++ bytesLE 0 3 ++ bytesLE index 4 ++ bytesLE len 4 ++ bytesLE rows 4 ++ bytesLE heads 2 ++ bytesLE dim 2
    ++ bytesLE seq 4 ++ bytesLE 0 40 ++ ps.flatMap (fun x => bytesLE x.m.toNat 4 ++ bytesLE x.l.toNat 4)

/-- R87, R246: a STATS pair that sets NONFINITE. -/
def statNonFinite (x : Partial) : Bool := !(x.m == 0xFF800000#32 && x.l == 0#32) && (nonFinite x.m || nonFinite x.l)

/-- R245: what an append or refill commits. -/
def attnKvEffs (j : Job) (kvh : Nat) : List Eff :=
  if !apNew j.p then [] else
  let slot := atSeq j.d
  let new := (attnBlocks j.d j.p)
  ((List.range (atRows j.d)).filter (fun i => new.contains ((firstNew j.d j.p + i) / 64))).map (fun i =>
      .kvWrite slot (atLayer j.d) (firstNew j.d j.p + i) (apRefill j.p) (newKv j kvh (apK j.p) 28 i) (newKv j kvh (apV j.p) 32 i))
    ++ (if apRefill j.p then [.refillDone slot (atLayer j.d) ((newBlocks j.d j.p).headD 0) (newBlocks j.d j.p).length] else [])
    ++ (if apAdvance j.p then [.advance slot (atRows j.d)] else [])

/-- ATTN_FWD: an attempt. -/
def attnFwdRun (j : Job) : Outcome_ :=
  let kvh := attnKvHeads j.m j.d j.p
  let tree := if apTree j.p = 0 then none else some (devBytes j.m j.c (apTree j.p) 128)
  let ps := (List.range (atRows j.d)).flatMap (fun r => (List.range (atHeads j.d)).map (attnPartial j tree kvh r))
  let code := if apFinal j.p then atFmtOut j.d else codeF32
  let vals := ps.flatMap (fun x => if apFinal j.p then normalise x else x.o)
  okOut (storedNonFinite code (fun _ => .rne) vals || ps.any statNonFinite)
    (stageTensor j code (atOut j.d) (fun _ => .rne) vals
      ++ stage j.m j.c (atStats j.d) (statsBytes (apLevel j.p) (apIndex j.p) (atLen j.d) (atRows j.d) (atHeads j.d) (atDim j.d)
          (atSeq j.d) ps)
      ++ (if atHasSeq j.d then attnKvEffs j kvh ++ [.useSlot (atSeq j.d)] else []))

/-! ### MERGE (R248) -/

def meParts (d : List Byte) : Nat := fld d 32 8
def meOut (d : List Byte) : Nat := fld d 40 8
def meCount (d : List Byte) : Nat := fld d 48 2
def meHeads (d : List Byte) : Nat := fld d 50 2
def meRows (d : List Byte) : Nat := fld d 52 4
def meFmt (d : List Byte) : Nat := fld d 56 1
def meDim (d : List Byte) : Nat := fld d 58 2

def mergeFormat (d : List Byte) : List Nat :=
  reservedAt d [(57, 1), (60, 4)] ++ badAt (1 < meFmt d) 56 ++ notIn (meDim d) [64, 128] 58
def mergeLength (d : List Byte) : List Nat :=
  outside (meCount d) 2 64 48 ++ outside (meHeads d) 1 128 50 ++ outside (meRows d) 1 65536 52

/-- Elements of a part. -/
def meElems (d : List Byte) : Nat := meRows d * meHeads d * meDim d
/-- The OUT plane of part `k` and its STATS plane (R120, R248). -/
def mePart (m : Store) (c : Nat) (d : List Byte) (k : Nat) : Nat := readLE (devByte m c) (meParts d + 8 * k) 8
def meStats (m : Store) (c : Nat) (d : List Byte) (k : Nat) : Nat := nextPlane (mePart m c d k) (4 * meElems d)
/-- The STATS plane that MERGE writes beside OUT. -/
def meOutStats (d : List Byte) : Nat := nextPlane (meOut d) (elemPlaneBytes (meFmt d) (meElems d))

/-- A header field of a part's STATS plane. -/
def meHdr (m : Store) (c : Nat) (d : List Byte) (k o n : Nat) : Nat := readLE (devByte m c) (meStats m c d k + o) n

/-- R248: the conditions on the part headers. -/
def mergeHeaders (m : Store) (c : Nat) (d : List Byte) : Chk :=
  let ks := List.range (meCount d)
  let h := fun k o n => meHdr m c d k o n
  let level := h 0 0 1
  let n := ceilDiv (h 0 8 4) 64
  firstFail
    [failIf (ks.any (fun k => h k 4 4 != k || h k 0 1 != level || h k 0 1 == 0xFF || h k 12 4 != meRows d || h k 16 2 != meHeads d
        || h k 18 2 != meDim d || h k 8 4 != h 0 8 4)) .format noField,
     failIf (n ≤ (meCount d - 1) * 2 ^ level || meCount d * 2 ^ level < n) .length noField]

/-- The list of parts, and the planes of the parts. -/
def mergeAccesses (m : Store) (c : Nat) (d : List Byte) : List Access :=
  [rd (meParts d) (8 * meCount d) 32]
    ++ (List.range (meCount d)).flatMap (fun k =>
        [rd (mePart m c d k) (4 * meElems d) 32, rd (meStats m c d k) (64 + 8 * meRows d * meHeads d) 32])
    ++ [wr (meOut d) (elemPlaneBytes (meFmt d) (meElems d)) 40, wr (meOutStats d) (64 + 8 * meRows d * meHeads d) 40]

/-- A part's partial of a row and head; m = −∞ with l = +0 encodes an empty one (R246). -/
def mePartial (j : Job) (k i : Nat) : Partial :=
  let st := meStats j.m j.c j.d k + 64 + 8 * i
  let w := fun a => BitVec.ofNat 32 (j.le a 4)
  if w st = 0xFF800000#32 ∧ w (st + 4) = 0#32 then Partial.none_ (meDim j.d) else
  { empty := false, m := w st, l := w (st + 4),
    o := (List.range (meDim j.d)).map (fun e => w (mePart j.m j.c j.d k + 4 * (i * meDim j.d + e))) }

/-- MERGE: an attempt. -/
def mergeRun (j : Job) : Outcome_ :=
  match mergeHeaders j.m j.c j.d with
  | some x => failOut x
  | none =>
    let n := meCount j.d
    let ps := (List.range (meRows j.d * meHeads j.d)).map (fun i => treeNode (meDim j.d) n (fun k => mePartial j k i) (leastLevel n) 0)
    let vals := ps.flatMap normalise
    okOut (storedNonFinite (meFmt j.d) (fun _ => .rne) vals || ps.any statNonFinite)
      (stageTensor j (meFmt j.d) (meOut j.d) (fun _ => .rne) vals
        ++ stage j.m j.c (meOutStats j.d) (statsBytes 0xFF 0 (meHdr j.m j.c j.d 0 8 4) (meRows j.d) (meHeads j.d) (meDim j.d)
            (meHdr j.m j.c j.d 0 20 4) ps))

end Sys2Proof.Machine
end

