-- ==== Sys2Proof/Machine/Backward.lean ====
section
/-! DEFINITION. Sys2Proof/Machine/Backward.lean: ATTN_BWD (R302 to R307). -/

namespace Sys2Proof.Machine

open Sys2Proof

/-! ### Fields (R303) -/

def abQ (p : List Byte) : Nat := fld p 0 8
def abK (p : List Byte) : Nat := fld p 8 8
def abV (p : List Byte) : Nat := fld p 16 8
def abO (p : List Byte) : Nat := fld p 24 8
def abDo (p : List Byte) : Nat := fld p 32 8
def abDqIn (p : List Byte) : Nat := fld p 40 8
def abDkvIn (p : List Byte) : Nat := fld p 48 8
def abDkv (p : List Byte) : Nat := fld p 56 8
def abScale (p : List Byte) : Word := fldW p 64
def abVd (p : List Byte) : Word := fldW p 68
def abKvHeads (p : List Byte) : Nat := fld p 72 1
def abFlag (p : List Byte) (b : Nat) : Bool := bits (fld p 73 1) b 1 == 1
def abHasDqIn (p : List Byte) : Bool := abFlag p 0
def abHasDkvIn (p : List Byte) : Bool := abFlag p 1
def abDqOut (p : List Byte) : Bool := abFlag p 2
def abDkvOut (p : List Byte) : Bool := abFlag p 3
def abLevel (p : List Byte) : Nat := fld p 74 1
def abFmtQ (p : List Byte) : Nat := fld p 75 1
def abIndex (p : List Byte) : Nat := fld p 76 4
def abFmtSrc (p : List Byte) : Nat := fld p 80 1
def abFmtO (p : List Byte) : Nat := fld p 81 1
def abFmtDo (p : List Byte) : Nat := fld p 82 1
def abRow0 (p : List Byte) : Nat := fld p 84 4
def abTotal (p : List Byte) : Nat := fld p 88 4
def abStatsRow0 (p : List Byte) : Nat := fld p 92 4

/-- R302: check 3, beside what ATTN_FWD shares. -/
def bwdFormat (d : List Byte) : List Nat :=
  attnFormat d ++ badAt (atHasSeq d) 72 ++ badAt (atLayer d != 0) 76

/-- R303: the first block of the part and the block after its last. -/
def bwdRange (d p : List Byte) : Nat × Nat :=
  if abLevel p = 0xFF then (0, atBlocks d) else (abIndex p * 2 ^ abLevel p, min (atBlocks d) ((abIndex p + 1) * 2 ^ abLevel p))

/-- R303: check 7 part 1. -/
def bwdContents (d p : List Byte) : Chk :=
  firstFail
    [leastFail .format
       ((reservedAt p [(83, 1), (96, 32)]).map inParam
          ++ badAt (1 ≤ abKvHeads p && abKvHeads p ≤ 128 && atHeads d % abKvHeads p != 0) (inParam 72)
          ++ badAt (0 < fld p 73 1 / 16 || (!abDqOut p && !abDkvOut p) || (abHasDqIn p && !abDqOut p)
              || (abHasDkvIn p && !abDkvOut p)) (inParam 73)
          ++ badAt (18 < abLevel p && abLevel p != 0xFF) (inParam 74) ++ badAt (2 < abFmtQ p) (inParam 75)
          ++ badAt (abLevel p == 0xFF && abIndex p != 0) (inParam 76) ++ notIn (abFmtSrc p) [1, 2] (inParam 80)
          ++ badAt (1 < abFmtO p) (inParam 81) ++ badAt (1 < abFmtDo p) (inParam 82) ++ badAt (abRow0 p % 64 != 0) (inParam 84)),
     leastFail .length
       (outside (abKvHeads p) 1 128 (inParam 72)
          ++ badAt (abLevel p ≤ 18 && decide (atBlocks d ≤ abIndex p * 2 ^ abLevel p)) (inParam 76)
          ++ outside (abTotal p) (abRow0 p + atRows d) (atLen d) (inParam 88))]

/-- Positions below KV_LEN of the part: the first and how many. -/
def bwdFirst (d p : List Byte) : Nat := 64 * (bwdRange d p).1
def bwdCount (d p : List Byte) : Nat := min (atLen d) (64 * (bwdRange d p).2) - bwdFirst d p

/-- Elements of the command's rows, of the keys, of the part's dK. -/
def bwdRowElems (d : List Byte) : Nat := atRows d * atHeads d * atDim d
def bwdKeyElems (d p : List Byte) : Nat := atLen d * abKvHeads p * atDim d
def bwdPartElems (d p : List Byte) : Nat := bwdCount d p * abKvHeads p * atDim d

/-- R303, R120: the dV plane behind a dK plane. -/
def dvPlane (a code n : Nat) : Nat := nextPlane a (elemPlaneBytes code n)

/-- The accesses of an ATTN_BWD. -/
def bwdAccesses (d p : List Byte) : List Access :=
  let q := bwdRowElems d
  let kv := bwdKeyElems d p
  let n := bwdPartElems d p
  [rd (atParam d) 128 32, rd (abQ p) (elemsBytes (abFmtQ p) q) (inParam 0), rd (abK p) (elemsBytes (abFmtSrc p) kv) (inParam 8),
   rd (abV p) (elemsBytes (abFmtSrc p) kv) (inParam 16), rd (abO p) (elemsBytes (abFmtO p) q) (inParam 24),
   rd (abDo p) (elemsBytes (abFmtDo p) q) (inParam 32), rd (atStats d) 64 64,
   rd (atStats d + 64 + 8 * abStatsRow0 p * atHeads d) (8 * atRows d * atHeads d) 64]
    ++ (if abHasDqIn p then [rd (abDqIn p) (4 * q) (inParam 40)] else [])
    ++ (if abHasDkvIn p then [rd (abDkvIn p) (4 * n) (inParam 48), rd (dvPlane (abDkvIn p) 0 n) (4 * n) (inParam 48)] else [])
    ++ (if abDqOut p then [wr (atOut d) (elemsBytes (atFmtOut d) q) 56] else [])
    ++ (if abDkvOut p then
          [wr (abDkv p) (elemsBytes (atFmtOut d) n) (inParam 56),
           wr (dvPlane (abDkv p) (atFmtOut d) n) (elemsBytes (atFmtOut d) n) (inParam 56)] else [])

/-- R303: the STATS header. -/
def bwdHeader (j : Job) : Chk :=
  let h := fun o n => j.le (atStats j.d + o) n
  firstFail
    [failIf (h 0 1 != 0xFF || h 16 2 != atHeads j.d || h 18 2 != atDim j.d || h 8 4 != atLen j.d) .format 64,
     failIf (h 12 4 < abStatsRow0 j.p + atRows j.d) .length (inParam 92)]

/-! ### Operands (R304, R305) -/

/-- Element `e` of row `r`, head `h` of a row tensor. -/
def bwdRowElem (j : Job) (code a r h e : Nat) : Ext :=
  readElem j.rd code a (bwdRowElems j.d) ((r * atHeads j.d + h) * atDim j.d + e)
def bwdQ (j : Job) (r h e : Nat) : Ext := bwdRowElem j (abFmtQ j.p) (abQ j.p) r h e
def bwdO (j : Job) (r h e : Nat) : Ext := bwdRowElem j (abFmtO j.p) (abO j.p) r h e
def bwdDo (j : Job) (r h e : Nat) : Ext := bwdRowElem j (abFmtDo j.p) (abDo j.p) r h e
/-- Element `e` of position `x`, KV head `g` of K or V. -/
def bwdK (j : Job) (a x g e : Nat) : Ext :=
  readElem j.rd (abFmtSrc j.p) a (bwdKeyElems j.d j.p) ((x * abKvHeads j.p + g) * atDim j.d + e)

/-- R304: the KV head of a query head. -/
def bwdKvHead (j : Job) (h : Nat) : Nat := h / (atHeads j.d / abKvHeads j.p)

/-- R304: command row `r` sees position `x`. -/
def bwdSees (j : Job) (r x : Nat) : Bool :=
  decide (x < atLen j.d) && (atMask j.d == 0 || decide (x + abTotal j.p ≤ atLen j.d + abRow0 j.p + r))

/-- R305: a dot product along the head dimension, in groups of 32 from +0. -/
def headDot (dim : Nat) (a b : Nat → Ext) : Word :=
  (List.range (dim / 32)).foldl (fun acc k =>
    accGroup acc ((List.range 32).map (fun i => (a (32 * k + i)).mul (b (32 * k + i)))) (.fin false 1 0)) 0#32

/-- R304: the forward statistics of a row and head: m, then l. -/
def bwdStat (j : Job) (r h o : Nat) : Word :=
  BitVec.ofNat 32 (j.le (atStats j.d + 64 + 8 * ((abStatsRow0 j.p + r) * atHeads j.d + h) + o) 4)

/-- R305: p and g of row `r`, head `h`, key `x`. -/
def bwdProb (j : Job) (r h x : Nat) : Word :=
  let s := fMul (headDot (atDim j.d) (bwdQ j r h) (bwdK j (abK j.p) x (bwdKvHead j h))) (abScale j.p)
  fMul (expDiff s (bwdStat j r h 0)) (fRcp (bwdStat j r h 4))
def bwdGrad (j : Job) (r h x : Nat) : Word :=
  let dim := atDim j.d
  let dd := headDot dim (bwdDo j r h) (bwdO j r h)
  let vv := fun e => f32 (rneF32 ((bwdK j (abV j.p) x (bwdKvHead j h) e).mul (f32 (abVd j.p))))
  let dp := headDot dim (bwdDo j r h) vv
  fMul (fMul (bwdProb j r h x) (fSub dp dd)) (abScale j.p)

/-! ### The three gradients (R306) -/

/-- One group sum added with one rounding (R79, R80). -/
def addGroup (acc : Word) (terms : List Ext) : Word := accGroup acc terms (.fin false 1 0)

/-- An FP32 word of a plane. -/
def planeWord (j : Job) (a i : Nat) : Word := rneF32 (f32 (BitVec.ofNat 32 (j.le (a + 4 * i) 4)))

/-- dQ of a row, head and dimension. -/
def bwdDq (j : Job) (r h e : Nat) : Word :=
  let start := if abHasDqIn j.p then planeWord j (abDqIn j.p) ((r * atHeads j.d + h) * atDim j.d + e) else 0#32
  (List.range ((bwdRange j.d j.p).2 - (bwdRange j.d j.p).1)).foldl (fun acc b =>
    let xs := ((List.range 64).map (fun i => 64 * ((bwdRange j.d j.p).1 + b) + i)).filter (bwdSees j r)
    addGroup acc (xs.map (fun x => (f32 (bwdGrad j r h x)).mul (bwdK j (abK j.p) x (bwdKvHead j h) e)))) start

/-- R306: the command rows of each row group of 64 attention rows; ROW0 is a multiple of 64. -/
def rowGroups (j : Job) : List (List Nat) :=
  (List.range (ceilDiv (atRows j.d) 64)).map (fun u => (List.range (min 64 (atRows j.d - 64 * u))).map (fun i => 64 * u + i))

/-- dK or dV of the part's position `x`, KV head `g` and dimension `e`, from `start`, with the terms given. -/
def bwdKeyGrad (j : Job) (x g : Nat) (start : Word) (term : Nat → Nat → Ext) : Word :=
  let per := atHeads j.d / abKvHeads j.p
  (rowGroups j).foldl (fun acc rows =>
    (List.range per).foldl (fun acc k =>
      addGroup acc ((rows.filter (fun r => bwdSees j r x)).map (fun r => term r (g * per + k)))) acc) start

/-- Index `i` of the part's planes as (position, KV head, dimension). -/
def bwdIndex (j : Job) (i : Nat) : Nat × Nat × Nat :=
  (bwdFirst j.d j.p + i / atDim j.d / abKvHeads j.p, i / atDim j.d % abKvHeads j.p, i % atDim j.d)

def bwdDk (j : Job) (i : Nat) : Word :=
  let start := if abHasDkvIn j.p then planeWord j (abDkvIn j.p) i else 0#32
  let (x, g, e) := bwdIndex j i
  bwdKeyGrad j x g start (fun r h => (f32 (bwdGrad j r h x)).mul (bwdQ j r h e))
def bwdDv (j : Job) (i : Nat) : Word :=
  let start := if abHasDkvIn j.p then planeWord j (dvPlane (abDkvIn j.p) 0 (bwdPartElems j.d j.p)) i else 0#32
  let (x, g, e) := bwdIndex j i
  bwdKeyGrad j x g start (fun r h => (f32 (bwdProb j r h x)).mul (bwdDo j r h e))

/-- ATTN_BWD: an attempt. -/
def attnBwdRun (j : Job) : Outcome_ :=
  match bwdHeader j with
  | some x => failOut x
  | none =>
    let n := bwdPartElems j.d j.p
    let code := atFmtOut j.d
    let rne := fun _ => RoundMode.rne
    let dq := if abDqOut j.p then
        (List.range (bwdRowElems j.d)).map (fun i =>
          bwdDq j (i / atDim j.d / atHeads j.d) (i / atDim j.d % atHeads j.d) (i % atDim j.d)) else []
    let dk := if abDkvOut j.p then (List.range n).map (bwdDk j) else []
    let dv := if abDkvOut j.p then (List.range n).map (bwdDv j) else []
    okOut (storedNonFinite code rne (dq ++ dk ++ dv))
      (stageTensor j code (atOut j.d) rne dq ++ stageTensor j code (abDkv j.p) rne dk
        ++ stageTensor j code (dvPlane (abDkv j.p) code n) rne dv)

end Sys2Proof.Machine
end

