-- ==== Sys2Proof/Machine/Elem.lean ====
section
/-! DEFINITION. Sys2Proof/Machine/Elem.lean: ELEM recipes (R123 to R129). -/

namespace Sys2Proof.Machine

open Sys2Proof

/-! ### Fields (R123 to R125) -/

def elRows (d : List Byte) : Nat := fld d 32 4
def elCols (d : List Byte) : Nat := fld d 36 4
def elNOps (d : List Byte) : Nat := fld d 40 1
def elRound (d : List Byte) : Nat := fld d 41 1
def elPurpose (d : List Byte) : Nat := fld d 42 1
def elSrPurpose (d : List Byte) : Nat := fld d 43 1
def elStep (d : List Byte) : Nat := fld d 44 4
def elStream (d : List Byte) : Nat := fld d 48 5
def elNOpnd (d : List Byte) : Nat := fld d 53 1
def elPos0 (d : List Byte) : Nat := fld d 56 6
def elTotal (d : List Byte) : Nat := fld d 64 4

/-- Operand entry `i`: address, format, kind (R124). -/
def opndAddr (d : List Byte) (i : Nat) : Nat := fld d (72 + 12 * i) 8
def opndFmt (d : List Byte) (i : Nat) : Nat := fld d (80 + 12 * i) 1
def opndKind (d : List Byte) (i : Nat) : Nat := fld d (81 + 12 * i) 1

/-- Elements of an operand. -/
def opndCount (d : List Byte) (i : Nat) : Nat :=
  match opndKind d i with
  | 0 => elRows d * elCols d
  | 1 => elRows d
  | 2 => elCols d
  | _ => 1

/-- R125: an operation. -/
structure ElOp where
  op : Nat
  d : Nat
  a : Nat
  b : Nat
  c : Nat
deriving DecidableEq, Repr

/-- R125: operation `i` of the recipe. -/
def elOp (d : List Byte) (i : Nat) : ElOp :=
  let v := fld d (160 + 3 * i) 3
  { op := bits v 0 6, d := bits v 6 4, a := bits v 10 4, b := bits v 14 4, c := bits v 18 4 }

def elOps (d : List Byte) : List ElOp := (List.range (elNOps d)).map (elOp d)

/-- R127, R128: random words an operation takes. -/
def ElOp.words (o : ElOp) : Nat := if o.op = 0x34 ∨ o.op = 0x35 then 1 else if o.op = 0x36 then 2 else 0
/-- R127: a row operation. -/
def ElOp.isRow (o : ElOp) : Bool := 0x39 ≤ o.op && o.op ≤ 0x3D
def ElOp.isLoad (o : ElOp) : Bool := o.op == 1
def ElOp.isStore (o : ElOp) : Bool := o.op == 2
/-- The operation writes register D. -/
def ElOp.writesReg (o : ElOp) : Bool := o.op != 0 && o.op != 2

/-- R128: words the recipe takes. -/
def recipeWords (d : List Byte) : Nat := ((elOps d).map ElOp.words).sum

/-- R124, R125: an operation that a rule names at fault. -/
def badOp (d : List Byte) (i : Nat) : Bool :=
  let o := elOp d i
  bits (fld d (160 + 3 * i) 3) 22 2 != 0
    || (o.writesReg && 12 ≤ o.d)
    || (o.isLoad && elNOpnd d ≤ o.a)
    || (o.isStore && (elNOpnd d ≤ o.d || 2 ≤ opndKind d o.d))

/-- Check 3 of R131 for ELEM. -/
def elemFormat (d : List Byte) : List Nat :=
  let n := min 32 (elNOps d)
  let k := min 6 (elNOpnd d)
  reservedAt d ([(54, 2), (62, 2), (68, 4)] ++ (List.range 6).map (fun i => if i < k then (82 + 12 * i, 2) else (72 + 12 * i, 12))
      ++ [(160 + 3 * n, d.length - (160 + 3 * n))])
    ++ badAt (2 < elRound d) 41
    ++ badAt (recipeWords d != 0 && !(elPurpose d == 2 || elPurpose d == 4 || 128 ≤ elPurpose d)) 42
    ++ badAt (elRound d == 2 && !srPurposeOk (elSrPurpose d)) 43
    ++ (List.range k).flatMap (fun i => badAt (9 < opndFmt d i) (80 + 12 * i) ++ badAt (3 < opndKind d i) (81 + 12 * i))
    ++ (List.range n).flatMap (fun i => badAt (badOp d i) (160 + 3 * i))
    ++ badAt (4 < recipeWords d) noField

/-- R120, R124: the planes of the operands. -/
def elemRanges (d : List Byte) : List Access :=
  (List.range (elNOpnd d)).flatMap (fun i =>
    planeAccesses ((elOps d).any (fun o => o.isStore && o.d == i)) (72 + 12 * i)
      (tensorPlanes (opndAddr d i) (opndFmt d i) (opndCount d i)))

/-- The accesses the recipe makes: an operand loaded, an operand stored. -/
def elemAccesses (d : List Byte) : List Access :=
  (List.range (elNOpnd d)).flatMap (fun i =>
    let ps := tensorPlanes (opndAddr d i) (opndFmt d i) (opndCount d i)
    (if (elOps d).any (fun o => o.isLoad && o.a == i) then planeAccesses false (72 + 12 * i) ps else [])
      ++ (if (elOps d).any (fun o => o.isStore && o.d == i) then planeAccesses true (72 + 12 * i) ps else []))

/-- R129: engine cycles. -/
def elemCycles (d : List Byte) : Nat :=
  let n := elRows d * elCols d
  64 + ((elOps d).map (fun o => if o.isRow then ceilDiv n 64 else if o.words = 0 then ceilDiv n 4096 else 4 * ceilDiv n 4096)).sum

/-- Check 4 of R131 for ELEM. -/
def elemLength (d : List Byte) : List Nat :=
  let c := elCols d
  outside (elRows d) 1 16777216 32 ++ outside c 1 16777216 36 ++ outside (elNOps d) 1 32 40 ++ outside (elNOpnd d) 1 6 53
    ++ badAt (elTotal d == 0) 64
    ++ badAt (decide (2 ^ 48 ≤ elPos0 d + (elRows d - 1) * elTotal d + c - 1)) noField
    ++ badAt ((List.range (elNOpnd d)).any (fun i => isMX (opndFmt d i) && opndKind d i == 0 && c % 32 != 0)) 36
    ++ badAt ((elOps d).any (fun o => (o.op == 0x37 && c % 2 == 1) || (o.op == 0x38 && c % (2 * 2 ^ o.b) != 0)
        || (o.isRow && decide (65536 < c)))) 36
    ++ badAt (24 < segments (elemRanges d)) noField
    ++ badAt (2400000 < elemCycles d) noField

/-! ### The operations (R127) -/

/-- NaN results are canonical. -/
def canon (w : Word) : Word := if isNaN w then f32NaN else w

def boolF32 (b : Bool) : Word := if b then f32One else 0#32

/-- FLOOR, CEIL, RINT, TRUNC: the integer next to a magnitude m × 2^e, e < 0, by the operation and sign. -/
def roundInt (op : Nat) (neg : Bool) (m : Nat) (e : Int) : Nat :=
  let q := m / 2 ^ (-e).toNat
  let exact := m % 2 ^ (-e).toNat == 0
  match op with
  | 0x1A => if neg && !exact then q + 1 else q
  | 0x1B => if !neg && !exact then q + 1 else q
  | 0x1C => roundMag .rne m e 0
  | _ => q

/-- FLOOR, CEIL, RINT, TRUNC of R127; a result of zero keeps the operand's sign. -/
def fRoundInt (op : Nat) (a : Word) : Word :=
  match f32 a with
  | .fin s m e => if m == 0 || decide (0 ≤ e) then a else rneF32 (.fin s (roundInt op s m e) 0)
  | _ => canon a

/-- Number of QE2M1 for `Config.unstatedF32`. -/
def fnQE2M1 : Nat := 3

/-- Q*: rounding to a format under RNE and widening back; for QE2M1 of an infinity or a NaN the spec states no result (log
entry 5). -/
def fQuant (f : FloatFmt) (a : Word) : Word :=
  if f.specials == .none && nonFinite a then Config.unstatedF32 fnQE2M1 a
  else rneF32 (decodeFloat f (encodeFloat f .rne (f32 a)))

/-- SOFTPLUS of R127. -/
def fSoftplus (a : Word) : Word :=
  let e := fExp2 (fMul (fNeg (fAbs a)) kL)
  fAdd (fMax a 0#32) (fMul (fLog2 (fAdd f32One e)) kLn2)

/-- RAND of R127: u = (w >> 8) × 2^-24. -/
def randU (w : Nat) : Word := rneF32 (.fin false (w / 256) (-24))

/-- RANDN of R127. -/
def fRandn (w1 w2 : Nat) : Word :=
  let u1 := rneF32 (.fin false (w1 / 256 + 1) (-24))
  let u2 := rneF32 (.fin false (w2 / 256) (-24))
  let t := fMul (fMul (fLog2 u1) kLn2) 0xC0000000#32
  fMul (fSqrt t) (fCospi (fMul u2 kTwo))

/-- The operations whose result depends on one element's registers and random words. -/
def pointOp (op : Nat) (a b c : Word) (w1 w2 : Nat) : Word :=
  match op with
  | 0x03 => a
  | 0x04 => fAdd a b
  | 0x05 => fSub a b
  | 0x06 => fMul a b
  | 0x07 => fFma a b c
  | 0x08 => fFma a b (c ^^^ 0x80000000#32)
  | 0x09 => fFma (a ^^^ 0x80000000#32) b c
  | 0x0A => fMul a (fRcp b)
  | 0x0B => fMul a a
  | 0x0C => fFma c (fSub b a) a
  | 0x0D => fNeg a
  | 0x0E => fAbs a
  | 0x0F => (a &&& 0x7FFFFFFF#32) ||| (b &&& 0x80000000#32)
  | 0x10 => fMin a b
  | 0x11 => fMax a b
  | 0x12 => fMin (fMax a b) c
  | 0x13 => boolF32 (fLt b a)
  | 0x14 => boolF32 (fLt b a || fEq a b)
  | 0x15 => boolF32 (fEq a b)
  | 0x16 => if !isZeroF32 a && !isNaN a then b else c
  | 0x17 => boolF32 (!nonFinite a)
  | 0x18 => boolF32 (isNaN a)
  | 0x19 => if isNaN a || isZeroF32 a then a else if negF32 a then 0xBF800000#32 else f32One
  | 0x1A | 0x1B | 0x1C | 0x1D => fRoundInt op a
  | 0x1E => fRcp a
  | 0x1F => fSqrt a
  | 0x20 => fRsqrt a
  | 0x21 => fExp2 a
  | 0x22 => fLog2 a
  | 0x23 => fExp2 (fMul a kL)
  | 0x24 => fMul (fLog2 a) kLn2
  | 0x25 => fSinpi a
  | 0x26 => fCospi a
  | 0x27 | 0x28 | 0x29 | 0x2A | 0x2B | 0x2C => funcF32 (op - 0x26) a
  | 0x2D => fSoftplus a
  | 0x2E => fMul (fSilu a) b
  | 0x2F => fMul (fGelu a) b
  | 0x30 => fQuant fmtBF16 a
  | 0x31 => fQuant fmtE4M3 a
  | 0x32 => fQuant fmtE5M2 a
  | 0x33 => fQuant fmtE2M1 a
  | 0x34 => randU w1
  | 0x35 => if fLt b (randU w1) || fEq b (randU w1) then fMul a c else 0#32
  | 0x36 => fRandn w1 w2
  | _ => 0#32

/-- ROWARGMAX: the column of the largest value that is not NaN, the lower on a tie; 0 for a row of NaN. -/
def rowArgmax (l : List Word) : Nat :=
  match firstBy (fun a b : Word × Nat => fLt b.1 a.1 || (fEq a.1 b.1 && decide (a.2 < b.2))) (l.zipIdx.filter (fun x => !isNaN x.1)) with
  | some x => x.2
  | none => 0

/-- R127: a row operation over a row's values in column order. -/
def rowOp (op : Nat) (l : List Word) : Word :=
  match op with
  | 0x39 => l.foldl fAdd 0#32
  | 0x3A => l.foldl (fun s a => fFma a a s) 0#32
  | 0x3B => l.tail.foldl fMax (canon (l.headD 0#32))
  | 0x3C => l.tail.foldl fMin (canon (l.headD 0#32))
  | _ => rneF32 (.fin false (rowArgmax l) 0)

/-! ### Recipes (R126) -/

/-- The registers of every element, one array per register; the constants are registers 12 to 15. -/
abbrev Regs := Array (Array Word)

/-- A register of an element. -/
def regAt (r : Regs) (k i : Nat) : Word := (r.getD k #[]).getD i 0#32

/-- What a recipe has computed: its registers, random words used, stores in recipe order. -/
structure ElState where
  regs : Regs
  words : Nat
  stores : List (Nat × List Word)
deriving DecidableEq, Repr

/-- R123: the logical position of element `i`. -/
def elPosition (d : List Byte) (i : Nat) : Nat := elPos0 d + i / elCols d * elTotal d + i % elCols d

/-- The index of an operand's element that element `i` uses. -/
def opndIndex (d : List Byte) (k i : Nat) : Nat :=
  match opndKind d k with
  | 0 => i
  | 1 => i / elCols d
  | 2 => i % elCols d
  | _ => 0

/-- R127: the column that PAIR_ADJ and PAIR_HALF read. -/
def pairColumn (op b n : Nat) : Nat :=
  if op = 0x37 then n ^^^ 1 else if n % (2 * 2 ^ b) < 2 ^ b then n + 2 ^ b else n - 2 ^ b

/-- R126: the value that an operation gives element `i`. -/
def elemValue (j : Job) (r : Regs) (rows : Array Word) (words : Nat) (o : ElOp) (i : Nat) : Word :=
  let c := elCols j.d
  let w := fun k => drawWord j.seed (elPurpose j.d) (elStream j.d) (elStep j.d) (elPosition j.d i) k
  if o.isLoad then loadElem j.rd (opndFmt j.d o.a) (opndAddr j.d o.a) (opndCount j.d o.a) (opndIndex j.d o.a i)
  else if o.isRow then rows.getD (i / c) 0#32
  else if o.op = 0x37 ∨ o.op = 0x38 then regAt r o.a (i / c * c + pairColumn o.op o.b (i % c))
  else if o.op = 0x3E then rneF32 (.fin false (elPosition j.d i % elTotal j.d) 0)
  else if o.op = 0x3F then rneF32 (.fin false (elPosition j.d i / elTotal j.d) 0)
  else pointOp o.op (regAt r o.a i) (regAt r o.b i) (regAt r o.c i) (w words) (w (words + 1))

/-- R126: one operation over every element. -/
def elemStep (j : Job) (s : ElState) (o : ElOp) : ElState :=
  let c := elCols j.d
  let n := elRows j.d * c
  if o.op = 0 then s
  else if o.isStore then
    let vals := if opndKind j.d o.d = 1 then (List.range (elRows j.d)).map (fun m => regAt s.regs o.a (m * c))
      else (List.range n).map (regAt s.regs o.a)
    { s with stores := s.stores.filter (fun x => x.1 != o.d) ++ [(o.d, vals)] }
  else
    let rows : Array Word := Array.mk (if o.isRow then
      (List.range (elRows j.d)).map (fun m => rowOp o.op ((List.range c).map (fun k => regAt s.regs o.a (m * c + k)))) else [])
    let v : Array Word := Array.mk ((List.range n).map (fun i => canon (elemValue j s.regs rows s.words o i)))
    { s with regs := s.regs.setIfInBounds o.d v, words := s.words + o.words }

/-- R123: the registers at the start. -/
def elemStart (d : List Byte) : ElState :=
  let n := elRows d * elCols d
  { regs := Array.mk ((List.range 16).map (fun k =>
      Array.mk (List.replicate n (if k < 12 then 0#32 else fldW d (144 + 4 * (k - 12)))))),
    words := 0, stores := [] }

/-- R85, R124: the rounding mode of element `i` of a stored operand. -/
def elemRounding (j : Job) (k i : Nat) : RoundMode :=
  roundModeAt (elRound j.d) j.seed (elSrPurpose j.d) (elStream j.d) (elStep j.d)
    (elPosition j.d (if opndKind j.d k = 1 then i * elCols j.d else i))

/-- ELEM: an attempt. -/
def elemRun (j : Job) : Outcome_ :=
  let s := (elOps j.d).foldl (elemStep j) (elemStart j.d)
  okOut (s.stores.any (fun x => storedNonFinite (opndFmt j.d x.1) (elemRounding j x.1) x.2))
    (s.stores.flatMap (fun x => stageTensor j (opndFmt j.d x.1) (opndAddr j.d x.1) (elemRounding j x.1) x.2))

end Sys2Proof.Machine
end

