-- ==== Sys2Proof/Machine/Gleaner.lean ====
section
/-! DEFINITION. Sys2Proof/Machine/Gleaner.lean: ROUTE, GATHER and SCATTER (R95 to R101, R105). -/

namespace Sys2Proof.Machine

open Sys2Proof

/-! ### ROUTE (R96, R97) -/

def roT (d : List Byte) : Nat := fld d 80 4
def roC (d : List Byte) : Nat := fld d 84 4
def roE (d : List Byte) : Nat := fld d 88 2
def roK (d : List Byte) : Nat := fld d 90 1
def roGate (d : List Byte) : Nat := fld d 91 1
def roBias (d : List Byte) : Bool := fld d 92 1 == 1

def routeFormat (d : List Byte) : List Nat := reservedAt d [(93, 35)] ++ badAt (2 < roGate d) 91 ++ badAt (1 < fld d 92 1) 92
def routeLength (d : List Byte) : List Nat :=
  outside (roT d) 1 65536 80 ++ badAt (roT d < roC d) 84 ++ outside (roE d) 1 1024 88
    ++ badAt (roK d < 1 || min 16 (roE d) < roK d) 90

/-- The buffers of a ROUTE; the list is bounded by T × K entries. -/
def routeAccesses (d : List Byte) : List Access :=
  let t := roT d
  let e := roE d
  [rd (fld d 32 8) (4 * t * e) 32] ++ (if roBias d then [rd (fld d 40 8) (4 * e) 40] else [])
    ++ [wr (fld d 48 8) (16 * t * roK d) 48, wr (fld d 56 8) (4 * e) 56, wr (fld d 64 8) (4 * (e + 1)) 64,
        wr (fld d 72 8) (4 * t * roK d) 72]

/-- A logit, canonical. -/
def roLogit (j : Job) (t e : Nat) : Word :=
  loadElem j.rd codeF32 (fld j.d 32 8) (roT j.d * roE j.d) (t * roE j.d + e)

/-- R96 step 1: a score. -/
def roScore (j : Job) (t e : Nat) : Word :=
  if roBias j.d then fAdd (roLogit j t e) (loadElem j.rd codeF32 (fld j.d 40 8) (roE j.d) e) else roLogit j t e

/-- R96 step 2: expert `a` ranks before `b`. -/
def ranksBefore (a b : Word × Nat) : Bool :=
  if isNaN a.1 != isNaN b.1 then isNaN b.1
  else if !isNaN a.1 && fLt b.1 a.1 then true
  else if !isNaN a.1 && fLt a.1 b.1 then false
  else a.2 < b.2

/-- The first `k` under an order. -/
def topBy {α : Type} [DecidableEq α] (lt : α → α → Bool) : Nat → List α → List α
  | 0, _ => []
  | k + 1, l =>
    match firstBy lt l with
    | some x => x :: topBy lt k (l.filter (fun y => y != x))
    | none => []

/-- R96: the experts of a token in rank order. -/
def roSelect (j : Job) (t : Nat) : List Nat :=
  (topBy ranksBefore (roK j.d) ((List.range (roE j.d)).map (fun e => (roScore j t e, e)))).map (·.2)

/-- e_x of R96. -/
def roExp (mu l : Word) : Word := fExp2 (fMul (fSub l mu) kL)

/-- The largest of a list, by MAX. -/
def maxOf (l : List Word) : Word := l.tail.foldl fMax (l.headD 0#32)

/-- R96 step 3: the gate weights of the selected, in rank order. -/
def roWeights (j : Job) (t : Nat) (sel : List Nat) : List Word :=
  let ls := sel.map (roLogit j t)
  match roGate j.d with
  | 0 =>
    let es := ls.map (roExp (maxOf ls))
    let s := es.foldl fAdd 0#32
    es.map (fun e => fMul e (fRcp s))
  | 1 =>
    let es := ls.map fSigmoid
    let s := es.foldl fAdd 0#32
    es.map (fun e => fMul e (fRcp s))
  | _ =>
    let all := (List.range (roE j.d)).map (roLogit j t)
    let mu := maxOf all
    let s := (all.map (roExp mu)).foldl fAdd 0#32
    ls.map (fun l => fMul (roExp mu l) (fRcp s))

/-- A token with a NaN logit (R96). -/
def roNaN (j : Job) (t : Nat) : Bool := (List.range (roE j.d)).any (fun e => isNaN (roLogit j t e))

/-- R97: the tokens that selected an expert, ascending. -/
def roAssigned (sel : List (List Nat)) (e : Nat) : List Nat :=
  (sel.zipIdx.filter (fun x => x.1.contains e)).map (·.2)

/-- R97: those dispatched under capacity C. -/
def roKept (c : Nat) (l : List Nat) : List Nat := if c = 0 then l else l.take c

/-- R97: exclusive prefix sums, one more than the counts. -/
def prefixSums : Nat → List Nat → List Nat
  | a, [] => [a]
  | a, c :: l => a :: prefixSums (a + c) l

/-- R97: a per-token record. -/
def roRecord (kept : List (List Nat)) (offs : List Nat) (t e : Nat) (nan : Bool) (w : Word) : List Byte :=
  match (kept.getD e []).findIdx? (· == t) with
  | some p => bytesLE e 2 ++ bytesLE (if nan then 2 else 0) 1 ++ bytesLE 0 1 ++ bytesLE w.toNat 4 ++ bytesLE (offs.getD e 0 + p) 4
                ++ bytesLE 0 4
  | none => bytesLE e 2 ++ bytesLE (if nan then 3 else 1) 1 ++ bytesLE 0 1 ++ bytesLE w.toNat 4 ++ bytesLE 0xFFFFFFFF 4
                ++ bytesLE 0 4

/-- ROUTE: an attempt on the Gleaner of die `j.inst`. -/
def routeRun (j : Job) : Outcome_ :=
  let ts := List.range (roT j.d)
  let sel := ts.map (roSelect j)
  let ws := sel.zipIdx.map (fun x => roWeights j x.2 x.1)
  let kept := (List.range (roE j.d)).map (fun e => roKept (roC j.d) (roAssigned sel e))
  let counts := kept.map List.length
  let offs := prefixSums 0 counts
  let recs := (sel.zip ws).zipIdx.flatMap (fun x =>
    (x.1.1.zip x.1.2).flatMap (fun ew => roRecord kept offs x.2 ew.1 (roNaN j x.2) ew.2))
  let dropped := roT j.d * roK j.d - counts.sum
  okOut (ts.any (roNaN j) || ws.any (fun l => l.any nonFinite))
    (stage j.m j.c (fld j.d 48 8) recs ++ stage j.m j.c (fld j.d 56 8) (counts.flatMap (fun n => bytesLE n 4))
      ++ stage j.m j.c (fld j.d 64 8) (offs.flatMap (fun n => bytesLE n 4))
      ++ stage j.m j.c (fld j.d 72 8) (kept.flatMap (fun l => l.flatMap (fun t => bytesLE t 4)))
      ++ (if dropped = 0 then [] else [.counter (kBar0 (0x9200 + 8 * j.inst)) dropped]))

/-! ### GATHER (R98, R100) -/

/-- The index that skips or writes zeros (R98, R99). -/
def noIndex : Nat := 0xFFFFFFFF

def gaN (d : List Byte) : Nat := fld d 64 4
def gaCount (d : List Byte) : Nat := fld d 68 4
def gaRow (d : List Byte) : Nat := fld d 72 4
def gaMode (d : List Byte) : Nat := fld d 76 1
def gaK (d : List Byte) : Nat := fld d 77 1
def gaIn (d : List Byte) : Nat := fld d 78 1
def gaOut (d : List Byte) : Nat := fld d 79 1

/-- R95: a row size. -/
def badRow (r det : Nat) : List Nat := badAt (r < 64 || 65536 < r || r % 64 != 0) det

def gatherFormat (d : List Byte) : List Nat :=
  reservedAt d [(80, 48)] ++ badAt (1 < gaMode d) 76 ++ badAt ((if gaMode d = 0 then 9 else 1) < gaIn d) 78
    ++ badAt ((if gaMode d = 0 then 9 else 1) < gaOut d) 79
def gatherLength (d : List Byte) : List Nat :=
  outside (gaN d) 1 0xFFFFFFFE 64 ++ outside (gaCount d) 1 1048576 68 ++ badRow (gaRow d) 72
    ++ outside (gaK d) 1 (if gaMode d = 0 then 1 else 16) 77 ++ badAt (decide (1048576 < gaCount d * gaK d)) noField

/-- Elements of a row; bytes of an output row. -/
def gaElems (d : List Byte) : Nat := gaRow d * 8 / elemBits (gaIn d)
def gaOutRow (d : List Byte) : Nat := if gaMode d = 0 then gaRow d else gaElems d * elemBits (gaOut d) / 8

/-- Entry `i` of the index list. -/
def gaIndex (j : Job) (i : Nat) : Nat := j.le (fld j.d 40 8 + 4 * i) 4

/-- R131: the buffers, the table whole. -/
def gatherRanges (d : List Byte) : List Access :=
  [rd (fld d 32 8) (gaN d * gaRow d) 32, rd (fld d 40 8) (4 * gaCount d * gaK d) 40]
    ++ (if gaMode d = 1 then [rd (fld d 48 8) (4 * gaCount d * gaK d) 48] else [])
    ++ [wr (fld d 56 8) (gaCount d * gaOutRow d) 56]

/-- The accesses: of the table, the indexed rows. -/
def gatherAccesses (j : Job) : List Access :=
  (gatherRanges j.d).tail ++ ((List.range (gaCount j.d * gaK j.d)).filter (fun i => gaIndex j i < gaN j.d)).map (fun i =>
    rd (fld j.d 32 8 + gaIndex j i * gaRow j.d) (gaRow j.d) 32)

/-- R100: some index is out of the table. -/
def badIndex (idx : Nat → Nat) (n table : Nat) : Bool := (List.range n).any (fun i => idx i != noIndex && table ≤ idx i)

/-- Element `e` of table row `r`, widened exactly. -/
def gaElem (j : Job) (r e : Nat) : Word :=
  loadElem j.rd (gaIn j.d) (fld j.d 32 8 + r * gaRow j.d) (gaElems j.d) e

/-- R98: element `e` of combined output row `i`. -/
def gaCombine (j : Job) (i e : Nat) : Word :=
  (List.range (gaK j.d)).foldl (fun acc k =>
    let r := gaIndex j (i * gaK j.d + k)
    if r = noIndex then acc
    else fFma (loadElem j.rd codeF32 (fld j.d 48 8) (gaCount j.d * gaK j.d) (i * gaK j.d + k)) (gaElem j r e) acc) 0#32

/-- GATHER: an attempt. -/
def gatherRun (j : Job) : Outcome_ :=
  if badIndex (gaIndex j) (gaCount j.d * gaK j.d) (gaN j.d) then endOut .length noField
  else if gaMode j.d = 0 then
    okOut false (stage j.m j.c (fld j.d 56 8) ((List.range (gaCount j.d)).flatMap (fun i =>
      if gaIndex j i = noIndex then List.replicate (gaRow j.d) 0
      else devBytes j.m j.c (fld j.d 32 8 + gaIndex j i * gaRow j.d) (gaRow j.d))))
  else
    let vals := (List.range (gaCount j.d)).flatMap (fun i => (List.range (gaElems j.d)).map (gaCombine j i))
    okOut (storedNonFinite (gaOut j.d) (fun _ => .rne) vals) (stageTensor j (gaOut j.d) (fld j.d 56 8) (fun _ => .rne) vals)

/-! ### SCATTER (R99, R100) -/

def scN (d : List Byte) : Nat := fld d 56 4
def scCount (d : List Byte) : Nat := fld d 60 4
def scRow (d : List Byte) : Nat := fld d 64 4
def scMode (d : List Byte) : Nat := fld d 68 1

def scatterFormat (d : List Byte) : List Nat := reservedAt d [(69, 59)] ++ badAt (2 < scMode d) 68
def scatterLength (d : List Byte) : List Nat :=
  outside (scN d) 1 0xFFFFFFFE 56 ++ outside (scCount d) 1 1048576 60 ++ badRow (scRow d) 64

def scIndex (j : Job) (i : Nat) : Nat := j.le (fld j.d 40 8 + 4 * i) 4

def scatterRanges (d : List Byte) : List Access :=
  [wr (fld d 32 8) (scN d * scRow d) 32, rd (fld d 40 8) (4 * scCount d) 40, rd (fld d 48 8) (scCount d * scRow d) 48]

/-- The rows of the table that a SCATTER writes, in list order. -/
def scRows (j : Job) : List Nat := ((List.range (scCount j.d)).map (scIndex j)).filter (fun r => decide (r < scN j.d))

def scatterAccesses (j : Job) : List Access :=
  (scatterRanges j.d).tail ++ (scRows j).flatMap (fun r =>
    let a := fld j.d 32 8 + r * scRow j.d
    (if scMode j.d = 0 then [] else [rd a (scRow j.d) 32]) ++ [wr a (scRow j.d) 32])

/-- The format of a SCATTER that adds. -/
def scFmt (d : List Byte) : Nat := if scMode d = 1 then codeF32 else codeBF16

/-- R99: one row added: each addition rounded once in the mode's format. -/
def scAddRow (j : Job) (acc : List Nat) (i : Nat) : List Nat :=
  let f := elemFmt (scFmt j.d)
  (acc.zipIdx).map (fun x =>
    encodeFloat f .rne ((decodeFloat f x.1).add (decodeFloat f (readField j.rd (fld j.d 48 8 + i * scRow j.d) x.2 (elemBits (scFmt j.d))))))

/-- A table row as its elements' codes. -/
def scOldRow (j : Job) (r : Nat) : List Nat :=
  (List.range (scRow j.d * 8 / elemBits (scFmt j.d))).map (fun e =>
    readField j.rd (fld j.d 32 8 + r * scRow j.d) e (elemBits (scFmt j.d)))

/-- R99: the rows of an adding SCATTER, by row number. -/
def scAdded (j : Job) : Tbl (List Nat) :=
  (List.range (scCount j.d)).foldl (fun t i =>
    let r := scIndex j i
    if r = noIndex then t else tblIns t r (scAddRow j ((tblFind t r).getD (scOldRow j r)) i)) []

/-- SCATTER: an attempt. -/
def scatterRun (j : Job) : Outcome_ :=
  if badIndex (scIndex j) (scCount j.d) (scN j.d) then endOut .length noField
  else if scMode j.d = 0 then
    okOut false ((List.range (scCount j.d)).flatMap (fun i =>
      if scIndex j i = noIndex then [] else
        stage j.m j.c (fld j.d 32 8 + scIndex j i * scRow j.d) (devBytes j.m j.c (fld j.d 48 8 + i * scRow j.d) (scRow j.d))))
  else
    let f := elemFmt (scFmt j.d)
    okOut ((scAdded j).any (fun e => e.2.any (fun x => match decodeFloat f x with | .fin _ _ _ => false | _ => true)))
      ((scAdded j).flatMap (fun e =>
        stage j.m j.c (fld j.d 32 8 + e.1 * scRow j.d) (packFields (elemBits (scFmt j.d)) e.2)))

end Sys2Proof.Machine
end

