-- ==== Sys2Proof/Machine/Move.lean ====
section
/-! DEFINITION. Sys2Proof/Machine/Move.lean: MOVE (R221, R357) and RESHARD (R380 to R390). -/

namespace Sys2Proof.Machine

open Sys2Proof

/-! ### MOVE (R119, R221) -/

def mvSrc (d : List Byte) : Nat := fld d 32 8
def mvDst (d : List Byte) : Nat := fld d 40 8
def mvBytes (d : List Byte) : Nat := fld d 48 8
def mvSrcHost (d : List Byte) : Bool := bits (fld d 56 1) 0 1 == 1
def mvDstHost (d : List Byte) : Bool := bits (fld d 56 1) 1 1 == 1

def moveFormat (d : List Byte) : List Nat := badAt (3 ≤ fld d 56 1) 56 ++ reservedAt d [(57, 7)]
def moveLength (d : List Byte) : List Nat := outside (mvBytes d) 1 1073741824 48

def moveAccesses (d : List Byte) : List Access :=
  [{ write := false, host := mvSrcHost d, addr := mvSrc d, len := mvBytes d, det := 32 },
   { write := true, host := mvDstHost d, addr := mvDst d, len := mvBytes d, det := 40 }]

/-- The far objects that a MOVE names. -/
def mvFarSrc (m : Store) (c : Nat) (d : List Byte) : Option FarObj := if mvSrcHost d then none else farBody m c (addrObj (mvSrc d))
def mvFarDst (m : Store) (c : Nat) (d : List Byte) : Option FarObj := if mvDstHost d then none else farBody m c (addrObj (mvDst d))

/-- R357: two far objects, or a far object and a host address. -/
def moveFarCheck (m : Store) (c : Nat) (d : List Byte) : Chk :=
  let a := (mvFarSrc m c d).isSome
  let b := (mvFarDst m c d).isSome
  failIf ((a && b) || (a && mvDstHost d) || (b && mvSrcHost d)) .format noField

/-- R428: seal and FAR_OK of the storage or far object at a device address. -/
def sealAt (m : Store) (c a : Nat) : Option Bool :=
  match objBody m c (addrObj a) with
  | some (_, b, _) => if b.isSealed then some b.farOk else none
  | none => (farBody m c (addrObj a)).bind (fun f => if f.isSealed then some f.farOk else none)

/-- R429: after check 8. -/
def moveSealCheck (m : Store) (c : Nat) (d : List Byte) : Chk :=
  failIf (!mvSrcHost d && (sealAt m c (mvSrc d)).isSome && (mvDstHost d || (mvFarDst m c d).isSome)) .sealedObj noField

/-- The source bytes. -/
def mvData (j : Job) : List Byte :=
  if mvSrcHost j.d then memRead j.m.host (mvSrc j.d) (mvBytes j.d) else devBytes j.m j.c (mvSrc j.d) (mvBytes j.d)

/-- MOVE: an attempt whose far transfers are complete; `epoch` and `attempt` name it to the exporter (R359). -/
def moveRun (j : Job) (epoch attempt : Nat) : Outcome_ :=
  okOut false
    (if mvDstHost j.d then [.hostWrite (mvDst j.d) (mvData j)]
     else match mvFarDst j.m j.c j.d with
       | some f => [.farCommit f epoch attempt (mvBytes j.d)]
       | none => stage j.m j.c (mvDst j.d) (mvData j))

/-! ### Far transfers (R357) -/

/-- The (offset, size) of the transfers of at most 4 KiB of a range. -/
def farPieces (off len : Nat) : List (Nat × Nat) :=
  (List.range (ceilDiv len 4096)).map (fun i => (off + 4096 * i, min 4096 (len - 4096 * i)))

/-- A request of a command to the export behind a far object. -/
def farPacket (s : State) (f : FarObj) (r : CmdRef) (attempt off bytes : Nat) (data : List Byte) : FarPacket :=
  { FarPacket.blank with dest := f.node, secure := f.secure, expo := f.expo, gen := f.gen, attempt := attempt, off := off,
                         epoch := cmdEpoch ((selfNode s).getD 0xFFFF) noTree r, bytes := bytes, data := data }

/-- Requests issued in order; none when one finds no route (R353). -/
def issueAll (kind : FarKind) (r : CmdRef) : List FarPacket → State → Option State
  | [], s => some s
  | k :: l, s => (issueReq s kind k (some r) r.ctx).bind (issueAll kind r l)

/-- The far packets of a MOVE: WRITEs of its source's bytes, or READ_REQs. -/
def moveFarPackets (s : State) (j : Job) (r : CmdRef) (attempt : Nat) : FarKind × List FarPacket :=
  match mvFarDst j.m j.c j.d, mvFarSrc j.m j.c j.d with
  | some f, _ =>
    (.write, (farPieces (addrOff (mvDst j.d)) (mvBytes j.d)).map (fun e =>
      farPacket s f r attempt e.1 e.2 (((mvData j).drop (e.1 - addrOff (mvDst j.d))).take e.2)))
  | none, some f =>
    (.read, (farPieces (addrOff (mvSrc j.d)) (mvBytes j.d)).map (fun e => farPacket s f r attempt e.1 e.2 []))
  | none, none => (.read, [])

/-- The committed state with the bytes that far reads of a command returned, each far object as a storage of its own. -/
def farView (m : Store) (c : Nat) (reqs : List (Nat × FarReq)) : Store :=
  let sid := fun o => 2 ^ 48 + o
  let objOf := fun (k : FarPacket) => (m.far.filter (fun e => e.1 / 2 ^ 24 == c && e.2.node == k.dest && e.2.expo == k.expo
    && e.2.gen == k.gen)).map (·.1)
  (reqs.filter (fun e => e.2.kind == .read)).foldl (fun m e =>
    (objOf e.2.pkt).foldl (fun m key =>
      { m with objs := tblIns m.objs key { sid := sid key, alias_ := true },
               mem := memWrite m.mem (cellKey (sid key) e.2.pkt.off) e.2.got }) m) m

/-! ### RESHARD (R380 to R390) -/

def rsParam (d : List Byte) : Nat := fld d 32 8
def rsWop (d : List Byte) : Nat := fld d 44 1
def reshardFormat (d : List Byte) : List Nat := badAt (1 < rsWop d) 44 ++ reservedAt d [(45, 83)]

def rsPieces (p : List Byte) : Nat := fld p 0 2
def rsRound (p : List Byte) : Nat := fld p 2 1

/-- R382: a piece entry. -/
structure Piece where
  src : Nat
  dst : Nat
  rows : Nat
  cols : Nat
  srcPitch : Nat
  dstPitch : Nat
  srcRow0 : Nat
  srcCol0 : Nat
  dstRow0 : Nat
  dstCol0 : Nat
  fmtSrc : Nat
  fmtDst : Nat
  flags : Nat
  srcTRows : Nat
  dstTRows : Nat
deriving DecidableEq, Repr

/-- Where piece entry `k` begins. -/
def pieceAt (k : Nat) : Nat := 64 + 64 * k
def rsPiece (p : List Byte) (k : Nat) : Piece :=
  let f := fun o n => fld p (pieceAt k + o) n
  { src := f 0 8, dst := f 8 8, rows := f 16 4, cols := f 20 4, srcPitch := f 24 4, dstPitch := f 28 4, srcRow0 := f 32 4,
    srcCol0 := f 36 4, dstRow0 := f 40 4, dstCol0 := f 44 4, fmtSrc := f 48 1, fmtDst := f 49 1, flags := f 50 1, srcTRows := f 52 4,
    dstTRows := f 56 4 }
def rsList (p : List Byte) : List Piece := (List.range (rsPieces p)).map (rsPiece p)

def Piece.transposed (e : Piece) : Bool := bits e.flags 0 1 == 1
/-- R383: rows and columns at the destination. -/
def Piece.dstRows (e : Piece) : Nat := if e.transposed then e.cols else e.rows
def Piece.dstCols (e : Piece) : Nat := if e.transposed then e.rows else e.cols

/-- R382: the format codes allowed. -/
def rsFmts : List Nat := [0x00, 0x01, 0x04, 0x05, 0x06, 0x07, 0x08]

/-- R381, R382, R385: offsets at fault with FORMAT in piece `k`. -/
def pieceFormat (wop : Nat) (p : List Byte) (k : Nat) : List Nat :=
  let e := rsPiece p k
  let b := pieceAt k
  notIn e.fmtSrc rsFmts (b + 48) ++ notIn e.fmtDst rsFmts (b + 49) ++ badAt (1 < e.flags) (b + 50)
    ++ reservedAt p [(b + 51, 1), (b + 60, 4)]
    ++ badAt (wop == 1 && e.fmtDst != e.fmtSrc) (b + 49) ++ badAt (wop == 1 && e.transposed && 1 < e.fmtSrc) (b + 50)

/-- R382, R383: offsets at fault with LENGTH in piece `k`. -/
def pieceLength (p : List Byte) (k : Nat) : List Nat :=
  let e := rsPiece p k
  let b := pieceAt k
  outside e.rows 1 1048576 (b + 16) ++ outside e.cols 1 1048576 (b + 20) ++ outside e.srcPitch 1 1048576 (b + 24)
    ++ outside e.dstPitch 1 1048576 (b + 28) ++ outside e.srcTRows 1 1048576 (b + 52) ++ outside e.dstTRows 1 1048576 (b + 56)
    ++ badAt (e.srcTRows < e.srcRow0 + e.rows) (b + 32) ++ badAt (e.srcPitch < e.srcCol0 + e.cols) (b + 36)
    ++ badAt (e.dstTRows < e.dstRow0 + e.dstRows) (b + 40) ++ badAt (e.dstPitch < e.dstCol0 + e.dstCols) (b + 44)
    ++ badAt (isMX e.fmtSrc && e.srcPitch % 32 != 0) (b + 24) ++ badAt (isMX e.fmtSrc && e.srcCol0 % 32 != 0) (b + 36)
    ++ badAt (isMX e.fmtSrc && e.cols % 32 != 0) (b + 20)
    ++ badAt (isMX e.fmtDst && e.dstPitch % 32 != 0) (b + 28) ++ badAt (isMX e.fmtDst && e.dstCol0 % 32 != 0) (b + 44)
    ++ badAt (isMX e.fmtDst && e.dstCols % 32 != 0) (if e.transposed then b + 16 else b + 20)

/-- R387: engine cycles. -/
def reshardCycles (p : List Byte) : Nat :=
  200 + ((rsList p).map (fun e => 64 + ceilDiv (e.rows * e.cols) (if e.transposed then 128 else 256))).sum

/-- Check 7 part 1. -/
def reshardContents (d p : List Byte) : Chk :=
  let ks := List.range (rsPieces p)
  firstFail
    [leastFail .format ((badAt (1 < rsRound p || (rsWop d == 1 && rsRound p != 0)) 2 ++ reservedAt p [(3, 61)]
        ++ ks.flatMap (pieceFormat (rsWop d) p)).map inParam),
     leastFail .length ((outside (rsPieces p) 1 256 0 ++ ks.flatMap (pieceLength p)).map inParam),
     failIf (3500000 < reshardCycles p) .length noField]

/-- R384, R390: check 7 on the objects: a far destination, a far source that is not secure. -/
def reshardFarCheck (m : Store) (c : Nat) (p : List Byte) : Chk :=
  leastFail .format (((List.range (rsPieces p)).flatMap (fun k =>
    badAt ((farBody m c (addrObj (rsPiece p k).src)).any (fun f => !f.secure)) (pieceAt k)
      ++ badAt ((farBody m c (addrObj (rsPiece p k).dst)).isSome) (pieceAt k + 8))).map inParam)

/-- The planes' ranges of `n` elements from element `i` of a tensor of `total` elements at `a`. -/
def runRanges (code a total i n : Nat) : List (Nat × Nat) :=
  (a + i * elemBits code / 8, ceilDiv ((i + n) * elemBits code) 8 - i * elemBits code / 8)
    :: (if isMX code then [(scalePlane a code total + i / 32, ceilDiv n 32)] else [])

/-- The ranges a piece reads and writes, row by row. -/
def pieceReads (e : Piece) : List (Nat × Nat) :=
  (List.range e.rows).flatMap (fun i =>
    runRanges e.fmtSrc e.src (e.srcTRows * e.srcPitch) ((e.srcRow0 + i) * e.srcPitch + e.srcCol0) e.cols)
def pieceWrites (e : Piece) : List (Nat × Nat) :=
  (List.range e.dstRows).flatMap (fun q =>
    runRanges e.fmtDst e.dst (e.dstTRows * e.dstPitch) ((e.dstRow0 + q) * e.dstPitch + e.dstCol0) e.dstCols)

def reshardAccesses (d p : List Byte) : List Access :=
  [rd (rsParam d) (64 + 64 * rsPieces p) 32] ++ (List.range (rsPieces p)).flatMap (fun k =>
    planeAccesses false (inParam (pieceAt k)) (pieceReads (rsPiece p k))
      ++ planeAccesses true (inParam (pieceAt k + 8)) (pieceWrites (rsPiece p k)))

/-- R388: check 8: at most 512 destination granules. -/
def reshardGranules (m : Store) (c : Nat) (d p : List Byte) : Chk :=
  failIf (512 < (((reshardAccesses d p).filter (·.write)).flatMap (accessGrans m c)).eraseDups.length) .length noField

/-- R386: the piece is copied bit for bit. -/
def bitCopy (wop : Nat) (e : Piece) : Bool := wop == 1 || (e.fmtSrc == e.fmtDst && !e.transposed)

/-- The source element index of destination (q, t). -/
def pieceIndex (e : Piece) (q t : Nat) : Nat :=
  let i := if e.transposed then t else q
  let k := if e.transposed then q else t
  (e.srcRow0 + i) * e.srcPitch + e.srcCol0 + k

/-- R386: destination row `q` as planes: (address, bytes). -/
def pieceRow (j : Job) (e : Piece) (q : Nat) : List (Nat × List Byte) :=
  let st := e.srcTRows * e.srcPitch
  let dt := e.dstTRows * e.dstPitch
  let d0 := (e.dstRow0 + q) * e.dstPitch + e.dstCol0
  let a := e.dst + d0 * elemBits e.fmtDst / 8
  if bitCopy (rsWop j.d) e then
    let codes := (List.range e.dstCols).map (fun t => readField j.rd e.src (pieceIndex e q t) (elemBits e.fmtSrc))
    (a, packFields (elemBits e.fmtDst) codes)
      :: (if isMX e.fmtDst then
            [(scalePlane e.dst e.fmtDst dt + d0 / 32,
              (List.range (e.dstCols / 32)).map (fun b => j.rd (scalePlane e.src e.fmtSrc st + pieceIndex e q (32 * b) / 32)))] else [])
  else
    let vals := (List.range e.dstCols).map (fun t => loadElem j.rd e.fmtSrc e.src st (pieceIndex e q t))
    let md := roundModeAt (rsRound j.p) 0 0 0 0 0
    if isMX e.fmtDst then
      let bl := (chunks 32 vals.length vals).map (quantBlock e.fmtDst (fun _ => md))
      [(a, packFields (elemBits e.fmtDst) (bl.flatMap (·.2))), (scalePlane e.dst e.fmtDst dt + d0 / 32, bl.map (fun b => BitVec.ofNat 8 b.1))]
    else [(a, packFields (elemBits e.fmtDst) (vals.map (storeCode e.fmtDst md)))]

/-- R76, R398: a finite value beyond the largest finite of the format that became the largest finite. -/
def saturated (f : FloatFmt) (md : RoundMode) (x : Ext) : Bool :=
  match x with
  | .fin _ m e =>
    let k := lastPlace f m e
    m != 0 && decide (maxFinite f < encodeMag f (roundMag md m e k) k) && overflowCode f md == maxFinite f
  | _ => false

/-- R398: saturated elements of destination row `q`. -/
def rowSaturated (j : Job) (e : Piece) (q : Nat) : Nat :=
  if bitCopy (rsWop j.d) e then 0 else
  let st := e.srcTRows * e.srcPitch
  let vals := (List.range e.dstCols).map (fun t => loadElem j.rd e.fmtSrc e.src st (pieceIndex e q t))
  let md := roundModeAt (rsRound j.p) 0 0 0 0 0
  if isMX e.fmtDst then
    ((chunks 32 vals.length vals).map (fun b =>
      if b.any nonFinite then 0 else
      (b.filter (fun w => match f32 w with
        | .fin s m x => saturated (elemFmt e.fmtDst) md (.fin s m (x - blockExp e.fmtDst b))
        | _ => false)).length)).sum
  else (vals.filter (fun w => saturated (elemFmt e.fmtDst) md (f32 w))).length

/-- R386, R398: NaN blocks, or elements that are NaN or infinite, of a destination row's planes. -/
def rowNan (e : Piece) (row : List (Nat × List Byte)) : Nat :=
  if isMX e.fmtDst then ((row.getD 1 (0, [])).2.filter (fun b => b == 0xFF#8)).length
  else
    let bytes := (row.headD (0, [])).2
    let w := elemBits e.fmtDst / 8
    ((chunks w e.dstCols bytes).filter (fun b =>
      match decodeFloat (elemFmt e.fmtDst) (leValue b) with | .fin _ _ _ => false | _ => true)).length

/-- RESHARD: an attempt on engine `inst` whose far reads are complete. -/
def reshardRun (j : Job) : Outcome_ :=
  let rows := (rsList j.p).flatMap (fun e => (List.range e.dstRows).map (fun q => (e, q, pieceRow j e q)))
  let nan := (rows.map (fun r => rowNan r.1 r.2.2)).sum
  let sat := (rows.map (fun r => rowSaturated j r.1 r.2.1)).sum
  let n := ((rsList j.p).map (fun e => e.rows * e.cols)).sum
  okOut (decide (0 < nan)) (rows.flatMap (fun r => stageAll j.m j.c r.2.2) ++ [.wnwElem j.inst n sat nan])

/-- The READ_REQs of a RESHARD's far sources. -/
def reshardFarPackets (s : State) (m : Store) (c : Nat) (p : List Byte) (r : CmdRef) (attempt : Nat) : List FarPacket :=
  (rsList p).flatMap (fun e =>
    match farBody m c (addrObj e.src) with
    | some f => (pieceReads e).flatMap (fun x => (farPieces (addrOff x.1) x.2).map (fun y => farPacket s f r attempt y.1 y.2 []))
    | none => [])

end Sys2Proof.Machine
end

