-- ==== Sys2Proof/Machine/Tile.lean ====
section
/-! DEFINITION. Sys2Proof/Machine/Tile.lean: TILE (R67 to R94): its planes, checks, arithmetic, output stage and steering, and
the steering sets it reads (R259, R261). -/

namespace Sys2Proof.Machine

open Sys2Proof

/-! ### Fields (R119) -/

def tlM (d : List Byte) : Nat := fld d 96 4
def tlN (d : List Byte) : Nat := fld d 100 4
def tlK (d : List Byte) : Nat := fld d 104 4
def tlRow0 (d : List Byte) : Nat := fld d 112 4
def tlCol0 (d : List Byte) : Nat := fld d 116 4
def tlTotal (d : List Byte) : Nat := fld d 120 4
def tlLayer (d : List Byte) : Nat := fld d 124 2
def tlFmtA (d : List Byte) : Nat := fld d 128 1
def tlFmtB (d : List Byte) : Nat := fld d 129 1
def tlFmtC (d : List Byte) : Nat := fld d 130 1
def tlSparse (d : List Byte) : Nat := fld d 131 1
def tlFunc (d : List Byte) : Nat := fld d 132 1
def tlRound (d : List Byte) : Nat := fld d 133 1
def tlPurpose (d : List Byte) : Nat := fld d 134 1
def tlFlag (d : List Byte) (b : Nat) : Bool := bits (fld d 135 1) b 1 == 1
def tlStep (d : List Byte) : Nat := fld d 136 4
def tlStream (d : List Byte) : Nat := fld d 140 5

/-- R68: twice the K positions a cell consumes in a cycle; none for a pair not in the table. -/
def tileRate2 (fa fb sp : Nat) : Option Nat :=
  if fa = 1 ∧ fb = 1 then (if sp = 0 then some 1 else none)
  else if 2 ≤ fa ∧ fa ≤ 8 ∧ 2 ≤ fb ∧ fb ≤ 8 then
    some ((if fa = 8 ∧ fb = 8 then 4 else 2) * (if sp = 0 then 1 else 2))
  else none

/-- R79: the group length. -/
def tileGroup (fa fb : Nat) : Nat := if fa = 1 ∧ fb = 1 then 8 else 32

/-- The format code of BIAS, and of GATE and RESID. -/
def tlBiasFmt (d : List Byte) : Nat := if tlFlag d 5 then codeBF16 else codeF32
def tlGateFmt (d : List Byte) : Nat := if tlFlag d 6 then codeBF16 else codeF32

/-- R91, R120: the planes of B: values, metadata, scales when sparse. -/
def sparsePlanes (a code sp nk : Nat) : List (Nat × Nat) :=
  let v := elemPlaneBytes code (nk / (if sp = 1 then 2 else 4))
  let md := nextPlane a v
  let mdLen := ceilDiv nk (if sp = 1 then 8 else 16)
  (a, v) :: (md, mdLen) :: (if isMX code then [(nextPlane md mdLen, nk / 32)] else [])

/-- Planes of B. -/
def tlPlanesB (d : List Byte) : List (Nat × Nat) :=
  if tlSparse d = 0 then tensorPlanes (fld d 40 8) (tlFmtB d) (tlN d * tlK d)
  else sparsePlanes (fld d 40 8) (tlFmtB d) (tlSparse d) (tlN d * tlK d)

/-- The planes a TILE reads and writes. -/
def tileAccesses (d : List Byte) : List Access :=
  let mn := tlM d * tlN d
  let opt := fun b det code n => if tlFlag d b then planeAccesses false det (tensorPlanes (fld d det 8) code n) else []
  planeAccesses false 32 (tensorPlanes (fld d 32 8) (tlFmtA d) (tlM d * tlK d))
    ++ planeAccesses false 40 (tlPlanesB d)
    ++ opt 0 56 codeF32 mn ++ opt 1 64 (tlBiasFmt d) (tlN d) ++ opt 2 72 (tlGateFmt d) mn ++ opt 3 80 (tlGateFmt d) mn
    ++ opt 4 88 codeF32 (tlM d)
    ++ planeAccesses true 48 (tensorPlanes (fld d 48 8) (tlFmtC d) mn)

/-- R74: engine cycles without zero-block skipping; `r2` is twice the rate. -/
def tileCycles (m n k r2 : Nat) : Nat := 96 + ceilDiv m 64 * ceilDiv n 64 * max (ceilDiv (2 * k) r2) 32

/-- Check 3 of R131 for TILE. -/
def tileFormat (d : List Byte) : List Nat :=
  reservedAt d [(126, 2), (145, 47)]
    ++ badAt (tlFmtA d < 1 || 8 < tlFmtA d) 128
    ++ badAt ((1 ≤ tlFmtA d && tlFmtA d ≤ 8) && (tileRate2 (tlFmtA d) (tlFmtB d) 0).isNone) 129
    ++ badAt (8 < tlFmtC d) 130 ++ badAt (2 < tlSparse d) 131
    ++ badAt (0 < tlSparse d && (tlFmtA d == 1 && tlFmtB d == 1)) 131
    ++ badAt (6 < tlFunc d) 132 ++ badAt (2 < tlRound d) 133
    ++ badAt (tlRound d == 2 && !srPurposeOk (tlPurpose d)) 134 ++ badAt (tlFlag d 7) 135

/-- Check 4 of R131 for TILE. -/
def tileLength (d : List Byte) : List Nat :=
  outside (tlM d) 1 1048576 96 ++ outside (tlN d) 1 1048576 100 ++ outside (tlK d) 1 1048576 104
    ++ badAt (tlTotal d < tlCol0 d + tlN d) 120
    ++ badAt ((isMX (tlFmtA d) || isMX (tlFmtB d)) && tlK d % 32 != 0) 104
    ++ badAt (tlSparse d != 0 && tlK d % 4 != 0) 104
    ++ badAt (isMX (tlFmtC d) && tlN d % 32 != 0) 100
    ++ badAt (tlRound d == 2
        && decide (2 ^ 48 ≤ (tlRow0 d + tlM d - 1) * tlTotal d + tlCol0 d + tlN d - 1)) noField
    ++ badAt (24 < segments (tileAccesses d)) noField
    ++ badAt ((tileRate2 (tlFmtA d) (tlFmtB d) (tlSparse d)).any (fun r => 2400000 < tileCycles (tlM d) (tlN d) (tlK d) r)) noField

/-! ### Operands (R67, R78, R91) -/

/-- Element (m, k) of A. -/
def tileA (j : Job) (m k : Nat) : Ext :=
  readElem j.rd (tlFmtA j.d) (fld j.d 32 8) (tlM j.d * tlK j.d) (m * tlK j.d + k)

/-- R91: kept value `i` of a sparse B. -/
def keptB (j : Job) (i : Nat) : Ext :=
  decodeFloat (elemFmt (tlFmtB j.d)) (readField j.rd (fld j.d 40 8) i (elemBits (tlFmtB j.d)))

/-- R91: the metadata field of group `g`. -/
def metaB (j : Job) (g : Nat) : Nat :=
  let a := nextPlane (fld j.d 40 8) (elemPlaneBytes (tlFmtB j.d) (tlN j.d * tlK j.d / (if tlSparse j.d = 1 then 2 else 4)))
  readField j.rd a g (if tlSparse j.d = 1 then 4 else 2)

/-- R91, R93: element (n, k) of a sparse B expanded: +0 where not kept. -/
def sparseB (j : Job) (n k : Nat) : Ext :=
  let i := n * tlK j.d + k
  let g := i / 4
  let x := metaB j g
  let v := if tlSparse j.d = 1 then
      (if i % 4 = x % 4 then keptB j (2 * g) else if i % 4 = x / 4 then keptB j (2 * g + 1) else .fin false 0 0)
    else if i % 4 = x then keptB j g else .fin false 0 0
  if isMX (tlFmtB j.d) then
    match (tlPlanesB j.d)[2]? with
    | some p => v.mul (scaleValue (j.rd (p.1 + i / 32)).toNat)
    | none => v
  else v

/-- Element (n, k) of B. -/
def tileB (j : Job) (n k : Nat) : Ext :=
  if tlSparse j.d = 0 then readElem j.rd (tlFmtB j.d) (fld j.d 40 8) (tlN j.d * tlK j.d) (n * tlK j.d + k) else sparseB j n k

/-- R92: some 2:4 nibble has i0 ≥ i1. -/
def badNibble (j : Job) : Bool :=
  tlSparse j.d == 1 && (List.range (tlN j.d * tlK j.d / 4)).any (fun g => metaB j g / 4 ≤ metaB j g % 4)

/-! ### Accumulation (R79 to R81) -/

/-- The (first, length) of each group of K. -/
def kGroups (k g : Nat) : List (Nat × Nat) := (List.range (ceilDiv k g)).map (fun i => (i * g, min g (k - i * g)))

/-- R79: the accumulator of (m, n) after every group. -/
def tileAcc (j : Job) (m n : Nat) : Word :=
  let c0 := if tlFlag j.d 0 then loadElem j.rd codeF32 (fld j.d 56 8) (tlM j.d * tlN j.d) (m * tlN j.d + n) else 0#32
  (kGroups (tlK j.d) (tileGroup (tlFmtA j.d) (tlFmtB j.d))).foldl (fun acc g =>
    accGroup acc ((List.range g.2).map (fun i => (tileA j m (g.1 + i)).mul (tileB j n (g.1 + i)))) (.fin false 1 0)) c0

/-! ### Steering (R90, R259, R261) -/

/-- Bytes of a set's image, at an offset. -/
def setByte (m : Store) (x : SteerSet) (o : Nat) : Byte := memGet m.mem (cellKey x.sid (x.off + o))

/-- LAYERS, WIDTH and NBLOCKS of an image. -/
def setLayers (m : Store) (x : SteerSet) : Nat := readLE (setByte m x) 0 2
def setWidth (m : Store) (x : SteerSet) : Nat := readLE (setByte m x) 2 2
def setBlocks (m : Store) (x : SteerSet) : Nat := readLE (setByte m x) 4 4

/-- The block of a layer, if the set has one. -/
def setBlockOf (m : Store) (x : SteerSet) (layer : Nat) : Option Nat :=
  if setLayers m x ≤ layer then none else
  let b := readLE (setByte m x) (64 + 4 * layer) 4
  if b = 0xFFFFFFFF then none else some b

/-- R261: a set is visible when it is installed and its EG is the context's. -/
def setVisible (m : Store) (eg n : Nat) : Option SteerSet := (tblFind m.sets n).filter (fun x => x.eg == eg)

/-- R90: the tag of a row. -/
def rowTag (j : Job) (m : Nat) : Nat := j.le (fld j.d 88 8 + 4 * m) 4

/-- R90: what steering does to a row: nothing, or the set and its block. -/
def rowSteer (j : Job) (m : Nat) : Option (SteerSet × Nat) :=
  if !tlFlag j.d 4 || bits (rowTag j m) 16 1 == 0 then none else
  (setVisible j.m j.eg (bits (rowTag j m) 0 16)).bind (fun x => (setBlockOf j.m x (tlLayer j.d)).map (fun b => (x, b)))

/-- R261: the status with which a row's tag ends the TILE, if any. -/
def rowDenied (j : Job) (m : Nat) : Chk :=
  if !tlFlag j.d 4 || bits (rowTag j m) 16 1 == 0 then none else
  match setVisible j.m j.eg (bits (rowTag j m) 0 16) with
  | none => some (.steerDenied, noField)
  | some x =>
    if (setBlockOf j.m x (tlLayer j.d)).isSome && decide (setWidth j.m x < tlCol0 j.d + tlN j.d) then some (.length, noField) else none

/-- R90: step 6 on one value; `n` is the global column. -/
def steerStep (m : Store) (x : SteerSet) (b n : Nat) (y : Word) : Word :=
  let v := fun o => rneF32 (decodeFloat fmtE4M3 (setByte m x (65536 + 16384 * b + o + n)).toNat)
  fFma y (v 0) (v 8192)

/-! ### The output stage (R88) -/

/-- Steps 1 to 6 on the accumulator of (m, n). -/
def tileStage (j : Job) (st : Option (SteerSet × Nat)) (m n : Nat) (acc : Word) : Word :=
  let mn := tlM j.d * tlN j.d
  let i := m * tlN j.d + n
  let y := fMul acc (fldW j.d 108)
  let y := if tlFlag j.d 1 then fAdd y (loadElem j.rd (tlBiasFmt j.d) (fld j.d 64 8) (tlN j.d) n) else y
  let y := funcF32 (tlFunc j.d) y
  let y := if tlFlag j.d 2 then fMul y (loadElem j.rd (tlGateFmt j.d) (fld j.d 72 8) mn i) else y
  let y := if tlFlag j.d 3 then fAdd y (loadElem j.rd (tlGateFmt j.d) (fld j.d 80 8) mn i) else y
  match st with
  | some (x, b) => steerStep j.m x b (tlCol0 j.d + n) y
  | none => y

/-- R85: the rounding mode of output element `i`. -/
def tileRounding (j : Job) (i : Nat) : RoundMode :=
  roundModeAt (tlRound j.d) j.seed (tlPurpose j.d) (tlStream j.d) (tlStep j.d)
    ((tlRow0 j.d + i / tlN j.d) * tlTotal j.d + tlCol0 j.d + i % tlN j.d)

/-- The FP32 values of the output, row-major. -/
def tileValues (j : Job) : List Word :=
  (List.range (tlM j.d)).flatMap (fun m =>
    let st := rowSteer j m
    (List.range (tlN j.d)).map (fun n => tileStage j st m n (tileAcc j m n)))

/-! ### Zero-block skipping (R94, R105) -/

/-- A value is finite; is a zero. -/
def Ext.finite : Ext → Bool
  | .fin _ _ _ => true
  | _ => false
def Ext.isZero : Ext → Bool
  | .fin _ m _ => m == 0
  | _ => false

/-- R94: B is marked finite for the columns from `n0` on (64, or what exists) over the 32 K positions around `k`. -/
def markedFinite (j : Job) (n0 k : Nat) : Bool :=
  (List.range (min 64 (tlN j.d - n0))).all (fun n => (List.range (min 32 (tlK j.d - k / 32 * 32))).all (fun i =>
    (tileB j (n0 + n) (k / 32 * 32 + i)).finite))

/-- R94: the row groups of a TILE that are skipped. -/
def skippedGroups (j : Job) : Nat :=
  let gs := kGroups (tlK j.d) (tileGroup (tlFmtA j.d) (tlFmtB j.d))
  ((List.range (ceilDiv (tlN j.d) 64)).map (fun b => (gs.map (fun g =>
    if markedFinite j (64 * b) g.1 then
      ((List.range (tlM j.d)).filter (fun m => (List.range g.2).all (fun i => (tileA j m (g.1 + i)).isZero))).length
    else 0)).sum)).sum

/-- The Store units of the set image that steering reads, for R141. -/
def steerUnits (j : Job) : List Nat :=
  (List.range (tlM j.d)).flatMap (fun m =>
    match rowSteer j m with
    | some (x, b) =>
      poisonedIn j.m (cellKey x.sid x.off) 8 ++ poisonedIn j.m (cellKey x.sid (x.off + 64 + 4 * tlLayer j.d)) 4
        ++ poisonedIn j.m (cellKey x.sid (x.off + 65536 + 16384 * b + tlCol0 j.d)) (tlN j.d)
        ++ poisonedIn j.m (cellKey x.sid (x.off + 65536 + 16384 * b + 8192 + tlCol0 j.d)) (tlN j.d)
    | none => [])

/-- TILE: an attempt on die `die`; `skip` is the die's bit of ARR_SKIP_CTRL (R104). -/
def tileRun (j : Job) (die : Nat) (skip : Bool) : Outcome_ :=
  if badNibble j then endOut .format noField else
  match firstFail ((List.range (tlM j.d)).map (rowDenied j)) with
  | some x => failOut x
  | none =>
    let vals := tileValues j
    okOut (storedNonFinite (tlFmtC j.d) (tileRounding j) vals)
      (stageTensor j (tlFmtC j.d) (fld j.d 48 8) (tileRounding j) vals
        ++ (if skip && decide (0 < skippedGroups j) then [.counter (kBar0 (0x9100 + 8 * die)) (skippedGroups j)] else []))

end Sys2Proof.Machine
end

