-- ==== Sys2Proof/Machine/Sample.lean ====
section
/-! DEFINITION. Sys2Proof/Machine/Sample.lean: the Sieve's SAMPLE in both modes (R274 to R296) and the checks of SEQ (R229, R230,
R275). -/

namespace Sys2Proof.Machine

open Sys2Proof

/-! ### The SEQ command (R229, R230) -/

def sqSlot (d : List Byte) : Nat := fld d 32 4
def sqOp (d : List Byte) : Nat := fld d 36 1
def sqCount (d : List Byte) : Nat := fld d 40 4
def sqParam (d : List Byte) : Nat := fld d 48 8

def seqFormat (d : List Byte) : List Nat :=
  reservedAt d [(37, 3), (44, 4), (56, 8)] ++ badAt (4 < sqOp d) 36
    ++ badAt ((sqOp d == 0 || sqOp d == 1 || sqOp d == 3) && sqCount d != 0) 40
    ++ badAt ((sqOp d == 1 || sqOp d == 3) && sqParam d != 0) 48
def seqLength (d : List Byte) : List Nat :=
  badAt (131071 < sqSlot d) 32 ++ (if sqOp d = 2 then outside (sqCount d) 1 16384 40 else if sqOp d = 4 then outside (sqCount d) 1 32768 40 else [])

/-- R229: bytes of PARAM. -/
def seqParamLen (d : List Byte) : Nat :=
  match sqOp d with
  | 0 => 128
  | 2 => 4 * sqCount d
  | 4 => 16 + 4 * sqCount d
  | _ => 0

/-- R230, R274, R275: the open block: (offset, status) of every field at fault. -/
def openFaults (p : List Byte) : List (Nat × Status) :=
  let fm := fun (l : List Nat) => l.map (fun o => (o, Status.format))
  let temp := fld p 32 4
  let topP := fld p 40 4
  let minP := fld p 44 4
  let hd := fld p 6 2
  let kvh := fld p 8 1
  fm ((List.range 128).filter (fun o => (12 ≤ o && o < 32 || 58 ≤ o && o < 64 || 72 ≤ o && o < 96 || 101 ≤ o && o < 104
        || 108 ≤ o) && fld p o 1 != 0)
    ++ badAt (fld p 4 2 < 1 || 512 < fld p 4 2) 4 ++ notIn hd [64, 128] 6 ++ badAt (kvh < 1 || 16 < kvh) 8 ++ badAt (3 < fld p 9 1) 9
    ++ badAt (temp % 2 ^ 31 != 0 && (temp < 0x00800000 || 0x7F7FFFFF < temp)) 32
    ++ badAt (4096 < fld p 36 4) 36 ++ badAt (topP < 1 || 0x3F800000 < topP) 40
    ++ badAt (0x3F800000 ≤ minP && minP != 0x80000000) 44
    ++ badAt (fld p 56 1 == 0 && fld p 48 8 != 0) 48 ++ badAt (1 < fld p 57 1) 57 ++ badAt (fld p 57 1 % 2 == 0 && fld p 64 8 != 0) 64)
    ++ (if kvh ≤ 16 ∧ 1024 < kvh * hd then [(8, .length)] else []) ++ (if 64 < fld p 56 1 then [(56, .length)] else [])

/-- R229: check 7 part 1 of a SEQ. -/
def seqContents (d p : List Byte) : Chk :=
  match sqOp d with
  | 0 => (firstBy (fun a b : Nat × Status => decide (a.1 < b.1)) (openFaults p)).map (fun x => (x.2, inParam x.1))
  | 2 => ((List.range (sqCount d)).find? (fun i => decide (1048576 ≤ fld p (4 * i) 4))).map (fun i => (.format, inParam (4 * i)))
  | 4 => firstFail [leastFail .format ((reservedAt p [(8, 8)]).map inParam),
           ((List.range (sqCount d)).find? (fun i => decide (1048576 ≤ fld p (16 + 4 * i) 4))).map (fun i => (.format, inParam (16 + 4 * i)))]
  | _ => none

/-- The accesses of a SEQ. -/
def seqAccesses (d p : List Byte) : List Access :=
  (if seqParamLen d = 0 then [] else [rd (sqParam d) (seqParamLen d) 48]) ++ (if sqOp d = 4 then [wr (fld p 0 8) 16 (inParam 0)] else [])

/-- R226: SEQ open and SEQ close. -/
def slotOpenCheck (s : State) (c slot : Nat) : Chk :=
  if seqTableSize s ≤ slot then some (.length, 32)
  else if (s.seq slot).st == .free || ((s.seq slot).st == .cancelled && (s.seq slot).owner == c) then none else some (.slotState, 32)
def slotCloseCheck (s : State) (c slot : Nat) : Chk :=
  if seqTableSize s ≤ slot then some (.length, 32)
  else if (s.seq slot).st == .free || (s.seq slot).owner != c then some (.slotState, 32) else none

/-- R229, R226: check 7 part 3 of a SEQ. -/
def seqSlotCheck (s : State) (c : Nat) (d p : List Byte) : Chk :=
  let x := s.seq (sqSlot d)
  match sqOp d with
  | 0 =>
    firstFail [slotOpenCheck s c (sqSlot d),
      failIf (bits (fld p 9 1) 1 1 == 1 && (setVisible s.com (effGroup s c) (fld p 10 2)).isNone) .steerDenied (inParam 10)]
  | 1 => slotCloseCheck s c (sqSlot d)
  | 2 => firstFail [slotCheck s c (sqSlot d) 32, failIf (x.tentative < x.committed + sqCount d) .length 40]
  | 3 => slotCheck s c (sqSlot d) 32
  | _ =>
    firstFail [slotCheck s c (sqSlot d) 32,
      failIf (x.committed != x.tentative || !prefixValid s x || x.committed != 64 * prefixDepth s x) .slotState 32]

/-- The token ids of an accept, or of a prefix match. -/
def seqTokens (d p : List Byte) : List Nat :=
  (List.range (sqCount d)).map (fun i => fld p ((if sqOp d = 4 then 16 else 0) + 4 * i) 4)

/-- SEQ: an attempt: its effects take place at commit. -/
def seqRun (j : Job) : Outcome_ :=
  let slot := sqSlot j.d
  okOut false (match sqOp j.d with
    | 0 => [.seqOpen slot j.p]
    | 1 => [.seqClose slot]
    | 2 => [.seqAccept slot (seqTokens j.d j.p), .useSlot slot]
    | 3 => [.seqRollBack slot, .useSlot slot]
    | _ => [.seqMatch slot (seqTokens j.d j.p) ((cellOf j.m j.c (fld j.p 0 8)).getD 0), .useSlot slot])

/-! ### SAMPLE: fields (R119, R275, R277) -/

def saLogits (d : List Byte) : Nat := fld d 32 8
def saOut (d : List Byte) : Nat := fld d 40 8
def saSeqs (d : List Byte) : Nat := fld d 48 8
def saCount (d : List Byte) : Nat := fld d 56 4
def saVocab (d : List Byte) : Nat := fld d 60 4
def saFmt (d : List Byte) : Nat := fld d 64 1
def saTop (d : List Byte) : Nat := fld d 65 1
def saVerify (d : List Byte) : Bool := fld d 66 1 == 1
def saDrafts (d : List Byte) : Nat := fld d 72 8

/-- R282: engine cycles for `r` rows. -/
def sampleCycles (d : List Byte) (r : Nat) : Nat :=
  64 + r * max (ceilDiv (saVocab d * (if saFmt d = 0 then 4 else 2)) 64) (3 * ceilDiv (saVocab d) 64 + 16 * saTop d)

def sampleFormat (d : List Byte) : List Nat :=
  reservedAt d [(67, 5), (80, 48)] ++ badAt (1 < saFmt d) 64 ++ badAt (1 < fld d 66 1) 66
    ++ badAt (fld d 66 1 == 0 && saDrafts d != 0) 72
def sampleLength (d : List Byte) : List Nat :=
  outside (saCount d) 1 4096 56 ++ outside (saVocab d) 1 1048576 60 ++ badAt (20 < saTop d) 65
    ++ badAt (fld d 66 1 == 0 && decide (2800000 < sampleCycles d (saCount d))) noField

/-- R281: bytes of an entry. -/
def saEntry (d : List Byte) : Nat := 16 + 8 * saTop d

/-- Entry `i` of SEQS. -/
def saSlot (m : Store) (c : Nat) (d : List Byte) (i : Nat) : Nat := readLE (devByte m c) (saSeqs d + 4 * i) 4
def saSlots (m : Store) (c : Nat) (d : List Byte) : List Nat := (List.range (saCount d)).map (saSlot m c d)

/-- R285: the draft block: header fields, entries. -/
def dbField (m : Store) (c : Nat) (d : List Byte) (o n : Nat) : Nat := readLE (devByte m c) (saDrafts d + o) n
def dbMatch (m : Store) (c : Nat) (d : List Byte) : Bool := dbField m c d 0 1 == 1
def dbApply (m : Store) (c : Nat) (d : List Byte) : Bool := bits (dbField m c d 1 1) 0 1 == 1
def dbTree (m : Store) (c : Nat) (d : List Byte) : Bool := bits (dbField m c d 1 1) 1 1 == 1
def dbNodes (m : Store) (c : Nat) (d : List Byte) : Nat := dbField m c d 2 1
def dbFmt (m : Store) (c : Nat) (d : List Byte) : Nat := dbField m c d 3 1
def dbLogits (m : Store) (c : Nat) (d : List Byte) : Nat := dbField m c d 8 8
def dbTreeAddr (m : Store) (c : Nat) (d : List Byte) : Nat := dbField m c d 16 8
def dbEntry (m : Store) (c : Nat) (d : List Byte) (i o : Nat) : Nat := dbField m c d (64 + i * (8 + 4 * dbNodes m c d) + o) 4
def dbDraft (m : Store) (c : Nat) (d : List Byte) (i : Nat) : Nat := dbEntry m c d i 0
def dbRoot (m : Store) (c : Nat) (d : List Byte) (i : Nat) : Nat := dbEntry m c d i 4
/-- The proposal of tree row `r`, from 1 on. -/
def dbToken (m : Store) (c : Nat) (d : List Byte) (i r : Nat) : Nat := dbEntry m c d i (8 + 4 * (r - 1))

/-- R286: rows of a sequence: one for mode 0. -/
def saRows (m : Store) (c : Nat) (d : List Byte) : Nat := if saVerify d then dbNodes m c d + 1 else 1

/-- The tree of a draft block; a chain in linear form. -/
def chainTree (n : Nat) : List Byte :=
  bytesLE n 1 ++ List.replicate 63 0 ++ (List.range n).flatMap (fun i => bytesLE i 1) ++ List.replicate (64 - n) 0
def dbTreeBytes (m : Store) (c : Nat) (d : List Byte) : List Byte :=
  if dbTree m c d then devBytes m c (dbTreeAddr m c d) 128 else chainTree (dbNodes m c d)

/-- Children of a row, ascending. -/
def childrenOf (t : List Byte) (r : Nat) : List Nat :=
  ((List.range (treeNodes t)).map (· + 1)).filter (fun i => treeParent t i == r)

/-! ### Parameters of a slot (R274 to R276) -/

/-- R275, R276: SAMPLING fields of a slot. -/
def spTemp (x : SeqSlot) : Word := fldW x.sampling 0
def spTopK (x : SeqSlot) : Nat := fld x.sampling 4 4
def spTopP (x : SeqSlot) : Word := fldW x.sampling 8
def spMinP (x : SeqSlot) : Word := fldW x.sampling 12
def spBias (x : SeqSlot) : Nat := fld x.sampling 16 8
def spNBias (x : SeqSlot) : Nat := fld x.sampling 24 1
def spMaskEn (x : SeqSlot) : Bool := bits (fld x.sampling 25 1) 0 1 == 1
def spMask (x : SeqSlot) : Nat := fld x.sampling 32 8
def rnStream (x : SeqSlot) : Nat := fld x.random 0 5
def rnStep (x : SeqSlot) : Nat := fld x.random 8 4

/-- R276: bytes of a bitmap. -/
def bitmapBytes (vocab : Nat) : Nat := ceilDiv vocab 512 * 64

/-- R276: the bias list and bitmaps of a slot, for `rows` rows, in the tables of its owner. -/
def auxAccesses (m : Store) (d : List Byte) (rows slot : Nat) : List Access :=
  let x := tblGet SeqSlot.reset m.slots slot
  (if spNBias x = 0 then [] else [{ rd (spBias x) (8 * spNBias x) noField with of_ := some x.owner }])
    ++ (if spMaskEn x then [{ rd (spMask x) (rows * bitmapBytes (saVocab d)) noField with of_ := some x.owner }] else [])

/-- R276: the conditions of a slot's list and bitmaps. -/
def auxCheck (m : Store) (d : List Byte) (rows slot : Nat) : Chk :=
  let x := tblGet SeqSlot.reset m.slots slot
  let l := auxAccesses m d rows slot
  firstFail
    [objectsPresent m x.owner l, rangesWithin m x.owner l,
     ((List.range (spNBias x)).findSome? (fun i =>
        let tok := readLE (devByte m x.owner) (spBias x + 8 * i) 4
        let b := BitVec.ofNat 32 (readLE (devByte m x.owner) (spBias x + 8 * i + 4) 4)
        firstFail [failIf (saVocab d ≤ tok) .length noField, failIf (isNaN b || b == 0x7F800000#32) .format noField]))]

/-- The slots whose parameters a SAMPLE uses: the targets and, under rejection, the drafts. -/
def saParamSlots (m : Store) (c : Nat) (d : List Byte) : List Nat :=
  saSlots m c d ++ (if saVerify d && !dbMatch m c d then (List.range (saCount d)).map (dbDraft m c d) else [])

/-- R276: after check 8. -/
def sampleAuxCheck (m : Store) (c : Nat) (d : List Byte) : Chk :=
  (saParamSlots m c d).findSome? (auxCheck m d (saRows m c d))

/-- The accesses of a SAMPLE. -/
def sampleRanges (m : Store) (c : Nat) (d : List Byte) : List Access :=
  let rows := saCount d * saRows m c d
  [rd (saLogits d) (elemPlaneBytes (saFmt d) (rows * saVocab d)) 32, rd (saSeqs d) (4 * saCount d) 48]
    ++ (if saVerify d then [rd (saDrafts d) (64 + saCount d * (8 + 4 * dbNodes m c d)) 72] else [])
    ++ (if saVerify d && !dbMatch m c d then [rd (dbLogits m c d) (elemPlaneBytes (dbFmt m c d) (rows * saVocab d)) (inParam 8)] else [])
    ++ (if saVerify d && dbTree m c d then [rd (dbTreeAddr m c d) 128 (inParam 16)] else [])
    ++ [wr (saOut d) (rows * saEntry d) 40]
def sampleAccesses (m : Store) (c : Nat) (d : List Byte) : List Access :=
  sampleRanges m c d ++ (saParamSlots m c d).flatMap (auxAccesses m d (saRows m c d))

/-! ### Check 7 of a SAMPLE (R277, R285, R286, R291) -/

/-- A list without repeats. -/
def noRepeats : List Nat → Bool
  | [] => true
  | a :: l => !l.contains a && noRepeats l

/-- R285, R286: the draft block's contents. -/
def draftContents (m : Store) (c : Nat) (d : List Byte) : Chk :=
  let hdr := devBytes m c (saDrafts d) 64
  let t := dbTreeBytes m c d
  let n := dbNodes m c d
  let is := List.range (saCount d)
  let drafts := (is.map (dbDraft m c d)).filter (fun x => x != noSeq)
  firstFail
    [leastFail .format ((reservedAt hdr [(4, 4), (24, 40)] ++ badAt (1 < fld hdr 0 1) 0 ++ badAt (3 < fld hdr 1 1) 1
        ++ badAt ((if dbMatch m c d then 0 else 1) < dbFmt m c d) 3 ++ badAt (dbMatch m c d && dbLogits m c d != 0) 8
        ++ badAt (!dbTree m c d && dbTreeAddr m c d != 0) 16).map inParam),
     failIf (!dbTree m c d && (n < 1 || 16 < n)) .length (inParam 2),
     if dbTree m c d && (objBody m c (addrObj (dbTreeAddr m c d))).isSome then
       firstFail [treeCheck t (inParam 16), failIf (n != treeNodes t) .length (inParam 2)] else none,
     failIf (65536 < saCount d * (n + 1)) .length (inParam 2),
     failIf (2800000 < sampleCycles d ((if dbMatch m c d then 1 else 2) * saCount d * (n + 1))) .length noField,
     failIf (is.any (fun i => decide (saVocab d ≤ dbRoot m c d i)
        || (List.range n).any (fun r => decide (saVocab d ≤ dbToken m c d i (r + 1))))) .format noField,
     failIf (!dbMatch m c d && is.any (fun i => dbDraft m c d i == noSeq)) .format noField,
     failIf (dbTree m c d && !dbApply m c d) .format (inParam 1),
     failIf (!dbMatch m c d && dbTree m c d && (List.range (n + 1)).any (fun r => decide (4 < (childrenOf t r).length))) .format noField,
     failIf (!noRepeats (saSlots m c d ++ drafts)) .format noField]

/-- R277, R286: check 7 part 1. -/
def sampleContents (m : Store) (c : Nat) (d : List Byte) : Chk :=
  firstFail [failIf (!noRepeats (saSlots m c d)) .format 48, if saVerify d then draftContents m c d else none]

/-- R226: a slot that a SAMPLE lists. -/
def listedSlotCheck (s : State) (c slot : Nat) : Chk :=
  if seqTableSize s ≤ slot then some (.length, 48)
  else if (s.seq slot).st == .free || (s.seq slot).owner != c then some (.slotState, 48) else none

/-- R291: blocks of a slot that an accept of `k` tokens fills. -/
def blocksFilled (x : SeqSlot) (k : Nat) : Nat := (x.committed + k) / 64 - x.committed / 64
/-- R229: walker time of an accept of `k` tokens and of a roll back that releases `n` stooks, in ns. -/
def acceptNs (x : SeqSlot) (k : Nat) : Nat := 200 + 2 * k + (if x.insert && !x.detached then 80 * blocksFilled x k else 0)
def rollBackNs (n : Nat) : Nat := 200 + 20 * n

/-- Stooks of a slot wholly at or beyond a length. -/
def stooksBeyond (x : SeqSlot) (n : Nat) : Nat := (x.map.filter (fun b => decide (n ≤ 64 * b.1))).length

/-- R291: the commit work of a verify SAMPLE with APPLY in which every proposal is accepted, in ns. -/
def applyWorkNs (s : State) (c : Nat) (d : List Byte) : Nat :=
  let m := s.com
  let n := dbNodes m c d
  ((List.range (saCount d)).map (fun i =>
    let x := s.seq (saSlot m c d i)
    let y := s.seq (dbDraft m c d i)
    let tgt := acceptNs x (n + 1) + rollBackNs (stooksBeyond x (x.committed + n + 1)) + (if dbTree m c d then 40 * n * x.layers else 0)
    let own := dbDraft m c d i != noSeq && y.owner == c && y.st == .open_
    let k := min (n + 1) (y.tentative - x.committed)
    let dr := if !own then 0 else if dbTree m c d then rollBackNs (stooksBeyond y y.committed)
      else if y.committed = x.committed then acceptNs y k + rollBackNs (stooksBeyond y (y.committed + k)) else 0
    tgt + dr)).sum

/-- R226, R277, R286, R291: check 7 part 3. -/
def sampleSlotCheck (s : State) (c : Nat) (d : List Byte) : Chk :=
  let m := s.com
  firstFail
    [(saSlots m c d).findSome? (listedSlotCheck s c),
     if !saVerify d then failIf ((saSlots m c d).any (fun n => decide (16777216 ≤ (s.seq n).tentative))) .length 48
     else firstFail
       [failIf ((saSlots m c d).any (fun n => (s.seq n).tentative - (s.seq n).committed != dbNodes m c d + 1)) .slotState 48,
        failIf ((List.range (saCount d)).any (fun i =>
          let x := s.seq (dbDraft m c d i)
          dbDraft m c d i != noSeq
            && (decide (seqTableSize s ≤ dbDraft m c d i) || x.st == .free || effGroup s x.owner != effGroup s c))) .slotState noField,
        failIf (dbApply m c d && decide (990000 < applyWorkNs s c d)) .length noField]]

/-! ### A row (R278 to R280) -/

/-- A finite non-negative value as an integer multiple of 2^-200: FP32 terms of R278 are exact in it. -/
def scaled (w : Word) : Nat :=
  match f32 w with
  | .fin _ m e => shiftRightInt m (-(e + 200))
  | _ => 0

/-- The exact sum that an integer stands for, rounded to FP32. -/
def unscale (n : Nat) : Word := rneF32 (.fin false n (-200))

/-- A token of a row's candidate set: id, d and the weight e scaled. -/
structure Cand where
  tok : Nat
  y : Word
  d : Word
  e : Word
  w : Nat
deriving DecidableEq, Repr

/-- R279: rank order: descending y, then ascending token. -/
def candBefore (a b : Cand) : Bool := if fLt b.y a.y then true else if fLt a.y b.y then false else a.tok < b.tok

/-- Insertion into a ranked list. -/
def rankIns (x : Cand) : List Cand → List Cand
  | [] => [x]
  | a :: l => if candBefore x a then x :: a :: l else a :: rankIns x l

/-- R278: the shortest prefix whose sum times 2^200 is at least `goal`. -/
def shortestPrefix (goal : Nat) : Nat → List Cand → List Cand
  | _, [] => []
  | acc, a :: l => if goal ≤ (acc + a.w) * 2 ^ 200 then [a] else a :: shortestPrefix goal (acc + a.w) l

/-- A row examined: its logits, whether one is not finite, its candidate set in rank order, whether greedy. -/
structure Row where
  logits : Array Word
  nonfin : Bool
  keep : List Cand
  greedy : Bool
deriving DecidableEq, Repr

/-- R278: z after the bias list. -/
def biased (m : Store) (x : SeqSlot) (logits : Array Word) : Array Word :=
  (List.range (spNBias x)).foldl (fun z i =>
    let tok := readLE (devByte m x.owner) (spBias x + 8 * i) 4
    let b := BitVec.ofNat 32 (readLE (devByte m x.owner) (spBias x + 8 * i + 4) 4)
    z.setIfInBounds tok (fAdd (z.getD tok 0#32) b)) logits

/-- R276: token `t` is forbidden by bitmap `r`. -/
def masked (m : Store) (x : SeqSlot) (vocab r t : Nat) : Bool :=
  spMaskEn x && bits (devByte m x.owner (spMask x + r * bitmapBytes vocab + t / 8)).toNat (t % 8) 1 == 1

/-- R278: the candidate set of a slot's parameters on a row of logits at `a`; `r` is its bitmap. -/
def examine (j : Job) (slot a code total row r : Nat) : Row :=
  let m := j.m
  let x := tblGet SeqSlot.reset m.slots slot
  let v := saVocab j.d
  let logits : Array Word := Array.mk ((List.range v).map (fun t => loadElem j.rd code a total (row * v + t)))
  let z := biased m x logits
  let greedy := isZeroF32 (spTemp x)
  let ys := ((List.range v).filter (fun t => !nonFinite (z.getD t 0#32) && !masked m x v r t)).map (fun t =>
    (t, if greedy then z.getD t 0#32 else fMul (z.getD t 0#32) (fRcp (spTemp x))))
  let mx := (ys.map (·.2)).tail.foldl fMax ((ys.map (·.2)).headD 0#32)
  let cs := ys.map (fun y =>
    let d := if fEq y.2 mx then 0#32 else fSub y.2 mx
    let e := fExp2 (fMul d kL)
    ({ tok := y.1, y := y.2, d := d, e := e, w := scaled e } : Cand))
  let rank := cs.foldl (fun l c => rankIns c l) []
  let k1 := if greedy then rank.take 1 else if spTopK x = 0 then rank else rank.take (spTopK x)
  let k2 := if fLt (spTopP x) f32One then shortestPrefix (scaled (spTopP x) * (k1.map (·.w)).sum) 0 k1 else k1
  let k3 := k2.filter (fun c => !fLt c.e (spMinP x))
  { logits := logits, nonfin := logits.toList.any nonFinite, keep := k3, greedy := greedy }

/-- The total weight of a candidate set. -/
def Row.total (x : Row) : Nat := (x.keep.map (·.w)).sum

/-- R278: the draw from weights in rank order: the first token whose running sum × 2^32 exceeds w × total. -/
def drawFrom (w total : Nat) : Nat → List (Nat × Nat) → Option Nat
  | _, [] => none
  | acc, (t, k) :: l => if w * total < (acc + k) * 2 ^ 32 then some t else drawFrom w total (acc + k) l

/-- Tokens and weights of a candidate set, in rank order. -/
def Row.weights (x : Row) : List (Nat × Nat) := x.keep.map (fun c => (c.tok, c.w))

/-- R280: LP_SAMP of a token. -/
def lpSamp (x : Row) (t : Nat) : Word :=
  if x.greedy then 0#32 else
  match x.keep.find? (fun c => c.tok == t) with
  | some c => fSub c.d (fMul (fLog2 (unscale x.total)) kLn2)
  | none => 0#32

/-- R280: m0 and s0 of a row. -/
def rawStats (x : Row) : Word × Word :=
  let fs := x.logits.toList.filter (fun w => !nonFinite w)
  let m0 := fs.tail.foldl fMax (fs.headD 0#32)
  (m0, unscale ((fs.map (fun w => scaled (fExp2 (fMul (fSub w m0) kL)))).sum))

/-- R280: LP_RAW of a token. -/
def lpRaw (x : Row) (st : Word × Word) (t : Nat) : Word :=
  let w := x.logits.getD t 0#32
  if nonFinite w then 0xFF800000#32 else fSub (fSub w st.1) (fMul (fLog2 st.2) kLn2)

/-- R280: the top pairs. -/
def topPairs (x : Row) (st : Word × Word) (n : Nat) : List Byte :=
  let fs := x.logits.toList.zipIdx.filter (fun w => !nonFinite w.1)
  let tops := topBy (fun a b : Word × Nat => if fLt b.1 a.1 then true else if fLt a.1 b.1 then false else decide (a.2 < b.2)) n fs
  tops.flatMap (fun w => bytesLE w.2 4 ++ bytesLE (lpRaw x st w.2).toNat 4)
    ++ (List.replicate (n - tops.length) (bytesLE 0xFFFFFFFF 4 ++ bytesLE 0xFF800000 4)).flatten

/-- R281: an entry; `tok` none for an empty row. -/
def entryBytes (j : Job) (x : Row) (tok : Option Nat) (flags accept nodeRow : Nat) : List Byte :=
  let st := rawStats x
  let fl := flags + (if tok.isNone then 1 else 0) + (if x.nonfin then 2 else 0)
  bytesLE (tok.getD 0xFFFFFFFF) 4 ++ bytesLE (match tok with | some t => (lpSamp x t).toNat | none => 0) 4
    ++ bytesLE (match tok with | some t => (lpRaw x st t).toNat | none => 0) 4 ++ bytesLE fl 1 ++ bytesLE accept 1
    ++ bytesLE nodeRow 1 ++ bytesLE 0 1 ++ topPairs x st (saTop j.d)

/-- Counters of R298. -/
def sieveCounters (rows : List Row) : List Eff :=
  let c := fun k n => if n = 0 then [] else [Eff.counter (kBar0 k) n]
  c 0xE000 rows.length ++ c 0xE008 (rows.filter (fun r => r.keep.isEmpty)).length ++ c 0xE010 (rows.filter (·.nonfin)).length

/-- SAMPLE in mode 0: an attempt. -/
def sampleRun (j : Job) : Outcome_ :=
  let n := saCount j.d
  let slots := saSlots j.m j.c j.d
  let rows := slots.zipIdx.map (fun x => examine j x.1 (saLogits j.d) (saFmt j.d) (n * saVocab j.d) x.2 0)
  let effs := (slots.zip rows).zipIdx.flatMap (fun x =>
    let sl := tblGet SeqSlot.reset j.m.slots x.1.1
    let tok := drawFrom (drawWord j.seed 1 (rnStream sl) (rnStep sl) sl.tentative 0) x.1.2.total 0 x.1.2.weights
    match cellOf j.m j.c (saOut j.d + x.2 * saEntry j.d) with
    | some k => [Eff.slotWrite x.1.1 k (entryBytes j x.1.2 tok 0 0 0), .useSlot x.1.1]
    | none => [])
  okOut (rows.any (·.nonfin)) (effs ++ sieveCounters rows)

/-! ### Verification (R287 to R290) -/

/-- The weight of a token. -/
def weightOf (l : List (Nat × Nat)) (t : Nat) : Nat := ((l.find? (fun x => x.1 == t)).map (·.2)).getD 0

/-- R287 step 4: max(0, ρ − q) over ρ's tokens, as weights; ρ itself becomes `p` when every term is zero. -/
def residual (p rho q : List (Nat × Nat)) : List (Nat × Nat) :=
  let sr := (rho.map (·.2)).sum
  let sq := (q.map (·.2)).sum
  let r := rho.map (fun x => (x.1, x.2 * (if sq = 0 then 1 else sq) - weightOf q x.1 * sr))
  if (r.map (·.2)).sum = 0 then p else r

/-- What the walk has found: accepted (row of the parent, row accepted), the row it stopped at, the token drawn with its flag,
proposals tested. -/
structure Walk where
  acc : List (Nat × Nat)
  stop : Nat
  tok : Option Nat
  flag : Nat
  tested : Nat
deriving DecidableEq, Repr

/-- R287 steps 2 to 4: the children of a row tried in order: the accepted child, or the final ρ, and how many were tried. -/
def tryChildren (word : Nat → Nat) (tokOf : Nat → Nat) (p q : List (Nat × Nat)) :
    List Nat → Nat → List (Nat × Nat) → (Option Nat × List (Nat × Nat) × Nat)
  | [], k, rho => (none, rho, k)
  | c :: l, k, rho =>
    let sr := (rho.map (·.2)).sum
    let sq := (q.map (·.2)).sum
    let qc := weightOf q (tokOf c)
    if 0 < qc ∧ word k * qc * sr < 2 ^ 32 * weightOf rho (tokOf c) * sq then (some c, rho, k + 1)
    else tryChildren word tokOf p q l (k + 1) (residual p rho q)

/-- R287, R288: the walk from a row. -/
def verifyWalk (j : Job) (t : List Byte) (i n : Nat) (x : SeqSlot) (mtch : Bool) (ps qs : List Row) : Nat → Nat → Walk → Walk
  | 0, r, w => { w with stop := r }
  | fuel + 1, r, w =>
    let p := ps.getD r { logits := #[], nonfin := false, keep := [], greedy := false }
    let pos := n + 1 + rowDepth t r
    let word := fun pu k => drawWord j.seed pu (rnStream x) (rnStep x) pos k
    let cs := childrenOf t r
    let tokOf := dbToken j.m j.c j.d i
    if p.keep.isEmpty then { w with stop := r, tok := none, flag := 0 } else
    if mtch then
      let d := (drawFrom (word 1 0) p.total 0 p.weights).getD 0
      match cs.findIdx? (fun c => tokOf c == d) with
      | some k =>
        verifyWalk j t i n x mtch ps qs fuel (cs.getD k 0) { w with acc := w.acc ++ [(r, cs.getD k 0)], tested := w.tested + k + 1 }
      | none => { w with stop := r, tok := some d, flag := if cs.isEmpty then 16 else 8, tested := w.tested + cs.length }
    else
      let q := (qs.getD r { logits := #[], nonfin := false, keep := [], greedy := false }).weights
      match tryChildren (word 5) tokOf p.weights q cs 0 p.weights with
      | (some c, _, k) => verifyWalk j t i n x mtch ps qs fuel c { w with acc := w.acc ++ [(r, c)], tested := w.tested + k }
      | (none, rho, k) =>
        { w with stop := r, tok := drawFrom (word 1 0) (rho.map (·.2)).sum 0 rho, flag := if cs.isEmpty then 16 else 8,
                 tested := w.tested + k }

/-- R290: the entries of a sequence. -/
def verifyEntries (j : Job) (i : Nat) (ps : List Row) (w : Walk) : List Byte :=
  let row := fun r => ps.getD r { logits := #[], nonfin := false, keep := [], greedy := false }
  let a := w.acc.length
  let es := (w.acc.map (fun e => (e.1, some (dbToken j.m j.c j.d i e.2), 4, e.2)) ++ [(w.stop, w.tok, w.flag, w.stop)])
  let used := es.zipIdx.flatMap (fun e => entryBytes j (row e.1.1) e.1.2.1 e.1.2.2.1 (if e.2 = 0 then a else 0) e.1.2.2.2)
  let unused := bytesLE 0xFFFFFFFF 4 ++ List.replicate (saEntry j.d - 4) 0
  used ++ (List.replicate (dbNodes j.m j.c j.d - a) unused).flatten

/-- SAMPLE in mode 1: an attempt. -/
def verifyRun (j : Job) : Outcome_ :=
  let m := j.m
  let nr := dbNodes m j.c j.d + 1
  let t := dbTreeBytes m j.c j.d
  let mtch := dbMatch m j.c j.d
  let total := saCount j.d * nr * saVocab j.d
  let seqs := (List.range (saCount j.d)).map (fun i =>
    let slot := saSlot m j.c j.d i
    let ps := (List.range nr).map (fun r => examine j slot (saLogits j.d) (saFmt j.d) total (i * nr + r) r)
    let qs := if mtch then [] else
      (List.range nr).map (fun r => examine j (dbDraft m j.c j.d i) (dbLogits m j.c j.d) (dbFmt m j.c j.d) total (i * nr + r) r)
    (i, slot, ps, qs))
  let walks := seqs.map (fun (i, slot, ps, qs) =>
    let x := tblGet SeqSlot.reset m.slots slot
    verifyWalk j t i x.committed x mtch ps qs (nr + 1) 0 { acc := [], stop := 0, tok := none, flag := 0, tested := 0 })
  let effs := (seqs.zip walks).flatMap (fun ((i, slot, ps, _), w) =>
    let x := tblGet SeqSlot.reset m.slots slot
    match cellOf m j.c (saOut j.d + i * nr * saEntry j.d) with
    | some k => [Eff.verify { slot := slot, draft := dbDraft m j.c j.d i, n := x.committed, t := x.tentative, apply_ := dbApply m j.c j.d,
                              tree := dbTree m j.c j.d, out := k, entries := verifyEntries j i ps w,
                              toks := dbRoot m j.c j.d i :: w.acc.map (fun e => dbToken m j.c j.d i e.2), rows := w.acc.map (·.2) }]
    | none => [])
  let rows := seqs.flatMap (fun (_, _, ps, qs) => ps ++ qs)
  let c := fun k n => if n = 0 then [] else [Eff.counter (kBar0 k) n]
  okOut (rows.any (·.nonfin))
    (effs ++ sieveCounters rows ++ c 0xE018 (walks.map (·.tested)).sum ++ c 0xE020 (walks.map (fun w => w.acc.length)).sum)

/-! ### The commit of a verification (R291, R292) -/

/-- R291 step 1: one position's keys and values copied in every layer. -/
def copyPosition (s : State) (slot from_ to_ : Nat) : State :=
  let x := s.seq slot
  (List.range x.layers).foldl (fun s l =>
    match kvCell s.com x l from_, kvCell s.com x l to_ with
    | some a, some b =>
      let n := x.kvHeads * x.headDim
      { s with com := { s.com with kv := memWrite (memWrite s.com.kv b.1 (memRead s.com.kv a.1 n)) b.2 (memRead s.com.kv a.2 n) } }
    | _, _ => s) s

/-- R291 step 4: the draft slot. -/
def applyDraft (s : State) (c : Nat) (x : VerifyFx) : State :=
  let y := s.seq x.draft
  if x.draft = noSeq ∨ y.owner ≠ c ∨ y.st ≠ .open_ then s
  else if x.tree then seqRollBackFx s x.draft
  else if y.committed ≠ x.n then s
  else seqRollBackFx (seqAcceptFx s c x.draft (x.toks.take (y.tentative - x.n))) x.draft

/-- The storage cells of entry 0's EFLAGS. -/
def staleCell (x : VerifyFx) : Nat := x.out + 12

/-- R291, R292, R295: the commit of one sequence's verification. -/
def verifyFx (s : State) (c : Nat) (x : VerifyFx) : State :=
  let y := s.seq x.slot
  if y.st ≠ .open_ ∨ y.owner ≠ c then s else
  let s := { s with com := putBytes s.com x.out x.entries }
  let s := s.setSeq x.slot { y with lastUse := s.time }
  if !x.apply_ then s else
  if y.committed ≠ x.n ∨ y.tentative ≠ x.t then
    { s with com := putBytes s.com (staleCell x) [memGet s.com.mem (staleCell x) ||| 0x20#8] }.bump (kBar0 0xE028) 1
  else
    let s := if x.tree then
        (x.rows.zipIdx).foldl (fun s r => if r.1 = r.2 + 1 then s else copyPosition s x.slot (x.n + r.1) (x.n + r.2 + 1)) s
      else s
    let s := seqRollBackFx (seqAcceptFx s c x.slot x.toks) x.slot
    applyDraft s c x

end Sys2Proof.Machine
end

