-- ==== Sys2Proof/Machine/Staging.lean ====
section
/-! DEFINITION. Sys2Proof/Machine/Staging.lean: what a commit does to object memory (R136, R213, R216, R219), the commit digest (R407 to
R409), and the consumption of poison (R141, R217, R218, R220). -/

namespace Sys2Proof.Machine

open Sys2Proof

/-! ### Object writes of a commit -/

/-- The granules (keys) that `len` bytes at a storage cell touch. -/
def writeGrans (cell len : Nat) : List Nat :=
  if len = 0 then [] else (List.range ((cell + len - 1) / 2 ^ 21 - cell / 2 ^ 21 + 1)).map (fun i => cell / 2 ^ 21 + i)

/-- The 64-byte units (cell ÷ 64) that `len` bytes at a storage cell touch. -/
def writeUnits (cell len : Nat) : List Nat :=
  if len = 0 then [] else (List.range ((cell + len - 1) / 64 - cell / 64 + 1)).map (fun i => cell / 64 + i)

/-- Granules and units of several writes, each once. -/
def allGrans (ws : List (Nat × List Byte)) : List Nat := (ws.flatMap (fun w => writeGrans w.1 w.2.length)).eraseDups
def allUnits (ws : List (Nat × List Byte)) : List Nat := (ws.flatMap (fun w => writeUnits w.1 w.2.length)).eraseDups

/-- R215: a granule in Silo is packed anew after a commit to it. -/
def repackGran (s : State) (k : Nat) : State :=
  match tblFind s.grans k, tblFind s.com.bodies (k / 2 ^ 19) with
  | some g, some b =>
    if g.tier == .silo && !b.reserved then
      s.setGran k { g with sectors := packedSectors (granCells s.com (k / 2 ^ 19) (k % 2 ^ 19)) }
    else s
  | _, _ => s

/-- The 64-byte units that some writes replace wholly. -/
def wholeUnits (ws : List (Nat × List Byte)) : List Nat :=
  ws.flatMap (fun w => (writeUnits w.1 w.2.length).filter (fun u => decide (w.1 ≤ 64 * u) && decide (64 * u + 64 ≤ w.1 + w.2.length)))

/-- R219: a granule's replica written. Its units take the committed bytes; a unit wholly written is clean, another keeps the mark
it had in the replica before, or has the granule's mark in a first replica (log entry 30). -/
def copyToReplica (s : State) (k : Nat) (whole : List Nat) : State :=
  let lo := k * 2 ^ 21
  let inG := fun u => decide (lo ≤ 64 * u) && decide (64 * u < lo + 2 ^ 21)
  let had := (tblFind s.grans k).any (fun g => g.replica.isSome)
  { s with replMem := memCopy s.replMem s.com.mem lo (2 ^ 21),
           replPoison := if had then s.replPoison.filter (fun u => !(inG u && whole.contains u))
                         else s.replPoison.filter (fun u => !inG u) ++ s.com.poison.filter inG }

/-- R219: the new replica of a granule after a commit to it; none when it cannot be allocated. R208: under reservation at admission
no command ends with QUOTA: a replica is rewritten in its place. -/
def renewReplica (whole : List Nat) (k : Nat) (s : State) : Option State :=
  match tblFind s.grans k, tblFind s.com.bodies (k / 2 ^ 19) with
  | some g, some b =>
    if !b.replica then some s else
    if b.reserved && g.replica.isSome then some (copyToReplica s k whole) else
    let n := packedSectors (granCells s.com (k / 2 ^ 19) (k % 2 ^ 19))
    match (if quotaAllows s b.ctx .silo n then replicaPlace s n (if g.tier == .silo then some (g.heap / 2 ^ 40) else none) else none) with
    | some r => some ((copyToReplica s k whole).setGran k { g with replica := some r })
    | none => if b.reserved then some s else none
  | _, _ => some s

/-- R219: the replicas of several granules. -/
def renewReplicas (whole : List Nat) : List Nat → State → Option State
  | [], s => some s
  | k :: l, s => (renewReplica whole k s).bind (renewReplicas whole l)

/-- R407: the contribution of a unit to the digest: SipHash-2-4 under the zero key of its device address and its bytes. -/
def unitDigest (s : State) (u : Nat) : DWord :=
  let num := ((tblFind s.com.bodies (u / 2 ^ 34)).map (·.num)).getD 0
  sipHash 0 (bytesLE (num * 2 ^ 40 + u % 2 ^ 34 * 64) 8 ++ memRead s.com.mem (64 * u) 64)

/-- R407, R408: a commit of units into objects of a context. -/
def digestUnits (s : State) (c : Nat) (us : List Nat) : State :=
  if s.regField (kWin c 0x7000) 0 1 = 1 then
    let mine := us.filter (fun u => (tblFind s.com.bodies (u / 2 ^ 34)).any (fun b => b.ctx == c))
    let x := s.ctx c
    s.setCtx c { x with digest := mine.foldl (fun d u => d + unitDigest s u) x.digest,
                        units := x.units + BitVec.ofNat 64 mine.length }
  else s

/-- R136, R213: object bytes committed: migrations of the granules abandoned, the bytes written, packed granules packed anew. -/
def putObjects (s : State) (ws : List (Nat × List Byte)) : State :=
  let s := (allGrans ws).foldl abandonMigration s
  let s := { s with com := ws.foldl (fun m w => putBytes m w.1 w.2) s.com }
  (allGrans ws).foldl repackGran s

/-- The migrations of the granules that some writes touch. -/
def migrationsOf (s : State) (ws : List (Nat × List Byte)) : List (Nat × Migration) :=
  (allGrans ws).filterMap (fun k => (tblFind s.grans k).bind (fun g => g.mig.map (fun m => (k, m))))

/-- R213: requested migrations that a commit abandoned start again. -/
def restartMigrations (s : State) (ms : List (Nat × Migration)) : State := ms.foldl (fun s e => restartMigration s e.1 e.2) s

/-- A commit's object writes, with their replicas; none when a replica cannot be allocated (QUOTA). -/
def commitObjects (s : State) (ws : List (Nat × List Byte)) : Option State :=
  let ms := migrationsOf s ws
  (renewReplicas (wholeUnits ws) (allGrans ws) (putObjects s ws)).map (fun s => restartMigrations s ms)

/-! ### Poison (R141, R217, R218, R220) -/

/-- What becomes of consumed poison. -/
inductive PsnEnd where
  | transient
  | repair
  | lost
deriving DecidableEq, Repr

/-- The device address of a unit, for the log. -/
def unitAddr (s : State) (u : Nat) : Nat :=
  ((tblFind s.com.bodies (u / 2 ^ 34)).map (·.num)).getD 0 * 2 ^ 40 + u % 2 ^ 34 * 64

/-- R218 step 3, R212: a granule goes to Repairing; its location is logged. -/
def startRepair (s : State) (k u : Nat) : State :=
  let s := abandonMigration s k
  match tblFind s.grans k with
  | some g => logEntry (s.setGran k { g with repairing := true }) 1 (if g.tier == .silo then 3 else 2) 0 noCtx (unitAddr s u)
  | none => s

/-- The granule has a replica. -/
def hasReplica (s : State) (k : Nat) : Bool := (tblFind s.grans k).any (fun g => g.replica.isSome)

/-- The replica can repair the unit: there is one, and its unit is not poisoned (R218, R220). -/
def repairable (s : State) (u : Nat) : Bool := hasReplica s (u / 2 ^ 15) && !s.replPoison.contains u

/-- R217, R218, R220: units whose poison is consumed; `clean` says that the rereads are clean. -/
def consumePoison (s : State) (us : List Nat) (clean : Bool) : State × PsnEnd :=
  if clean then
    ({ (s.bump kPsnTrans us.length) with com := { s.com with poison := s.com.poison.filter (fun u => !us.contains u) } }, .transient)
  else if us.all (repairable s) then
    (us.foldl (fun s u => startRepair s (u / 2 ^ 15) u) s, .repair)
  else (s, .lost)

end Sys2Proof.Machine
end

