-- ==== Sys2Proof/Machine/Far.lean ====
section
/-! DEFINITION. Sys2Proof/Machine/Far.lean: far objects and their packets (R355 to R360, R373, R376) and the rows EXPORT, UNEXPORT, BIND,
BIND_QUERY, BIND_ANSWER, WRITE_PACKET, READ_REQ_PACKET, READ_DATA_PACKET, COMMIT_PACKET, ABORT_PACKET, DONE_PACKET,
FAR_STAGE_EXPIRE. -/

namespace Sys2Proof.Machine

open Sys2Proof

/-! ### The far-object registers (R376) -/

def farSel (s : State) (c : Nat) : Nat := s.regField (kWin c 0x6000) 0 24
def farNode (s : State) (c : Nat) : Nat := s.regField (kWin c 0x6004) 0 12
def farExp (s : State) (c : Nat) : Nat := s.regField (kWin c 0x6008) 0 16
def farCfg (s : State) (c b : Nat) : Bool := s.regField (kWin c 0x600C) b 1 == 1

/-- FAR_STATUS.LAST_ERR. -/
def farErr (s : State) (c : Nat) (st : Status) : State := s.setCtx c { s.ctx c with farErr := st }

/-- R376: an operation, unless one runs. -/
def farOp (s : State) (c : Nat) (go : State → State) : State := if (s.ctx c).farOp.isSome then farErr s c .notReady else go s

/-- The context is Active or Frozen. -/
def ctxLives (s : State) (c : Nat) : Bool := (s.ctx c).st == .active || (s.ctx c).st == .frozen

/-! ### Exports (R355, R429) -/

/-- R355: the checks of EXPORT in order; R429: a sealed object only with FAR_OK and SECURE. -/
def exportCheck (s : State) (c : Nat) : Option Status :=
  if !ctxLives s c then some .notReady else
  match objBody s.com c (farSel s c) with
  | none => some .noObject
  | some (_, b, al) =>
    if (tblFind s.fab.exports (farExp s c)).isSome then some .notReady
    else if ctxShareGroup s c = 0 then some .format
    else if (!farCfg s c 0 && !farCfg s c 1) || (farCfg s c 1 && (al || !b.writable)) then some .format
    else if b.isSealed && (!b.farOk || !farCfg s c 2) then some .sealedObj
    else none

/-- EXPORT (R355). -/
def farExport (s : State) (c : Nat) : State :=
  farOp s c (fun s =>
    match exportCheck s c with
    | some st => farErr s c st
    | none =>
      let e := farExp s c
      let g := (tblGet 0 s.fab.expGens e + 1) % 65536
      let x : Export := { ctx := c, obj := farSel s c, gen := g, read := farCfg s c 0, write := farCfg s c 1, secure := farCfg s c 2,
                          ctrEn := farCfg s c 3, ctr := s.regField (kWin c 0x600C) 8 8 }
      farErr (s.setFab { s.fab with exports := tblIns s.fab.exports e x, expGens := tblSet 0 s.fab.expGens e g }) c .ok)

/-- Exports that meet `p` are removed. -/
def dropExports (s : State) (p : Export → Bool) : State :=
  s.setFab { s.fab with exports := s.fab.exports.filter (fun e => !p e.2) }

/-- UNEXPORT (R355, R376). -/
def farUnexport (s : State) (c : Nat) : State :=
  farOp s c (fun s =>
    match tblFind s.fab.exports (farExp s c) with
    | some x =>
      if x.ctx = c then farErr (s.setFab { s.fab with exports := tblDel s.fab.exports (farExp s c) }) c .ok else farErr s c .notReady
    | none => farErr s c .notReady)

/-! ### BIND (R356) -/

/-- BIND: the question goes out; the operation runs until it is answered. -/
def farBind (s : State) (c : Nat) : State :=
  farOp s c (fun s =>
    if objExists s.com c (farSel s c) || selfNode s == some (farNode s c) then farErr s c .format else
    let k := { FarPacket.blank with dest := farNode s c, expo := farExp s c, group := ctxShareGroup s c }
    match issueReq s .bind k none c with
    | none => farErr (s.bump kUnreach 1) c .unreachable
    | some t => t.setCtx c { t.ctx c with farOp := some { op := 3, a := farSel s c, b := s.fab.nextXid } })

/-- Access bits of an export and its object. -/
def accessBits (e : Export) (b : Body) : Nat :=
  bit e.read 0 + bit e.write 1 + bit e.secure 2 + bit b.isSealed 3 + bit b.farOk 4

/-- R356: the answer to a question. -/
def bindReply (s : State) (k : FarPacket) : FarPacket :=
  let a := { FarPacket.blank with dest := k.src, src := k.dest, xid := k.xid, expo := k.expo, status := .noObject }
  match (tblFind s.fab.exports k.expo).bind (fun e => (objBody s.com e.ctx e.obj).map (fun b => (e, b.2.1))) with
  | some (e, b) =>
    if ctxShareGroup s e.ctx = k.group then { a with gen := e.gen, bytes := b.size, access := accessBits e b, status := .ok } else a
  | none => a

/-- A packet that is not for this module travels on (R352). -/
def ifMine (s : State) (k : FarPacket) (t : Nat) (go : State) : State :=
  if selfNode s == some k.dest then (if t = ptWrite ∨ t = ptReadReq ∨ t = ptCommit then wakeSource go 3 else go)
  else sendOrDrop s t k none

/-- BIND_QUERY: the exporter answers. -/
def bindQuery (s : State) (k : FarPacket) : State :=
  ifMine s k ptLink
    (match routePort s k.src k.secure k.xid with
     | some _ => s.setFab { s.fab with asks := bindReply s k :: s.fab.asks }
     | none => s.bump kUnreach 1)

/-- A request and its answer are done with. -/
def dropReq (s : State) (xid : Nat) : State := s.setFab { s.fab with reqs := tblDel s.fab.reqs xid }

/-- A bind ends. -/
def bindEnds (s : State) (c : Nat) (st : Status) : State := s.setCtx c { s.ctx c with farOp := none, farErr := st }

/-- BIND_ANSWER: the far object enters the table, or the bind ends. -/
def bindAnswer (s : State) (k : FarPacket) : State :=
  match tblFind s.fab.reqs k.xid with
  | some r =>
    match r.kind, (s.ctx r.ctx).farOp with
    | .bind, some o =>
      if o.b ≠ k.xid then dropReq s k.xid else
      let s := dropReq s k.xid
      if k.status == .ok then
        let f : FarObj := { node := r.pkt.dest, expo := r.pkt.expo, gen := k.gen, size := k.bytes, read := bits k.access 0 1 == 1,
                            write := bits k.access 1 1 == 1, secure := bits k.access 2 1 == 1, isSealed := bits k.access 3 1 == 1,
                            farOk := bits k.access 4 1 == 1 }
        bindEnds (s.setCom { s.com with far := tblIns s.com.far (objKey r.ctx o.a) f }) r.ctx .ok
      else bindEnds s r.ctx .noObject
    | _, _ => s
  | none => s

/-! ### At the exporter (R357, R359, R373) -/

/-- The export a packet names, with its object: present, of the packet's generation, over secure packets where it asks for them. -/
def exportOf (s : State) (k : FarPacket) : Option (Export × Nat × Body) :=
  match tblFind s.fab.exports k.expo with
  | some e =>
    if e.gen = k.gen ∧ (e.secure = false ∨ k.secure = true) then (objBody s.com e.ctx e.obj).map (fun x => (e, x.1, x.2.1)) else none
  | none => none

/-- An answer to the sender of a packet. -/
def answer (s : State) (t : Nat) (k : FarPacket) (st : Status) (data : List Byte) (marks : List Nat) : State :=
  sendOrDrop s t { FarPacket.blank with dest := k.src, src := k.dest, secure := k.secure, xid := k.xid, expo := k.expo, gen := k.gen,
                                        attempt := k.attempt, off := k.off, epoch := k.epoch, bytes := data.length, status := st,
                                        data := data, poison := marks } none

/-- R359: a WRITE staged: a higher attempt discards the bytes of lower ones; bytes of a lower attempt are dropped. -/
def stageFar (s : State) (k : FarPacket) : State :=
  let part := (k.off, k.data, k.poison)
  let st : FarStage :=
    match tblFind s.fab.stages k.epoch with
    | some x =>
      if x.attempt < k.attempt then { attempt := k.attempt, expo := k.expo, parts := [part], last := s.time }
      else if k.attempt < x.attempt then x
      else { x with parts := x.parts ++ [part], last := s.time }
    | none => { attempt := k.attempt, expo := k.expo, parts := [part], last := s.time }
  s.setFab { s.fab with stages := tblIns s.fab.stages k.epoch st }

/-- WRITE_PACKET (R357): staged, with the exported object's granules allocated at arrival, and answered. -/
def writePacket (s : State) (k : FarPacket) : State :=
  ifMine s k ptWrite
    (match exportOf s k with
     | none => answer s ptDone k .noObject [] []
     | some (e, sid, b) =>
       if !e.write || decide (b.size * 2 ^ 21 < k.off + k.data.length) then answer s ptDone k .noObject [] []
       else if s.fab.farDone.contains k.epoch then answer s ptDone k .ok [] []
       else match allocGrans s sid b (unallocated s sid (granRange k.off k.data.length)) with
         | .done s => answer (stageFar s k) ptDone k .ok [] []
         | .overQuota => answer s ptDone k .quota [] []
         | .noSpace _ => answer (s.bump kTierFull 1) ptDone k .quota [] [])

/-- R360: the units that marked data flits of staged bytes overlap. -/
def markedUnits (sid : Nat) (p : Nat × List Byte × List Nat) : List Nat :=
  p.2.2.flatMap (fun i => writeUnits (cellKey sid (p.1 + 64 * i)) (min 64 (p.2.1.length - 64 * i)))

/-- R136, R357, R359: the staged bytes committed, with their marks; then the export's counter. -/
def commitFar (s : State) (e : Export) (sid : Nat) (st : FarStage) : State :=
  let ws := st.parts.map (fun p => (cellKey sid p.1, p.2.1))
  let s := (commitObjects s ws).getD (restartMigrations (putObjects s ws) (migrationsOf s ws))
  let s := s.setCom { s.com with poison := (st.parts.flatMap (markedUnits sid)).foldl setIns s.com.poison }
  let s := digestUnits s e.ctx (allUnits ws)
  if e.ctrEn then evcInc s e.ctx e.ctr 1 else s

/-- The staged bytes of an epoch discarded. -/
def dropStage (s : State) (epoch : Nat) : State := s.setFab { s.fab with stages := tblDel s.fab.stages epoch }

/-- COMMIT_PACKET (R359): each epoch once. -/
def commitPacket (s : State) (k : FarPacket) : State :=
  ifMine s k ptCommit
    (if s.fab.farDone.contains k.epoch then answer s ptDone k .ok [] [] else
     match tblFind s.fab.stages k.epoch with
     | none => answer s ptDone k .ok [] []
     | some st =>
       match exportOf s k with
       | none => answer (dropStage s k.epoch) ptDone k .noObject [] []
       | some (e, sid, _) =>
         let s := commitFar (dropStage s k.epoch) e sid st
         answer (s.setFab { s.fab with farDone := setIns s.fab.farDone k.epoch }) ptDone k .ok [] [])

/-- ABORT_PACKET (R359): the bytes staged by the killed attempt are discarded. -/
def abortPacket (s : State) (k : FarPacket) : State :=
  ifMine s k ptAbort (if (tblFind s.fab.stages k.epoch).any (fun st => st.attempt ≤ k.attempt) then dropStage s k.epoch else s)

/-- FAR_STAGE_EXPIRE (R359). -/
def farStageExpire (s : State) (epoch : Nat) : State := dropStage s epoch

/-- The marked units of a storage range, and the data flits of a payload that overlap them. -/
def flitMarks (m : Store) (cell len : Nat) : List Nat :=
  (List.range (ceilDiv len 64)).filter (fun i => !(poisonedIn m (cell + 64 * i) (min 64 (len - 64 * i))).isEmpty)

/-- READ_REQ_PACKET (R357, R360): answered from the committed content; poison found is reread, repaired or lost here. -/
def readReqPacket (s : State) (k : FarPacket) (clean : Bool) : State :=
  ifMine s k ptReadReq
    (match exportOf s k with
     | none => answer s ptReadData k .noObject [] []
     | some (e, sid, b) =>
       if !e.read || decide (b.size * 2 ^ 21 < k.off + k.bytes) then answer s ptReadData k .noObject [] [] else
       let cell := cellKey sid k.off
       let us := poisonedIn s.com cell k.bytes
       let (s, r) := if us.isEmpty then (s, PsnEnd.transient) else consumePoison s us clean
       answer s ptReadData k (if r == .lost then .dataLost else .ok) (memRead s.com.mem cell k.bytes) (flitMarks s.com cell k.bytes))

/-! ### At the issuer (R357, R358, R360) -/

/-- R161, R162, R167: an attempt ends with an outcome: its instance is free, and it is charged (log entry 97). -/
def endAttempt (s : State) (r : CmdRef) (o : Outcome_) : State :=
  match s.cmd r.ctx r.ring r.serial with
  | some x =>
    if x.phase == .running then
      (accountAttempt s r.ctx x true).setCmd r.ctx r.ring { x with phase := .computed, out := some o, att := x.att.map (fun a => { a with t1 := s.time }) }
    else s
  | none => s

/-- R141, R217, R220: a command has consumed poison: killed; rerun at once, after the repair, or never. -/
def poisonEnds (s : State) (r : CmdRef) (e : PsnEnd) : State :=
  match s.cmd r.ctx r.ring r.serial with
  | some x =>
    if x.dispatched then
      let s := killCmd s r.ctx r.ring x .poison
      match s.cmd r.ctx r.ring r.serial with
      | some y =>
        match e with
        | .transient => s
        | .repair => s.setCmd r.ctx r.ring { y with phase := .repair }
        | .lost => finishCmd s r.ctx r.ring y .dataLost false noField
      | none => s
    else s
  | none => s

/-- R357: a far access failed: the command ends with the status. -/
def farFails (s : State) (r : CmdRef) (st : Status) : State := endAttempt (dropReqs s r) r (endOut st noField)

/-- An answer noted. -/
def noteAnswer (s : State) (xid : Nat) (r : FarReq) (data : List Byte) (marks : List Nat) : State :=
  s.setFab { s.fab with reqs := tblIns s.fab.reqs xid { r with answered := true, got := data, marks := marks } }

/-- READ_DATA_PACKET. -/
def readDataPacket (s : State) (k : FarPacket) : State :=
  ifMine s k ptReadData
    (match tblFind s.fab.reqs k.xid with
     | some r =>
       match r.kind, r.cmd with
       | .read, some c =>
         if r.answered then s
         else if k.status == .dataLost then poisonEnds s c .lost
         else if k.status != .ok then farFails s c k.status
         else if !k.poison.isEmpty then poisonEnds s c .transient
         else noteAnswer s k.xid r k.data []
       | _, _ => s
     | none => s)

/-- DONE_PACKET. -/
def donePacket (s : State) (k : FarPacket) : State :=
  ifMine s k ptDone
    (match tblFind s.fab.reqs k.xid with
     | some r =>
       match r.kind, r.cmd with
       | .write, some c => if r.answered then s else if k.status == .ok then noteAnswer s k.xid r [] [] else farFails s c k.status
       | .commit, _ => dropReq s k.xid
       | _, _ => s
     | none => s)

/-! ### Timers (R358) -/

/-- R358: a request sent again. -/
def resendReq (s : State) (xid : Nat) (r : FarReq) : State :=
  let s := s.bump kE2eResend 1
  let s := s.setFab { s.fab with reqs := tblIns s.fab.reqs xid { r with resent := true, deadSince := none } }
  if r.kind == .bind then s.setFab { s.fab with asks := r.pkt :: s.fab.asks }
  else sendOrDrop s r.kind.ptype { r.pkt with xid := xid } (some xid)

/-- R358: a COMMIT's timer: repeated until its paths have all been dead for 10 ms. -/
def commitTimeout (s : State) (xid : Nat) (r : FarReq) : State :=
  if (routePort s r.pkt.dest r.pkt.secure xid).isSome then resendReq s xid r else
  match r.deadSince with
  | some t => if 10000000 ≤ (s.time - t).toNat then dropReq s xid else s
  | none => s.setFab { s.fab with reqs := tblIns s.fab.reqs xid { r with deadSince := some s.time } }

/-- E2E_TIMEOUT of a request of this module. -/
def reqTimeout (s : State) (xid : Nat) (r : FarReq) : State :=
  if r.answered then s
  else if r.kind == .commit then commitTimeout s xid r
  else if !r.resent then resendReq s xid r
  else if r.kind == .bind then bindEnds (dropReq s xid) r.ctx .unreachable
  else match r.cmd with
    | some c => farFails s c .unreachable
    | none => dropReq s xid

def execFarExport (fn : Nat) (s : State) : Out := hub s (viaWindow s fn 0x6010 (fun c => farExport s c))
def execFarUnexport (fn : Nat) (s : State) : Out := hub s (viaWindow s fn 0x6010 (fun c => farUnexport s c))
def execFarBind (fn : Nat) (s : State) : Out := hub s (viaWindow s fn 0x6010 (fun c => farBind s c))
def execBindQuery (pkt : FarPacket) (s : State) : Out := hub s (bindQuery s pkt)
def execBindAnswer (pkt : FarPacket) (s : State) : Out := hub s (bindAnswer s pkt)
def execWritePacket (pkt : FarPacket) (s : State) : Out := hub s (writePacket s pkt)
def execReadReqPacket (pkt : FarPacket) (rereadsClean : Bool) (s : State) : Out := hub s (readReqPacket s pkt rereadsClean)
def execReadDataPacket (pkt : FarPacket) (s : State) : Out := hub s (readDataPacket s pkt)
def execCommitPacket (pkt : FarPacket) (s : State) : Out := hub s (commitPacket s pkt)
def execAbortPacket (pkt : FarPacket) (s : State) : Out := hub s (abortPacket s pkt)
def execDonePacket (pkt : FarPacket) (s : State) : Out := hub s (donePacket s pkt)
def execFarStageExpire (epoch : Nat) (s : State) : Out := hub s (farStageExpire s epoch)

end Sys2Proof.Machine
end

