-- ==== Sys2Proof/Machine/Tally.lean ====
section
/-! DEFINITION. Sys2Proof/Machine/Tally.lean: collectives (R361 to R371, R545): the terms, partials, records and results of an instance,
what REDUCE contributes, and the rows TALLY_UP, TALLY_DOWN, COLL_TIMEOUT, E2E_TIMEOUT. -/

namespace Sys2Proof.Machine

open Sys2Proof

/-! ### The descriptor of REDUCE (R122) -/

def rdSrc (d : List Byte) : Nat := fld d 32 8
def rdDst (d : List Byte) : Nat := fld d 40 8
def rdElems (d : List Byte) : Nat := fld d 48 8
def rdTree (d : List Byte) : Nat := fld d 56 2
def rdRop (d : List Byte) : Nat := fld d 58 1
def rdFmt (d : List Byte) : Nat := fld d 59 1
def rdExact (d : List Byte) : Nat := fld d 60 1
def rdSeq (d : List Byte) : Nat := fld d 64 8

/-- R368: the DST that takes no result. -/
def noDst : Nat := 2 ^ 64 - 1

def reduceFormat (d : List Byte) : List Nat :=
  badAt (1023 < rdTree d) 56 ++ badAt (2 < rdRop d) 58 ++ badAt (1 < rdFmt d) 59 ++ badAt (2 < rdExact d) 60
    ++ reservedAt d [(61, 3), (72, 56)]
def reduceLength (d : List Byte) : List Nat := outside (rdElems d) 1 (2 ^ 32) 48
def reduceAccesses (d : List Byte) : List Access :=
  planeAccesses false 32 (tensorPlanes (rdSrc d) (rdFmt d) (rdElems d))
    ++ (if rdDst d = noDst then [] else planeAccesses true 40 (tensorPlanes (rdDst d) (rdFmt d) (rdElems d)))

/-- R371: the bytes per element at the rate of 195 GB/s, in ns. -/
def reduceNs (exact : Bool) (n : Nat) : Nat := ceilDiv (n * (if exact then 14 else 4)) 195

/-! ### Trees (R361) -/

def treeOf (s : State) (t : Nat) : Option TreeEnt := (secList s Sections.trees).find? (fun e => e.tree == t)
def TreeEnt.root (e : TreeEnt) : Bool := e.parent == 0xFF
def TreeEnt.kids (e : TreeEnt) : List Nat := (List.range 36).filter (fun p => bits e.children p 1 == 1)

/-- The home Tally. -/
def TreeEnt.home (e : TreeEnt) : Nat := if e.root then e.kids.headD 0 else e.parent

/-- R361: a REDUCE's tree and TARGET against the configuration in force. -/
def reduceTreeCheck (s : State) (d : List Byte) : Chk :=
  match treeOf s (rdTree d) with
  | some e => failIf (dTarget d != e.home) .format 12
  | none => some (.format, 56)

/-! ### Instances (R545) -/

/-- A command's epoch is live: it has no final status. -/
def cmdOpen (s : State) (r : CmdRef) : Bool := (s.cmd r.ctx r.ring r.serial).any Cmd.open_

def Coll.isOf (k : Coll) (t q g : Nat) : Bool := k.tree == t && k.seq == q && k.group == g
def Coll.has (k : Coll) (r : CmdRef) : Bool := k.terms.any (fun x => x.ref == r)
def Coll.same (a b : Coll) : Bool := a.isOf b.tree b.seq b.group && a.inst == b.inst

/-- R369: an ended instance is kept until every local command of it has committed. -/
def Coll.kept (s : State) (k : Coll) : Bool := !k.ended || k.terms.any (fun x => cmdOpen s x.ref)

/-- The collectives that the Tally of a port holds. -/
def heldColls (s : State) (p : Nat) : Nat := (s.fab.colls.filter (fun k => k.kept s && k.port == p)).length

/-- The count of an identity. -/
def collCount (s : State) (t q g : Nat) : Nat :=
  ((s.fab.counts.find? (fun x => x.tree == t && x.seq == q && x.group == g)).map (·.count)).getD 0

def liveColl (s : State) (t q g : Nat) : Option Coll := s.fab.colls.find? (fun k => k.isOf t q g && !k.ended)

/-- An instance stored: ended ones that nothing needs are dropped. -/
def putColl (s : State) (k : Coll) : State :=
  let others := s.fab.colls.filter (fun x => !x.same k && x.kept s)
  s.setFab { s.fab with colls := others ++ [k] }

def newColl (s : State) (t q g p elements rop fmt ex : Nat) : Coll :=
  { tree := t, seq := q, group := g, inst := collCount s t q g, port := p, elements := elements, rop := rop, fmt := fmt, exact_ := ex,
    terms := [], parts := [], sentUp := [], finals := [], results := [], ended := false, failed := none }

/-- R545: an instance of an identity has ended at its home Tally: its count advances; that of an identity that has seen 64 later
collectives returns to 0. -/
def countEnded (s : State) (k : Coll) : State :=
  let mine := fun (x : CollCount) => x.tree == k.tree && x.seq == k.seq && x.group == k.group
  let others := (s.fab.counts.filter (fun x => !mine x)).map (fun x => if x.port == k.port then { x with later := x.later + 1 } else x)
  let c : CollCount := { tree := k.tree, seq := k.seq, group := k.group, port := k.port,
                         count := (collCount s k.tree k.seq k.group + 1) % 256, later := 0 }
  s.setFab { s.fab with counts := others.filter (fun x => x.later < 64) ++ [c] }

/-! ### Segments (R362, R363) -/

def Coll.segs (k : Coll) : Nat := ceilDiv k.elements 256
def Coll.segLen (k : Coll) (j : Nat) : Nat := min 256 (k.elements - 256 * j)
/-- R365: two passes. -/
def Coll.isExact (k : Coll) : Bool := k.rop == 0 && k.exact_ == 1

def Coll.part (k : Coll) (pass j p : Nat) : Option CollPart :=
  k.parts.find? (fun x => x.port == p && x.pass == pass && x.elem0 == 256 * j)

/-- R363: the partial of a segment is complete. -/
def Coll.complete (k : Coll) (e : TreeEnt) (pass j : Nat) : Bool :=
  k.terms.length == e.fanin && e.kids.all (fun p => (k.part pass j p).isSome)

/-- The terms in the subtree. -/
def Coll.termCount (k : Coll) (e : TreeEnt) (pass j : Nat) : Nat :=
  e.fanin + (e.kids.map (fun p => ((k.part pass j p).map (·.terms)).getD 0)).sum

/-- The children's values of an element, in ascending port number. -/
def Coll.fromKids (k : Coll) (e : TreeEnt) (pass j i : Nat) : List Nat :=
  e.kids.filterMap (fun p => (k.part pass j p).map (fun x => x.data.getD i 0))

/-! ### Exact summation (R365) -/

/-- The record of a term. -/
def termRecord (w : Word) : Nat :=
  match f32 w with
  | .nan => 2 ^ 8
  | .inf false => 2 ^ 9
  | .inf true => 2 ^ 10
  | .fin _ _ _ => max 1 (bits w.toNat 23 8)

/-- Records combine by the maximum of E and the OR of the flags. -/
def joinRecord (a b : Nat) : Nat := max (a % 2 ^ 8) (b % 2 ^ 8) + ((a / 2 ^ 8) ||| (b / 2 ^ 8)) % 8 * 2 ^ 8

/-- A flag is set. -/
def flagged (r : Nat) : Bool := r / 2 ^ 8 % 8 != 0
def recordScale (r : Nat) : Int := 204 - (r % 2 ^ 8 : Nat)

/-- The integer of a term under a record, modulo 2^96. -/
def termInt (r : Nat) (w : Word) : Nat :=
  if flagged r then 0 else
  match f32 w with
  | .fin neg m e => let q := roundMag .rne m (e + recordScale r) 0
                    if neg then (2 ^ 96 - q % 2 ^ 96) % 2 ^ 96 else q % 2 ^ 96
  | _ => 0

/-- A 96-bit two's-complement value. -/
def int96 (v : Nat) : Int := (BitVec.ofNat 96 v).toInt

/-- The value at the root. -/
def exactValue (r q : Nat) : Ext :=
  if bits r 8 1 == 1 || (bits r 9 1 == 1 && bits r 10 1 == 1) then .nan
  else if bits r 9 1 == 1 then .inf false
  else if bits r 10 1 == 1 then .inf true
  else if int96 q = 0 then .fin false 0 0
  else ofInt (int96 q) (-(recordScale r))

/-- R365: the result in FMT. -/
def exactResult (fmt r q : Nat) : Nat := encodeFloat (if fmt = 0 then fmtF32 else fmtBF16) .rne (exactValue r q)

/-! ### Other reductions (R368) -/

/-- R127, R368: one step of a fold. -/
def ropStep (rop : Nat) (a b : Word) : Word := if rop = 0 then fAdd a b else if rop = 1 then fMax a b else fMin a b

/-- The fold of a list that is not empty. -/
def ropFold (rop : Nat) : List Word → Word
  | [] => 0#32
  | a :: l => l.foldl (ropStep rop) a

/-- R368: the order of local terms. -/
def refBefore (a b : CmdRef) : Bool := a.ctx < b.ctx || (a.ctx == b.ctx && (a.ring < b.ring || (a.ring == b.ring && a.serial < b.serial)))

/-- Terms in that order. -/
def insTerm (x : CollTerm) : List CollTerm → List CollTerm
  | [] => [x]
  | y :: l => if refBefore x.ref y.ref then x :: y :: l else y :: insTerm x l

/-! ### Partials -/

/-- The value of element `i` of a segment that the module sends up in a pass. -/
def Coll.partial_ (k : Coll) (e : TreeEnt) (pass j i : Nat) : Nat :=
  let mine := k.terms.map (fun x => x.words.getD (256 * j + i) 0#32)
  let kids := k.fromKids e pass j i
  if pass = 1 then (mine.map termRecord ++ kids).foldl joinRecord 0
  else if pass = 2 then
    let r := (tblGet [] k.finals j).getD i 0
    ((mine.map (termInt r)).sum + kids.sum) % 2 ^ 96
  else (ropFold k.rop (mine ++ kids.map (BitVec.ofNat 32))).toNat

def Coll.partials (k : Coll) (e : TreeEnt) (pass j : Nat) : List Nat := (List.range (k.segLen j)).map (k.partial_ e pass j)

/-- R365, R368: the results of a segment at the root, in FMT. -/
def Coll.rootResults (k : Coll) (e : TreeEnt) (j : Nat) : List Nat :=
  if k.isExact then
    (List.range (k.segLen j)).map (fun i => exactResult k.fmt ((tblGet [] k.finals j).getD i 0) (k.partial_ e 2 j i))
  else (k.partials e 3 j).map (fun v => storeCode k.fmt .rne (BitVec.ofNat 32 v))

/-- R366: results as a TALLY_DOWN carries them: FP32 words in a single pass. -/
def downData (k : Coll) (l : List Nat) : List Nat := if k.isExact || k.fmt = 0 then l else l.map (fun v => v * 2 ^ 16)
/-- The results a TALLY_DOWN carried. -/
def downCodes (k : Coll) (l : List Nat) : List Nat := if k.isExact || k.fmt = 0 then l else l.map (fun v => v / 2 ^ 16)

/-! ### Packets (R362) -/

/-- A packet of the collective. -/
def Coll.packet (k : Coll) (pass elem0 terms : Nat) (st : Status) (data : List Nat) : TallyPacket :=
  { dest := 0, src := 0, xid := 0, tree := k.tree, pass := pass, rop := k.rop, fmt := k.fmt, exact_ := k.exact_, group := k.group,
    seq := k.seq, elements := k.elements, elem0 := elem0, terms := terms, status := st, inst := k.inst, data := data }

/-- A packet put on a port, unless the port is not Active; a lost one is recovered by its timer (R369, R370). -/
def sendTally (s : State) (up : Bool) (p : Nat) (k : TallyPacket) : State :=
  if (s.port p).st == .active then queueFlits s p (tallyFlits up k (if up then some k.xid else none)) else s

/-- A new packet to the neighbour on a port: it takes the next XID. -/
def freshTally (s : State) (up : Bool) (p : Nat) (k : TallyPacket) : State × TallyPacket :=
  let k := { k with xid := s.fab.nextXid, src := (selfNode s).getD 0xFFFF, dest := ((s.port p).peerNode).getD 0xFFFF }
  (sendTally (s.setFab { s.fab with nextXid := s.fab.nextXid + 1 }) up p k, k)

/-- A packet to several ports. -/
def sendDown (s : State) (ps : List Nat) (k : TallyPacket) : State := ps.foldl (fun s p => (freshTally s false p k).1) s

/-! ### The end of an instance -/

/-- R87: an element of the result is NaN or an infinity. -/
def codeNonFinite (fmt v : Nat) : Bool := nonFinite (if fmt = 0 then BitVec.ofNat 32 v else BitVec.ofNat 32 (v * 2 ^ 16))

/-- What a member's attempt ends with. -/
def reduceOut (k : Coll) (c : Nat) (d : List Byte) (m : Store) : Outcome_ :=
  match k.failed with
  | some st => endOut st noField
  | none =>
    if rdDst d = noDst then okOut false [] else
    let vs := (List.range k.segs).flatMap (tblGet [] k.results)
    okOut (vs.any (codeNonFinite k.fmt)) (stage m c (rdDst d) (packFields (elemBits k.fmt) vs))

/-- A member whose attempt runs, or that waits for its collective, has its result. -/
def endMember (s : State) (k : Coll) (r : CmdRef) : State :=
  match s.cmd r.ctx r.ring r.serial with
  | some x =>
    match x.att with
    | some a =>
      let o := reduceOut k r.ctx x.desc a.snap
      if x.phase == .peers then s.setCmd r.ctx r.ring { x with phase := .computed, out := some o } else endAttempt s r o
    | none => s
  | none => s

/-- R361, R370: a REDUCE whose term is in and whose collective goes on waits for it; its engine time has ended and its Tally takes
the next command (log entry 96). -/
def awaitPeers (s : State) (r : CmdRef) : State :=
  match s.cmd r.ctx r.ring r.serial with
  | some x =>
    if x.phase == .running then
      (accountAttempt s r.ctx x true).setCmd r.ctx r.ring { x with phase := .peers, att := x.att.map (fun a => { a with t1 := s.time }) }
    else s
  | none => s

/-- R545: the instance has ended here. -/
def closeColl (s : State) (k : Coll) : State :=
  let s := countEnded (putColl s k) k
  k.terms.foldl (fun s x => endMember s k x.ref) s

/-- R364, R370: an instance fails; the failure travels up and down, but not to the port it came from. -/
def failColl (s : State) (k : Coll) (st : Status) (from_ : Option Nat) : State :=
  let k := { k with ended := true, failed := some st }
  let s := s.bump kCollFail 1
  let s := match treeOf s k.tree with
    | some e =>
      let pkt := k.packet (if k.isExact then 2 else 3) 0 0 st []
      let s := if e.root || from_ == some e.parent then s else (freshTally s true e.parent pkt).1
      sendDown s (e.kids.filter (fun p => from_ != some p)) pkt
    | none => s
  closeColl s k

/-- R363, R365, R368: one pass of one segment, where it is complete: sent up, or final at the root. -/
def passStep (e : TreeEnt) (pass j : Nat) (s : State) (k : Coll) : State × Coll :=
  if !k.complete e pass j then (s, k) else
  if e.root then
    if pass = 1 then
      if (tblFind k.finals j).isSome then (s, k) else
      let r := k.partials e 1 j
      (sendDown s e.kids (k.packet 1 (256 * j) 0 .ok r), { k with finals := tblIns k.finals j r })
    else
      if (tblFind k.results j).isSome then (s, k) else
      let r := k.rootResults e j
      (sendDown s e.kids (k.packet pass (256 * j) 0 .ok (downData k r)), { k with results := tblIns k.results j r })
  else
    if k.sentUp.any (fun x => x.pass == pass && x.elem0 == 256 * j) then (s, k) else
    let (s, p) := freshTally s true e.parent (k.packet pass (256 * j) (k.termCount e pass j) .ok (k.partials e pass j))
    (s, { k with sentUp := k.sentUp ++ [p] })

/-- One segment. -/
def segStep (e : TreeEnt) (s : State) (k : Coll) (j : Nat) : State × Coll :=
  if k.isExact then
    let (s, k) := passStep e 1 j s k
    if (tblFind k.finals j).isSome then passStep e 2 j s k else (s, k)
  else passStep e 3 j s k

/-- R364: more than 65,536 terms of an exact sum at the root. -/
def tooManyTerms (k : Coll) (e : TreeEnt) : Bool := e.root && k.isExact && k.complete e 1 0 && decide (65536 < k.termCount e 1 0)

/-- A collective as far as its contributions allow; at its last result it ends with OK. -/
def advanceColl (s : State) (k : Coll) : State :=
  match treeOf s k.tree with
  | none => putColl s k
  | some e =>
    if tooManyTerms k e then failColl s k .length none else
    let (s, k) := (List.range k.segs).foldl (fun (x : State × Coll) j => segStep e x.1 x.2 j) (s, k)
    if k.results.length = k.segs then closeColl (s.bump kCollDone 1) { k with ended := true } else putColl s k

/-! ### REDUCE -/

/-- R364: EXACT as resolved. -/
def reduceExact (s : State) (d : List Byte) : Nat := if rdExact d = 2 then (if featureOn s 4 then 1 else 0) else rdExact d

/-- R363: the local term enters. -/
def enterTerm (s : State) (k : Coll) (e : TreeEnt) (r : CmdRef) (x : Cmd) (m : Store) : State :=
  let d := x.desc
  let ws := (List.range (rdElems d)).map (loadElem (devByte m r.ctx) (rdFmt d) (rdSrc d) (rdElems d))
  let y := { k with terms := insTerm { ref := r, kills := x.kills, words := ws } k.terms }
  if e.fanin ≤ k.terms.length ∨ k.elements ≠ rdElems d ∨ k.rop ≠ rdRop d ∨ k.fmt ≠ rdFmt d ∨ k.exact_ ≠ reduceExact s d then
    failColl s y .collMismatch none
  else advanceColl s y

/-- R363: a term that comes again is discarded; R369: a rerun after the end receives the retained result. -/
def againTerm (s : State) (k : Coll) (r : CmdRef) (x : Cmd) : State :=
  if k.ended then endMember s k r
  else if k.terms.any (fun t => t.ref == r && t.kills == x.kills) then s
  else putColl (s.bump kCollDup k.segs)
    { k with terms := k.terms.map (fun t => if t.ref == r then { t with kills := x.kills } else t) }

/-- R363, R545: a running REDUCE contributes. -/
def reduceRun (s : State) (r : CmdRef) (x : Cmd) (m : Store) : State :=
  let g := ctxShareGroup s r.ctx
  let d := x.desc
  match treeOf s (rdTree d) with
  | none => endAttempt s r (endOut .format 56)
  | some e =>
    match s.fab.colls.find? (fun k => k.isOf (rdTree d) (rdSeq d) g && k.has r) with
    | some k => againTerm s k r x
    | none =>
      let k := (liveColl s (rdTree d) (rdSeq d) g).getD
        (newColl s (rdTree d) (rdSeq d) g e.home (rdElems d) (rdRop d) (rdFmt d) (reduceExact s d))
      enterTerm s k e r x m

/-- R361: a REDUCE of a further collective waits while its Tally holds 64. -/
def tallyFull (s : State) (r : CmdRef) (d : List Byte) : Bool :=
  let g := ctxShareGroup s r.ctx
  !(s.fab.colls.any (fun k => k.isOf (rdTree d) (rdSeq d) g && (k.has r || !k.ended))) && 64 ≤ heldColls s (dTarget d)

/-! ### TALLY_UP and TALLY_DOWN -/

/-- The instance a packet belongs to; a packet may come before the first local term. -/
def collOf (s : State) (e : TreeEnt) (k : TallyPacket) : Coll :=
  (liveColl s k.tree k.seq k.group).getD (newColl s k.tree k.seq k.group e.home k.elements k.rop k.fmt k.exact_)

/-- R364: a packet disagrees with the collective. -/
def disagrees (c : Coll) (k : TallyPacket) : Bool :=
  c.elements != k.elements || c.rop != k.rop || c.fmt != k.fmt || c.exact_ != k.exact_

/-- R363: a child's partial, or its failure. -/
def tallyUp (s : State) (p : Nat) (k : TallyPacket) : State :=
  let s := if selfNode s == some k.dest then wakeSource s 3 else s
  match treeOf s k.tree with
  | none => packetBad s p
  | some e =>
    if !e.kids.contains p then packetBad s p
    else if k.inst ≠ collCount s k.tree k.seq k.group then s.bump kCollDup 1
    else
      let c := collOf s e k
      if k.status != .ok then failColl s c k.status (some p)
      else if disagrees c k then failColl s c .collMismatch none
      else if c.parts.any (fun x => x.port == p && x.pass == k.pass && x.elem0 == k.elem0) then s.bump kCollDup 1
      else advanceColl s { c with parts := c.parts ++ [{ port := p, pass := k.pass, elem0 := k.elem0, terms := k.terms, data := k.data }] }

/-- R365, R368: a final record or a result of a segment travels on down. -/
def tallyResult (s : State) (e : TreeEnt) (c : Coll) (k : TallyPacket) : State :=
  let j := k.elem0 / 256
  if k.pass = 1 then
    if (tblFind c.finals j).isSome then s.bump kCollDup 1
    else advanceColl (sendDown s e.kids k) { c with finals := tblIns c.finals j k.data }
  else if (tblFind c.results j).isSome then s.bump kCollDup 1
  else advanceColl (sendDown s e.kids k) { c with results := tblIns c.results j (downCodes c k.data) }

/-- The parent's final record, result or failure. -/
def tallyDown (s : State) (p : Nat) (k : TallyPacket) : State :=
  let s := if selfNode s == some k.dest then wakeSource s 3 else s
  match treeOf s k.tree with
  | none => packetBad s p
  | some e =>
    if e.parent ≠ p then packetBad s p
    else if k.inst ≠ collCount s k.tree k.seq k.group then s.bump kCollDup 1
    else
      let c := collOf s e k
      if k.status != .ok then failColl s c k.status (some p) else tallyResult s e c k

/-- COLL_TIMEOUT (R370). -/
def collTimeout (s : State) (t q g : Nat) : State :=
  match liveColl s t q g with
  | some k => failColl s k .peerTimeout none
  | none => s

/-- R369: a TALLY_UP sent again from the retained copy; with poison in the copy the collective ends. -/
def resendTally (s : State) (xid : Nat) (marked : Bool) : State :=
  match s.fab.colls.find? (fun k => !k.ended && k.sentUp.any (fun x => x.xid == xid)) with
  | some k =>
    if marked then failColl s k .dataLost none else
    match treeOf s k.tree, k.sentUp.find? (fun x => x.xid == xid) with
    | some e, some x => sendTally (s.bump kE2eResend 1) true e.parent x
    | _, _ => s
  | none => s

/-- E2E_TIMEOUT (R358, R369). -/
def e2eTimeout (s : State) (xid : Nat) (marked : Bool) : State :=
  match tblFind s.fab.reqs xid with
  | some r => reqTimeout s xid r
  | none => resendTally s xid marked

def execTallyUp (port : Nat) (pkt : TallyPacket) (s : State) : Out := hub s (tallyUp s port pkt)
def execTallyDown (port : Nat) (pkt : TallyPacket) (s : State) : Out := hub s (tallyDown s port pkt)
def execCollTimeout (tree seq group : Nat) (s : State) : Out := hub s (collTimeout s tree seq group)
def execE2eTimeout (xid : Nat) (marked : Bool) (s : State) : Out := hub s (e2eTimeout s xid marked)

end Sys2Proof.Machine
end

