-- ==== Sys2Proof/Machine/Engines.lean ====
section
/-! DEFINITION. Sys2Proof/Machine/Engines.lean: the checks of R131 and the accesses of every opcode, by its engine's rules: what a
fetch checks (1 to 5), what the first dispatch checks (6 to 8 and what follows them), and what an attempt touches. -/

namespace Sys2Proof.Machine

open Sys2Proof

/-! ### WAIT, SIGNAL, LATCH (R119, R145, R178) -/

def waitCtr (d : List Byte) : Nat := fld d 32 1
def waitValue (d : List Byte) : Nat := fld d 40 8
def waitTimeoutUs (d : List Byte) : Nat := fld d 48 4
def sigCtr (d : List Byte) : Nat := fld d 32 1
def sigAmount (d : List Byte) : Nat := fld d 34 2
def latchNum (d : List Byte) : Nat := fld d 32 2
def latchOp (d : List Byte) : Nat := fld d 34 1
def latchTimeoutUs (d : List Byte) : Nat := fld d 36 4

/-! ### Checks 2 to 4 (R115 to R119, R130, R131) -/

/-- R117: the opcode is listed, and a ring of the class executes it. -/
def opAllowed (cls op : Nat) : Bool := isFence op || opClass op == some cls

/-- The faults of a body's encodings. -/
def bodyFormat (s : State) (c : Nat) (d : List Byte) : List Nat :=
  let op := dOpcode d
  if op = opTile then tileFormat d else if op = opAttnFwd then attnFormat d else if op = opAttnBwd then bwdFormat d
  else if op = opMerge then mergeFormat d else if op = opElem then elemFormat d else if op = opRoute then routeFormat d
  else if op = opGather then gatherFormat d else if op = opScatter then scatterFormat d else if op = opUpdate then updFormat d
  else if op = opMove then moveFormat d else if op = opSample then sampleFormat d else if op = opSeq then seqFormat d
  else if op = opReduce then reduceFormat d else if op = opReshard then reshardFormat d
  else if op = opWait then reservedAt d [(33, 7), (52, 12)]
  else if op = opSignal then reservedAt d [(33, 1), (36, 28)]
  else badAt (!latchInRange s c (latchNum d)) 32 ++ badAt (2 < latchOp d) 34 ++ reservedAt d [(35, 1), (40, 24)]

/-- The faults of a body's counts and sizes. -/
def bodyLength (d : List Byte) : List Nat :=
  let op := dOpcode d
  if op = opTile then tileLength d else if op = opAttnFwd ∨ op = opAttnBwd then attnLength d
  else if op = opMerge then mergeLength d else if op = opElem then elemLength d else if op = opRoute then routeLength d
  else if op = opGather then gatherLength d else if op = opScatter then scatterLength d else if op = opUpdate then updLength d
  else if op = opMove then moveLength d else if op = opSample then sampleLength d else if op = opSeq then seqLength d
  else if op = opReduce then reduceLength d else if op = opSignal then badAt (sigAmount d == 0) 34
  else []

/-- R116: TARGET in its range, a field index in the context's plot. -/
def targetOk (s : State) (c : Nat) (d : List Byte) : Bool :=
  let op := dOpcode d
  let t := dTarget d
  if t = anyTarget then op != opReduce
  else match opClass op with
    | some 0 => t < 1024 && fieldInPlot s (ctxPlot s c) t
    | some 3 => t < 16
    | some _ => t < instCount op
    | none => false

/-- R72: the commands that run on a compute die and may need crib scratch. -/
def hasScratch (op : Nat) : Bool := (opClass op).any (· ≤ 3)

/-- R72: no die that the command may run on has such a scratch part (log entry 17). -/
def scratchTooLarge (s : State) (c : Nat) (d : List Byte) : Bool :=
  if hasScratch (dOpcode d) then scratchUnits d != 0 && !(wantedInsts s (ctxPlot s c) d).any (scratchFits s d) else dScratch d != 0

/-- Check 3. -/
def formatFaults (s : State) (c : Nat) (d : List Byte) : List Nat :=
  badAt (8 ≤ dFlags d) 2 ++ reservedAt d [(18, 6)] ++ badAt (!targetOk s c d) 12 ++ bodyFormat s c d

/-- Check 4. -/
def lengthFaults (s : State) (c : Nat) (d : List Byte) : List Nat := badAt (scratchTooLarge s c d) 8 ++ bodyLength d

/-! ### Objects of a descriptor (check 5) -/

/-- The addresses that a descriptor names; `det` is the field. -/
def namedAddrs (d : List Byte) : List Access :=
  let op := dOpcode d
  let at_ := fun o => rd (fld d o 8) 0 o
  if op = opTile then tileAccesses d
  else if op = opAttnFwd then [at_ 32, at_ 56, at_ 64]
  else if op = opAttnBwd then [at_ 32, at_ 64]
  else if op = opMerge then [at_ 32, at_ 40]
  else if op = opElem then elemRanges d
  else if op = opRoute then routeAccesses d
  else if op = opGather then gatherRanges d
  else if op = opScatter then scatterRanges d
  else if op = opMove then moveAccesses d
  else if op = opSample then [at_ 32, at_ 40, at_ 48] ++ (if saVerify d then [at_ 72] else [])
  else if op = opSeq then (if seqParamLen d = 0 then [] else [at_ 48])
  else if op = opReduce then reduceAccesses d
  else if op = opUpdate ∨ op = opReshard then [at_ 32]
  else []

/-- R357: a command other than MOVE and RESHARD names a far object. -/
def farUse (m : Store) (c : Nat) (op : Nat) (l : List Access) : Chk :=
  if op = opMove ∨ op = opReshard then none else
  (l.find? (fun a => !a.host && (farBody m (a.ctx c) (addrObj a.addr)).isSome)).map (fun a => (.format, a.det))

/-- Checks 2 to 5, at fetch, and R357 on the objects named. -/
def fetchChecks (s : State) (c n : Nat) (d : List Byte) : Chk :=
  let op := dOpcode d
  firstFail
    [failIf (!opAllowed (ringClass s c n) op) .format 0,
     failIf (dSlots d != opSlots d || 4 < dSlots d) .length 1,
     leastFail .format (formatFaults s c d),
     leastFail .length (lengthFaults s c d),
     objectsPresent s.com c (namedAddrs d),
     farUse s.com c op (namedAddrs d),
     if op = opMove then moveFarCheck s.com c d else none]

/-! ### The parameter block (R121) -/

/-- Where the block lies; none for an opcode without one. -/
def paramAddr (d : List Byte) : Option Nat :=
  let op := dOpcode d
  if op = opAttnFwd ∨ op = opAttnBwd ∨ op = opUpdate ∨ op = opReshard then some (fld d 32 8)
  else if op = opSeq ∧ seqParamLen d ≠ 0 then some (sqParam d)
  else none

/-- The bytes the device reads: PARAM_LEN of them, no more than the longest block. -/
def paramRead (d : List Byte) : Nat := if dOpcode d = opSeq then seqParamLen d else min (fld d 40 4) (64 + 64 * 256)

/-- The block as committed. -/
def readParam (m : Store) (c : Nat) (d : List Byte) : List Byte :=
  match paramAddr d with
  | some a => devBytes m c a (paramRead d)
  | none => []

/-- Check 6. -/
def paramLenCheck (d p : List Byte) : Chk :=
  let op := dOpcode d
  if op = opAttnFwd ∨ op = opAttnBwd ∨ op = opUpdate then failIf (fld d 40 4 != 128) .length 40
  else if op = opReshard then failIf (fld d 40 4 != 64 + 64 * rsPieces p) .length 40
  else none

/-! ### Checks 7 and 8 -/

/-- Check 7 part 1. -/
def contentsCheck (s : State) (c : Nat) (d p : List Byte) : Chk :=
  let op := dOpcode d
  if op = opAttnFwd then attnContents s.com c d p else if op = opAttnBwd then bwdContents d p
  else if op = opUpdate then updContents s c d p else if op = opSample then sampleContents s.com c d
  else if op = opSeq then seqContents d p else if op = opReshard then reshardContents d p
  else if op = opReduce then reduceTreeCheck s d else none

/-- The ranges that checks 7 and 8 judge. -/
def cmdRanges (m : Store) (c : Nat) (d p : List Byte) : List Access :=
  let op := dOpcode d
  if op = opTile then tileAccesses d else if op = opAttnFwd then attnAccesses m d p else if op = opAttnBwd then bwdAccesses d p
  else if op = opMerge then mergeAccesses m c d else if op = opElem then elemRanges d else if op = opRoute then routeAccesses d
  else if op = opGather then gatherRanges d else if op = opScatter then scatterRanges d else if op = opUpdate then updRanges d p
  else if op = opMove then moveAccesses d else if op = opSample then sampleRanges m c d else if op = opSeq then seqAccesses d p
  else if op = opReduce then reduceAccesses d else if op = opReshard then reshardAccesses d p
  else []

/-- Check 7 part 2, with the conditions on far objects. -/
def objectsCheck (m : Store) (c : Nat) (d p : List Byte) : Chk :=
  firstFail
    [objectsPresent m c (cmdRanges m c d p), farUse m c (dOpcode d) (cmdRanges m c d p),
     if dOpcode d = opReshard then reshardFarCheck m c p else none,
     if dOpcode d = opUpdate then normAccCheck m c d p else none]

/-- Check 7 part 3. -/
def slotsCheck (s : State) (c : Nat) (d p : List Byte) : Chk :=
  let op := dOpcode d
  if op = opAttnFwd then attnSlotCheck s c d else if op = opSample then sampleSlotCheck s c d
  else if op = opSeq then seqSlotCheck s c d p else none

/-- R237, R241, R276, R388, R429: what follows check 8. -/
def afterRanges (s : State) (c : Nat) (d p : List Byte) : Chk :=
  let op := dOpcode d
  if op = opAttnFwd then firstFail [attnLengthsCheck s d p, failIf (kvDropped s d p) .kvDropped noField]
  else if op = opSample then sampleAuxCheck s.com c d
  else if op = opMove then moveSealCheck s.com c d
  else if op = opReshard then reshardGranules s.com c d p
  else none

/-- R46: the features that a command needs. -/
def featureCheck (s : State) (d p : List Byte) : Chk :=
  let op := dOpcode d
  let off := fun (b : Nat) (needs : Bool) => failIf (needs && !featureOn s b) .notReady noField
  firstFail
    [off 0 (op == opSample || op == opSeq),
     off 1 ((op == opSample && saVerify d) || (op == opAttnFwd && apTree p != 0)),
     off 2 (op == opSeq && sqOp d == 4),
     off 3 ((op == opTile && tlFlag d 4) || (op == opSeq && sqOp d == 0 && bits (fld p 9 1) 1 1 == 1)),
     off 5 (op == opReshard)]

/-- Checks 6 to 8 and those after them, at first dispatch. -/
def dispatchChecks (s : State) (c : Nat) (d p : List Byte) : Chk :=
  firstFail
    [paramLenCheck d p, contentsCheck s c d p, objectsCheck s.com c d p, slotsCheck s c d p, rangesWithin s.com c (cmdRanges s.com c d p),
     afterRanges s c d p]

/-! ### What an attempt touches -/

/-- The accesses that an attempt makes; `fresh` when the parameter block is still to be read (R121). -/
def cmdAccesses (s : State) (c : Nat) (d p : List Byte) (fresh : Bool) : List Access :=
  let m := s.com
  let op := dOpcode d
  let job : Job := { m := m, c := c, eg := effGroup s c, d := d, p := p, seed := 0, inst := 0 }
  let l :=
    if op = opElem then elemAccesses d else if op = opGather then gatherAccesses job else if op = opScatter then scatterAccesses job
    else if op = opUpdate then updAccesses d p else if op = opSample then sampleAccesses m c d else cmdRanges m c d p
  if fresh || (paramAddr d).isNone then l else l.filter (fun a => paramAddr d != some a.addr || a.write)

/-- R141: the poisoned units that an attempt consumes: those its accesses read, and the steering image's. -/
def cmdPoison (j : Job) (l : List Access) : List Nat :=
  (l.flatMap (accessPoison j.m j.c) ++ (if dOpcode j.d = opTile then steerUnits j else [])).eraseDups

/-- Granules read and granules written. -/
def gransOf (m : Store) (c : Nat) (l : List Access) : List Nat := (l.flatMap (accessGrans m c)).eraseDups

end Sys2Proof.Machine
end

