-- ==== Sys2Proof/Machine/Issue.lean ====
section
/-! DEFINITION. Sys2Proof/Machine/Issue.lean: fetch, the dispatch point, arbitration and the start of an attempt (R112 to R116, R131 to
R135, R160 to R163, R197, R207, R235 to R237, R262, R324, R329) and the rows COMMAND_FETCH and COMMAND_DISPATCH. -/

namespace Sys2Proof.Machine

open Sys2Proof

/-- The name of a command. -/
def refOf (c n : Nat) (x : Cmd) : CmdRef := { ctx := c, ring := n, serial := x.serial }

/-- R453: the function that owns the context is quiesced. -/
def ctxQuiesced (s : State) (c : Nat) : Bool := (ownerFn s c).any (fun f => (s.fn f).stopped)

/-! ### Fetch (R107, R112 to R114, R118, R131) -/

/-- R107: slots read in order; the address of the first that breaches. -/
def slotsRead (c n : Nat) : List Nat → State → State ⊕ Nat
  | [], s => .inl s
  | a :: l, s =>
    match ringArea s c n false a 64 with
    | some s => slotsRead c n l s
    | none => .inr a

/-- The addresses of `k` slots from HEAD on. -/
def headSlots (s : State) (c n k : Nat) : List Nat := (List.range k).map (fun i => slotAddr s c n ((s.ring c n).head + i))

/-- R114: the PENDING record; a breach freezes the context and leaves the record due. -/
def writePending (s : State) (c n : Nat) (x : Cmd) : State :=
  match ringArea s c n true (recordAddr s c n x.slot) 32 with
  | some s => areaWrite s c n (recordAddr s c n x.slot) (pendingRecord x)
  | none => areaBreach (s.setCmd c n { x with recDue := true }) c n (recordAddr s c n x.slot) true

/-- R118, R131: checks 1 to 5. -/
def checkFetched (s : State) (c n : Nat) (x : Cmd) : State :=
  if 0x80 ≤ dOpcode x.desc then
    beginFreeze s c { cause := 2, write := false, serValid := true, ring := n, addr := 0, serial := x.serial }
  else match fetchChecks s c n x.desc with
    | some f => failCmd s c n x f.1 f.2
    | none => s

/-- R112, R114: the item at HEAD, which is complete and readable, is taken. -/
def fetchItem (s : State) (c n : Nat) : State :=
  let t := takeItem s c n
  checkFetched (writePending t.1 c n t.2) c n t.2

/-- COMMAND_FETCH: only for an Active context (R153) whose function is not quiesced (R453), from a Running or Halted ring (R149). -/
def commandFetch (s : State) (c n : Nat) : State :=
  let r := s.ring c n
  if (s.ctx c).st != .active || !(r.st == .running || r.st == .halted) || ctxQuiesced s c || r.head == r.tail then s else
  match slotsRead c n (headSlots s c n 1) s with
  | .inr a => areaBreach s c n a false
  | .inl t =>
    if !itemComplete t c n then t else
    match slotsRead c n (headSlots t c n (itemSlots t c n)) t with
    | .inr a => areaBreach t c n a false
    | .inl u => fetchItem u c n

/-! ### The dispatch point (R132, R133, R160) -/

/-- The command at a ring's dispatch point. -/
def dispatchPoint (r : Ring) : Option Cmd := r.cmds.find? (fun x => x.phase == .waiting || x.phase == .repair)

/-- The commands of a ring before one. -/
def earlier (r : Ring) (x : Cmd) : List Cmd := r.cmds.takeWhile (fun y => y.serial != x.serial)

/-- Only a Running ring of an Active context dispatches (R149, R153), while its function is not quiesced (R453). -/
def ringActs (s : State) (c n : Nat) : Bool := (s.ctx c).st == .active && (s.ring c n).st == .running && !ctxQuiesced s c

/-- R108: the configuration in force defines the ring's queue; R59: its plot is not empty. -/
def queueServed (s : State) (c n : Nat) : Bool :=
  (queueEntry s (ctxPlot s c) (ringClass s c n)).any (fun q => decide (ringIndex s c n < q.queues))
    && !(plotFields s (ctxPlot s c)).isEmpty

/-- The parameter block of a command: its copy, or what a first dispatch would read (R121). -/
def paramOf (s : State) (c : Nat) (x : Cmd) : List Byte := x.param.getD (readParam s.com c x.desc)

/-- What a command would read and write if it were dispatched now. -/
def accessesNow (s : State) (c : Nat) (x : Cmd) : List Access := cmdAccesses s c x.desc (paramOf s c x) x.param.isNone

/-- The granules that a dispatched command writes at its commit. -/
def writtenGrans (s : State) (c : Nat) (y : Cmd) : List Nat :=
  match y.att with
  | some a => gransOf a.snap c ((cmdAccesses (s.setCom a.snap) c y.desc (y.param.getD []) false).filter (·.write))
  | none => []

/-- R231: the slots that a command names. -/
def namedSlots (m : Store) (c : Nat) (d : List Byte) : List Nat :=
  let op := dOpcode d
  if op = opAttnFwd then (if atHasSeq d then [atSeq d] else [])
  else if op = opSeq then [sqSlot d]
  else if op = opSample then
    saSlots m c d ++ (if saVerify d then ((List.range (saCount d)).map (dbDraft m c d)).filter (fun n => n != noSeq) else [])
  else []

/-- R231, R291: the slots of them that it writes. -/
def writtenSlots (m : Store) (c : Nat) (d p : List Byte) : List Nat :=
  let op := dOpcode d
  if (op = opAttnFwd ∧ apNew p) ∨ op = opSeq ∨ (op = opSample ∧ saVerify d ∧ dbApply m c d) then namedSlots m c d else []

/-- The slots that a dispatched command writes at its commit. -/
def slotsOfAttempt (c : Nat) (y : Cmd) : List Nat :=
  match y.att with
  | some a => writtenSlots a.snap c y.desc (y.param.getD [])
  | none => []

/-- R132, R231: no earlier command that has not committed writes a granule that this one touches, or a slot that it names. -/
def noConflict (s : State) (c n : Nat) (x : Cmd) : Bool :=
  let mine := gransOf s.com c (accessesNow s c x)
  let slots := namedSlots s.com c x.desc
  ((earlier (s.ring c n) x).filter Cmd.open_).all (fun y =>
    (writtenGrans s c y).all (fun k => !mine.contains k) && (slotsOfAttempt c y).all (fun k => !slots.contains k))

/-- R132, R133: the conditions on order, counter and granules. -/
def cmdReady (s : State) (c n : Nat) (x : Cmd) : Bool :=
  let before := (earlier (s.ring c n) x).filter Cmd.open_
  (if dOrder x.desc || isFence (dOpcode x.desc) then before.isEmpty else before.all (fun y => !isFence (dOpcode y.desc)))
    && (!dWaitEn x.desc || decide (dWaitVal x.desc ≤ (s.evctr c (dWaitCtr x.desc)).toNat))
    && noConflict s c n x

/-- R56: dispatch of a changed plot is stopped. -/
def plotStopped (s : State) (c : Nat) : Bool := s.plan.apply.any (fun a => a.plots.contains (ctxPlot s c))

/-! ### Eligibility (R160, R163) -/

/-- R160: the ring makes its context eligible on its queue. -/
def ringEligible (s : State) (c n : Nat) : Bool :=
  ringActs s c n && queueServed s c n && !plotStopped s c
    && (dispatchPoint (s.ring c n)).any (fun x =>
      x.phase == .waiting && !isFence (dOpcode x.desc) && !x.cancelMark && cmdReady s c n x)

/-- R163: a newly eligible context's VT against its queue's clock. -/
def adjustNew (s : State) (k : Nat) : State :=
  let c := k / 64
  let cls := ringClass s c (k % 64)
  match tblFind s.sched.clocks (clockKey (ctxPlot s c) cls (ringIndex s c (k % 64))) with
  | some clk => s.setCtx c { s.ctx c with vt := tblSet 0 (s.ctx c).vt cls (vtAdjusted (ctxVt s c cls) clk) }
  | none => s

/-- Who is eligible now, the newly eligible adjusted. -/
def noteEligible (s : State) : State :=
  let now := (allRings s).filterMap (fun e => if ringEligible s e.1 e.2.1 then some (e.1 * 64 + e.2.1) else none)
  let t := (now.filter (fun k => !s.sched.eligible.contains k)).foldl adjustNew s
  { t with sched := { t.sched with eligible := now } }

/-! ### Arbitration (R116, R140, R162, R175, R324) -/

/-- R20: the array's slot is being copied to a spare. -/
def slotCopying (s : State) (op inst : Nat) : Bool :=
  opClass op == some 0 && s.topo.rotations.any (fun e => e.2.copied && e.2.from_ == arrayPlace s inst)

/-- R116, R324: the instance, and the arrays that an UPDATE borrows, run nothing. -/
def instFree (s : State) (c : Nat) (x : Cmd) (inst : Nat) : Bool :=
  instIdle s (dOpcode x.desc) inst && !slotCopying s (dOpcode x.desc) inst
    && (dOpcode x.desc != opUpdate || (borrowed x.desc (paramOf s c x)).all (fun f =>
          instIdle s opTile f && !slotCopying s opTile f))

/-- R116, R140: the instances for a command: not the one whose watchdog expired, where another exists. -/
def choices (s : State) (c : Nat) (x : Cmd) : List Nat :=
  let l := candidates s (ctxPlot s c) x.desc
  match l.filter (fun i => x.avoid != some i) with
  | [] => l
  | m => m

/-- R116: the command would take the instance: it is idle, and under TARGET 0xFFFF the lowest that is. -/
def wouldTake (s : State) (c : Nat) (x : Cmd) (inst : Nat) : Bool :=
  if dTarget x.desc = anyTarget then (choices s c x).find? (instFree s c x) == some inst
  else (choices s c x).contains inst && instFree s c x inst

/-- R162: the requesters of an instance: eligible rings whose command runs on the engine and would take it. -/
def requesters (s : State) (op inst : Nat) : List (Nat × Nat) :=
  (s.sched.eligible.filter (fun k => (dispatchPoint (s.ring (k / 64) (k % 64))).any (fun y =>
    sameEngines (dOpcode y.desc) op && wouldTake s (k / 64) y inst))).map (fun k => (k / 64, k % 64))

/-- The key of an instance's arbiter; walkers are a class of their own. -/
def arbiterKey (op inst : Nat) : Nat := (if op = opSeq then 7 else (opClass op).getD 0) * 1024 + inst

/-- R175: a requester's index, and its rank under the rotating priority. -/
def requesterIndex (s : State) (e : Nat × Nat) : Nat := 256 * e.1 + ringIndex s e.1 e.2
def rotationRank (s : State) (op inst : Nat) (e : Nat × Nat) : Nat :=
  (requesterIndex s e + 2 ^ 20 - (match tblFind s.sched.grants (arbiterKey op inst) with | some l => l + 1 | none => 0)) % 2 ^ 20

/-- R162: the requester that an instance takes. -/
def winner (s : State) (op inst : Nat) : Option (Nat × Nat) :=
  let vt := fun (e : Nat × Nat) => ctxVt s e.1 (ringClass s e.1 e.2)
  firstBy (fun a b => vtBefore (vt a) (vt b) || (vt a == vt b && decide (rotationRank s op inst a < rotationRank s op inst b)))
    (requesters s op inst)

/-- R162, R163, R175: the grant: the winner's index, and its VT before charge as the queue's clock. -/
def recordGrant (s : State) (c n op inst : Nat) : State :=
  let cls := ringClass s c n
  { s with sched := { s.sched with
      clocks := tblIns s.sched.clocks (clockKey (ctxPlot s c) cls (ringIndex s c n)) (ctxVt s c cls),
      grants := tblIns s.sched.grants (arbiterKey op inst) (requesterIndex s (c, n)),
      eligible := s.sched.eligible.filter (fun k => k != c * 64 + n) } }

/-! ### What holds a command at its dispatch point (R72, R329, R361, R488) -/

/-- R329: provisional UPDATEs that wait on a Thresher. -/
def provWaiting (s : State) (inst : Nat) : Nat :=
  (cmdsWhere s (fun y => y.phase == .deciding && y.att.any (fun a => a.inst == inst))).length

/-- R72, R487: units of scratch that a command would take on a die. -/
def scratchFor (x : Cmd) : Nat := if hasScratch (dOpcode x.desc) then scratchUnits x.desc else 0

/-- R488: the granule lies in Silo on a retired port. -/
def onRetiredPort (s : State) (k : Nat) : Bool :=
  (tblFind s.grans k).any (fun g => g.tier == .silo && (s.siloPort (g.heap / 2 ^ 40)).retired)

/-- The granules that a list of accesses reads. -/
def readGrans (s : State) (c : Nat) (l : List Access) : List Nat := gransOf s.com c (l.filter (fun a => !a.write))

/-- R72, R329, R361: a resource that the command needs is not free. -/
def mustWait (s : State) (c n : Nat) (x : Cmd) (inst : Nat) : Bool :=
  let op := dOpcode x.desc
  (op == opReduce && tallyFull s (refOf c n x) x.desc)
    || (op == opUpdate && isElemRule (upRule x.desc) && upProvisional (paramOf s c x) && 64 ≤ provWaiting s inst)
    || (scratchFor x != 0 && 16 * cribBanks s (instDie op inst) < scratchUsed s (instDie op inst) + scratchFor x)

/-! ### The start of an attempt -/

/-- R197, R207: the granules that an attempt's writes need. -/
def allocWrites (c : Nat) : List Access → State → List Nat → Alloc × List Nat
  | [], s, got => (.done s, got)
  | a :: l, s, got =>
    if !a.write || a.host then allocWrites c l s got else
    match objBody s.com (a.ctx c) (addrObj a.addr) with
    | none => allocWrites c l s got
    | some (sid, b, _) =>
      let new := unallocated s sid (granRange (addrOff a.addr) a.len)
      match allocGrans s sid b new with
      | .done s => allocWrites c l s (got ++ new.map (granKey sid))
      | e => (e, got)

/-- R237: the stooks of an ATTN_FWD's range pinned by it, and read now. -/
def pinRange (s : State) (r : CmdRef) (d p : List Byte) : State :=
  ((attnBlocks d p).filterMap (tblFind (s.seq (atSeq d)).map)).foldl (fun s k =>
    match tblFind s.com.stooks k with
    | some y => s.setStook k { y with pins := if y.pins.contains r then y.pins else y.pins ++ [r], lastRead := s.time }
    | none => s) s

/-- R235, R237: what an ATTN_FWD pins and allocates for keys and values. -/
def takeKv (s : State) (r : CmdRef) (d p : List Byte) : KvRes :=
  if dOpcode d = opAttnFwd ∧ atHasSeq d then
    match kvAllocate r (atSeq d) (atLayer d) (newBlocks d p) (pinRange s r d p) with
    | .done s got => .done (pinRange s r d p) got
    | e => e
  else .done s []

/-- R223: CART_OSTD of a cart queue. -/
def ostdOf (s : State) (c n : Nat) : Nat := s.regField (kBar0 (0x10000 + 4 * (256 * ctxPlot s c + ringIndex s c n))) 0 11

/-- R135, R161: the attempt begins: it reads the committed state of this moment. -/
def startAttempt (s : State) (c n : Nat) (x : Cmd) (inst : Nat) (grans : List Nat) (kv : List KvHold) : State :=
  let op := dOpcode x.desc
  let l := accessesNow s c x
  let s := recordGrant s c n op inst
  let s := (readGrans s c l).foldl readGran s
  let die := instDie op inst
  let sc := scratchFor x
  let a : Attempt :=
    { inst := inst, queue := ringIndex s c n, t0 := s.time, t1 := s.time, snap := s.com, scratch := sc, scratchDie := die,
      grans := grans, touched := gransOf s.com c l, ostd := if op = opMove then ostdOf s c n else 0, kv := kv,
      wsids := ((gransOf s.com c (l.filter (·.write))).map (fun k => k / 2 ^ 19)).eraseDups,
      degraded := sc != 0 && decide (16 * cribInService s die < scratchUsed s die + sc) }
  s.setCmd c n { x with phase := .running, att := some a, out := none, param := some (paramOf s c x),
                        seed := if x.param.isNone then (s.ctx c).seed else x.seed }

/-- A granule in the Loft object heap that the context's windows allow for a new one. -/
def usableLoft (s : State) (c : Nat) (e : Nat × Gran) : Bool := placeAllowed s (ctxPlot s c) .loft e.2.heap true

/-- R207: the Loft object heap is full: the state in which its evictions run, if one does or can start. -/
def evictForSpace (s : State) (c : Nat) : Option State :=
  if s.grans.any (fun e => e.2.tier == .loft && e.2.mig.isSome && usableLoft s c e) then some s
  else (evictVictim s (usableLoft s c)).bind (fun k => startEviction s k .pressure 0)

/-- R207: the tier is full: the command waits for an eviction in progress or one that can start, else it completes QUOTA. -/
def tierFull (s : State) (c n : Nat) (x : Cmd) (t : Tier) : State :=
  match (if t = .loft then evictForSpace s c else none) with
  | some u => u
  | none => failCmd (s.bump kTierFull 1) c n x .quota noField

/-- Checks 9 and 10 (R131), the allocations of the attempt, and its start. -/
def enterEngine (s : State) (c n : Nat) (x : Cmd) (inst : Nat) : State :=
  let l := accessesNow s c x
  match firstBreach s c l with
  | some (a, w) => cmdBreach (s.setCmd c n { x with param := some (paramOf s c x) }) c n x a w
  | none =>
    match allocWrites c l s [] with
    | (.overQuota, _) => failCmd s c n x .quota noField
    | (.noSpace t, _) => tierFull s c n x t
    | (.done t, got) =>
      match takeKv t (refOf c n x) x.desc (paramOf s c x) with
      | .wait => s
      | .fail st => failCmd s c n x st noField
      | .done u kv => startAttempt u c n x inst got kv

/-- R488: granules on retired ports: the command waits for their rebuild, or their data is lost. -/
def reachable (s : State) (c n : Nat) (x : Cmd) (inst : Nat) : State :=
  let bad := (readGrans s c (accessesNow s c x)).filter (onRetiredPort s)
  if bad.isEmpty then enterEngine s c n x inst
  else if bad.all (hasReplica s) then s.setCmd c n { x with degraded := true }
  else failCmd s c n x .dataLost noField

/-- R46, R131: the feature bits at every dispatch, checks 6 to 8 and what follows them at the first. -/
def dispatchTo (s : State) (c n : Nat) (x : Cmd) (inst : Nat) : State :=
  let p := paramOf s c x
  if mustWait s c n x inst then s else
  match firstFail [featureCheck s x.desc p, if x.param.isNone then dispatchChecks s c x.desc p else none] with
  | some f => failCmd s c n x f.1 f.2
  | none => reachable s c n x inst

/-- R133: a WAIT, SIGNAL or LATCH begins. -/
def startFence (s : State) (c n : Nat) (x : Cmd) : State :=
  s.setCmd c n { x with phase := .running, joined := s.time, param := some [] }

/-- A command that is ready goes to its engine when it wins the instance. -/
def arbitrate (s : State) (c n : Nat) (x : Cmd) (inst : Nat) : State :=
  let s := noteEligible s
  if winner s (dOpcode x.desc) inst == some (c, n) then dispatchTo s c n x inst else s

/-- R467, R469: dispatch is stopped during a handshake and outside Run; in Hold a dispatchable command is a wake event. -/
def issue (s : State) (c n : Nat) (x : Cmd) (inst : Nat) : State :=
  if s.pwr.shake.isSome || s.pwr.moving.isSome then s
  else if s.pwr.state == .hold then wakeAny s
  else if s.pwr.state != .run then s
  else if isFence (dOpcode x.desc) then startFence s c n x
  else arbitrate s c n x inst

/-- COMMAND_DISPATCH. -/
def commandDispatch (s : State) (c n inst : Nat) : State :=
  match dispatchPoint (s.ring c n) with
  | none => s
  | some x =>
    if !ringActs s c n || x.phase != .waiting
        || ((earlier (s.ring c n) x).any (fun y => y.open_ && isFence (dOpcode y.desc))) then s
    else if 0x80 ≤ dOpcode x.desc then checkFetched s c n x
    else if x.cancelMark then finishCmd s c n x .cancelled false noField
    else if !queueServed s c n then failCmd s c n x .notReady noField
    else if plotStopped s c || !cmdReady s c n x then s
    else issue s c n x inst

def execCommandFetch (ctx ring : Nat) (s : State) : Out := hub s (commandFetch s ctx ring)
def execCommandDispatch (ctx ring inst : Nat) (s : State) : Out := hub s (commandDispatch s ctx ring inst)

end Sys2Proof.Machine
end

