-- ==== Sys2Proof/Machine/Runs.lean ====
section
/-! DEFINITION. Sys2Proof/Machine/Runs.lean: the attempts of the engines' commands: what each opcode's row does to a dispatched command
(R67 to R101, R121, R135, R141, R217, R221, R222, R245, R248, R278, R287, R305, R311 to R328, R357, R365, R383): rows TILE to RESHARD. -/

namespace Sys2Proof.Machine

open Sys2Proof

/-! ### The frame of an attempt -/

/-- R121, R135, R271: what an attempt works on. -/
def jobOf (s : State) (c : Nat) (x : Cmd) (a : Attempt) : Job :=
  { m := a.snap, c := c, eg := effGroup s c, d := x.desc, p := x.param.getD [], seed := x.seed.toNat, inst := a.inst }

/-- R121: this attempt has read the parameter block. -/
def readsParam (c : Nat) (x : Cmd) (a : Attempt) : Bool := !x.rerun && x.param == some (readParam a.snap c x.desc)

/-- R141: the poisoned units that an attempt consumes. -/
def attemptPoison (s : State) (c : Nat) (x : Cmd) (a : Attempt) : List Nat :=
  cmdPoison (jobOf s c x a) (cmdAccesses (s.setCom a.snap) c x.desc (x.param.getD []) (readsParam c x a))

/-- A unit of the parameter block just read was poisoned: the copy is not kept. -/
def paramPoisoned (c : Nat) (x : Cmd) (a : Attempt) : Bool :=
  readsParam c x a && (paramAddr x.desc).any (fun p => !(accessPoison a.snap c (rd p (paramRead x.desc) 0)).isEmpty)

/-- R141, R217, R218, R220: the command consumes poison. -/
def consumed (s : State) (c n : Nat) (x : Cmd) (a : Attempt) (us : List Nat) (clean : Bool) : State :=
  let e := consumePoison s us clean
  let s := poisonEnds e.1 (refOf c n x) e.2
  match s.cmd c n x.serial with
  | some y => if paramPoisoned c x a && y.open_ then s.setCmd c n { y with param := none } else s
  | none => s

/-- A row of an opcode: it acts on a running command of its opcode; poison comes first. -/
def attempt (s : State) (c n ser : Nat) (env : RunEnv) (is : List Byte → Bool) (go : Cmd → Attempt → State) : State :=
  match s.cmd c n ser with
  | none => s
  | some x =>
    match x.att with
    | none => s
    | some a =>
      if x.phase != .running || !is x.desc then s else
      match attemptPoison s c x a with
      | [] => go x a
      | us => consumed s c n x a us env.rereadsClean

/-- An engine that works alone: the attempt ends with what it computes. -/
def engineRow (s : State) (c n ser : Nat) (env : RunEnv) (is : List Byte → Bool) (run : Job → Outcome_) : State :=
  attempt s c n ser env is (fun x a => endAttempt s (refOf c n x) (run (jobOf s c x a)))

/-- Of an opcode. -/
def isOp (op : Nat) (d : List Byte) : Bool := dOpcode d == op

/-! ### TILE -/

/-- R22, R104: a TILE on the array that serves its field index. -/
def tileOn (s : State) (j : Job) : Outcome_ :=
  let die := (s.arrayEnt j.inst).die
  tileRun j die (s.regField (kBar0 0x9004) die 1 == 1)

/-! ### UPDATE (R319, R328) -/

/-- An UPDATE of a rule. -/
def isRule (r : Nat) (d : List Byte) : Bool := dOpcode d == opUpdate && upRule d == r

/-- R328 step 2: the computation of a provisional UPDATE has ended: it waits for its decision. -/
def beginDecision (s : State) (r : CmdRef) : State :=
  match s.cmd r.ctx r.ring r.serial with
  | some y =>
    if y.phase == .computed && y.out.any (fun o => o.status == .ok) then
      s.setCmd r.ctx r.ring { y with phase := .deciding, joined := s.time }
    else s
  | none => s

/-- An UPDATE's attempt. -/
def updateRow (s : State) (c n ser : Nat) (env : RunEnv) (rule : Nat) : State :=
  attempt s c n ser env (isRule rule) (fun x a =>
    let s := endAttempt s (refOf c n x) (updateRun (jobOf s c x a))
    if isElemRule rule && upProvisional (x.param.getD []) then beginDecision s (refOf c n x) else s)

/-! ### MOVE (R221, R222, R357) -/

/-- The page lies in `[a, a + n)`. -/
def pageIn (a n page : Nat) : Bool := a / 4096 ≤ page && page ≤ (a + n - 1) / 4096

/-- R222, R438: the page of a MOVE's host range on which the host fails. -/
def faultPage (d : List Byte) (env : RunEnv) : Option Nat :=
  env.hostFaultPage.filter (fun p => (mvSrcHost d && pageIn (mvSrc d) (mvBytes d) p) || (mvDstHost d && pageIn (mvDst d) (mvBytes d) p))

/-- HOST_POISON or HOST_CPL_FAIL: which of them a failed completion counts in is the host's doing (log entry 1). -/
def countHostFault (s : State) : State :=
  let (v, s) := s.draw
  s.bump (kBar0 (if v % 2 = 0 then 0x10 else 0x18)) 1

/-- R222: a host access failed: the MOVE is killed, or at the third attempt that meets it on the page ends with HOST_FAULT. -/
def hostFault (s : State) (c n : Nat) (x : Cmd) (page : Nat) : State :=
  let k := tblGet 0 x.hostFaults page + 1
  let y := { x with hostFaults := tblSet 0 x.hostFaults page k }
  if 3 ≤ k then endAttempt (s.setCmd c n y) (refOf c n x) (endOut .hostFault noField) else killCmd s c n y .hostFault

/-- R357: the far requests of a command: issued, or awaited, and when all are answered `run` ends the attempt. -/
def farRun (s : State) (c n : Nat) (x : Cmd) (ks : FarKind × List FarPacket) (run : Store → Outcome_) (m : Store) : State :=
  let r := refOf c n x
  let reqs := cmdReqs s r
  if reqs.isEmpty then
    match issueAll ks.1 r ks.2 s with
    | some t => t
    | none => farFails (s.bump kUnreach 1) r .unreachable
  else if reqs.all (fun q => q.2.answered) then endAttempt s r (run (farView m c reqs))
  else s

/-- The epoch of a far command. -/
def farEpoch (s : State) (r : CmdRef) : Nat := cmdEpoch ((selfNode s).getD 0xFFFF) noTree r

/-- MOVE: an attempt. -/
def moveRow (s : State) (c n ser : Nat) (env : RunEnv) : State :=
  attempt s c n ser env (isOp opMove) (fun x a =>
    let j := jobOf s c x a
    let r := refOf c n x
    match faultPage x.desc env with
    | some p => hostFault (countHostFault s) c n x p
    | none =>
      match moveFarPackets s j r x.kills with
      | (_, []) => endAttempt s r (moveRun j 0 0)
      | ks => farRun s c n x ks (fun m => moveRun { j with m := m } (farEpoch s r) x.kills) a.snap)

/-! ### RESHARD, REDUCE -/

/-- RESHARD: an attempt. -/
def reshardRow (s : State) (c n ser : Nat) (env : RunEnv) : State :=
  attempt s c n ser env (isOp opReshard) (fun x a =>
    let j := jobOf s c x a
    let r := refOf c n x
    match reshardFarPackets s a.snap c j.p r x.kills with
    | [] => endAttempt s r (reshardRun j)
    | ks => farRun s c n x (.read, ks) (fun m => reshardRun { j with m := m }) a.snap)

/-- REDUCE: an attempt contributes to its collective (R363) and waits for its result. -/
def reduceRow (s : State) (c n ser : Nat) (env : RunEnv) : State :=
  attempt s c n ser env (isOp opReduce) (fun x a => awaitPeers (reduceRun s (refOf c n x) x a.snap) (refOf c n x))

/-! ### SAMPLE and SEQ -/

def isSample (verify : Bool) (d : List Byte) : Bool := dOpcode d == opSample && saVerify d == verify
def isSeq (op : Nat) (d : List Byte) : Bool := dOpcode d == opSeq && sqOp d == op

/-! ### Rows -/

def execTile (ctx ring serial : Nat) (env : RunEnv) (s : State) : Out :=
  hub s (engineRow s ctx ring serial env (isOp opTile) (tileOn s))
def execAttnFwd (ctx ring serial : Nat) (env : RunEnv) (s : State) : Out :=
  hub s (engineRow s ctx ring serial env (isOp opAttnFwd) attnFwdRun)
def execAttnBwd (ctx ring serial : Nat) (env : RunEnv) (s : State) : Out :=
  hub s (engineRow s ctx ring serial env (isOp opAttnBwd) attnBwdRun)
def execMerge (ctx ring serial : Nat) (env : RunEnv) (s : State) : Out :=
  hub s (engineRow s ctx ring serial env (isOp opMerge) mergeRun)
def execElem (ctx ring serial : Nat) (env : RunEnv) (s : State) : Out :=
  hub s (engineRow s ctx ring serial env (isOp opElem) elemRun)
def execRoute (ctx ring serial : Nat) (env : RunEnv) (s : State) : Out :=
  hub s (engineRow s ctx ring serial env (isOp opRoute) routeRun)
def execGather (ctx ring serial : Nat) (env : RunEnv) (s : State) : Out :=
  hub s (engineRow s ctx ring serial env (isOp opGather) gatherRun)
def execScatter (ctx ring serial : Nat) (env : RunEnv) (s : State) : Out :=
  hub s (engineRow s ctx ring serial env (isOp opScatter) scatterRun)
def execMomentum (ctx ring serial : Nat) (env : RunEnv) (s : State) : Out := hub s (updateRow s ctx ring serial env ruleMomentum)
def execAdaptive (ctx ring serial : Nat) (env : RunEnv) (s : State) : Out := hub s (updateRow s ctx ring serial env ruleAdaptive)
def execSignmom (ctx ring serial : Nat) (env : RunEnv) (s : State) : Out := hub s (updateRow s ctx ring serial env ruleSignmom)
def execOrthoPrep (ctx ring serial : Nat) (env : RunEnv) (s : State) : Out := hub s (updateRow s ctx ring serial env rulePrep)
def execOrthoIter (ctx ring serial : Nat) (env : RunEnv) (s : State) : Out := hub s (updateRow s ctx ring serial env ruleIter)
def execOrthoApply (ctx ring serial : Nat) (env : RunEnv) (s : State) : Out := hub s (updateRow s ctx ring serial env ruleApply)
def execKronStats (ctx ring serial : Nat) (env : RunEnv) (s : State) : Out := hub s (updateRow s ctx ring serial env ruleStats)
def execKronRoot (ctx ring serial : Nat) (env : RunEnv) (s : State) : Out := hub s (updateRow s ctx ring serial env ruleRoot)
def execKronApply (ctx ring serial : Nat) (env : RunEnv) (s : State) : Out := hub s (updateRow s ctx ring serial env ruleKron)
def execNorm (ctx ring serial : Nat) (env : RunEnv) (s : State) : Out := hub s (updateRow s ctx ring serial env ruleNorm)
def execDecideStep (ctx ring serial : Nat) (env : RunEnv) (s : State) : Out := hub s (updateRow s ctx ring serial env ruleDecide)
def execMove (ctx ring serial : Nat) (env : RunEnv) (s : State) : Out := hub s (moveRow s ctx ring serial env)
def execSample (ctx ring serial : Nat) (env : RunEnv) (s : State) : Out :=
  hub s (engineRow s ctx ring serial env (isSample false) sampleRun)
def execSampleVerify (ctx ring serial : Nat) (env : RunEnv) (s : State) : Out :=
  hub s (engineRow s ctx ring serial env (isSample true) verifyRun)
def execSeqOpen (ctx ring serial : Nat) (env : RunEnv) (s : State) : Out :=
  hub s (engineRow s ctx ring serial env (isSeq 0) seqRun)
def execSeqClose (ctx ring serial : Nat) (env : RunEnv) (s : State) : Out :=
  hub s (engineRow s ctx ring serial env (isSeq 1) seqRun)
def execSeqAccept (ctx ring serial : Nat) (env : RunEnv) (s : State) : Out :=
  hub s (engineRow s ctx ring serial env (isSeq 2) seqRun)
def execSeqRollBack (ctx ring serial : Nat) (env : RunEnv) (s : State) : Out :=
  hub s (engineRow s ctx ring serial env (isSeq 3) seqRun)
def execSeqPrefixMatch (ctx ring serial : Nat) (env : RunEnv) (s : State) : Out :=
  hub s (engineRow s ctx ring serial env (isSeq 4) seqRun)
def execReduce (ctx ring serial : Nat) (env : RunEnv) (s : State) : Out := hub s (reduceRow s ctx ring serial env)
def execReshard (ctx ring serial : Nat) (env : RunEnv) (s : State) : Out := hub s (reshardRow s ctx ring serial env)

end Sys2Proof.Machine
end

