-- ==== Sys2Proof/Machine/Commit.lean ====
section
/-! DEFINITION. Sys2Proof/Machine/Commit.lean: the commit of an attempt (R135 to R137, R245, R263, R291, R334, R357, R398, R407 to R410,
R428) and the rows COMMAND_COMMIT, PROVISIONAL_DECISION, PROVISIONAL_TIMEOUT, WATCHDOG_EXPIRY and INJECTED_KILL. -/

namespace Sys2Proof.Machine

open Sys2Proof

/-! ### Object writes (R136 step 1) -/

/-- R292, R295: the entries of a verification, marked stale when its sequence has moved on. -/
def verifyBytes (s : State) (x : VerifyFx) : List Byte :=
  let y := s.seq x.slot
  if x.apply_ && (y.committed != x.n || y.tentative != x.t) then
    x.entries.zipIdx.map (fun e => if e.2 = 12 then e.1 ||| 0x20#8 else e.1)
  else x.entries

/-- What an effect writes to objects; effects on a slot that is not Open are omitted (R263). -/
def effWrites (s : State) (c : Nat) : Eff → List (Nat × List Byte)
  | .write k bs => [(k, bs)]
  | .slotWrite slot k bs => if slotOpenOf s c slot then [(k, bs)] else []
  | .verify x => if slotOpenOf s c x.slot then [(x.out, verifyBytes s x)] else []
  | _ => []

/-- R255: prefix matches take effect; their results are writes. -/
def runMatches (c : Nat) : List Eff → State → State × List (Nat × List Byte)
  | [], s => (s, [])
  | .seqMatch slot toks out :: l, s =>
    if slotOpenOf s c slot then
      let r := seqMatchFx s c slot toks
      let t := runMatches c l r.1
      (t.1, (out, r.2) :: t.2)
    else runMatches c l s
  | _ :: l, s => runMatches c l s

/-! ### Other effects -/

/-- R359: the COMMIT of a far MOVE; without a route it waits for its timer. -/
def sendCommit (s : State) (r : CmdRef) (f : FarObj) (epoch attempt bytes : Nat) : State :=
  let k := { FarPacket.blank with dest := f.node, secure := f.secure, expo := f.expo, gen := f.gen, attempt := attempt, epoch := epoch,
                                  bytes := bytes }
  match issueReq s .commit k (some r) r.ctx with
  | some t => t
  | none =>
    let q : FarReq := { kind := .commit, pkt := k, cmd := some r, ctx := r.ctx, answered := false, resent := false,
                        deadSince := some s.time, got := [], marks := [] }
    s.setFab { s.fab with reqs := tblIns s.fab.reqs s.fab.nextXid q, nextXid := s.fab.nextXid + 1 }

/-- R334: THR_LAST_DEC, THR_LAST_NORM, THR_LAST_STEP. -/
def lastDecision (s : State) (skip clipped norm stepNo : Nat) : State :=
  ((s.setReg (kBar0 0xF020) (BitVec.ofNat 32 (skip % 4 + clipped % 4 * 4))).setReg (kBar0 0xF024) (BitVec.ofNat 32 norm)).setReg
    (kBar0 0xF028) (BitVec.ofNat 32 stepNo)

/-- An effect other than a write to an object. -/
def applyEff (r : CmdRef) (s : State) : Eff → State
  | .hostWrite a bs => s.setCom { s.com with host := memWrite s.com.host a bs }
  | .farCommit f ep at_ n => sendCommit s r f ep at_ n
  | .counter k n => s.bump k n
  | .kvWrite slot layer pos refill k v => if slotOpenOf s r.ctx slot then kvWrite s slot layer pos refill k v else s
  | .advance slot n =>
    if slotOpenOf s r.ctx slot then
      refreshTent (s.setSeq slot { s.seq slot with tentative := (s.seq slot).tentative + n }) slot
    else s
  | .refillDone slot layer b n =>
    if slotOpenOf s r.ctx slot then (List.range n).foldl (fun s i => refillBlock s slot layer (b + i)) s else s
  | .seqOpen slot blk => seqOpenFx s r.ctx slot blk
  | .seqClose slot => if (slotCloseCheck s r.ctx slot).isNone then seqCloseFx s slot else s
  | .seqAccept slot toks => if slotOpenOf s r.ctx slot then seqAcceptFx s r.ctx slot toks else s
  | .seqRollBack slot => if slotOpenOf s r.ctx slot then seqRollBackFx s slot else s
  | .useSlot slot => if slotOpenOf s r.ctx slot then s.setSeq slot { s.seq slot with lastUse := s.time } else s
  | .verify x => verifyFx s r.ctx x
  | .lastDec skip clipped norm stepNo => lastDecision s skip clipped norm stepNo
  | .wnwElem e n sat nan =>
    ((s.bump (kBar0 (0x21010 + 8 * e)) n).bump (kBar0 0x21030) sat).bump (kBar0 0x21038) nan
  | .write _ _ => s
  | .slotWrite _ _ _ => s
  | .seqMatch _ _ _ => s

/-- R226: a SEQ open whose slot has been taken since its check (log entry 29). -/
def slotTaken (s : State) (c : Nat) (l : List Eff) : Bool :=
  l.any (fun e => match e with | .seqOpen slot _ => (slotOpenCheck s c slot).isSome | _ => false)

/-- R136 step 1, R409: the effects of an attempt; none when a replica cannot be allocated (R219). Answers the writes too. -/
def applyEffs (s : State) (r : CmdRef) (l : List Eff) : Option (State × List (Nat × List Byte)) :=
  let m := runMatches r.ctx l s
  let ws := l.flatMap (effWrites m.1 r.ctx) ++ m.2
  (commitObjects m.1 ws).map (fun s => (digestUnits (l.foldl (applyEff r) s) r.ctx (allUnits ws), ws))

/-! ### Seals (R428, R429) -/

/-- R428: the commands that carry seals. -/
def carriesSeal (op : Nat) : Bool := [opMove, opReshard, opGather, opScatter, opElem, opUpdate].contains op

/-- FAR_OK of the sealed objects that an attempt read. -/
def sealsRead (m : Store) (c : Nat) (l : List Access) : List Bool :=
  (l.filter (fun a => !a.write && !a.host)).filterMap (fun a => sealAt m (a.ctx c) a.addr)

/-- A storage sealed; an export of one that was not sealed before is removed. -/
def sealSid (farOk : Bool) (s : State) (sid : Nat) : State :=
  match tblFind s.com.bodies sid with
  | none => s
  | some b =>
    let t := s.setCom { s.com with bodies := tblIns s.com.bodies sid { b with isSealed := true, farOk := farOk && (!b.isSealed || b.farOk) } }
    if b.isSealed then t else dropExports t (fun e => (objBody s.com e.ctx e.obj).any (fun y => y.1 == sid))

/-- R428: the seals that a commit causes. -/
def sealCommit (s : State) (c : Nat) (x : Cmd) (a : Attempt) (ws : List (Nat × List Byte)) : State :=
  let oks := if carriesSeal (dOpcode x.desc) then
      sealsRead a.snap c (cmdAccesses (s.setCom a.snap) c x.desc (x.param.getD []) true) else []
  if oks.isEmpty then s
  else ((ws.map (fun w => w.1 / 2 ^ 40)).eraseDups).foldl (sealSid (oks.all id)) s

/-! ### COMMAND_COMMIT -/

/-- An attempt that ends without effect: what it allocated is released. It was charged when it ended (log entry 97). -/
def endWithout (s : State) (c n : Nat) (x : Cmd) (a : Attempt) (st : Status) (nonfin : Bool) (det : Nat) : State :=
  let s := dropReqs (releaseAttempt s a) (refOf c n x)
  let s := if st == .skipped then s.bump (kBar0 0xF010) 1 else s
  finishCmd s c n x st nonfin det

/-- DET_INJECT: KILL_EN and DROP_EN, and a rate of DET_RATE as it acts (R410, R412). -/
def injects (s : State) (b : Nat) : Bool := s.regField (kBar0 0x22000) b 1 == 1
def injectPpm (s : State) (lo : Nat) : Nat := min 50000 (s.regField (kBar0 0x22004) lo 16)

/-- R410: the drop that may follow the commit of an ATTN_FWD; the generator's draw is a free value. -/
def injectDrop (s : State) : State :=
  if injects s 1 then
    let (v, s) := s.draw
    if v % 1000000 < injectPpm s 16 then
      match kvVictim s none with
      | some k => (dropStook s k).bump (kBar0 0x22008) 1
      | none => s
    else s
  else s

/-- R13: the execution used reduced resources. -/
def ranReduced (s : State) (c n : Nat) (x : Cmd) (a : Attempt) : Bool :=
  x.degraded || a.degraded || reduced s (refOf c n x) x.desc a.inst a.touched

/-- R136: the attempt's effects become visible: memory, counter, record, interrupt. -/
def commitOk (s : State) (c n : Nat) (x : Cmd) (a : Attempt) (o : Outcome_) : State :=
  let r := refOf c n x
  let st : Status := if ranReduced s c n x a then .degraded else .ok
  if slotTaken s c o.effs then endWithout s c n x a .slotState false 32 else
  match applyEffs s r o.effs with
  | none => endWithout s c n x a .quota false noField
  | some (t, ws) =>
    let t := sealCommit t c x a ws
    let t := finishCmd (sigEffect (dropReqs t r) c x.desc) c n x st o.nonfinite o.detail
    if dOpcode x.desc = opAttnFwd then injectDrop t else t

/-- A command whose attempt has ended with a result is committed. -/
def commitCmd (s : State) (c n : Nat) (x : Cmd) : State :=
  match x.att, x.out with
  | some a, some o => if o.status == .ok then commitOk s c n x a o else endWithout s c n x a o.status o.nonfinite o.detail
  | _, _ => s

/-- COMMAND_COMMIT (R136). -/
def commandCommit (s : State) (c n ser : Nat) : State :=
  match s.cmd c n ser with
  | some x => if x.phase == .computed then commitCmd s c n x else s
  | none => s

/-! ### The decision of a provisional UPDATE (R328, R329) -/

/-- The parameter block without PROVISIONAL and STEPIN. -/
def plainParam (p : List Byte) : List Byte :=
  p.zipIdx.map (fun e => if e.2 = 57 then e.1 &&& 0xFD#8 else if 40 ≤ e.2 ∧ e.2 < 48 then 0#8 else e.1)

/-- R328: the outputs are discarded; the UPDATE goes back to its dispatch point as a plain one. -/
def redoUpdate (s : State) (c n : Nat) (x : Cmd) (a : Attempt) : State :=
  let s := releaseReader (releaseAttempt s a) (refOf c n x)
  (s.bump (kBar0 0xF018) 1).setCmd c n
    { x with phase := .waiting, att := none, out := none, param := x.param.map plainParam }

/-- R328 step 3: the decision record as committed now. -/
def decideUpdate (s : State) (c n : Nat) (x : Cmd) (a : Attempt) : State :=
  let p := x.param.getD []
  let dec := upDec p
  let l := [rd dec 64 (inParam 32)]
  match firstFail [objectsPresent s.com c l, rangesWithin s.com c l] with
  | some f => endWithout s c n x a f.1 false f.2
  | none =>
    match firstBreach s c l with
    | some b => cmdBreach s c n x b.1 b.2
    | none =>
      match accessPoison s.com c (rd dec 64 0) with
      | u :: us =>
        let (v, s) := s.draw
        let e := consumePoison s (u :: us) (v % 2 == 0)
        poisonEnds e.1 (refOf c n x) e.2
      | [] =>
        match readDecision (devByte s.com c) dec with
        | none => endWithout s c n x a .format false (inParam 32)
        | some (skip, v) =>
          if skip ≠ 0 then endWithout s c n x a .skipped false noField
          else if v = assumedVals (devByte a.snap c) (upStepIn p) then commitCmd s c n x
          else redoUpdate s c n x a

/-- PROVISIONAL_DECISION (R328). -/
def provisionalDecision (s : State) (c n ser : Nat) : State :=
  match s.cmd c n ser with
  | some x =>
    match x.att with
    | some a =>
      let p := x.param.getD []
      if x.phase == .deciding && decide (upDecVal p ≤ (s.evctr c (upDecCtr p)).toNat) then decideUpdate s c n x a else s
    | none => s
  | none => s

/-- PROVISIONAL_TIMEOUT (R329): a WAIT_TIMEOUT of zero sets no bound. -/
def provisionalTimeout (s : State) (c n ser : Nat) : State :=
  match s.cmd c n ser with
  | some x =>
    match x.att with
    | some a => if x.phase == .deciding && ringWaitTo s c n != 0 then endWithout s c n x a .notReady false noField else s
    | none => s
  | none => s

/-! ### Watchdogs and injection (R140, R410) -/

/-- The class under which a watchdog's fault is counted; a walker's is 7 (R482). -/
def watchClass (op : Nat) : Nat := if op = opSeq then kWalker else (opClass op).getD 0

/-- R140: a watchdog expires: killed, the engine reset, a transient fault logged; a second expiry ends with TOO_LONG. -/
def expire (s : State) (c n : Nat) (x : Cmd) (a : Attempt) : State :=
  let s := killCmd s c n x .timeout
  let s := match s.cmd c n x.serial with
    | some y => s.setCmd c n { y with expiries := y.expiries + 1, avoid := some a.inst }
    | none => s
  let s := engineEvent s (watchClass (dOpcode x.desc)) a.inst
  match s.cmd c n x.serial with
  | some y => if 2 ≤ y.expiries && y.open_ then finishCmd s c n y .tooLong false noField else s
  | none => s

/-- WATCHDOG_EXPIRY (R140). -/
def watchdogExpiry (s : State) (c n ser : Nat) : State :=
  match s.cmd c n ser with
  | some x =>
    match x.att with
    | some a => if x.phase == .running && !isFence (dOpcode x.desc) then expire s c n x a else s
    | none => s
  | none => s

/-- INJECTED_KILL (R410): at most three for a command. -/
def injectedKill (s : State) (c n ser : Nat) : State :=
  match s.cmd c n ser with
  | some x =>
    if injects s 0 && injectPpm s 0 != 0 && x.phase == .running && !isFence (dOpcode x.desc) && decide (x.injected < 3) then
      let s := (killCmd s c n x .preemption).bump (kBar0 0x22008) 1
      match s.cmd c n ser with
      | some y => s.setCmd c n { y with injected := y.injected + 1 }
      | none => s
    else s
  | none => s

def execCommandCommit (ctx ring serial : Nat) (s : State) : Out := hub s (commandCommit s ctx ring serial)
def execProvisionalDecision (ctx ring serial : Nat) (s : State) : Out := hub s (provisionalDecision s ctx ring serial)
def execProvisionalTimeout (ctx ring serial : Nat) (s : State) : Out := hub s (provisionalTimeout s ctx ring serial)
def execWatchdogExpiry (ctx ring serial : Nat) (s : State) : Out := hub s (watchdogExpiry s ctx ring serial)
def execInjectedKill (ctx ring serial : Nat) (s : State) : Out := hub s (injectedKill s ctx ring serial)

end Sys2Proof.Machine
end

