-- ==== Sys2Proof/Machine/Fences.lean ====
section
/-! DEFINITION. Sys2Proof/Machine/Fences.lean: WAIT, SIGNAL and LATCH (R133, R140, R145, R178 to R183) and the rows WAIT, SIGNAL,
LATCH_ACQUIRE, LATCH_TRY, LATCH_RELEASE, WAIT_LATCH_TIMEOUT. -/

namespace Sys2Proof.Machine

open Sys2Proof

/-- A row of a fence: it acts on a running command of its kind. -/
def fence (s : State) (c n ser : Nat) (is : List Byte → Bool) (go : Cmd → State) : State :=
  match s.cmd c n ser with
  | some x => if x.phase == .running && is x.desc then go x else s
  | none => s

/-- WAIT (R145): it completes as soon as the counter is at least VALUE. -/
def waitRow (s : State) (c n ser : Nat) : State :=
  fence s c n ser (isOp opWait) (fun x =>
    if waitValue x.desc ≤ (s.evctr c (waitCtr x.desc)).toNat then commitFence s c n x .ok else s)

/-- SIGNAL (R145). -/
def signalRow (s : State) (c n ser : Nat) : State :=
  fence s c n ser (isOp opSignal) (fun x => commitFence (evcInc s c (sigCtr x.desc) (sigAmount x.desc)) c n x .ok)

/-- A LATCH of an operation. -/
def isLatch (op : Nat) (d : List Byte) : Bool := dOpcode d == opLatch && latchOp d == op

/-- R179: the context takes a latch, and its command commits. -/
def takeLatch (s : State) (c n : Nat) (x : Cmd) (st : Status) : State :=
  let l := latchNum x.desc
  commitFence (s.setLatch l { s.latch l with st := .held c }) c n x st

/-- R179, R180: an acquire joins the waiting list. -/
def joinLatch (s : State) (c n : Nat) (x : Cmd) : State :=
  let l := latchNum x.desc
  let s := s.setLatch l { s.latch l with waiters := (s.latch l).waiters ++ [refOf c n x] }
  s.setCmd c n { x with phase := .latchWait, joined := s.time }

/-- LATCH_ACQUIRE (R179). -/
def latchAcquireRow (s : State) (c n ser : Nat) : State :=
  fence s c n ser (isLatch 0) (fun x =>
    match (s.latch (latchNum x.desc)).st with
    | .free => takeLatch s c n x .ok
    | .broken => takeLatch s c n x .brokenLatch
    | .held h => if h = c then failCmd s c n x .latchBusy noField else joinLatch s c n x)

/-- LATCH_TRY (R179). -/
def latchTryRow (s : State) (c n ser : Nat) : State :=
  fence s c n ser (isLatch 1) (fun x =>
    match (s.latch (latchNum x.desc)).st with
    | .free => takeLatch s c n x .ok
    | .broken => takeLatch s c n x .brokenLatch
    | .held _ => failCmd s c n x .latchBusy noField)

/-- LATCH_RELEASE (R179, R180): the first waiter is granted with the release. -/
def latchReleaseRow (s : State) (c n ser : Nat) : State :=
  fence s c n ser (isLatch 2) (fun x =>
    if (s.latch (latchNum x.desc)).st = .held c then commitFence (passLatch s (latchNum x.desc) .ok .free) c n x .ok
    else failCmd s c n x .notHolder noField)

/-- R140: the timeout of a WAIT or LATCH in µs; none without a limit. -/
def fenceTimeout (s : State) (c n : Nat) (d : List Byte) : Option Nat :=
  let own := if dOpcode d = opWait then waitTimeoutUs d else latchTimeoutUs d
  if own ≠ 0 then some own else if ringWaitTo s c n ≠ 0 then some (ringWaitTo s c n) else none

/-- The command waits, and can time out. -/
def fenceWaits (x : Cmd) : Bool :=
  (dOpcode x.desc == opWait && x.phase == .running) || (dOpcode x.desc == opLatch && x.phase == .latchWait)

/-- WAIT_LATCH_TIMEOUT (R140, R179): the command completes NOT_READY and leaves the waiting list. -/
def waitLatchTimeout (s : State) (c n ser : Nat) : State :=
  match s.cmd c n ser with
  | some x =>
    if fenceWaits x && (fenceTimeout s c n x.desc).isSome then
      failCmd (leaveLatch s (refOf c n x) x) c n x .notReady noField
    else s
  | none => s

def execWait (ctx ring serial : Nat) (s : State) : Out := hub s (waitRow s ctx ring serial)
def execSignal (ctx ring serial : Nat) (s : State) : Out := hub s (signalRow s ctx ring serial)
def execLatchAcquire (ctx ring serial : Nat) (s : State) : Out := hub s (latchAcquireRow s ctx ring serial)
def execLatchTry (ctx ring serial : Nat) (s : State) : Out := hub s (latchTryRow s ctx ring serial)
def execLatchRelease (ctx ring serial : Nat) (s : State) : Out := hub s (latchReleaseRow s ctx ring serial)
def execWaitLatchTimeout (ctx ring serial : Nat) (s : State) : Out := hub s (waitLatchTimeout s ctx ring serial)

end Sys2Proof.Machine
end

