-- ==== Sys2Proof/Machine/Ports.lean ====
section
/-! DEFINITION. Sys2Proof/Machine/Ports.lean: the states of a Caravan port, identity and key agreement, lanes (R335, R343, R346
to R350, R372, R431, R432, R532) and the rows PORT_CTRL_WRITE, TRAINING_COMPLETE, TRAINING_TIMEOUT, DOWN_RETRY, LINK,
PORT_ACTIVATE, RETRAIN_LOCK, RETRAIN_TIMEOUT, LANE_ROTATION_START, LANE_ROTATION_SWITCH, LANE_ROTATE_RETRY,
LANE_CALIBRATION_DONE, LANE_RETIRE, LINK_REKEY, CREDIT_STALL_TICK, CRV_REF_CLK_LOSS, CRV_REF_CLK_RETURN. -/

namespace Sys2Proof.Machine

open Sys2Proof

/-! ### Lost traffic (R343) -/

/-- A command is killed if it is dispatched. -/
def killRef (s : State) (r : CmdRef) (k : KillCause) : State :=
  match s.cmd r.ctx r.ring r.serial with
  | some x => if x.dispatched then killCmd s r.ctx r.ring x k else s
  | none => s

/-- The commands of this module that the packet `xid` serves: the issuer of a request, the members of a collective. -/
def cmdsOfXid (s : State) (xid : Nat) : List CmdRef :=
  ((tblFind s.fab.reqs xid).bind (·.cmd)).toList
    ++ (s.fab.colls.filter (fun c => c.sentUp.any (fun k => k.xid == xid))).flatMap (fun c => c.terms.map (·.ref))

/-- R343: the flits of a port are lost, and the commands whose traffic they carried are killed. -/
def loseFlits (s : State) (p : Nat) : State :=
  let x := s.port p
  let xids := (x.retry ++ x.tx).filterMap (·.own)
  let s := s.setPort p { x with retry := [], tx := [], rx := [], sendNext := x.txSeq, replayEnd := none, replayFlag := false, nak := false }
  (xids.flatMap (cmdsOfXid s)).foldl (fun s r => killRef s r .lostFlit) s

/-- R343, R346, R432: a port leaves its session for Off, Down or Training: flits, keys and identity go. -/
def endSession (s : State) (p : Nat) (to_ : PortSt) : State :=
  let s := loseFlits s p
  s.setPort p { s.port p with st := to_, enc := false, peerNode := none, peerReady := false, identified := false, agree := none,
                              keys := none, tagFails := 0, lcmd := 0, larg := 0, req := none, swap := none, replays := 0,
                              replayAck := none }

/-- R375: RETRAINS. -/
def countRetrain (s : State) (p : Nat) : State := s.bump16 (kPort p 0x30) 1

/-- R346: a fast retrain starts. -/
def startRetrain (s : State) (p : Nat) : State := countRetrain (s.setPort p { s.port p with st := .retrain, replays := 0 }) p

/-! ### Registers and training (R346) -/

/-- PORT_CTRL_WRITE (R346). -/
def portCtrlWrite (s : State) (p : Nat) (v : Word) : State :=
  let en := v.toNat % 2
  let s := s.setReg (kPort p 4) (BitVec.ofNat 32 en)
  if en = 0 then (if (s.port p).st == .off then s else endSession s p .off)
  else if (s.port p).st == .off then s.setPort p { s.port p with st := .training } else s

/-! ### Identity and keys (R347, R431, R432) -/

/-- The node a port reports. -/
def reportedNode (s : State) : Nat := (selfNode s).getD 0xFFFF

/-- R431: the bytes of a HELLO; log entry 25: its fields in the order of the list. -/
def helloBytes (node port group nonce : Nat) (key chain : List Byte) : List Byte :=
  bytesLE node 2 ++ bytesLE port 1 ++ bytesLE group 4 ++ bytesLE nonce 32 ++ key ++ chain

/-- A HELLO of port `p`, with a fresh nonce and ephemeral key. -/
def makeHello (s : State) (p : Nat) : State × LinkMsg × Agreement :=
  let (n, s) := s.draw
  let (k, s) := s.draw
  let d := k % (p384N - 1) + 1
  let nonce := n % 2 ^ 256
  let pub := ecPublic d
  let chain := Config.certChain 0 (ecPublic s.vault.alias_)
  (s, .hello (reportedNode s) p (groupId s) nonce pub chain,
    { mine := helloBytes (reportedNode s) p (groupId s) nonce pub chain, priv := d, theirs := [], peerKey := [], chain := [],
      finished := false })

/-- A LINK message sent. -/
def sendLink (s : State) (p : Nat) (m : LinkMsg) : State := s.setPort p { s.port p with linkOut := m :: (s.port p).linkOut }

/-- R349: this end ranks lower than the peer. -/
def lowerRank (s : State) (p node port : Nat) : Bool :=
  reportedNode s < node || (reportedNode s == node && decide (p < port))

/-- R346, R347: training has completed: numbers and credits start, and the identity goes out, as a HELLO when the port's bit of
CRV_ENC is set. -/
def enterIdent (s : State) (p : Nat) : State :=
  let x := s.port p
  let s := s.setPort p { x with st := .ident, txSeq := 0, rxSeq := 0, sendNext := 0, retry := [], rx := [], nak := false, sent := [0, 0, 0],
                                cred := [0, 0, 0], ret := [0, 0, 0], txFrame := 0, rxFrame := 0,
                                narrow := decide (9 - x.retired.length < 8), enc := false }
  if encBit s p then
    let (s, m, a) := makeHello s p
    sendLink (s.setPort p { s.port p with agree := some a }) p m
  else sendLink s p (.identity (reportedNode s) p (groupId s))

/-- TRAINING_COMPLETE (R346). -/
def trainingComplete (s : State) (p : Nat) : State := if (s.port p).st == .training then enterIdent s p else s

/-- TRAINING_TIMEOUT (R346). -/
def trainingTimeout (s : State) (p : Nat) : State :=
  if (s.port p).st == .training then endSession (countRetrain s p) p .down else s

/-- DOWN_RETRY (R346). -/
def downRetry (s : State) (p : Nat) : State :=
  if (s.port p).st == .down && s.pins.crvRef then s.setPort p { s.port p with st := .training } else s

/-- R346: the identity exchange succeeds. -/
def enterUp (s : State) (p : Nat) : State :=
  let s := s.setPort p { s.port p with st := .up, identified := true }
  sendLink s p (.ready ((inForce s).isSome && portEnabled s p))

/-- What the peer says of itself. -/
def setPeer (s : State) (p node port group : Nat) : State :=
  s.setPort p { s.port p with peerNode := if node = 0xFFFF then none else some node, peerPort := port, peerGroup := group }

/-- The node number that the peer reported. -/
def Port.peerRank (x : Port) : Nat := x.peerNode.getD 0xFFFF

/-- R431: the two HELLOs, the lower-ranked end's first. -/
def bothHellos (s : State) (p : Nat) (a : Agreement) : List Byte :=
  if lowerRank s p (s.port p).peerRank (s.port p).peerPort then a.mine ++ a.theirs else a.theirs ++ a.mine

/-- R431: the FINISH of this end: a signature by the Alias key with a fresh secret number. -/
def sendFinish (s : State) (p : Nat) (a : Agreement) : State :=
  let (k, s) := s.draw
  sendLink s p (.finish (ecdsaSign s.vault.alias_ (k % (p384N - 1) + 1) (bothHellos s p a)))

/-- R431: the peer's HELLO. -/
def takeHello (s : State) (p node port group nonce : Nat) (key chain : List Byte) : State :=
  let s := setPeer s p node port group
  let (s, a) := match (s.port p).agree with
    | some a => (s, a)
    | none => let (s, m, a) := makeHello s p; (sendLink s p m, a)
  let a := { a with theirs := helloBytes node port group nonce key chain, peerKey := key, chain := chain }
  sendFinish (s.setPort p { s.port p with agree := some a }) p a

/-- R432: MS: the nonces, the lower-ranked end's first, and the ECDH secret. -/
def masterSecret (s : State) (p : Nat) (a : Agreement) (z : List Byte) : List Byte :=
  let nonce := fun h : List Byte => (h.drop 7).take 32
  hkdfExtract (if lowerRank s p (s.port p).peerRank (s.port p).peerPort then nonce a.mine ++ nonce a.theirs
    else nonce a.theirs ++ nonce a.mine) z

/-- R346: the key agreement or the identity exchange fails. -/
def identFails (s : State) (p : Nat) : State := logEntry (endSession (s.bump kSigFail 1) p .down) 6 5 (statusCode .signature) noCtx p

/-- R431: the peer's FINISH. -/
def takeFinish (s : State) (p : Nat) (sig : List Byte) : State :=
  match (s.port p).agree with
  | none => s
  | some a =>
    if a.theirs.isEmpty then s else
    match Config.chainKey a.chain, ecdh a.priv a.peerKey with
    | some key, some z =>
      if ecdsaVerifies key (bothHellos s p a) sig then
        enterUp (s.setPort p { s.port p with
          enc := true, agree := none,
          keys := some { ms := masterSecret s p a z, lower := lowerRank s p (s.port p).peerRank (s.port p).peerPort, epochTx := 0,
                         epochRx := 0, phaseTx := false, phaseRx := false, frames := 0 } }) p
      else identFails s p
    | _, _ => identFails s p

/-- LINK (R347, R431). -/
def linkPacket (s : State) (p : Nat) (m : LinkMsg) : State :=
  let x := s.port p
  match m with
  | .identity node port group =>
    if x.st == .ident && x.agree.isNone then enterUp (setPeer s p node port group) p else s
  | .hello node port group nonce key chain =>
    if x.st == .ident && chain.length ≤ 4096 then takeHello s p node port group nonce key chain else s
  | .finish sig => if x.st == .ident then takeFinish s p sig else s
  | .ready on => if x.st == .up || x.st == .active then s.setPort p { x with peerReady := on } else s

/-- PORT_ACTIVATE (R346); R345: the round trip that the port measures is a free value (log entry 1). -/
def portActivate (s : State) (p : Nat) : State :=
  let x := s.port p
  if x.st == .up && (inForce s).isSome && portEnabled s p then
    if x.peerGroup != groupId s || x.peerNode.isNone then s.bump16 (kBar0 0x20050) 1
    else if x.peerReady then
      let (v, s) := s.draw
      s.setPort p { x with st := .active, rtt := v % 65536 }
    else s
  else s

/-- RETRAIN_LOCK (R343, R346): the replay resumes from the oldest unacknowledged flit. -/
def retrainLock (s : State) (p : Nat) : State :=
  let x := s.port p
  if x.st == .retrain then
    s.setPort p { x with st := .active, sendNext := (x.txSeq + 2 ^ 32 - x.retry.length) % 2 ^ 32, replayFlag := true,
                         replayEnd := some x.txSeq }
  else s

/-- RETRAIN_TIMEOUT (R343, R346). -/
def retrainTimeout (s : State) (p : Nat) : State := if (s.port p).st == .retrain then endSession s p .down else s

/-! ### Lanes (R348 to R350) -/

/-- The logical lane on the physical lane that has gone longest since its calibration. -/
def stalestLane (x : Port) : Nat :=
  let age := fun l => (tblGet 0 x.calAt (x.laneMap.getD l 0)).toNat
  (List.range (if x.narrow then 4 else 8)).foldl (fun b l => if age l < age b then l else b) 0

/-- R349: ROTATE_REQ for a lane, for a frame at least 64 ahead. -/
def requestRotation (s : State) (p l : Nat) : State :=
  let x := s.port p
  let f := (x.txFrame + 128) % 4096
  s.setPort p { x with lcmd := 1, larg := l + 16 * f, req := some (l, f) }

/-- LANE_ROTATION_START (R348). -/
def laneRotationStart (s : State) (p : Nat) : State :=
  let x := s.port p
  if x.st == .active && lowerRank s p x.peerRank x.peerPort && s.regField (kBar0 0x20014) 0 16 != 0 && x.spare.isSome && x.spareCal
      && x.req.isNone && x.swap.isNone
  then requestRotation s p (stalestLane x) else s

/-- LANE_ROTATION_SWITCH (R349): the named frame. -/
def laneRotationSwitch (s : State) (p : Nat) : State :=
  let x := s.port p
  match x.swap, x.spare with
  | some (l, _), some sp =>
    s.setPort p { x with laneMap := x.laneMap.set l sp, spare := some (x.laneMap.getD l 0), spareCal := false, swap := none, lcmd := 0,
                         larg := 0 }
  | _, _ => s

/-- LANE_ROTATE_RETRY (R349): 1 ms after a ROTATE_NAK. -/
def laneRotateRetry (s : State) (p : Nat) : State := laneRotationStart s p

/-- LANE_CALIBRATION_DONE (R348). -/
def laneCalibrationDone (s : State) (p : Nat) : State :=
  let x := s.port p
  match x.spare with
  | some sp => bgUnit (s.setPort p { x with spareCal := true, calAt := tblSet 0 x.calAt sp s.time }) 3
  | none => s

/-- Physical lanes that work. -/
def workingLanes (x : Port) : List Nat := (List.range 9).filter (fun l => !x.retired.contains l)

/-- R350: the port runs on four logical lanes, on the lowest working ones. -/
def narrowLanes (x : Port) : Port :=
  { x with narrow := true, laneMap := (workingLanes x).take 4 ++ x.laneMap.drop 4 }

/-- R350, R482: a retired lane is a resource of the health record, port × 16 + lane. -/
def laneResource (p lane : Nat) : Nat := resKey kLane (p * 16 + lane)

/-- LANE_RETIRE (R350). -/
def laneRetire (s : State) (p lane : Nat) : State :=
  let x := s.port p
  if x.retired.contains lane || decide (8 < lane) then s else
  let s := { s with rel := { s.rel with retired := setIns s.rel.retired (laneResource p lane) } }
  let s := notice s 0
  let y := { x with retired := setIns x.retired lane }
  if x.spare = some lane then s.setPort p { y with spare := none, spareCal := false }
  else match x.laneMap.idxOf? lane, x.spare with
    | some l, some sp => s.setPort p { y with laneMap := x.laneMap.set l sp, spare := none, spareCal := false, lcmd := 4, larg := l }
    | some _, none =>
      if (workingLanes y).length < 4 then endSession (s.setPort p y) p .down
      else if x.st == .active then startRetrain (s.setPort p (narrowLanes y)) p
      else s.setPort p (narrowLanes y)
    | none, _ => s.setPort p y

/-- LINK_REKEY (R372, R432). -/
def linkRekey (s : State) (p : Nat) : State :=
  let x := s.port p
  match x.keys with
  | none => s
  | some k =>
    if k.epochTx = 0xFFFFFFFF then endSession s p .training
    else s.setPort p { x with keys := some { k with epochTx := k.epochTx + 1, phaseTx := !k.phaseTx, frames := 0 } }

/-! ### Credits (R344, R353) -/

/-- R339, R344: credits left on a virtual lane. -/
def creditsLeft (x : Port) (v : Nat) : Nat := (4096 + x.cred.getD v 0 + 2 ^ 24 - x.sent.getD v 0 % 2 ^ 24) % 2 ^ 24

/-- CREDIT_STALL_TICK (R353). -/
def creditStallTick (s : State) (p v : Nat) : State :=
  let x := s.port p
  if v < 3 && x.tx.any (fun f => f.vl == v) && creditsLeft x v == 0 then s.bump16 (kBar0 (0x20A00 + 0x10 * p + 4 * v)) 1 else s

/-! ### The reference clock (R532) -/

/-- CRV_REF_CLK_LOSS. -/
def crvClkLoss (s : State) : State :=
  let s := { s with pins := { s.pins with crvRef := false } }
  (List.range 36).foldl (fun s p => if (s.port p).st == .off then s else endSession s p .down) s
/-- CRV_REF_CLK_RETURN. -/
def crvClkReturn (s : State) : State :=
  (List.range 36).foldl downRetry { s with pins := { s.pins with crvRef := true } }

/-- A row of a port. -/
def portRow (p : Nat) (s s' : State) : Out := hub s (if p < 36 then s' else s)

def execPortCtrlWrite (a : Agent) (port : Nat) (v : Word) (s : State) : Out :=
  portRow port s (viaBar0 s a (0x20104 + 0x40 * port) (fun s => portCtrlWrite s port v))
def execTrainingComplete (port : Nat) (s : State) : Out := portRow port s (trainingComplete s port)
def execTrainingTimeout (port : Nat) (s : State) : Out := portRow port s (trainingTimeout s port)
def execDownRetry (port : Nat) (s : State) : Out := portRow port s (downRetry s port)
def execLinkPacket (port : Nat) (msg : LinkMsg) (s : State) : Out := portRow port s (linkPacket s port msg)
def execPortActivate (port : Nat) (s : State) : Out := portRow port s (portActivate s port)
def execRetrainLock (port : Nat) (s : State) : Out := portRow port s (retrainLock s port)
def execRetrainTimeout (port : Nat) (s : State) : Out := portRow port s (retrainTimeout s port)
def execLaneRotationStart (port : Nat) (s : State) : Out := portRow port s (laneRotationStart s port)
def execLaneRotationSwitch (port : Nat) (s : State) : Out := portRow port s (laneRotationSwitch s port)
def execLaneRotateRetry (port : Nat) (s : State) : Out := portRow port s (laneRotateRetry s port)
def execLaneCalibrationDone (port : Nat) (s : State) : Out := portRow port s (laneCalibrationDone s port)
def execLaneRetire (port : Nat) (lane : Nat) (s : State) : Out := portRow port s (laneRetire s port lane)
def execLinkRekey (port : Nat) (s : State) : Out := portRow port s (linkRekey s port)
def execCreditStallTick (port : Nat) (lane : Nat) (s : State) : Out := portRow port s (creditStallTick s port lane)
def execCrvRefClkLoss (s : State) : Out := hub s (crvClkLoss s)
def execCrvRefClkReturn (s : State) : Out := hub s (crvClkReturn s)

end Sys2Proof.Machine
end

