-- ==== Sys2Proof/Machine/Frames.lean ====
section
/-! DEFINITION. Sys2Proof/Machine/Frames.lean: frames of a Caravan port (R337 to R344, R349 to R353, R372): the rows FRAME_TRANSMIT and
FRAME_RECEIVE. -/

namespace Sys2Proof.Machine

open Sys2Proof

/-! ### Sequence numbers (R339) -/

def seqMod : Nat := 2 ^ 32
/-- The oldest unacknowledged number. -/
def oldestSeq (x : Port) : Nat := (x.txSeq + seqMod - x.retry.length) % seqMod
/-- Numbers from `a` to `b`. -/
def seqDist (a b : Nat) : Nat := (b + seqMod - a) % seqMod

/-! ### Keys (R372, R432) -/

/-- The key of a direction in an epoch. -/
def frameKey (k : LinkKeys) (out : Bool) (epoch : Nat) : List Byte :=
  hkdfExpand k.ms (ascii "CRV key" ++ bytesLE (if out == k.lower then 0 else 1) 1 ++ bytesLE epoch 4) 32

/-- R372: the nonce. -/
def frameNonce (epoch frame : Nat) : List Byte := bytesLE epoch 4 ++ bytesLE frame 8

/-! ### FRAME_TRANSMIT -/

/-- R341, R344: the flits taken from a queue: in order on each lane, each with a credit; those taken and those left. -/
def pickFlits (x : Port) : Nat → List Nat → List Nat → List Flit → List Flit × List Flit
  | _, _, _, [] => ([], [])
  | room, sent, stopped, f :: l =>
    if room = 0 then ([], f :: l)
    else if stopped.contains f.vl || creditsLeft { x with sent := sent } f.vl == 0 then
      let r := pickFlits x room sent (f.vl :: stopped) l
      (r.1, f :: r.2)
    else
      let r := pickFlits x (room - 1) (sent.set f.vl (sent.getD f.vl 0 + 1)) stopped l
      (f :: r.1, r.2)

/-- The flits sent by lane after some more. -/
def countSent (sent : List Nat) (l : List Flit) : List Nat := l.foldl (fun n f => n.set f.vl (n.getD f.vl 0 + 1)) sent

/-- What the next frame carries: the flits, how many of them are new, the flits left. -/
def nextFlits (x : Port) : List Flit × Nat × List Flit :=
  let old := (x.retry.drop (seqDist (oldestSeq x) x.sendNext)).take 39
  let new := pickFlits x (min (39 - old.length) (4096 - x.retry.length)) x.sent [] x.tx
  (old ++ new.1, new.1.length, new.2)

/-- Bits of a list of naturals, each of `w` bits. -/
def packBits (w : Nat) (l : List Nat) : Nat := (l.zipIdx.map (fun x => x.1 * 2 ^ (w * x.2))).sum

/-- R338: bytes 0 to 43 of the control flit. -/
def controlBytes (x : Port) (fs : List Flit) : List Byte :=
  let phase := x.keys.any (·.phaseTx)
  bytesLE x.sendNext 4 ++ bytesLE x.rxSeq 4 ++ bytesLE (bit x.nak 0 + bit x.replayFlag 1 + bit x.enc 2 + bit phase 3) 1
    ++ bytesLE x.lcmd 1 ++ bytesLE x.larg 2 ++ x.ret.flatMap (fun v => bytesLE v 3)
    ++ bytesLE (packBits 1 (fs.map (fun _ => 1))) 5 ++ bytesLE (packBits 1 (fs.map (fun f => if f.poison then 1 else 0))) 5
    ++ bytesLE (packBits 2 (fs.map (·.vl))) 10 ++ bytesLE 0 3

/-- Zeros. -/
def zeros (n : Nat) : List Byte := List.replicate n 0

/-- R337, R338, R372: the 2,560 bytes of a frame. -/
def frameBytes (x : Port) (fs : List Flit) : List Byte :=
  let ctl := controlBytes x fs
  let body := (fs.flatMap (·.data) ++ zeros (39 * 64)).take (39 * 64)
  let (body, tag) := match x.enc, x.keys with
    | true, some k => gcmSeal (frameKey k true k.epochTx) (frameNonce k.epochTx x.txFrame) ctl body
    | _, _ => (body, zeros 16)
  let crc := crc32c (ctl ++ tag ++ zeros 4 ++ body)
  ctl ++ tag ++ bytesLE crc 4 ++ body

/-- R342, R343: a replay that has come to its end is counted. -/
def replayEnds (x : Port) : Port :=
  if x.replayEnd == some x.sendNext then { x with replayEnd := none, replays := x.replays + 1 } else x

/-- The port carries frames. -/
def carriesFrames (x : Port) : Bool := x.st == .ident || x.st == .up || x.st == .active

/-- FRAME_TRANSMIT. -/
def frameTransmit (s : State) (p : Nat) : State :=
  let x := s.port p
  if !carriesFrames x then s else
  let (fs, new, rest) := nextFlits x
  let y := { x with lastFrame := frameBytes x fs, txFrame := x.txFrame + 1, replayFlag := false, tx := rest,
                    retry := x.retry ++ fs.drop (fs.length - new), sent := countSent x.sent (fs.drop (fs.length - new)),
                    txSeq := (x.txSeq + new) % seqMod, sendNext := (x.sendNext + fs.length) % seqMod,
                    keys := x.keys.map (fun k => { k with frames := k.frames + 1 }) }
  let y := replayEnds y
  let s := s.setPort p y
  if y.st == .active && 8 ≤ y.replays then startRetrain s p else s

/-! ### FRAME_RECEIVE -/

/-- The control flit's fields. -/
structure Control where
  fsn : Nat
  ack : Nat
  nak : Bool
  replay : Bool
  phase : Bool
  lcmd : Nat
  larg : Nat
  cred : List Nat
  valid : Nat
  poison : Nat
  vl : Nat
deriving DecidableEq, Repr

def parseControl (b : List Byte) : Control :=
  let f := fld b 8 1
  { fsn := fld b 0 4, ack := fld b 4 4, nak := bits f 0 1 == 1, replay := bits f 1 1 == 1, phase := bits f 3 1 == 1, lcmd := fld b 9 1,
    larg := fld b 10 2, cred := [fld b 12 3, fld b 15 3, fld b 18 3], valid := fld b 21 5, poison := fld b 26 5, vl := fld b 31 10 }

/-- The positions of valid flits. -/
def Control.positions (c : Control) : List Nat := (List.range 39).filter (fun i => bits c.valid i 1 == 1)

/-- R338: a reserved lane command or lane tag. -/
def Control.reserved (c : Control) : Bool := 4 < c.lcmd || c.positions.any (fun i => bits c.vl (2 * i) 2 == 3)

/-- R338: the CRC over the frame with its field zero. -/
def crcGood (b : List Byte) : Bool := fld b 60 4 == crc32c (b.take 60 ++ zeros 4 ++ b.drop 64)

/-- R372: the data of a frame in plain, and the keys after it; none when the tag fails. -/
def openFrame (x : Port) (c : Control) (b : List Byte) : Option (List Byte × Option LinkKeys) :=
  match x.enc, x.keys with
  | true, some k =>
    let e := if c.phase == k.phaseRx then k.epochRx else k.epochRx + 1
    (gcmOpen (frameKey k false e) (frameNonce e x.rxFrame) (b.take 44) (b.drop 64) ((b.drop 44).take 16)).map
      (fun m => (m, some { k with epochRx := e, phaseRx := c.phase }))
  | _, _ => some (b.drop 64, x.keys)

/-- R338, R340: a bad frame. -/
def badFrame (s : State) (p : Nat) : State :=
  let s := s.bump (kPort p 0x20) 1
  s.setPort p { s.port p with nak := true }

/-- R372: a tag failure; eight in a row cause a full training. -/
def tagFailure (s : State) (p : Nat) : State :=
  let s := s.setReg (kPort p 0x30) (setField (s.reg (kPort p 0x30)) 16 16 (min 65535 (s.regField (kPort p 0x30) 16 16 + 1)))
  let s := badFrame s p
  let x := s.port p
  if x.tagFails = 7 then endSession (countRetrain s p) p .training else s.setPort p { x with tagFails := x.tagFails + 1 }

/-- R341: an ACK; the flag says that it is acted on. -/
def takeAck (s : State) (p a : Nat) : State × Bool :=
  let x := s.port p
  let n := seqDist (oldestSeq x) a
  if x.retry.length < n then (s.bump16 (kPort p 0x34) 1, false) else
  let passed := seqDist (oldestSeq x) x.sendNext < n
  (s.setPort p { x with retry := x.retry.drop n, sendNext := if passed then a else x.sendNext,
                        replayEnd := if passed && x.replayEnd == some a then none else x.replayEnd,
                        replays := if n = 0 then x.replays else 0 }, true)

/-- R342: a NAK begins a replay, unless it repeats that of a replay younger than 1.5 µs. -/
def takeNak (s : State) (p a : Nat) : State :=
  let x := s.port p
  if x.replayAck.any (fun r => r.1 == a && decide ((s.time - r.2).toNat < 1500)) then s else
  let s := s.bump (kPort p 0x28) 1
  s.setPort p { s.port p with sendNext := a, replayFlag := true, replayEnd := some x.txSeq, replayAck := some (a, s.time) }

/-- R344: credits, cumulative. -/
def takeCredits (x : Port) (l : List Nat) : Port :=
  { x with cred := (x.cred.zip l).map (fun c => if (c.2 + 2 ^ 24 - c.1) % 2 ^ 24 < 2 ^ 23 then c.2 else c.1) }

/-- R349: ROTATE_REQ. -/
def takeRotateReq (s : State) (p larg : Nat) : State :=
  let x := s.port p
  if x.req.isSome && lowerRank s p x.peerRank x.peerPort then s else
  if x.spare.isSome && x.spareCal then
    s.setPort p { x with req := none, lcmd := 2, larg := larg, swap := some (larg % 16, larg / 16) }
  else s.setPort p { x with req := none, lcmd := 3, larg := larg }

/-- R350: RETIRE of a logical lane by the peer. -/
def takeRetire (s : State) (p l : Nat) : State :=
  let x := s.port p
  match x.spare, x.laneMap[l]? with
  | some sp, some lane =>
    let s := { s with rel := { s.rel with retired := setIns s.rel.retired (laneResource p lane) } }
    notice (s.setPort p { x with laneMap := x.laneMap.set l sp, spare := none, spareCal := false, retired := setIns x.retired lane }) 0
  | _, _ => s

/-- R349, R350: the lane command of a good frame. -/
def takeLane (s : State) (p : Nat) (c : Control) : State :=
  let x := s.port p
  if c.lcmd = 1 then takeRotateReq s p c.larg
  else if c.lcmd = 4 then takeRetire s p c.larg
  else match c.lcmd, x.req with
    | 2, some (l, f) => if c.larg = l + 16 * f then s.setPort p { x with req := none, lcmd := 0, larg := 0, swap := some (l, f) } else s
    | 3, some (l, f) => if c.larg = l + 16 * f then s.setPort p { x with req := none, lcmd := 0, larg := 0 } else s
    | _, _ => if x.lcmd = 2 ∨ x.lcmd = 3 then s.setPort p { x with lcmd := 0, larg := 0 } else s

/-! ### Packets of accepted flits -/

/-- R352, R353: a packet for another module. -/
def forward (s : State) (fs : List Flit) : State :=
  match fs with
  | [] => s
  | h :: l =>
    if fld h.data 1 1 = 0 then s.bump kHopDrop 1 else
    match routePort s (fld h.data 2 2) (bits (fld h.data 7 1) 0 1 == 1) (fld h.data 8 8) with
    | some q => queueFlits s q ({ h with data := h.data.set 1 (BitVec.ofNat 8 (fld h.data 1 1 - 1)), own := none } :: l)
    | none => s.bump kUnreach 1

/-- A packet for this module. -/
def deliver (s : State) (p t : Nat) (fs : List Flit) : State :=
  if t = ptWrite then writePacket s (farParse fs)
  else if t = ptReadReq then readReqPacket s (farParse fs) false
  else if t = ptReadData then readDataPacket s (farParse fs)
  else if t = ptCommit then commitPacket s (farParse fs)
  else if t = ptAbort then abortPacket s (farParse fs)
  else if t = ptDone then donePacket s (farParse fs)
  else if t = ptTallyUp then tallyUp s p (tallyParse fs)
  else if t = ptTallyDown then tallyDown s p (tallyParse fs)
  else s

/-- R351: one packet; a LINK packet is the LINK row's. -/
def takePacket (s : State) (p v : Nat) (fs : List Flit) : State :=
  let h := (fs.map (·.data)).headD []
  let t := fld h 0 1
  if ptLane t ≠ some v then packetBad s p
  else if t = ptLink then s
  else if selfNode s == some (fld h 2 2) then deliver s p t fs
  else forward s fs

/-- R344: flits that leave the receive buffer return their credits. -/
def returnCredits (s : State) (p v n : Nat) : State :=
  let x := s.port p
  s.setPort p { x with ret := x.ret.set v ((x.ret.getD v 0 + n) % 2 ^ 24) }

/-- The complete packets of a lane, in order; the flits of one that is not complete stay. -/
def takePackets (p v : Nat) : Nat → State → List Flit → State × List Flit
  | 0, s, fs => (s, fs)
  | _, s, [] => (s, [])
  | fuel + 1, s, h :: l =>
    let n := fld h.data 6 1
    if 64 < n then takePackets p v fuel (packetBad (returnCredits s p v 1) p) l
    else if l.length < n then (s, h :: l)
    else takePackets p v fuel (takePacket (returnCredits s p v (n + 1)) p v (h :: l.take n)) (l.drop n)

/-- One lane. -/
def drainLane (p : Nat) (s : State) (v : Nat) : State :=
  let x := s.port p
  let mine := x.rx.filter (fun f => f.vl == v)
  let (s, left) := takePackets p v mine.length (s.setPort p { x with rx := x.rx.filter (fun f => f.vl != v) }) mine
  s.setPort p { s.port p with rx := (s.port p).rx ++ left }

/-- The valid flits of a frame. -/
def frameFlits (c : Control) (m : List Byte) : List Flit :=
  c.positions.map (fun i => { vl := bits c.vl (2 * i) 2, data := (m.drop (64 * i)).take 64, poison := bits c.poison i 1 == 1 })

/-- R340: the data flits of a good frame: accepted when FSN is the expected number, and after a gap only with REPLAY. -/
def takeFlits (s : State) (p : Nat) (c : Control) (m : List Byte) : State :=
  let x := s.port p
  if c.fsn = x.rxSeq ∧ (x.nak = false ∨ c.replay = true) then
    let fs := frameFlits c m
    let s := s.setPort p { x with nak := false, rxSeq := (x.rxSeq + fs.length) % seqMod, rx := x.rx ++ fs }
    [0, 1, 2].foldl (drainLane p) s
  else s.setPort p { x with nak := true }

/-- A good frame. -/
def goodFrame (s : State) (p : Nat) (c : Control) (m : List Byte) : State :=
  let r := takeAck s p c.ack
  let s := if c.nak && r.2 then takeNak r.1 p c.ack else r.1
  let s := s.setPort p (takeCredits (s.port p) c.cred)
  takeFlits (takeLane s p c) p c m

/-- FRAME_RECEIVE. -/
def frameReceive (s : State) (p : Nat) (f : RxFrame) : State :=
  let x := s.port p
  if !carriesFrames x then s else
  let s := s.bump (kPort p 0x18) f.corrected
  let c := parseControl f.bytes
  let s := s.setPort p { x with rxFrame := x.rxFrame + 1 }
  if f.fecBad || f.bytes.length != 2560 || !crcGood f.bytes || c.reserved then badFrame s p else
  match openFrame x c f.bytes with
  | none => tagFailure s p
  | some (m, k) => goodFrame (s.setPort p { s.port p with keys := k, tagFails := 0 }) p c m

def execFrameTransmit (port : Nat) (s : State) : Out := portRow port s (frameTransmit s port)
def execFrameReceive (port : Nat) (frame : RxFrame) (s : State) : Out := portRow port s (frameReceive s port frame)

end Sys2Proof.Machine
end

