-- ==== Sys2Proof/Machine/Reset.lean ====
section
/-! DEFINITION. Sys2Proof/Machine/Reset.lean: what each reset and low-power state keeps and clears (R510, R511, R521 to R523). -/

namespace Sys2Proof.Machine

open Sys2Proof

/-! ### What R522 keeps -/

/-- BAR0 registers that a warm reset keeps: the counters cleared at cold reset only and the energy accumulators, WAKE_CFG,
WAKE_CAUSE, COMP_COUNT, BOOT_CFG. -/
def warmKept (k : Nat) : Bool :=
  let (sp, _, off) := keySpace k
  sp == .bar0 && ([0x24010, 0x24014, 0x24018, 0x3000C, 0x20050].contains off || (decide (0x20A00 ≤ off) && decide (off < 0x20C40))
    || match findReg sp off with
       | some (d, _) => d.ro == 0xFFFFFFFF && d.rw == 0 && d.w1c == 0 && off != 0xF024 && off != 0xF028
       | none => false)

/-- The registers after a warm reset; of MCTP_STATUS, MCTP_DROP is kept. -/
def warmRegs (s : State) : Tbl Word :=
  s.regs.filterMap (fun e =>
    if e.1 = 0x28400 then (if s.regField 0x28400 16 16 = 0 then none else some (e.1, e.2 &&& 0xFFFF0000#32))
    else if warmKept e.1 then some e else none)

/-- The vault after power has been lost: fuses and persistent keys stay, volatile keys go. -/
def Vault.persistent (v : Vault) : Vault :=
  { Vault.reset with owner := v.owner, ownerSeq := v.ownerSeq, planKeys := v.planKeys, pubKeys := v.pubKeys, svn := v.svn,
                     revoked := v.revoked, lifecycle := v.lifecycle }

/-- SPI NOR after power has been lost. -/
def Boot.persistent (b : Boot) : Boot :=
  { Boot.reset with running := false, areaA := b.areaA, areaB := b.areaB, active := b.active, pend := b.pend, plan := b.plan }

/-- R33, R522: the topology before start-up: DIE_PRESENT and the counts of lane repairs stay until the next cold reset. -/
def Topo.persistent (t : Topo) : Topo :=
  { Topo.reset with diePresent := t.diePresent, links := t.links.map (fun e => (e.1, { e.2 with up := 0 })) }

/-- R510, R511, R522: a warm reset of kind `kind` (LAST_KIND of R525) begins: all work stops and what R522 clears is cleared. The host's
memory, the messages already sent and the records of the trace port are not the module's to clear. -/
def warmReset (s : State) (kind : Nat) : State :=
  let t : State :=
    { State.reset with
      pending := s.pending, reply := s.reply, replyPoison := s.replyPoison, free := s.free, time := s.time, tclk := s.tclk,
      nextSid := s.nextSid, regs := warmRegs s, com := { Store.reset with host := s.com.host },
      host := { HostSt.reset with msgs := s.host.msgs }, trace := s.trace,
      elog := { s.elog with rdLo := none, shadow := [] },
      sched := { Sched.reset with idleUj := s.sched.idleUj, idleFrac := s.sched.idleFrac },
      rel := { Rel.reset with recorded := s.rel.recorded, ageing := s.rel.ageing }, vault := s.vault.persistent,
      topo := s.topo.persistent,
      boot := { s.boot.persistent with kind := kind, began := s.time },
      pins := { s.pins with wakeN := false, thermtrip := false } }
  t.bump (kBar0 0x30018) 1

/-- R522: a cold reset begins: step 0 runs; the straps are sampled (R531). -/
def coldReset (s : State) : State :=
  let t : State :=
    { State.reset with
      pending := s.pending, reply := s.reply, replyPoison := s.replyPoison, free := s.free, nextSid := s.nextSid,
      com := { Store.reset with host := s.com.host }, host := { HostSt.reset with msgs := s.host.msgs }, trace := s.trace,
      regs := s.regs.filter (fun e => e.1 == 0x3000C),
      rel := { Rel.reset with recorded := s.rel.recorded, ageing := s.rel.ageing }, vault := s.vault.persistent,
      boot := { s.boot.persistent with running := true },
      pins := { s.pins with aux := true, wakeN := false, thermtrip := false, sbAddr := 0x60 + s.pins.strap } }
  t

/-! ### Fallow (R464, R470, R522, R523) -/

/-- R472, R522: the Caravan ports are Off, their keys and their state gone. -/
def portsOff (s : State) : State :=
  s.setFab { s.fab with ports := (List.range 36).map (fun p => (p, { Port.reset with st := .off })), stages := [], reqs := [], colls := [] }

/-- R350, R483: a port's retired lanes stay retired. -/
def retiredLanes (s : State) (p : Nat) : State :=
  (s.rel.retired.filter (fun k => k / 2 ^ 16 == kLane && k % 2 ^ 16 / 16 == p)).foldl (fun s k =>
    let x := s.port p
    let l := k % 16
    let y := { x with retired := setIns x.retired l }
    if x.spare = some l then s.setPort p { y with spare := none }
    else match x.laneMap.idxOf? l, x.spare with
      | some i, some sp => s.setPort p { y with laneMap := x.laneMap.set i sp, spare := none }
      | _, _ => s.setPort p (narrowLanes y)) s

/-- R346, R519: the ports whose EN is 1 train. -/
def portsTrain (s : State) : State :=
  (List.range 36).foldl (fun s p =>
    let on := s.regField (kPort p 4) 0 1 == 1
    retiredLanes (s.setPort p { Port.reset with st := if on then .training else .off }) p) s

/-- R495: the sensors of a range read invalid, their domain being off. -/
def sensorsOff (s : State) (p : Nat → Bool) : State :=
  { s with sensors := s.sensors.map (fun e => if p e.1 then (e.1, { e.2 with valid := false }) else e) }

/-- R522: what is lost with Loft unpowered: Loft content, sequences, keys, the field plan. No context exists (R467). -/
def dropLoft (s : State) : State :=
  { s with com := { Store.reset with host := s.com.host }, grans := [], olds := [], replMem := [], replPoison := [], rings := [], evc := [],
           ctxs := [], latches := [], nodes := [], driftKey := 0, usedSheaves := [], recSheaves := [], relQueue := [], groupFree := [],
           plan := { PlanSt.reset with gen := s.plan.gen },
           sched := { Sched.reset with idleUj := s.sched.idleUj, idleFrac := s.sched.idleFrac },
           vault := { s.vault with pkgs := [] } }

/-- R470, R523: the module is off in Fallow. With LOFT_KEEP its volatile state lies in Loft, wrapped under a new key. -/
def fallowEntered (s : State) (keep : Bool) : State :=
  let s := sensorsOff (portsOff s) (fun _ => true)
  let s := { s with silo := s.silo.map (fun (e : Nat × SiloPort) => (e.1, { e.2 with trained := false })), aclk := [],
                    host := { s.host with speed := 0, width := 0, flit := false } }
  let (k, s) := s.draw
  let s := { s with boot := { s.boot with step := 0, running := false, done := false, wrapKey := if keep then k % 2 ^ 256 else 0 } }
  let s := if keep then s else dropLoft s
  s.setPwr { s.pwr with state := .fallow, shake := none, moving := none, keepLoft := keep, granted := [],
                        dies := s.pwr.dies.map (fun (e : Nat × DiePower) => (e.1, { e.2 with sprint := false, rising := none, mv := 620 })) }

end Sys2Proof.Machine
end

