-- ==== Sys2Proof/Machine/Power.lean ====
section
/-! DEFINITION. Sys2Proof/Machine/Power.lean: power states, clocks, phases, the budget and the thermal limits (R461 to R480, R495) and the
rows RUN, HOLD, NAP, AUTO_HOLD, HANDSHAKE_*, POWER_TRANSITION_DONE, WAKE_EVENT, COMP_*, WAKE_CFG_WRITE, ACLK_SLEW_DONE, PHASE_SAMPLE,
SPARE_PHASE_SWITCHED, BUDGET_EVALUATION, INPUT_OVERCURRENT, SENSOR_SAMPLE, SIDEBAND_WAKE, POWER_REQUEST. -/

namespace Sys2Proof.Machine

open Sys2Proof

/-! ### Requests (R465, R466) -/

/-- The order of the states, from the shallowest. -/
def PwrState.depth : PwrState → Nat
  | .run => 0 | .hold => 1 | .nap => 2 | .fallow => 3

/-- A request ends. -/
def pwrResult (s : State) (st : Status) (reason refuser : Nat) : State :=
  s.setPwr { s.pwr with result := st, reason := reason, refuser := refuser }

/-- R479: a request is being served. -/
def pwrBusy (s : State) : Bool := s.pwr.shake.isSome || s.pwr.moving.isSome

/-- R465 to R467, R469: a request for a state. -/
def pwrRequest (s : State) (t : PwrState) : State :=
  if pwrBusy s then s
  else if t = s.pwr.state then pwrResult s .ok 0 0
  else if t = .fallow ∧ (s.fn 0).d3 = false then pwrResult s .notReady 1 0
  else if t.depth < s.pwr.state.depth then wakeAny s
  else s.setPwr { s.pwr with shake := some (t, []), reason := 0, refuser := 0 }

/-- R465: a write to PWR_CTRL; the host may not name Fallow. -/
def pwrCtrl (s : State) (v : Word) : State :=
  match bits v.toNat 0 2 with
  | 0 => pwrRequest s .run
  | 1 => pwrRequest s .hold
  | 2 => pwrRequest s .nap
  | _ => if pwrBusy s then s else pwrResult s .format 0 0

/-- R465: the PF enters D3hot: the state that D3_TARGET names. -/
def pwrD3 (s : State) : State :=
  match s.regField (kBar0 0x24008) 11 2 with
  | 1 => pwrRequest s .hold
  | 2 => pwrRequest s .nap
  | 3 => pwrRequest s .fallow
  | _ => s

/-- R465: the power controller requests Hold on its own. -/
def autoHold (s : State) : State :=
  if s.regField (kBar0 0x24008) 0 1 = 1 ∧ s.pwr.state = .run then pwrRequest s .hold else s

/-! ### The entry handshake (R467, R468) -/

/-- The participants that the entry into a state asks. -/
def participants (t : PwrState) : List Nat := if t = .hold then [1, 2] else [1, 2, 3, 4, 5, 6, 7, 8, 9]

/-- Some command meets a condition. -/
def someCmd (s : State) (p : Cmd → Bool) : Bool := !(cmdsWhere s p).isEmpty

/-- R467: a port carries packets of other modules. -/
def carriesTransit (s : State) : Bool := (List.range 36).any (fun p => (s.port p).tx.any (fun f => f.own.isNone))

/-- R467: what the state of the module makes a participant answer; none for background units and host requests, which the model
does not hold. -/
def partAnswer (s : State) (t : PwrState) (p : Nat) : Option HsAnswer :=
  let delayIf := fun b : Bool => some (if b then HsAnswer.delay else .accept)
  match p with
  | 1 =>
    if t != .hold && someCmd s (fun x => x.phase == .deciding) then some .refuse
    else delayIf (someCmd s (fun x => x.phase == .running && !isFence (dOpcode x.desc)))
  | 2 => delayIf (someCmd s (fun x => x.phase == .computed))
  | 3 => delayIf (s.grans.any (fun e => e.2.mig.isSome || e.2.repairing))
  | 5 =>
    if t == .fallow && carriesTransit s then some .refuse
    else delayIf (!s.fab.reqs.isEmpty
      || someCmd s (fun x => x.dispatched && (dOpcode x.desc == opReduce || dOpcode x.desc == opReshard)))
  | 7 =>
    if t == .fallow && s.regField (kBar0 0x24008) 13 1 == 0 && someContext s then some .refuse
    else delayIf (s.ctxs.any (fun e => e.2.st == .destroying || e.2.st == .resetting))
  | 8 => delayIf (fpBusy s)
  | 9 => delayIf (s.vault.op.isSome || s.ctxs.any (fun e => e.2.wpkOp.isSome))
  | _ => none

/-- R468: a participant accepts; when all have, the entry steps begin. -/
def acceptShake (s : State) (t : PwrState) (acc : List Nat) (p : Nat) : State :=
  let acc := setIns acc p
  if (participants t).all acc.contains then s.setPwr { s.pwr with shake := none, moving := some t }
  else s.setPwr { s.pwr with shake := some (t, acc) }

/-- HANDSHAKE_ANSWER (R467, R468): an answer counts when it is the one that R467 gives. -/
def handshakeAnswer (s : State) (p : Nat) (ans : HsAnswer) : State :=
  match s.pwr.shake with
  | none => s
  | some (t, acc) =>
    if !(participants t).contains p || acc.contains p then s
    else if !(match partAnswer s t p with | some a => ans == a | none => ans != .refuse) then s
    else match ans with
      | .delay => s
      | .refuse => abandonShake s 1 p
      | .accept => acceptShake s t acc p

/-- HANDSHAKE_TIMEOUT (R467, R468): the participant that has not accepted counts as refusing. -/
def handshakeTimeout (s : State) : State :=
  match s.pwr.shake with
  | none => s
  | some (t, acc) =>
    match (participants t).find? (fun p => !acc.contains p) with
    | some p => abandonShake s 2 p
    | none => s

/-! ### Entry and exit (R470) -/

/-- R470: the last step of a transition: STATE, RESULT and STATE_DONE. -/
def stateReached (s : State) (t : PwrState) : State :=
  pwrEvent (s.setPwr { s.pwr with state := t, moving := none, shake := none, result := .ok, reason := 0, refuser := 0 }) 16

/-- R468, R469: a wake event that came during the entry steps is served. -/
def serveWake (s : State) : State := if s.pwr.wake then wakeAny (s.setPwr { s.pwr with wake := false }) else s

/-- POWER_TRANSITION_DONE (R470, R495). Leaving Fallow ends with start-up (R523). -/
def powerTransitionDone (s : State) : State :=
  match s.pwr.moving with
  | none => s
  | some .run => if s.pwr.state = .fallow then s else stateReached s .run
  | some .fallow => serveWake (fallowEntered (stateReached s .fallow) (s.regField (kBar0 0x24008) 13 1 == 1))
  | some .nap => serveWake (sensorsOff (stateReached s .nap) (· < 64))
  | some .hold => serveWake (stateReached s .hold)

/-- R478, R536: a trip: THERMTRIP_N, and Fallow at once with Loft not kept. -/
def thermalTrip (s : State) : State :=
  let s := pwrEvent { s with pins := { s.pins with thermtrip := true } } 19
  let s := fallowEntered s false
  s.setPwr { s.pwr with tripped := true, reason := 3, wake := false }

/-! ### The wake comparator (R471) -/

/-- COMP_TRIP. -/
def compTrip (s : State) : State :=
  if !s.pwr.armed then s else
  let s := s.setPwr { s.pwr with armed := false }
  wakeSource ((s.setBits kWakeCause 1).bump16 (kBar0 0x24018) 1) 0

/-- COMP_REARM. -/
def compRearm (s : State) : State := s.setPwr { s.pwr with armed := true }

/-- WAKE_CFG_WRITE: the comparator then starts armed. -/
def wakeCfgWrite (s : State) (v : Word) : State := compRearm (s.setReg kWakeCfg (v &&& 0x1FFF77F#32))

/-! ### ACLK (R463) -/

def State.die (s : State) (d : Nat) : DiePower := tblGet DiePower.reset s.pwr.dies d
def State.setDie (s : State) (d : Nat) (x : DiePower) : State := s.setPwr { s.pwr with dies := tblSet DiePower.reset s.pwr.dies d x }
def State.rail (s : State) (r : Nat) : RailSt := tblGet RailSt.reset s.pwr.rails r
def State.setRail (s : State) (r : Nat) (x : RailSt) : State := s.setPwr { s.pwr with rails := tblSet RailSt.reset s.pwr.rails r x }
def State.phase (s : State) (i : Nat) : PhaseSt := tblGet (PhaseSt.reset i) s.pwr.phases i
def State.setPhase (s : State) (i : Nat) (x : PhaseSt) : State := s.setPwr { s.pwr with phases := tblSet (PhaseSt.reset i) s.pwr.phases i x }

/-- R1, R463: the voltage of a frequency step in mV: the rated points, else the calibrated curve (log entry 28). -/
def dieMv (d f : Nat) : Nat := if f = 1200 then 620 else if f = 1500 then 750 else Config.railMv d f

/-- R475: the highest ACLK that the rails of a die allow. -/
def railCap (s : State) (d : Nat) : Nat := min (s.rail d).cap (s.rail (16 + d)).cap

/-- R476 to R478, R495: ACLK of a die, as everything that governs it has it. -/
def aclkTarget (s : State) (d : Nat) : Nat :=
  let x := s.die d
  let point := if x.sprint && x.ceil == 1200 && x.therm == 1200 && !x.held && !dieBlind s d then 1500 else 1200
  min (min point (min (max x.ceil 600) (max x.therm 600) + (point - 1200))) (railCap s d)

/-- R463: a die goes to its target: lowered at once, raised when the voltage is reached. -/
def adjustDie (s : State) (d : Nat) : State :=
  let t := aclkTarget s d
  let x := s.die d
  if aclkMHz s d < t then s.setDie d { x with mv := dieMv d t, rising := some t }
  else { s with aclk := tblSet 1200 s.aclk d t }.setDie d { x with mv := dieMv d t, rising := none }

/-- Every die goes to its target. -/
def adjustDies (s : State) : State := (List.range 16).foldl adjustDie s

/-- ACLK_SLEW_DONE (R463): the array rail has reached the new voltage. -/
def aclkSlewDone (s : State) (d : Nat) : State :=
  match (s.die d).rising with
  | some f =>
    if f ≤ aclkTarget s d then { s with aclk := tblSet 1200 s.aclk d f }.setDie d { s.die d with rising := none } else adjustDie s d
  | none => s

/-- A die's sprint is revoked. -/
def revokeSprint (s : State) (d : Nat) : State :=
  let s := s.setPwr { s.pwr with granted := setDel s.pwr.granted d }
  s.setDie d { s.die d with sprint := false }

/-! ### Rails and phases (R473 to R475) -/

/-- R473: the phases built for a rail. -/
def railBuilt (r : Nat) : Nat :=
  if r < 16 then 4 else if r < 48 then 2 else if r < 50 then 9 else if r = 50 then 4 else 2

/-- The healthy phases of a rail, spares included. -/
def railPhases (s : State) (r : Nat) : List Nat :=
  (List.range 160).filter (fun i => ((s.phase i).st == 0 || (s.phase i).st == 1) && (s.phase i).rail == r)

/-- R473: the current of a rail at an ACLK in 0.1 A: the two points stated, else the die's model (log entry 28). -/
def railAmps (r f : Nat) : Nat := if r < 16 ∧ f = 1200 then 867 else if r < 16 ∧ f = 1500 then 1250 else Config.railAmps r f

/-- R475: what the healthy phases of a rail carry at 0.9 of rating, in 0.1 A. -/
def railCapacity (s : State) (r : Nat) : Nat := 360 * (railPhases s r).length

/-- The highest step of 25 MHz, of `n` steps from 600 MHz on, whose modelled current fits; 600 MHz when none does. -/
def fitStep (s : State) (r : Nat) : Nat → Nat
  | 0 => 600
  | n + 1 => if railAmps r (600 + 25 * (n + 1)) ≤ railCapacity s r then 600 + 25 * (n + 1) else fitStep s r n

/-- The compute die whose ACLK a rail governs. -/
def railDie (r : Nat) : Option Nat := if r < 32 then some (r % 16) else none

/-- R475 step 1: the rail's remaining phases cannot carry the present load: the die slews to the energy point or lower; for other
rails an issue rate halves. -/
def railStep1 (s : State) (r load : Nat) : State :=
  if load ≤ railCapacity s r then s else
  match railDie r with
  | some d => adjustDie (revokeSprint (s.setRail r { s.rail r with held := true, cap := fitStep s r 24 }) d) d
  | none => s.setRail r { s.rail r with held := true, cap := 750 }

/-- The free spares. -/
def freePhases (s : State) : List Nat := (List.range 160).filter (fun i => (s.phase i).st == 2)

/-- R474, R475, R483: a phase is retired. -/
def retirePhase (s : State) (i : Nat) : State :=
  let x := s.phase i
  if x.st = 3 then s else
  let load := ((railPhases s x.rail).map (fun j => (s.phase j).amps)).sum
  let s := s.setPhase i { x with st := 3, amps := 0 }
  let s := pwrEvent (markRetired s (resKey kPhase i) 6) 18
  if x.st = 2 then spareNotice s (freePhases s).length else railStep1 s x.rail load

/-- PHASE_SAMPLE (R473, R474): the currents of the phases in 0.1 A, and the phases that a fault of R474 holds for; a current above
50 A is one. -/
def phaseSample (s : State) (amps bad : List Nat) : State :=
  let s := (amps.zip (List.range 160)).foldl (fun s e =>
    let x := s.phase e.2
    if x.st ≤ 1 then s.setPhase e.2 { x with amps := e.1 } else s) s
  let hot := ((amps.zip (List.range 160)).filter (fun e => decide (500 < e.1) && decide ((s.phase e.2).st ≤ 1))).map (·.2)
  ((List.range 160).filter (fun i => bad.contains i || hot.contains i)).foldl retirePhase s

/-- R473: the free spare that serves a rail. -/
def spareFor (s : State) (r : Nat) : Option Nat :=
  if r < 48 then (if (s.phase (152 + r % 16 / 2)).st = 2 then some (152 + r % 16 / 2) else none) else none

/-- R475 step 3: the most that the plan in force permits on a rail. -/
def railPlan (s : State) (r : Nat) : Nat :=
  match railDie r with
  | some d => if (secList s Sections.opPoints).any (fun e => e.die == d && e.mode == 1) then 1500 else 1200
  | none => 1500

/-- R475 step 3: the rail's phases as they are: step 1 is lifted, a current limit is set or the rail is derated. -/
def railStep3 (s : State) (r : Nat) : State :=
  let c := railCapacity s r
  let began := fun s => logEntry (pwrEvent s 20) 3 6 0 noCtx r
  if railAmps r (railPlan s r) ≤ c then s.setRail r RailSt.reset
  else if railAmps r 1200 ≤ c then
    began (s.setRail r { held := false, limit := true, derated := false, cap := fitStep s r ((railPlan s r - 600) / 25) })
  else began (s.setRail r { held := false, limit := false, derated := true, cap := fitStep s r 23 })

/-- SPARE_PHASE_SWITCHED (R475 steps 2 and 3): a rail short of a phase takes its spare, if one is free. -/
def sparePhaseSwitched (s : State) (r : Nat) : State :=
  if 52 ≤ r ∨ railBuilt r ≤ (railPhases s r).length then s else
  let s := match spareFor s r with
    | some i => spareNotice (s.setPhase i { st := 0, rail := r, amps := 0 }) ((freePhases s).length - 1)
    | none => s
  let s := if railBuilt r ≤ (railPhases s r).length then s.setRail r RailSt.reset else railStep3 s r
  match railDie r with
  | some d => adjustDie s d
  | none => s

/-! ### Temperatures (R478, R495) -/

/-- A valid reading in 1/16 °C. -/
def reading (s : State) (i : Nat) : Option Int :=
  if (s.sensor i).valid then some (BitVec.ofNat 16 (s.sensor i).value).toInt else none

/-- The greatest valid reading of some sensors. -/
def greatest (s : State) (l : List Nat) : Option Int :=
  (l.filterMap (reading s)).foldl (fun m v => some (match m with | some x => max x v | none => v)) none

/-- Sensors of a compute die. -/
def dieSensors (d : Nat) : List Nat := [4 * d, 4 * d + 1, 4 * d + 2, 4 * d + 3]

/-- THERM_CFG: T_SPRINT, T_THROTTLE, LOFT_THROTTLE, in 1/16 °C. -/
def thermLimit (s : State) (lo : Nat) : Int := 16 * (s.regField (kBar0 0x24038) lo 8 : Nat)

/-- R478: the limits of a sensor's group: throttle, critical, trip. -/
def sensorLimits (s : State) (i : Nat) : Option (Int × Int × Int) :=
  if i < 80 then some (thermLimit s 8, 105 * 16, 115 * 16)
  else if i < 96 then some (thermLimit s 16, 95 * 16, 105 * 16) else none

/-- R495: a sensor's domain is off. -/
def sensorOff (s : State) (i : Nat) : Bool := i < 64 && s.pwr.state == .nap

/-- R478: the actions at the limits that a sample reaches. -/
def thermalSample (s : State) (i : Nat) (old : Option Int) (v : Int) : State :=
  let reaches := fun lim : Int => decide (lim ≤ v) && !(old.any (fun o => decide (lim ≤ o)))
  match sensorLimits s i with
  | some (thr, crit, trip) =>
    if trip ≤ v then thermalTrip s else
    let s := if reaches thr || reaches crit then pwrEvent s 19 else s
    if decide (i < 64) && decide (crit ≤ v) then adjustDie (s.setDie (i / 4) { s.die (i / 4) with therm := 600 }) (i / 4) else s
  | none =>
    if 96 ≤ i ∧ i < 256 then
      if 125 * 16 ≤ v then retirePhase s (i - 96) else if reaches (110 * 16) then pwrEvent s 19 else s
    else s

/-- SENSOR_SAMPLE (R478, R495): a sample, or an invalid one, which counts one event against its die unless its domain is off. -/
def sensorSample (s : State) (i : Nat) (v : Option Nat) : State :=
  if 312 ≤ i then s else
  let old := reading s i
  match v with
  | none =>
    let s := s.setSensor i { s.sensor i with valid := false, at_ := some s.time }
    if sensorOff s i then s else logEntry s 1 9 0 noCtx i
  | some w =>
    if sensorOff s i then s else
    thermalSample ((bgUnit s 5).setSensor i { value := w % 65536, valid := true, at_ := some s.time }) i old (BitVec.ofNat 16 w).toInt

/-- R478: after a trip the sensors are still read, until the module may leave Fallow. -/
def tripSample (s : State) (i : Nat) (v : Option Nat) : State :=
  match v with
  | some w => if i < 312 then s.setSensor i { value := w % 65536, valid := true, at_ := some s.time } else s
  | none => s

/-! ### The budget (R476, R477) -/

/-- R476: CAP_W in force. -/
def capW (s : State) : Nat := (secList s Sections.powerCap).headD 600
/-- R476: the budget B; R478 states no limit in watts. -/
def budgetW (s : State) : Nat := min (capW s) 2400

/-- The compute dies run. -/
def diesOn (s : State) : Bool := s.pwr.state == .run || s.pwr.state == .hold

/-- R478: the ceiling of a die by its temperature, at one evaluation. -/
def thermStep (s : State) (d : Nat) : State :=
  let x := s.die d
  match greatest s (dieSensors d) with
  | some v =>
    if thermLimit s 8 ≤ v then s.setDie d { x with therm := max 600 (x.therm - 25) }
    else if v ≤ thermLimit s 8 - 48 then s.setDie d { x with therm := min 1200 (x.therm + 25) }
    else s
  | none => s

/-- R476: a die may be granted sprint now. -/
def mayGrant (s : State) (inW d : Nat) : Bool :=
  (secList s Sections.opPoints).any (fun e => e.die == d && e.mode == 1) && !(s.die d).sprint
    && decide (inW + Config.sprintWatts d + 50 ≤ budgetW s)

/-- R476: no logic die has reached T_SPRINT. -/
def coolForSprint (s : State) : Bool := (greatest s (List.range 80)).all (fun v => decide (v < thermLimit s 0))

/-- R175, R476: the die that sprint is granted to. -/
def grantee (s : State) (inW : Nat) : Option Nat :=
  if coolForSprint s then ((List.range 16).map (fun i => (s.pwr.lastDie + 1 + i) % 16)).find? (mayGrant s inW) else none

/-- The ceilings of every die. -/
def setCeilings (s : State) (f : Nat → Nat) : State := (List.range 16).foldl (fun s d => s.setDie d { s.die d with ceil := f (s.die d).ceil }) s

/-- R476: the one action of an evaluation. -/
def budgetAction (s : State) (inW : Nat) : State :=
  match grantee s inW with
  | some d =>
    let s := s.setPwr { s.pwr with granted := d :: s.pwr.granted, lastDie := d }
    s.setDie d { s.die d with sprint := true }
  | none =>
    if budgetW s < inW then
      match s.pwr.granted with
      | d :: _ => revokeSprint s d
      | [] =>
        if (List.range 16).all (fun d => (s.die d).ceil ≤ 600) then s.setPwr { s.pwr with halved := true }
        else setCeilings s (fun c => max 600 (c - 25))
    else if inW + 100 ≤ budgetW s then setCeilings s (fun c => min 1200 (c + 25))
    else s

/-- R473, R476, R479: what an evaluation of 100 µs adds to PWR_IN and the accumulators. -/
def budgetAccounts (s : State) (inW delivW : Nat) : State :=
  let s := s.setReg (kBar0 0x24024) (BitVec.ofNat 32 (inW % 4096 + delivW % 4096 * 65536))
  let s := s.bump (kBar0 0x24028) (100 * inW)
  let s := s.bump (kBar0 0x24030) (100 * (inW - delivW))
  let n := fun p : Nat → Bool => if diesOn s then ((List.range 16).filter (fun d => p (aclkMHz s d))).length else 0
  (s.bump (kBar0 0x24040) (100000 * n (· == 1500))).bump (kBar0 0x24048) (100000 * n (· < 1200))

/-- BUDGET_EVALUATION (R476, R478). -/
def budgetEvaluation (s : State) (inW delivW : Nat) : State :=
  let s := budgetAccounts s inW delivW
  if !diesOn s then s else
  let s := (List.range 16).foldl (fun s d => thermStep (s.setDie d { s.die d with held := false }) d) s
  let s := if inW < budgetW s then s.setPwr { s.pwr with halved := false } else s
  adjustDies (budgetAction s inW)

/-- INPUT_OVERCURRENT (R477). -/
def inputOvercurrent (s : State) : State :=
  let s := s.pwr.granted.foldl revokeSprint s
  adjustDies ((List.range 16).foldl (fun s d => s.setDie d { s.die d with held := true }) s)

/-! ### Registers (R479, R480) -/

/-- R464: the code of a power state. -/
def PwrState.code (p : PwrState) : Nat := p.depth

/-- PWR_STATUS. -/
def pwrStatusWord (s : State) : Word :=
  BitVec.ofNat 32 (s.pwr.state.code + bit (pwrBusy s) 3 + s.pwr.reason * 2 ^ 4 + statusCode s.pwr.result * 2 ^ 8 + s.pwr.refuser * 2 ^ 16)

/-- PWR_BUDGET. -/
def pwrBudgetWord (s : State) : Word := BitVec.ofNat 32 (budgetW s + capW s % 4096 * 2 ^ 16)

/-- ACLK_STATUS[d]. -/
def aclkStatusWord (s : State) (d : Nat) : Word :=
  let x := s.die d
  BitVec.ofNat 32 ((if diesOn s then aclkMHz s d else 0) + x.mv % 1024 * 2 ^ 11 + bit x.sprint 21
    + bit (decide (x.therm < 1200) || dieBlind s d) 22 + bit (decide (x.ceil < 1200) || x.held) 23
    + bit ((s.rail d).held || (s.rail (16 + d)).held || dieHeld s d) 24)

/-- PHASE[i]. -/
def phaseWord (s : State) (i : Nat) : Word :=
  let x := s.phase i
  BitVec.ofNat 32 (x.st + x.rail % 256 * 2 ^ 8 + x.amps % 1024 * 2 ^ 16)

/-- RAIL[r]; the set point of a rail that is no array rail is its model's (log entry 28). -/
def railWord (s : State) (r : Nat) : Word :=
  let x := s.rail r
  BitVec.ofNat 32 (railBuilt r + (railPhases s r).length % 16 * 2 ^ 4 + bit ((railPhases s r).any (152 ≤ ·)) 8 + bit x.limit 9
    + bit x.derated 10 + (if r < 16 then (s.die r).mv else Config.railMv r 0) % 1024 * 2 ^ 16)

/-! ### Rows -/

/-- R507: vendor message 0x01, answered with PWR_STATUS.RESULT. -/
def powerRequest (s : State) (t : Nat) : State :=
  if s.boot.step < 10 then s else
  let s := match t with
    | 0 => pwrRequest s .run
    | 1 => pwrRequest s .hold
    | 2 => pwrRequest s .nap
    | 3 => pwrRequest s .fallow
    | _ => s
  { s with reply := [BitVec.ofNat 8 (statusCode s.pwr.result)], replyPoison := false }

def execPwrRun (a : Agent) (s : State) : Out := hub s (viaBar0 s a 0x24000 (fun s => pwrRequest s .run))
def execPwrHold (a : Agent) (s : State) : Out := hub s (viaBar0 s a 0x24000 (fun s => pwrRequest s .hold))
def execPwrNap (a : Agent) (s : State) : Out := hub s (viaBar0 s a 0x24000 (fun s => pwrRequest s .nap))
def execAutoHold (s : State) : Out := hub s (autoHold s)
def execHandshakeAnswer (part : Nat) (ans : HsAnswer) (s : State) : Out := hub s (handshakeAnswer s part ans)
def execHandshakeTimeout (s : State) : Out := hub s (handshakeTimeout s)
def execPowerTransitionDone (s : State) : Out := hub s (powerTransitionDone s)
def execWakeEvent (src : Nat) (s : State) : Out := aon s (if src < 5 then wakeSource s src else s)
def execCompTrip (s : State) : Out := aon s (compTrip s)
def execCompRearm (s : State) : Out := aon s (compRearm s)
def execWakeCfgWrite (a : Agent) (v : Word) (s : State) : Out := hub s (viaBar0 s a 0x24010 (fun s => wakeCfgWrite s v))
def execAclkSlewDone (die : Nat) (s : State) : Out := hub s (if die < 16 then aclkSlewDone s die else s)
def execPhaseSample (amps bad : List Nat) (s : State) : Out := hub s (phaseSample s amps bad)
def execSparePhaseSwitched (rail : Nat) (s : State) : Out := hub s (sparePhaseSwitched s rail)
def execBudgetEvaluation (inW delivW : Nat) (s : State) : Out := hub s (budgetEvaluation s inW delivW)
def execInputOvercurrent (s : State) : Out := hub s (inputOvercurrent s)
def execSensorSample (sensor : Nat) (v : Option Nat) (s : State) : Out :=
  if s.pwr.tripped then aon s (tripSample s sensor v) else hub s (sensorSample s sensor v)
def execSidebandWake (s : State) : Out := aon s (wakeSource s 2)
def execPowerRequest (target : Nat) (s : State) : Out := hub s (powerRequest s target)

end Sys2Proof.Machine
end

