-- ==== Sys2Proof/Machine/Objects.lean ====
section
/-! DEFINITION. Sys2Proof/Machine/Objects.lean: objects and their operations, migration and repair (R186 to R193, R207 to R214, R218, R223 to
R225) and the rows OBJ_CREATE to MAP, OBJ_OPERATION_DONE, MIGRATION_PRESSURE, HEAT_PROMOTION, MIGRATION_COPY_DONE, SOURCE_FREE,
REPAIR_COMPLETE, MIG_CFG_WRITE, CART_OSTD_WRITE. -/

namespace Sys2Proof.Machine

open Sys2Proof

/-! ### The object registers (R224) -/

def objSel (s : State) (c : Nat) : Nat := s.regField (kWin c 0x3000) 0 24
def objPlace (s : State) (c : Nat) : Nat := s.regField (kWin c 0x3004) 0 2
def objWritable (s : State) (c : Nat) : Bool := s.regField (kWin c 0x3004) 2 1 == 1
def objReplica (s : State) (c : Nat) : Bool := s.regField (kWin c 0x3004) 3 1 == 1
def objStack (s : State) (c : Nat) : Nat := s.regField (kWin c 0x3004) 4 5
def objSize (s : State) (c : Nat) : Nat := s.regField (kWin c 0x3008) 0 20
def objMapSrc (s : State) (c : Nat) : Nat := s.regField (kWin c 0x300C) 0 12
def objMapObj (s : State) (c : Nat) : Nat := s.regField (kWin c 0x3010) 0 24
def objFirst (s : State) (c : Nat) : Nat := s.regField (kWin c 0x3014) 0 19
def objCount (s : State) (c : Nat) : Nat := s.regField (kWin c 0x3018) 0 20

/-- OBJ_STATUS.LAST_ERR. -/
def objErr (s : State) (c : Nat) (st : Status) : State := s.setCtx c { s.ctx c with objErr := st }

/-- R189: STACK is 0 to 15, or 0x1F. -/
def stackDefined (n : Nat) : Bool := n < 16 || n == 0x1F
def sizeOk (n : Nat) : Bool := 1 ≤ n && n ≤ 524288

/-- R188: the module holds at most 4,194,304 objects. -/
def objLimit (s : State) : Bool := objectCount s < 4194304

/-- The object is usable for a change: its storage; NO_OBJECT, or FORMAT for an alias or a far object. -/
def ownBody (s : State) (c o : Nat) : (Nat × Body) ⊕ Status :=
  match objBody s.com c o with
  | some (sid, b, al) => if al then .inr .format else .inl (sid, b)
  | none => .inr (if (farBody s.com c o).isSome then .format else .noObject)

def State.setBody (s : State) (sid : Nat) (b : Body) : State := s.setCom { s.com with bodies := tblIns s.com.bodies sid b }

/-- How an operation that may reserve granules ends: also for want of carve space. -/
inductive ObjEnd where
  | ok (s : State)
  | fail (st : Status)
  | full

/-- The status of an operation; one that fails changes nothing, and a want of carve space is counted (R225). -/
def objEnds (s : State) (c : Nat) : ObjEnd → State
  | .ok t => objErr t c .ok
  | .fail st => objErr s c st
  | .full => objErr (s.bump kTierFull 1) c .quota

/-- The end of an operation that reserves nothing. -/
def ObjEnd.of (r : State ⊕ Status) : ObjEnd := match r with | .inl t => .ok t | .inr st => .fail st

/-- Granules of a storage allocated at once (R208). -/
def reserveGrans (s : State) (sid : Nat) (b : Body) (gs : List Nat) : ObjEnd :=
  match allocGrans s sid b gs with
  | .done t => .ok t
  | .overQuota => .fail .quota
  | .noSpace _ => .full

/-! ### CREATE, DESTROY, RESIZE, SET_CFG (R191 to R193) -/

/-- CREATE: the conditions and the effect. -/
def createObj (s : State) (c : Nat) : ObjEnd :=
  let o := objSel s c
  let size := objSize s c
  if !ctxLives s c then .fail .notReady
  else if objExists s.com c o then .fail .format
  else if !sizeOk size then .fail .length
  else if !stackDefined (objStack s c) then .fail .format
  else if !objLimit s then .fail .quota
  else
    let sid := s.nextSid
    let b : Body := { ctx := c, num := o, size := size, place := objPlace s c, writable := objWritable s c, replica := objReplica s c,
                      stack := objStack s c, reserved := reservesAtAdmission s c, isSealed := false, farOk := false, live := true }
    let t := { s.setBody sid b with nextSid := sid + 1 }
    let t := t.setCom { t.com with objs := tblIns t.com.objs (objKey c o) { sid := sid, alias_ := false } }
    if b.reserved then reserveGrans t sid b (List.range size) else .ok t

/-- R328: the ranges of a command, without the decision record of a provisional UPDATE, which may go missing (log entry 70). -/
def keptRanges (m : Store) (c : Nat) (d p : List Byte) : List Access :=
  if dOpcode d = opUpdate then updAccesses d p else cmdRanges m c d p

/-- The device addresses that a fetched command names, as far as it has been read. -/
def cmdNamed (s : State) (c : Nat) (x : Cmd) : List Access :=
  namedAddrs x.desc ++
    (if x.param.isSome || (paramAddr x.desc).isNone then keptRanges s.com c x.desc (x.param.getD []) else [])

/-- R191: a fetched command of the context without final status names the object. -/
def objNamed (s : State) (c o : Nat) : Bool :=
  (openCmds s c).any (fun e => (cmdNamed s c e.2).any (fun a => !a.host && a.ctx c == c && addrObj a.addr == o))

/-- R260: an installed set lies in the object. -/
def objSteers (s : State) (c o : Nat) : Bool :=
  match objBody s.com c o with
  | some (sid, _, _) => s.com.sets.any (fun e => e.2.ctx == c && e.2.sid == sid)
  | none => false

/-- R212: the migrations of a storage's granules from index `g` on are abandoned. -/
def abandonFrom (s : State) (sid g : Nat) : State :=
  ((s.grans.filter (fun e => decide (granKey sid g ≤ e.1) && decide (e.1 < granKey (sid + 1) 0))).map (·.1)).foldl abandonMigration s

/-- R193, R355: an object number destroyed: its exports go, and the storage with its last name. -/
def destroyNumber (s : State) (c o : Nat) : State :=
  let s := dropExports s (fun e => e.ctx == c && e.obj == o)
  let s := match tblFind s.com.objs (objKey c o) with
    | some e => if (s.com.objs.filter (fun y => y.2.sid == e.sid)).length ≤ 1 then abandonFrom s e.sid 0 else s
    | none => s
  dropObject s c o

/-- DESTROY. -/
def destroyObj (s : State) (c : Nat) : State ⊕ Status :=
  let o := objSel s c
  if !objExists s.com c o then .inr .noObject
  else if objNamed s c o || objSteers s c o then .inr .notReady
  else .inl ((destroyNumber s c o).setCtx c { (destroyNumber s c o).ctx c with objOp := some { op := 2, a := o, b := 0 } })

/-- RESIZE. -/
def resizeObj (s : State) (c : Nat) : ObjEnd :=
  let o := objSel s c
  let n := objSize s c
  match ownBody s c o with
  | .inr st => .fail st
  | .inl (sid, b) =>
    if !sizeOk n then .fail .length
    else if (n < b.size && objNamed s c o) || objSteers s c o then .fail .notReady
    else
      let y := { b with size := n }
      let t := dropExports (s.setBody sid y) (fun e => e.ctx == c && e.obj == o)
      let t := if n < b.size then freeGransFrom (abandonFrom t sid n) sid n else t
      match (if b.reserved && b.size < n then reserveGrans t sid y ((List.range (n - b.size)).map (fun i => b.size + i)) else .ok t) with
      | .ok t => .ok (t.setCtx c { t.ctx c with objOp := some { op := 3, a := o, b := n } })
      | e => e

/-- Some granule of a storage is allocated. -/
def hasGrans (s : State) (sid : Nat) : Bool := s.grans.any (fun e => e.1 / 2 ^ 19 == sid)

/-- SET_CFG. -/
def setCfgObj (s : State) (c : Nat) : State ⊕ Status :=
  match ownBody s c (objSel s c) with
  | .inr st => .inr st
  | .inl (sid, b) =>
    let p := objPlace s c
    if hasGrans s sid && (objReplica s c != b.replica || (p == 2) != (b.place == 2)) then .inr .format
    else if !stackDefined (objStack s c) then .inr .format
    else .inl (s.setBody sid { b with place := p, writable := objWritable s c, replica := objReplica s c, stack := objStack s c })

/-! ### PROMOTE, EVICT, MAP -/

/-- R191: the conditions of PROMOTE and EVICT: the storage. -/
def moveRange (s : State) (c : Nat) : Nat ⊕ Status :=
  match objBody s.com c (objSel s c) with
  | none => .inr (if (farBody s.com c (objSel s c)).isSome then .format else .noObject)
  | some (sid, b, _) =>
    if b.place == 2 || b.reserved || reservesAtAdmission s c then .inr .format
    else if objCount s c == 0 || decide (b.size < objFirst s c + objCount s c) then .inr .length
    else .inl sid

/-- The allocated granules of the range. -/
def rangeGrans (s : State) (c sid : Nat) : List Nat :=
  (s.grans.filter (fun e => decide (granKey sid (objFirst s c) ≤ e.1)
    && decide (e.1 < granKey sid (objFirst s c + objCount s c)))).map (·.1)

/-- R191, R212: a promotion requested for one granule: an eviction of it is abandoned. -/
def askPromote (s : State) (k : Nat) : State :=
  match tblFind s.grans k with
  | some g => if g.tier == .silo then startPromotion s k .request 0 else abandonMigration s k
  | none => s

/-- R191, R212: an eviction requested: a promotion of the granule is abandoned. -/
def askEvict (s : State) (k : Nat) : State :=
  match tblFind s.grans k with
  | some g =>
    if g.tier == .silo then abandonMigration s k
    else if g.mig.isSome then s
    else (startEviction s k .request 0).getD (s.bump kMigAbort 1)
  | none => s

/-- PROMOTE, EVICT. -/
def requestRange (s : State) (c : Nat) (ask : State → Nat → State) : State ⊕ Status :=
  match moveRange s c with
  | .inr st => .inr st
  | .inl sid => .inl ((rangeGrans s c sid).foldl ask s)

/-- MAP (R191, R193). -/
def mapObj (s : State) (f c : Nat) : State ⊕ Status :=
  let o := objSel s c
  let src := objMapSrc s c
  if objExists s.com c o then .inr .format
  else if !ctxOwnedBy s f src || !ctxLives s src then .inr .notReady
  else match objBody s.com src (objMapObj s c) with
    | some (sid, _, false) =>
      if !objLimit s then .inr .quota
      else .inl (s.setCom { s.com with objs := tblIns s.com.objs (objKey c o) { sid := sid, alias_ := true } })
    | _ => .inr .noObject

/-! ### OBJ_CTRL (R192, R224) -/

/-- An operation, unless one runs. -/
def objOp (s : State) (c : Nat) (go : State → ObjEnd) : State :=
  if (s.ctx c).objOp.isSome then objErr s c .notReady else objEnds s c (go s)

/-- A write to OBJ_CTRL. -/
def objCtrl (s : State) (f c : Nat) (v : Word) : State :=
  match bits v.toNat 0 3 with
  | 1 => objOp s c (fun s => createObj s c)
  | 2 => objOp s c (fun s => .of (destroyObj s c))
  | 3 => objOp s c (fun s => resizeObj s c)
  | 4 => objOp s c (fun s => .of (setCfgObj s c))
  | 5 => objOp s c (fun s => .of (requestRange s c askPromote))
  | 6 => objOp s c (fun s => .of (requestRange s c askEvict))
  | 7 => objOp s c (fun s => .of (mapObj s f c))
  | _ => s

/-- OBJ_OPERATION_DONE (R192). -/
def objOperationDone (s : State) (c : Nat) : State :=
  if (s.ctx c).objOp.isSome then s.setCtx c { s.ctx c with objOp := none } else s

/-! ### Migration (R209 to R213) -/

/-- MIGRATION_PRESSURE (R209). -/
def migrationPressure (s : State) (n : Nat) : State :=
  if loftFree s n < s.regField (kBar0 0xC000) 0 8 then pressureEvict n (s.regField (kBar0 0xC000) 8 8) (s.grans.length + 1) s else s

/-- HEAT_PROMOTION (R209): the interval's counts are judged, and start anew. -/
def heatPromotion (s : State) : State :=
  let th := s.regField (kBar0 0xC000) 16 8
  let hot := if s.regField (kBar0 0xC000) 24 1 = 1 ∧ th ≠ 0 then
      s.grans.filter (fun e => e.2.tier == .silo && e.2.mig.isNone && decide (th ≤ e.2.reads)
        && (tblFind s.com.bodies (e.1 / 2 ^ 19)).any (fun b => b.place == 1)) else []
  let t := hot.foldl (fun s e => startPromotion s e.1 .heat 0) s
  { t with grans := t.grans.map (fun e => (e.1, { e.2 with reads := 0 })) }

/-- R211: the dispatched commands that cover a granule. -/
def granReaders (s : State) (k : Nat) : List CmdRef :=
  (cmdsWhere s (fun x => x.dispatched && x.att.any (fun a => a.touched.contains k))).map (fun e => refOf e.1 e.2.1 e.2.2)

/-- R211: the source copy that commands dispatched before the remap go on reading. -/
def keepSource (s : State) (k : Nat) (g : Gran) : State :=
  match granReaders s k with
  | [] => s
  | l => { s with olds := { sid := k / 2 ^ 19, gran := k % 2 ^ 19, tier := g.tier, heap := g.heap, sectors := g.sectors, readers := l } :: s.olds }

/-- MIGRATION_COPY_DONE (R211, R212): the remap. -/
def migrationCopyDone (s : State) (k : Nat) : State :=
  match tblFind s.grans k with
  | none => s
  | some g =>
    match g.mig with
    | none => s
    | some m =>
      let s := keepSource s k g
      if g.tier == .silo then
        (s.setGran k { g with tier := .loft, heap := m.dst, sectors := 0, mig := none }).bump kMigPromote 1
      else (s.setGran k { g with tier := .silo, heap := m.dst, sectors := m.sectors, mig := none }).bump kMigEvict 1

/-- SOURCE_FREE (R211): an old copy that nobody reads any longer is freed. -/
def sourceFree (s : State) (sid gran : Nat) : State :=
  { s with olds := s.olds.filter (fun o => !(o.sid == sid && o.gran == gran && o.readers.isEmpty)) }

/-! ### Repair (R218, R488) -/

/-- R218 step 4: a poisoned unit takes the replica's bytes, unless they are poisoned too. -/
def mendUnit (s : State) (u : Nat) : State :=
  if s.replPoison.contains u then s
  else s.setCom { s.com with mem := memCopy s.com.mem s.replMem (64 * u) 64, poison := s.com.poison.filter (fun v => v != u) }

/-- R488: a granule of a retired port goes to an allowed one. -/
def rehome (s : State) (k : Nat) : State :=
  match tblFind s.grans k, tblFind s.com.bodies (k / 2 ^ 19) with
  | some g, some b =>
    if onRetiredPort s k then
      match siloPlace s b g.sectors (g.replica.map (·.port)) with
      | some h => s.setGran k { g with heap := h }
      | none => s
    else s
  | _, _ => s

/-- R218 step 6: commands whose granules are all repaired may run again. -/
def releaseRepaired (s : State) : State :=
  (cmdsWhere s (fun x => x.phase == .repair)).foldl (fun s e =>
    if (readGrans s e.1 (accessesNow s e.1 e.2.2)).any (fun k => (tblFind s.grans k).any (fun g => g.repairing)) then s
    else s.setCmd e.1 e.2.1 { e.2.2 with phase := .waiting }) s

/-- REPAIR_COMPLETE (R218). -/
def repairComplete (s : State) (k : Nat) : State :=
  match tblFind s.grans k with
  | none => s
  | some g =>
    if !g.repairing then s else
    let us := s.com.poison.filter (fun u => u / 2 ^ 15 == k)
    let s := rehome (us.foldl mendUnit (s.setGran k { g with repairing := false })) k
    releaseRepaired (s.bump kPsnRepair 1)

/-! ### MIG_CFG, CART_OSTD -/

/-- MIG_CFG_WRITE (R225). -/
def migCfgWrite (s : State) (v : Word) : State :=
  if bits v.toNat 8 8 ≤ bits v.toNat 0 8 then s.setBits (kBar0 0xC004) 1 else s.setReg (kBar0 0xC000) (v &&& 0x1FFFFFF#32)

/-- CART_OSTD_WRITE (R223). -/
def cartOstdWrite (s : State) (q : Nat) (v : Word) : State :=
  let n := bits v.toNat 0 11
  if n = 0 ∨ 1024 < n then s.setBits (kBar0 0xC004) 2 else s.setReg (kBar0 (0x10000 + 4 * q)) (BitVec.ofNat 32 n)

/-! ### Rows -/

/-- A write of an operation to OBJ_CTRL through function `fn`. -/
def objRow (fn : Nat) (op : Word) (s : State) : Out := hub s (viaWindow s fn 0x301C (fun c => objCtrl s fn c op))

def execObjCreate (fn : Nat) (s : State) : Out := objRow fn 1#32 s
def execObjDestroy (fn : Nat) (s : State) : Out := objRow fn 2#32 s
def execObjResize (fn : Nat) (s : State) : Out := objRow fn 3#32 s
def execObjSetCfg (fn : Nat) (s : State) : Out := objRow fn 4#32 s
def execObjPromote (fn : Nat) (s : State) : Out := objRow fn 5#32 s
def execObjEvict (fn : Nat) (s : State) : Out := objRow fn 6#32 s
def execObjMap (fn : Nat) (s : State) : Out := objRow fn 7#32 s
def execObjOperationDone (ctx : Nat) (s : State) : Out := hub s (objOperationDone s ctx)
def execMigrationPressure (stack : Nat) (s : State) : Out := hub s (migrationPressure s stack)
def execHeatPromotion (s : State) : Out := hub s (heatPromotion s)
def execMigrationCopyDone (sid gran : Nat) (s : State) : Out := hub s (migrationCopyDone s (granKey sid gran))
def execSourceFree (sid gran : Nat) (s : State) : Out := hub s (sourceFree s sid gran)
def execRepairComplete (sid gran : Nat) (s : State) : Out := hub s (repairComplete s (granKey sid gran))
def execMigCfgWrite (a : Agent) (v : Word) (s : State) : Out := hub s (viaBar0 s a 0xC000 (fun s => migCfgWrite s v))
def execCartOstdWrite (a : Agent) (q : Nat) (v : Word) (s : State) : Out :=
  hub s (viaBar0 s a (0x10000 + 4 * q) (fun s => if q < 16384 then cartOstdWrite s q v else s))

end Sys2Proof.Machine
end

