-- ==== Sys2Proof/Machine/Slots.lean ====
section
/-! DEFINITION. Sys2Proof/Machine/Slots.lean: cancellation of sequence slots, release of maps and groups, steering sets, the random
seed, and the end of a context (R158, R193, R258 to R265, R297, R426) and the rows SEQ_CANCEL, CANCEL_COMPLETE, MAP_RELEASE,
DRIFT_GROUP_FREE, INSTALL, REMOVE, STEER_OPERATION_DONE, RNG_SEED_LO_WRITE, RNG_SEED_HI_WRITE, DESTROY_RELEASE. -/

namespace Sys2Proof.Machine

open Sys2Proof

/-! ### Cancellation (R262) -/

/-- R262: the command names only this slot, in its SEQ or SLOT field. -/
def namesOnly (slot : Nat) (x : Cmd) : Bool :=
  (dOpcode x.desc == opAttnFwd && atHasSeq x.desc && atSeq x.desc == slot) || (dOpcode x.desc == opSeq && sqSlot x.desc == slot)

/-- R262 step 2: a dispatched command of the slot is killed and completes CANCELLED. -/
def cancelDispatched (c : Nat) (s : State) (e : Nat × Cmd) : State :=
  let s := killCmd s c e.1 e.2 .cancel
  match s.cmd c e.1 e.2.serial with
  | some y => if y.open_ then finishCmd s c e.1 y .cancelled false noField else s
  | none => s

/-- R262: a fetched command of the slot completes CANCELLED at its dispatch point. -/
def cancelWaiting (c : Nat) (s : State) (e : Nat × Cmd) : State := s.setCmd c e.1 { e.2 with cancelMark := true }

/-- R262 steps 1 and 2. -/
def beginCancel (s : State) (c slot : Nat) : State :=
  let s := s.setSeq slot { s.seq slot with st := .cancelled }
  let s := s.setCtx c { s.ctx c with cancel := some slot }
  let s := ((openCmds s c).filter (fun e => namesOnly slot e.2 && !e.2.dispatched)).foldl (cancelWaiting c) s
  ((openCmds s c).filter (fun e => namesOnly slot e.2 && e.2.dispatched)).foldl (cancelDispatched c) s

/-- SEQ_CANCEL_STATUS.RESULT. -/
def cancelEnds (s : State) (c : Nat) (st : Status) : State := s.setCtx c { s.ctx c with cancelRes := st }

/-- SEQ_CANCEL (R262). -/
def seqCancel (s : State) (c slot : Nat) : State :=
  let x := s.seq slot
  if (s.ctx c).cancel.isSome then s.setBits (kWin c 0x401C) 4
  else if x.st == .free || x.owner != c then cancelEnds s c .slotState
  else if x.st == .cancelled then cancelEnds s c .ok
  else beginCancel s c slot

/-- CANCEL_COMPLETE (R262 steps 4 and 5). -/
def cancelComplete (s : State) (c : Nat) : State :=
  match (s.ctx c).cancel with
  | none => s
  | some slot =>
    let s := if (s.seq slot).st == .cancelled && (s.seq slot).owner == c then detachMap s slot else s
    let s := s.setCtx c { s.ctx c with cancel := none, cancelRes := .ok }
    let s := s.setBits (kWin c 0x401C) 2
    if s.regField (kWin c 0x14) 11 1 = 1 then signalCtxVector s c (s.regField (kWin c 0x14) 0 11) else s

/-- DRIFT_GROUP_FREE (R258). -/
def driftGroupFree (s : State) (c : Nat) : State :=
  if s.groupFree.contains c then
    freeGroup (0x8000 + c) (s.nodes.length + 1) { s with groupFree := setDel s.groupFree c }
  else s

/-! ### Steering sets (R259, R260, R265) -/

def steerSel (s : State) (c : Nat) : Nat := s.regField (kWin c 0x4040) 0 16
def steerAddr (s : State) (c : Nat) : Nat := s.ctr64 (kWin c 0x4044)

/-- STEER_STATUS.LAST_ERR. -/
def steerErr (s : State) (c : Nat) (st : Status) : State := s.setCtx c { s.ctx c with steerErr := st }

/-- R259: LAYERS, WIDTH and NBLOCKS in range, and the image within its object. -/
def imageFits (m : Store) (x : SteerSet) (size : Nat) : Bool :=
  let l := setLayers m x
  let w := setWidth m x
  let n := setBlocks m x
  1 ≤ l && l ≤ 4096 && 1 ≤ w && w ≤ 8192 && 1 ≤ n && n ≤ 65536 && x.off + 65536 + 16384 * n ≤ size

/-- R259: every DIR entry names a block, or none. -/
def dirValid (m : Store) (x : SteerSet) : Bool :=
  (List.range (setLayers m x)).all (fun l =>
    let e := readLE (setByte m x) (64 + 4 * l) 4
    e < setBlocks m x || e == 0xFFFFFFFF)

/-- R260: the checks of INSTALL in order: the set, or the first failing status. -/
def installCheck (s : State) (c : Nat) : SteerSet ⊕ Status :=
  let a := steerAddr s c
  if (tblFind s.com.sets (steerSel s c)).isSome then .inr .notReady
  else match objBody s.com c (addrObj a) with
    | none => .inr (if (farBody s.com c (addrObj a)).isSome then .format else .noObject)
    | some (sid, b, _) =>
      let x : SteerSet := { ctx := c, eg := effGroup s c, sid := sid, off := addrOff a }
      if b.place != 2 || a % 65536 != 0 then .inr .format
      else if !imageFits s.com x (b.size * 2 ^ 21) then .inr .length
      else if !dirValid s.com x then .inr .format
      else .inl x

/-- INSTALL. -/
def steerInstall (s : State) (c : Nat) : State :=
  match installCheck s c with
  | .inr st => steerErr s c st
  | .inl x =>
    let s := s.setCom { s.com with sets := tblIns s.com.sets (steerSel s c) x }
    s.setCtx c { s.ctx c with steerErr := .ok, steerOp := some { op := 1, a := steerSel s c, b := 0 } }

/-- R260: an Open sequence names the set. -/
def setNamed (s : State) (n : Nat) : Bool :=
  s.com.slots.any (fun e => e.2.st == .open_ && e.2.steered && e.2.steerSet == n)

/-- R260: the dispatched commands with steering enabled. -/
def steeredNow (s : State) : List CmdRef :=
  (cmdsWhere s (fun x => x.dispatched && dOpcode x.desc == opTile && tlFlag x.desc 4)).map (fun e => refOf e.1 e.2.1 e.2.2)

/-- REMOVE: commands dispatched from now on see the set as absent. -/
def steerRemove (s : State) (c : Nat) : State :=
  let n := steerSel s c
  match tblFind s.com.sets n with
  | some x =>
    if x.ctx != c || setNamed s n then steerErr s c .notReady else
    let s := s.setCom { s.com with sets := tblDel s.com.sets n }
    s.setCtx c { s.ctx c with steerErr := .ok, steerOp := some { op := 2, a := n, b := 0 }, steerWaits := steeredNow s }
  | none => steerErr s c .notReady

/-- A write to STEER_CTRL; ignored while an operation runs. -/
def steerCtrl (s : State) (c : Nat) (v : Word) : State :=
  if (s.ctx c).steerOp.isSome then s else
  match bits v.toNat 0 2 with
  | 1 => steerInstall s c
  | 2 => steerRemove s c
  | 3 => steerErr s c .format
  | _ => s

/-- The command has a final status. -/
def isFinal (s : State) (r : CmdRef) : Bool := (s.cmd r.ctx r.ring r.serial).all (fun x => !x.open_)

/-- STEER_OPERATION_DONE (R260). -/
def steerOperationDone (s : State) (c : Nat) : State :=
  let x := s.ctx c
  if x.steerOp.isSome && x.steerWaits.all (isFinal s) then s.setCtx c { x with steerOp := none, steerWaits := [] } else s

/-! ### The random seed (R297) -/

/-- A write to RNG_SEED_LO is held. -/
def seedLoWrite (s : State) (c : Nat) (v : Word) : State := s.setCtx c { s.ctx c with seedLo := some v }

/-- A write to RNG_SEED_HI sets all 64 bits. -/
def seedHiWrite (s : State) (c : Nat) (v : Word) : State :=
  let x := s.ctx c
  s.setCtx c { x with seed := v ++ x.seedLo.getD (BitVec.ofNat 32 x.seed.toNat), seedLo := none }

/-! ### The end of a context (R158 step 6) -/

/-- R193: the aliases in other contexts of the storage that context `c` owns, as (context, object number). -/
def aliasesElsewhere (s : State) (c : Nat) : List (Nat × Nat) :=
  (s.com.objs.filter (fun e => e.1 / 2 ^ 24 != c && (tblFind s.com.bodies e.2.sid).any (fun b => b.ctx == c))).map
    (fun e => (e.1 / 2 ^ 24, e.1 % 2 ^ 24))

/-- The object numbers of a context. -/
def ctxObjects (s : State) (c : Nat) : List Nat :=
  ((s.com.objs.map (·.1) ++ s.com.far.map (·.1)).filter (fun k => k / 2 ^ 24 == c)).map (fun k => k % 2 ^ 24)

/-- R426: the package slots that meet `p` are closed. -/
def closePkgs (s : State) (p : PkgSlot → Bool) : State :=
  { s with vault := { s.vault with pkgs := s.vault.pkgs.filter (fun e => !p e.2) } }

/-- R229: every slot of the context is closed. -/
def closeSlots (s : State) (c : Nat) : State :=
  ((s.com.slots.filter (fun e => e.2.st != .free && e.2.owner == c)).map (·.1)).foldl seqCloseFx s

/-- R158 step 6: sequences closed, objects released, the state Free. -/
def releaseCtx (s : State) (c : Nat) : State :=
  let s := (aliasesElsewhere s c).foldl (fun s e => destroyNumber s e.1 e.2) s
  let s := dropExports (closeSlots s c) (fun e => e.ctx == c)
  let s := (ctxObjects s c).foldl (fun s o => destroyNumber s c o) s
  let s := closePkgs { s with vault := { s.vault with opens := s.vault.opens.filter (fun d => d != c) } } (fun p => p.ctx == c)
  let s := if ctxShareGroup s c = 0 then { s with groupFree := setIns s.groupFree c } else s
  let s := s.setFab { s.fab with reqs := s.fab.reqs.filter (fun e => !(e.2.kind == .bind && e.2.ctx == c)) }
  s.setCtx c { s.ctx c with st := .free, freezing := none, objOp := none, cancel := none, steerOp := none, steerWaits := [],
                            farOp := none, wpkOp := none, xts := 0 }

/-- R454: step 4 of R158 under a function-level reset: the rings are Disabled, and no record is written. -/
def dropRings (s : State) (c : Nat) : State :=
  ringNums.foldl (fun s n =>
    let s := ((s.ring c n).cmds).foldl (fun s x => unpin s (refOf c n x)) s
    let r := s.ring c n
    s.setRing c n { r with st := .disabled, tail := r.head, retire := r.head, cmds := [], depth := 0 }) s

/-- The contexts of a function that are not Free. -/
def fnContexts (s : State) (f : Nat) : List Nat := ((s.ctxs.filter (fun e => ctxOwnedBy s f e.1 && e.2.st != .free)).map (·.1))

/-- R454: steps 4 and 5 of R158 for every context of a function under reset; FLR then reads 0. -/
def flrEnds (s : State) (f : Nat) : State :=
  if (s.fn f).flr then
    let s := (fnContexts s f).foldl (fun s c => breakLatches (dropRings s c) c) s
    s.setFn f { s.fn f with flr := false }
  else s

/-- The reset of the function that owns the context, if one runs, comes to its end. -/
def ownerFlrEnds (s : State) (c : Nat) : State := match ownerFn s c with | some f => flrEnds s f | none => s

/-- DESTROY_RELEASE: it waits while a fetched command without final status names an alias of the context's objects (R193). -/
def destroyRelease (s : State) (c : Nat) : State :=
  let s := ownerFlrEnds s c
  if (s.ctx c).st != .destroying || (aliasesElsewhere s c).any (fun e => objNamed s e.1 e.2) then s else releaseCtx s c

/-! ### Rows -/

def execSeqCancel (fn : Nat) (slot : Nat) (s : State) : Out :=
  hub s (viaWindow s fn 0x4018 (fun c => seqCancel s c (bits slot 0 17)))
def execCancelComplete (ctx : Nat) (s : State) : Out := hub s (cancelComplete s ctx)
def execMapRelease (s : State) : Out := hub s (releaseOldest s)
def execDriftGroupFree (ctx : Nat) (s : State) : Out := hub s (driftGroupFree s ctx)
def execSteerInstall (fn : Nat) (s : State) : Out := hub s (viaWindow s fn 0x404C (fun c => steerCtrl s c 1#32))
def execSteerRemove (fn : Nat) (s : State) : Out := hub s (viaWindow s fn 0x404C (fun c => steerCtrl s c 2#32))
def execSteerOperationDone (ctx : Nat) (s : State) : Out := hub s (steerOperationDone s ctx)
def execRngSeedLoWrite (fn : Nat) (v : Word) (s : State) : Out := hub s (viaWindow s fn 0x5000 (fun c => seedLoWrite s c v))
def execRngSeedHiWrite (fn : Nat) (v : Word) (s : State) : Out := hub s (viaWindow s fn 0x5004 (fun c => seedHiWrite s c v))
def execDestroyRelease (ctx : Nat) (s : State) : Out := hub s (destroyRelease s ctx)

end Sys2Proof.Machine
end

