-- ==== Sys2Proof/Machine/Vault.lean ====
section
/-! DEFINITION. Sys2Proof/Machine/Vault.lean: key records, fuses, weight packages (R413, R416 to R428, R433, R434), the digest and the
injection registers (R409 to R412) and the rows KEY_RECORD_APPLY, SVN_COMMIT, KEY_VAULT_OP_DONE, OPEN, WPK_LOAD, CLOSE,
WPK_OPERATION_DONE, DIGEST_CLEAR, DET_INJECT_WRITE. -/

namespace Sys2Proof.Machine

open Sys2Proof

/-! ### Identity (R413, R417) -/

/-- A private key derived from the UDS with a label. -/
def udsPrivate (label : String) : Nat := ecPrivate (hkdf Config.uds (ascii label) 48)
def deviceIdPrivate : Nat := udsPrivate "DEVID"
def packagePrivate : Nat := udsPrivate "WPKG"

/-- R417: a fingerprint. -/
def fingerprint (alg : Nat) (key : List Byte) : List Byte := sha384 (BitVec.ofNat 8 alg :: key)

def allZero (l : List Byte) : Bool := l.all (fun b => b == 0#8)

/-! ### Key records (R417 to R419) -/

def recOp (r : List Byte) : Nat := fld r 4 1
def recClass (r : List Byte) : Nat := fld r 5 1
def recIndex (r : List Byte) : Nat := fld r 6 2
def recAlg (r : List Byte) : Nat := fld r 8 1
def recFn (r : List Byte) : Nat := fld r 10 2
def recSeq (r : List Byte) : Nat := fld r 12 4
def recPart (r : List Byte) (o n : Nat) : List Byte := (r.drop o).take n
/-- The key's own bytes: 32 of Ed25519, 97 of P-384. -/
def recKey (r : List Byte) : List Byte := recPart r 64 (if recAlg r = 1 then 32 else 97)
def recClaim (r : List Byte) : Bool := recOp r == 1 && recClass r == 3

/-- R418 check 1. -/
def recFormat (r : List Byte) : Bool :=
  let cls := recClass r
  fld r 0 4 == 0x4345524B
    && ((recOp r == 1 || recOp r == 2) && 1 ≤ cls && cls ≤ 3 || recOp r == 3 && cls == 3)
    && (recAlg r == 1 || (recAlg r == 2 && cls == 2))
    && (if cls = 1 then recIndex r < 8 else if cls = 2 then recIndex r < 64 else recIndex r == 0)
    && (if cls = 2 then recFn r < 256 || recFn r == 0xFFFF else recFn r == 0)
    && fld r 9 1 == 0 && allZero (recPart r 161 31) && (recAlg r == 2 || allZero (recPart r 96 65))

/-- R418 check 5. -/
def recSeqOk (s : State) (r : List Byte) : Bool :=
  s.vault.ownerSeq < recSeq r
    || (s.vault.ownerSeq == 0xFFFFFFFF && recOp r == 3 && recSeq r == 0xFFFFFFFF)

/-- R418: the signature of a record under the key that must have made it. -/
def recSigned (s : State) (r : List Byte) : Option Status :=
  let ok := fun key => if ed25519Verifies key (recPart r 0 192) (recPart r 192 64) then none else some Status.signature
  if recClaim r then (if s.vault.owner.isSome then some .notReady else ok (recKey r))
  else match s.vault.owner with
    | none => some .notReady
    | some key => ok key

/-- R418: the checks in order. -/
def recordCheck (s : State) (r : List Byte) : Option Status :=
  let fpr := recPart r 16 48
  if !recFormat r then some .format
  else if !(allZero fpr || fpr == fingerprint 2 (ecPublic deviceIdPrivate)) then some .keyScope
  else match recSigned s r with
    | some st => some st
    | none => if recSeqOk s r then none else some .signature

/-- R419: what an emptied or replaced plan-signing slot takes with it: the overlays prepared under its key. -/
def dropOverlays (s : State) (k : Nat) : State :=
  { s with plan := { s.plan with slots := s.plan.slots.filter (fun e =>
      !(1 ≤ e.1 && e.1 ≤ 4 && e.1 != s.plan.active && e.2.keyIndex == k)) } }

/-- R419: a LOAD under a package slot that closes ends with KEY_SCOPE. -/
def loadsEnd (s : State) (slots : List Nat) : State :=
  { s with ctxs := s.ctxs.map (fun e =>
      if e.2.wpkOp.any (fun o => o.op == 2 && slots.contains o.a) then (e.1, { e.2 with wpkOp := none, wpkErr := .keyScope }) else e) }

/-- R419: what an emptied or replaced publisher slot takes with it: the package slots opened under its key. -/
def dropPackages (s : State) (k : Nat) : State :=
  let mine := (s.vault.pkgs.filter (fun e => e.2.pub == k)).map (·.1)
  closePkgs (loadsEnd s mine) (fun p => p.pub == k)

/-- A plan-signing or publisher slot loses its key, if it holds one. -/
def emptyPlanKey (s : State) (k : Nat) : State :=
  if (tblFind s.vault.planKeys k).isSome then
    dropOverlays { s with vault := { s.vault with planKeys := tblDel s.vault.planKeys k } } k
  else s
def emptyPubKey (s : State) (k : Nat) : State :=
  if (tblFind s.vault.pubKeys k).isSome then
    dropPackages { s with vault := { s.vault with pubKeys := tblDel s.vault.pubKeys k } } k
  else s

/-- R418: what an accepted record does. -/
def recordEffect (s : State) (r : List Byte) : State :=
  let k := recIndex r
  let s := { s with vault := { s.vault with ownerSeq := if recOp r = 3 then 0 else recSeq r } }
  let owner := fun (s : State) o => { s with vault := { s.vault with owner := o } }
  if recOp r = 3 ∨ recClaim r then owner s (some (recKey r))
  else if recClass r = 3 then
    owner ((List.range 64).foldl emptyPubKey ((List.range 8).foldl emptyPlanKey s)) none
  else
    let s := if recClass r = 1 then emptyPlanKey s k else emptyPubKey s k
    if recOp r = 2 then s
    else if recClass r = 1 then { s with vault := { s.vault with planKeys := tblIns s.vault.planKeys k (recKey r) } }
    else { s with vault := { s.vault with pubKeys := tblIns s.vault.pubKeys k { alg := recAlg r, fn := recFn r, key := recKey r } } }

/-- KV_STATUS.RESULT; a SIGNATURE outcome is counted (R434). -/
def kvEnds (s : State) (st : Status) : State :=
  let s := if st == .signature then s.bump kSigFail 1 else s
  { s with vault := { s.vault with op := none, result := st } }

/-- The key record at KV_REC. -/
def keyRecord (s : State) : List Byte := memRead s.com.host (s.ctr64 (kBar0 0x23000)) 256

/-- R418: APPLY of a record. -/
def recordApply (s : State) : State :=
  match recordCheck s (keyRecord s) with
  | some st => kvEnds s st
  | none => kvEnds (recordEffect s (keyRecord s)) .ok

/-- R421: SVN_COMMIT. -/
def svnCommit (s : State) : State :=
  kvEnds { s with vault := { s.vault with svn := max s.vault.svn s.vault.fwSvn, revoked := s.vault.revoked ||| s.vault.fwRevoke } } .ok

/-- A write to KV_CTRL (R434): an operation starts unless one runs. -/
def kvCtrl (s : State) (v : Word) : State :=
  if s.vault.op.isSome then s else
  match bits v.toNat 0 3 with
  | 0 => s
  | 1 => { s with vault := { s.vault with op := some 1 } }
  | 2 => { s with vault := { s.vault with op := some 2 } }
  | _ => { s with vault := { s.vault with result := .format } }

/-- KEY_VAULT_OP_DONE (R418, R421, R434). -/
def keyVaultOpDone (s : State) : State :=
  match s.vault.op with
  | none => s
  | some op => if op = 1 then recordApply s else svnCommit s

/-! ### Packages (R422 to R427, R433) -/

def wpkSel (s : State) (c : Nat) : Nat := s.regField (kWin c 0x8000) 0 10
def wpkManLen (s : State) (c : Nat) : Nat := s.regField (kWin c 0x800C) 0 20
def wpkAddr (s : State) (c i : Nat) : Nat := s.ctr64 (kWin c (if i = 0 then 0x8004 else if i = 1 then 0x8010 else 0x8018))
/-- WPK_SRC: part `i` (manifest, tag table, body) is in host memory. -/
def wpkHost (s : State) (c i : Nat) : Bool := s.regField (kWin c 0x8020) i 1 == 1
def wpkDst (s : State) (c : Nat) : Nat := s.regField (kWin c 0x8024) 0 24
def wpkDstOff (s : State) (c : Nat) : Nat := s.regField (kWin c 0x8028) 0 19
def wpkFirst (s : State) (c : Nat) : Nat := s.regField (kWin c 0x802C) 0 20
def wpkCount (s : State) (c : Nat) : Nat := s.regField (kWin c 0x8030) 0 11

/-- Fields of a manifest (R422). -/
def manAlg (m : List Byte) : Nat := fld m 6 1
def manAllowFar (m : List Byte) : Bool := fld m 7 1 == 1
def manId (m : List Byte) : List Byte := recPart m 8 16
def manLen (m : List Byte) : Nat := fld m 24 8
def manChunks (m : List Byte) : Nat := fld m 32 4
def manFwMin (m : List Byte) : Nat := fld m 36 4
def manRecipients (m : List Byte) : Nat := fld m 40 2
def manFpr (m : List Byte) : List Byte := recPart m 48 48
def manTagsHash (m : List Byte) : List Byte := recPart m 96 48
def manRecipient (m : List Byte) (i : Nat) : List Byte := recPart m (160 + 200 * i) 200

/-- R425 check 3. -/
def manFormat (m : List Byte) : Bool :=
  fld m 0 4 == 0x474B5057 && fld m 4 2 == 1 && (manAlg m == 1 || manAlg m == 2) && fld m 7 1 ≤ 1 && !allZero (manId m)
    && 1 ≤ manLen m && manLen m ≤ 2 ^ 40 && manChunks m == ceilDiv (manLen m) (2 ^ 20)
    && allZero (recPart m 42 6) && allZero (recPart m 144 16)
    && (List.range (manRecipients m)).all (fun i => allZero (recPart (manRecipient m i) 145 7))

/-- R425 check 4: the publisher slot that serves the package in the context. -/
def manPublisher (s : State) (c : Nat) (m : List Byte) : Option (Nat × PubKey) :=
  s.vault.pubKeys.find? (fun e => e.2.alg == manAlg m && fingerprint e.2.alg e.2.key == manFpr m
    && (e.2.fn == 0xFFFF || ownerFn s c == some e.2.fn))

/-- R425 check 5. -/
def manSigned (key m : List Byte) : Bool :=
  let body := m.take (m.length - 96)
  let sig := m.drop (m.length - 96)
  if manAlg m = 1 then ed25519Verifies key body (sig.take 64) && allZero (sig.drop 64) else ecdsaVerifies key body sig

/-- R425 check 7: the first entry for this module. -/
def manEntry (m : List Byte) : Option (List Byte) :=
  ((List.range (manRecipients m)).map (manRecipient m)).find? (fun e => e.take 48 == fingerprint 2 (ecPublic packagePrivate))

/-- R423, R425 check 8: the content key. -/
def contentKey (m e : List Byte) : Option (List Byte) :=
  hpkeOpen packagePrivate (recPart e 48 97) (ascii "NGS DT20 WPKG v1" ++ manId m) (m.take 160) (recPart e 152 48)

/-- How an operation of the package engine ends: with a status, by a breach at an address (FROZEN), not yet, or with a result. -/
inductive WpkEnd (α : Type) where
  | fail (st : Status) (chunk : Option Nat)
  | breach (addr : Nat) (write : Bool)
  | later (s : State)            -- it waits for an eviction (R207)
  | good (a : α)

/-- Part `i` of a package read from `off` on: from host memory, or from an object of the context (log entry 31). -/
def readPart (s : State) (c i off n : Nat) : WpkEnd (List Byte) :=
  let a := wpkAddr s c i + off
  if wpkHost s c i then
    match hostBreach s c false a n with
    | some x => .breach x false
    | none => .good (memRead s.com.host a n)
  else match objectsPresent s.com c [rd a n 0], rangesWithin s.com c [rd a n 0] with
    | some f, _ => .fail f.1 none
    | none, some f => .fail f.1 none
    | none, none =>
      match devBreach s c false a n with
      | some x => .breach x false
      | none => .good (devBytes s.com c a n)

def WpkEnd.bind {α β : Type} (x : WpkEnd α) (f : α → WpkEnd β) : WpkEnd β :=
  match x with
  | .fail st k => .fail st k
  | .breach a w => .breach a w
  | .later s => .later s
  | .good a => f a

/-- A condition. -/
def wpkNeed (b : Bool) (st : Status) : WpkEnd Unit := if b then .good () else .fail st none

/-- R425: OPEN: the checks in order and the slot. -/
def wpkOpenRun (s : State) (c : Nat) : WpkEnd PkgSlot :=
  let n := wpkManLen s c
  (wpkNeed (tblFind s.vault.pkgs (wpkSel s c)).isNone .notReady).bind fun _ =>
  (wpkNeed (456 ≤ n && n ≤ 819456) .length).bind fun _ =>
  (readPart s c 0 0 n).bind fun m =>
  (wpkNeed (n == 160 + 200 * manRecipients m + 96) .length).bind fun _ =>
  (wpkNeed (manFormat m) .format).bind fun _ =>
  match manPublisher s c m with
  | none => .fail .keyScope none
  | some (pub, key) =>
    (wpkNeed (manSigned key.key m) .signature).bind fun _ =>
    (wpkNeed (manFwMin m ≤ s.vault.fwVersion) .format).bind fun _ =>
    match manEntry m with
    | none => .fail .keyScope none
    | some e =>
      match contentKey m e with
      | none => .fail .signature none
      | some k =>
        (readPart s c 1 0 (16 * manChunks m)).bind fun tags =>
        (wpkNeed (sha384 tags == manTagsHash m) .signature).bind fun _ =>
        .good { ctx := c, key := k, pub := pub, tags := tags, chunks := manChunks m, len := manLen m, allowFar := manAllowFar m,
                id := manId m }

/-- Bytes of chunk `k` (R424). -/
def chunkLen (p : PkgSlot) (k : Nat) : Nat := min (2 ^ 20) (p.len - k * 2 ^ 20)

/-- R424: a chunk decrypted. -/
def openChunk (p : PkgSlot) (k : Nat) (ct : List Byte) : Option (List Byte) :=
  gcmOpen p.key (bytesLE k 4 ++ bytesLE 0 8) (p.id ++ bytesLE k 4 ++ bytesLE p.chunks 4) ct ((p.tags.drop (16 * k)).take 16)

/-- The chunks of a LOAD decrypted, or the lowest that fails. -/
def openChunks (p : PkgSlot) (body : List Byte) (first : Nat) : List Nat → List Byte ⊕ Nat
  | [] => .inl []
  | k :: l =>
    match openChunk p k ((body.drop ((k - first) * 2 ^ 20)).take (chunkLen p k)) with
    | none => .inr k
    | some pt =>
      match openChunks p body first l with
      | .inl r => .inl (pt ++ r)
      | .inr k => .inr k

/-- R427: the destination: its storage. -/
def loadDest (s : State) (c : Nat) : WpkEnd (Nat × Body) :=
  match objBody s.com c (wpkDst s c) with
  | none => .fail (if (farBody s.com c (wpkDst s c)).isSome then .format else .noObject) none
  | some (sid, b, al) => if al || !b.writable then .fail .format none else .good (sid, b)

/-- R427: what a LOAD writes: the state with its granules allocated, the storage, the cell, the bytes, ALLOW_FAR. -/
structure Loaded where
  s : State
  sid : Nat
  cell : Nat
  data : List Byte
  farOk : Bool

/-- R427: LOAD: the conditions in order. -/
def wpkLoadRun (s : State) (c slot : Nat) : WpkEnd Loaded :=
  match tblFind s.vault.pkgs slot with
  | none => .fail .notReady none
  | some p =>
    let first := wpkFirst s c
    let n := wpkCount s c
    let ks := (List.range n).map (fun i => first + i)
    let len := (ks.map (chunkLen p)).sum
    let off := wpkDstOff s c * 2 ^ 21 + first * 2 ^ 20
    let dst := wpkDst s c * 2 ^ 40 + off
    (wpkNeed (p.ctx == c) .notReady).bind fun _ =>
    (loadDest s c).bind fun d =>
    (wpkNeed (1 ≤ n && n ≤ 1024 && first + n ≤ p.chunks && off + len ≤ d.2.size * 2 ^ 21) .length).bind fun _ =>
    (readPart s c 2 (first * 2 ^ 20) len).bind fun body =>
    match devBreach s c true dst len with
    | some a => .breach a true
    | none =>
      match allocGrans s d.1 d.2 (unallocated s d.1 (granRange off len)) with
      | .done t =>
        match openChunks p body first ks with
        | .inr k => .fail .signature (some k)
        | .inl bs => .good { s := t, sid := d.1, cell := cellKey d.1 off, data := bs, farOk := p.allowFar }
      | .noSpace .loft => match evictForSpace s c with | some u => .later u | none => .fail .quota none
      | _ => .fail .quota none

/-- The operation of a context ends with a status. -/
def wpkEnds (s : State) (c : Nat) (st : Status) (chunk : Option Nat) : State :=
  let s := if st == .signature then s.bump kSigFail 1 else s
  s.setCtx c { s.ctx c with wpkOp := none, wpkErr := st, wpkErrChunk := chunk.getD (s.ctx c).wpkErrChunk }

/-- R425: a breach freezes the context, and the operation ends with FROZEN. -/
def wpkBreach (s : State) (c a : Nat) (w : Bool) : State :=
  wpkEnds (beginFreeze s c { cause := 1, write := w, serValid := false, ring := 0, addr := a, serial := 0 }) c .frozen none

/-- R427, R428: a LOAD commits: the bytes, the seal, the counter. -/
def commitLoad (s : State) (c : Nat) (x : Loaded) : State :=
  match commitObjects x.s [(x.cell, x.data)] with
  | none => wpkEnds s c .quota none
  | some t =>
    let t := wpkEnds (sealSid x.farOk t x.sid) c .ok none
    if t.regField (kWin c 0x8034) 8 1 = 1 then evcInc t c (t.regField (kWin c 0x8034) 0 8) 1 else t

/-- The end of an OPEN. -/
def openEnds (s : State) (c : Nat) : State :=
  let s := { s with vault := { s.vault with opens := s.vault.opens.filter (fun d => d != c) } }
  match wpkOpenRun s c with
  | .fail st _ => wpkEnds s c st none
  | .breach a w => wpkBreach s c a w
  | .later u => u
  | .good p => wpkEnds { s with vault := { s.vault with pkgs := tblIns s.vault.pkgs (wpkSel s c) p } } c .ok none

/-- The end of a LOAD. -/
def loadEnds (s : State) (c slot : Nat) : State :=
  if !ctxLives s c then wpkEnds s c .notReady none else
  match wpkLoadRun s c slot with
  | .fail st k => wpkEnds s c st k
  | .breach a w => wpkBreach s c a w
  | .later u => u
  | .good x => commitLoad s c x

/-- WPK_OPERATION_DONE: OPEN operations end in order of their arrival (R425). -/
def wpkOperationDone (s : State) (c : Nat) : State :=
  match (s.ctx c).wpkOp with
  | none => s
  | some o =>
    if o.op = 1 then (if s.vault.opens.head? == some c then openEnds s c else s) else loadEnds s c o.a

/-- R426: CLOSE. -/
def wpkClose (s : State) (c : Nat) : State :=
  let k := wpkSel s c
  let st (x : Status) (s : State) := s.setCtx c { s.ctx c with wpkErr := x }
  if (tblFind s.vault.pkgs k).any (fun p => p.ctx == c) then st .ok { s with vault := { s.vault with pkgs := tblDel s.vault.pkgs k } }
  else st .notReady s

/-- A write to WPK_CTRL (R426, R433). -/
def wpkCtrl (s : State) (c : Nat) (v : Word) : State :=
  let x := s.ctx c
  if x.wpkOp.isSome then s.setCtx c { x with wpkErr := .notReady } else
  match bits v.toNat 0 2 with
  | 0 => s
  | 1 => ({ s with vault := { s.vault with opens := s.vault.opens ++ [c] } }).setCtx c
           { x with wpkOp := some { op := 1, a := wpkSel s c, b := 0 } }
  | 2 => s.setCtx c { x with wpkOp := some { op := 2, a := wpkSel s c, b := 0 } }
  | _ => wpkClose s c

/-! ### Digest and injection (R409 to R412) -/

/-- A write to DIGEST_CTRL. -/
def digestCtrl (s : State) (c : Nat) (v : Word) : State :=
  let s := s.setReg (kWin c 0x7000) (v &&& 1#32)
  if bits v.toNat 1 1 = 1 then s.setCtx c { s.ctx c with digest := 0, units := 0 } else s

/-- CLEAR alone: EN keeps its value. -/
def digestClear (s : State) (c : Nat) : State := digestCtrl s c (s.reg (kWin c 0x7000) ||| 2#32)

/-- A write to DET_INJECT; the generator it restarts is not seen by any rule (its draws are free values). -/
def detInjectWrite (s : State) (v : Word) : State := s.setReg (kBar0 0x22000) (v &&& 0xFFFF0003#32)

/-! ### Rows -/

def execKeyRecordApply (a : Agent) (s : State) : Out := hub s (viaBar0 s a 0x23008 (fun s => kvCtrl s 1#32))
def execSvnCommit (a : Agent) (s : State) : Out := hub s (viaBar0 s a 0x23008 (fun s => kvCtrl s 2#32))
def execKeyVaultOpDone (s : State) : Out := hub s (keyVaultOpDone s)
def execWpkOpen (fn : Nat) (s : State) : Out := hub s (viaWindow s fn 0x8038 (fun c => wpkCtrl s c 1#32))
def execWpkLoad (fn : Nat) (s : State) : Out := hub s (viaWindow s fn 0x8038 (fun c => wpkCtrl s c 2#32))
def execWpkClose (fn : Nat) (s : State) : Out := hub s (viaWindow s fn 0x8038 (fun c => wpkCtrl s c 3#32))
def execWpkOperationDone (ctx : Nat) (s : State) : Out := hub s (wpkOperationDone s ctx)
def execDigestClear (fn : Nat) (s : State) : Out := hub s (viaWindow s fn 0x7000 (fun c => digestClear s c))
def execDetInjectWrite (a : Agent) (v : Word) (s : State) : Out := hub s (viaBar0 s a 0x22000 (fun s => detInjectWrite s v))

end Sys2Proof.Machine
end

