-- ==== Sys2Proof/Machine/Host.lean ====
section
/-! DEFINITION. Sys2Proof/Machine/Host.lean: the host port: configuration, the pinned aperture, MSI-X, quiescence, function-level resets
(R436 to R454, R511, R516, R524) and the rows APERTURE_READ, APERTURE_WRITE, IRQ_HOLDOFF_EXPIRY, MSIX_UNMASK, FUNCTION_QUIESCE,
FUNCTION_RESUME, VF_RESET, PF_RESET, CONFIG_REQUEST, ATS_INVALIDATION, HOST_COMPLETION_TIMEOUT, HOST_LINK_TRAINED. -/

namespace Sys2Proof.Machine

open Sys2Proof

/-- What a read answers (log entry 2). -/
def replyWith (s : State) (bs : List Byte) : State := { s with reply := bs, replyPoison := false }

/-! ### The pinned aperture (R447) -/

def aptObj (s : State) (f : Nat) : Nat := s.regField (kPage f 0x10020) 0 24
def aptBase (s : State) (f : Nat) : Nat := s.regField (kPage f 0x10024) 0 24

/-- The conditions for any access: the context and the storage. -/
def aptOpen (s : State) (f : Nat) : (Nat × Nat × Body × Bool) ⊕ Status :=
  match (shownCtx s f).filter (ctxLives s) with
  | none => .inr .notReady
  | some c =>
    match objBody s.com c (aptObj s f) with
    | none => .inr (if (farBody s.com c (aptObj s f)).isSome then .format else .noObject)
    | some (sid, b, al) =>
      if b.place != 2 then .inr .format
      else if b.size * 2 ^ 21 < (aptBase s f + 1) * 65536 then .inr .length
      else if b.isSealed then .inr .sealedObj
      else .inl (c, sid, b, al)

/-- A refused access sets LAST_ERR and ERR. -/
def aptRefuse (s : State) (f : Nat) (st : Status) : State := s.setFn f { s.fn f with aptErr := st, aptSet := true }

/-- The location of a poisoned unit that a read covers is logged. -/
def logPoison (c : Nat) (s : State) (u : Nat) : State :=
  logEntry s 1 (if (tblFind s.grans (u / 2 ^ 15)).any (fun g => g.tier == .silo) then 3 else 2) 0 c (unitAddr s u)

/-- A read of `n` bytes at aperture byte `off`. -/
def apertureRead (s : State) (f off n : Nat) : State :=
  match aptOpen s f with
  | .inr st => replyWith (aptRefuse s f st) (List.replicate n 0)
  | .inl (c, sid, _, _) =>
    let k := cellKey sid (aptBase s f * 65536 + off)
    let us := if n = 0 then [] else poisonedIn s.com k n
    { (replyWith (us.foldl (logPoison c) s) (memRead s.com.mem k n)) with replyPoison := !us.isEmpty }

/-- A write at aperture byte `off`: one commit. -/
def apertureWrite (s : State) (f off : Nat) (bs : List Byte) : State :=
  match aptOpen s f with
  | .inr st => aptRefuse s f st
  | .inl (_, sid, b, al) =>
    let o := aptBase s f * 65536 + off
    if al || !b.writable then aptRefuse s f .format
    else match allocGrans s sid b (unallocated s sid (granRange o bs.length)) with
      | .done t => (commitObjects t [(cellKey sid o, bs)]).getD (aptRefuse s f .quota)
      | _ => aptRefuse s f .quota

/-- R441, R447, R454: how an aperture request of a function is met: lost while the BAR is closed; malformed when it crosses the end
of the aperture; refused and counted while a function-level reset runs. -/
def viaAperture (s : State) (f off n : Nat) (write : Bool) (go : State → State) : State :=
  let zero := fun s => if write then s else replyWith s (List.replicate n 0)
  if !barOpen s f then s
  else
    let s := wakeSource s 1
    if (s.fn f).flr then (if write then badAccess s f 2 (0x30000 + off) true else zero s)
    else if 65536 < off + n then zero (badAccess s f 2 (0x30000 + off) write)
    else go s

/-! ### MSI-X (R449, R450) -/

/-- R450: the messages held for vectors that are no longer masked are sent. -/
def sendHeld (s : State) (f : Nat) : State :=
  let x := s.fn f
  if !x.msixEn || x.fnMask || x.stopped then s else
  x.pba.foldl (fun s v =>
    let y := s.fn f
    let e := tblGet MsixEnt.reset y.table v
    if e.mask then s
    else { s.setFn f { y with pba := setDel y.pba v } with
           host := { s.host with msgs := { fn := f, vec := v, addr := e.addr, data := e.data } :: s.host.msgs } }) s

/-- IRQ_HOLDOFF_EXPIRY (R450). -/
def irqHoldoffExpiry (s : State) (f v : Nat) : State :=
  match tblFind (s.fn f).counts v with
  | some c => if c.holdoff = 0 then s else messageDue s f v
  | none => s

/-- The mask of a vector. -/
def setVectorMask (s : State) (f v : Nat) (on : Bool) : State :=
  let x := s.fn f
  sendHeld (s.setFn f { x with table := tblSet MsixEnt.reset x.table v { tblGet MsixEnt.reset x.table v with mask := on } }) f

/-- The mask of a function. -/
def setFunctionMask (s : State) (f : Nat) (on : Bool) : State := sendHeld (s.setFn f { s.fn f with fnMask := on }) f

/-! ### Quiescence (R453) -/

/-- R453 steps 1 and 2: the dispatched commands of the function's contexts are killed. -/
def quiesceFn (s : State) (f : Nat) : State :=
  (((s.ctxs.map (·.1)).filter (fun c => ctxOwnedBy s f c))).foldl (fun s c => killCtx s c .preemption) s

/-- A function's Bus Master Enable or power state changes: it is quiesced, or resumes. Without bus mastering no count is kept (R449). -/
def fnChange (s : State) (f : Nat) (y : Fn) : State :=
  let was := (s.fn f).stopped
  let s := s.setFn f { y with counts := if y.bme then y.counts else [] }
  if y.stopped && !was then quiesceFn s f else if was && !y.stopped then sendHeld s f else s

/-- D3hot and D0 (R453, R465). -/
def setD3 (s : State) (f : Nat) (on : Bool) : State :=
  let t := fnChange s f { s.fn f with d3 := on }
  if f = 0 ∧ on ∧ !(s.fn 0).d3 then pwrD3 t else t

/-- Bus Master Enable. -/
def setBme (s : State) (f : Nat) (on : Bool) : State := fnChange s f { s.fn f with bme := on }

/-! ### Function-level resets (R454, R524) -/

/-- The registers of a function's page that a reset clears; FN_DB_BAD only with the PF (R454, R524). -/
def clearPage (s : State) (f : Nat) : State :=
  { s with regs := s.regs.filter (fun e => !(e.1 / 2 ^ 32 == 8192 + f && (f == 0 || e.1 % 2 ^ 32 != 0x10010))) }

/-- R454, R158 steps 1 and 2 for one context. -/
def flrCtx (s : State) (c : Nat) : State :=
  let s := s.setCtx c { s.ctx c with st := .destroying, freezing := none }
  let s := dropSets (killCtx s c .cancel) c
  let s := closePkgs { s with vault := { s.vault with opens := s.vault.opens.filter (fun d => d != c) } } (fun p => p.ctx == c)
  s.setCtx c { s.ctx c with wpkOp := none }

/-- R454, R524: a function-level reset of one function. Its contexts are destroyed; FLR reads 1 until step 5 of R158. -/
def flrFn (s : State) (f : Nat) : State :=
  let cs := fnContexts s f
  let s := cs.foldl flrCtx s
  (clearPage s f).setFn f { Fn.reset with flr := !cs.isEmpty }

/-- VF_RESET (R454). -/
def vfReset (s : State) (f : Nat) : State := if f ≠ 0 ∧ fnEnabled s f then flrFn s f else s

/-- R454: the VFs from `a` on leave. -/
def dropVfs (s : State) (a : Nat) : State := ((List.range (s.host.numVFs + 1 - a)).map (fun i => a + i)).foldl vfReset s

/-- PF_RESET (R524). -/
def pfReset (s : State) : State :=
  let s := if s.host.vfEnable then dropVfs s 1 else s
  flrFn { s with host := { s.host with vfEnable := false, numVFs := 0 } } 0

/-! ### Configuration requests (R436, R437, R439, R453, R516) -/

/-- R516: READY; after FAIL 2 the host port enumerates too (R514). -/
def hostReady (s : State) : Bool := s.boot.step == 10 || s.boot.fail == 2

/-- R437, R436: the identity: Vendor and Device ID, Revision, Class Code, the VF Device ID and the serial number of the PF; a VF's own
Vendor and Device ID read ones. -/
def configIdentity (f : Nat) : List Byte :=
  (if f = 0 then bytesLE 0x1F3E 2 ++ bytesLE 0x0020 2 else bytesLE 0xFFFFFFFF 4) ++ bytesLE 0x11 1 ++ bytesLE 0x120000 3
    ++ (if f = 0 then bytesLE 0x0021 2 ++ (fingerprint 2 (ecPublic deviceIdPrivate)).take 8 else [])

/-- NumVFs: the VFs that leave are reset. -/
def setNumVFs (s : State) (n : Nat) : State :=
  if 255 < n then s else
  let s := if s.host.vfEnable && n < s.host.numVFs then dropVfs s (n + 1) else s
  { s with host := { s.host with numVFs := n } }

/-- VF Enable. -/
def setVfEnable (s : State) (on : Bool) : State :=
  let s := if s.host.vfEnable && !on then dropVfs s 1 else s
  { s with host := { s.host with vfEnable := on } }

/-- What a configuration write does. -/
def configWrite (s : State) (f : Nat) : ConfigReq → State
  | .read => s
  | .memorySpace on => s.setFn f { s.fn f with mse := on }
  | .busMaster on => setBme s f on
  | .msixEnable on =>
    sendHeld (s.setFn f { s.fn f with msixEn := on, counts := if on then (s.fn f).counts else [] }) f
  | .functionMask on => setFunctionMask s f on
  | .atsEnable on => s.setFn f { s.fn f with ats := on }
  | .maxPayload n => if [128, 256, 512].contains n then s.setFn f { s.fn f with mps := n } else s
  | .maxReadRequest n => if [128, 256, 512, 1024, 2048, 4096].contains n then s.setFn f { s.fn f with mrrs := n } else s
  | .numVFs n => if f = 0 then setNumVFs s n else s
  | .vfEnable on => if f = 0 then setVfEnable s on else s
  | .powerState d3 => setD3 s f d3
  | .pmeEnable on => if f = 0 then s.setFn 0 { s.fn 0 with pme := on } else s

/-- CONFIG_REQUEST. The reply begins with the completion status: 0 successful, 1 Unsupported Request, 2 Request Retry Status. Without a
link nothing answers. -/
def configRequest (s : State) (f : Nat) (q : ConfigReq) : State :=
  if s.pins.perst || s.boot.step < 2 then replyWith s []
  else if !hostReady s then replyWith s [2#8]
  else if !fnEnabled s f then replyWith s [1#8]
  else match q with
    | .read => replyWith s (0#8 :: configIdentity f)
    | w => replyWith (configWrite s f w) [0#8]

/-! ### Host memory (R222, R438) -/

/-- A running MOVE of the function's contexts that accesses a host page. -/
def usesPage (s : State) (f page : Nat) : Bool :=
  (cmdsWhere s (fun x => x.phase == .running && dOpcode x.desc == opMove)).any (fun e =>
    ctxOwnedBy s f e.1 && ((mvSrcHost e.2.2.desc && pageIn (mvSrc e.2.2.desc) (mvBytes e.2.2.desc) page)
      || (mvDstHost e.2.2.desc && pageIn (mvDst e.2.2.desc) (mvBytes e.2.2.desc) page)))

/-- ATS_INVALIDATION (R438): it completes once no request that uses the old translation is outstanding. -/
def atsInvalidation (s : State) (f page : Nat) : State :=
  if (s.fn f).ats && !usesPage s f page then s.bump (kBar0 0x20) 1 else s

/-- HOST_COMPLETION_TIMEOUT (R438, R222). -/
def hostCompletionTimeout (s : State) (c n ser page : Nat) : State :=
  match s.cmd c n ser with
  | some x =>
    if x.phase == .running && dOpcode x.desc == opMove && mvSrcHost x.desc && pageIn (mvSrc x.desc) (mvBytes x.desc) page then
      hostFault (s.bump (kBar0 0x18) 1) c n x page
    else s
  | none => s

/-- HOST_LINK_TRAINED (R436): SPEED 1 to 6; FLIT mode at 64 GT/s only. -/
def hostLinkTrained (s : State) (speed width : Nat) (flit : Bool) : State :=
  if 2 ≤ s.boot.step && !s.pins.perst && 1 ≤ speed && speed ≤ 6 && [1, 2, 4, 8, 16].contains width && flit == (speed == 6) then
    { s with host := { s.host with speed := speed, width := width, flit := flit } }
  else s

/-! ### Rows -/

def execApertureRead (fn off len : Nat) (s : State) : Out := hub s (viaAperture s fn off len false (fun s => apertureRead s fn off len))
def execApertureWrite (fn off : Nat) (data : List Byte) (s : State) : Out :=
  hub s (if (s.fn fn).mps < data.length then s
         else viaAperture s fn off data.length true (fun s => apertureWrite s fn off data))
def execIrqHoldoffExpiry (fn vec : Nat) (s : State) : Out := hub s (irqHoldoffExpiry s fn vec)
def execMsixUnmask (fn : Nat) (vec : Option Nat) (s : State) : Out :=
  hub s (match vec with
    | none => if fnEnabled s fn then setFunctionMask s fn false else s
    | some v => if barOpen s fn && !(s.fn fn).flr && v < 2048 then setVectorMask (wakeSource s 1) fn v false else s)
def execFunctionQuiesce (fn : Nat) (d3 : Bool) (s : State) : Out :=
  hub s (if fnEnabled s fn then (if d3 then setD3 s fn true else setBme s fn false) else s)
def execFunctionResume (fn : Nat) (s : State) : Out := hub s (if fnEnabled s fn then setBme (setD3 s fn false) fn true else s)
def execVfReset (fn : Nat) (s : State) : Out := hub s (vfReset s fn)
def execPfReset (s : State) : Out := hub s (pfReset s)
def execConfigRequest (fn : Nat) (req : ConfigReq) (s : State) : Out := aon s (configRequest s fn req)
def execAtsInvalidation (fn page : Nat) (s : State) : Out := hub s (atsInvalidation s fn page)
def execHostCompletionTimeout (ctx ring serial page : Nat) (s : State) : Out := hub s (hostCompletionTimeout s ctx ring serial page)
def execHostLinkTrained (speed width : Nat) (flit : Bool) (s : State) : Out := aon s (hostLinkTrained s speed width flit)

end Sys2Proof.Machine
end

