-- ==== Sys2Proof/Machine/Reliability.lean ====
section
/-! DEFINITION. Sys2Proof/Machine/Reliability.lean: faults, retirement, scrub, watermark monitors, the error log and the time base (R481 to
R503, R508, R509) and the rows WM_CFG_WRITE, WM_THRESHOLD_WRITE, PCH_SPARE_COPY_DONE, SILO_REQUEST_TIMEOUT, SILO_PORT_RETIRE,
SCRUB_UNIT, PHY_CALIBRATION, BG_PASS_LATE, HEALTH_RECORD_WRITE, CORE_WATCHDOG, ELOG_RD_WRITE, ELOG_ENTRY_READ, TIME_STEP. -/

namespace Sys2Proof.Machine

open Sys2Proof

/-! ### Monitors (R497, R498, R509) -/

/-- WM_SEL. -/
def wmSel (s : State) : Nat := s.regField (kBar0 0x2A000) 0 12

/-- R498: a write to WM_CFG; writing EN 1 sets ABOVE from the value, recording no crossing. -/
def wmCfgWrite (s : State) (v : Word) : State :=
  let k := wmSel s
  let x := s.mon k
  let y := { x with en := v.getLsbD 0, rise := v.getLsbD 1, fall := v.getLsbD 2, irq := v.getLsbD 3 }
  s.setMon k (if y.en then y.enable (sourceValue s y.kind y.index) else y)

/-- R497: a write to WM_SRC. -/
def wmSource (x : Monitor) (v : Word) : Monitor :=
  let kind := bits v.toNat 0 8
  let i := bits v.toNat 8 16
  match kindIndices kind with
  | some n => if i < n then { x with kind := kind, index := i, afresh := x.en } else { x with err := true }
  | none => { x with err := true }

/-- R498: LO stays below HI. -/
def wmLimits (x : Monitor) (hi lo : Nat) : Monitor :=
  if threshold x.kind lo < threshold x.kind hi then { x with hi := hi, lo := lo, afresh := x.en } else { x with err := true }

/-- A write to WM_SRC, WM_HI or WM_LO, at offset `reg`. -/
def wmThresholdWrite (s : State) (reg : Nat) (v : Word) : State :=
  let k := wmSel s
  let x := s.mon k
  if reg = 0x2A004 then s.setMon k (wmSource x v)
  else if reg = 0x2A008 then s.setMon k (wmLimits x v.toNat x.lo)
  else if reg = 0x2A00C then s.setMon k (wmLimits x x.hi v.toNat)
  else s

/-! ### Loft pseudo-channels (R482, R485, R486) -/

/-- Retired pseudo-channels of a stack. -/
def pchRetired (s : State) (n : Nat) : Nat := (s.rel.retired.filter (fun k => k / 2 ^ 16 == kPch && k % 2 ^ 16 / 68 == n)).length

/-- R486 step 2: evictions of the stack until it holds what is left. -/
def evictExcess (n : Nat) : Nat → State → State
  | 0, s => s
  | fuel + 1, s =>
    let room := ((loftCarve s 3).map (·.granules)).getD 0 - loftShort s n
    if loftInUse s n ≤ room + evictingIn s n then s else
    match evictVictim s (fun e => e.2.heap / 2 ^ 36 == n) with
    | some k =>
      match startEviction s k .pressure 0 with
      | some t => evictExcess n fuel t
      | none => s
    | none => s

/-- Every unit of a granule marked, and repaired from its replica where it has one (R486 step 3, R218). -/
def poisonGran (s : State) (k : Nat) : State :=
  let us := (List.range 32768).map (fun i => k * 32768 + i)
  let t := s.setCom { s.com with poison := us.foldl setIns s.com.poison }
  if hasReplica t k then startRepair t k (k * 32768) else t

/-- R486 step 3: pinned granules that cannot be rebound are poisoned; which ones, no rule says (log entry 33). -/
def poisonUnbound (n : Nat) (s : State) : State :=
  let room := ((loftCarve s 3).map (·.granules)).getD 0 - loftShort s n
  let over_ := loftShort s n - ((loftCarve s 3).map (·.granules)).getD 0 + (loftInUse s n - evictingIn s n - room)
  let pins := (s.grans.filter (fun e => e.2.tier == .pinned && e.2.heap / 2 ^ 36 == n)).map (·.1)
  if over_ = 0 ∨ pins.isEmpty then s else
  let (v, s) := s.draw
  ((pins.drop (v % pins.length) ++ pins.take (v % pins.length)).take over_).foldl poisonGran s

/-- R486: a channel group of the stack is withdrawn. -/
def withdrawGroup (s : State) (n : Nat) : State :=
  let s := { s with withdrawn := tblIns s.withdrawn n (tblGet 0 s.withdrawn n + 1) }
  poisonUnbound n (evictExcess n (s.grans.length + 1) s)

/-- R482, R484 to R486: a pseudo-channel (68 × stack + number) at its threshold. -/
def retirePch (s : State) (k : Nat) : State :=
  if isRetired s (resKey kPch k) then s else
  let n := k / 68
  let had := pchRetired s n
  let s := markRetired s (resKey kPch k) 2
  if had < 2 then spareNotice { s with rel := { s.rel with copying := s.rel.copying ++ [k] } } (1 - had) else withdrawGroup s n

/-- PCH_SPARE_COPY_DONE (R485 step 4): the oldest copy of the stack is complete, and its mapping switches. -/
def pchSpareCopyDone (s : State) (n : Nat) : State :=
  match s.rel.copying.find? (fun k => k / 68 == n) with
  | some k => { s with rel := { s.rel with copying := s.rel.copying.erase k } }
  | none => s

/-! ### Lines of array SRAM and crib (R482, R487) -/

/-- The resource of a 64-byte line: of array slot `i`, or of crib bank `i`. -/
def lineKey (crib : Bool) (i line : Nat) : Nat := (if crib then 2 ^ 33 else 2 ^ 32) + i * 2 ^ 16 + line

/-- R482: an event against an array slot. -/
def slotEvent (s : State) (k : Nat) : State :=
  let (s, n) := faultEvent (logEntry s 1 0 0 noCtx k) (resKey kSlot k) day
  if n < 3 then s else retireSlot s k

/-- Lines retired among those of a group that share their spares: a 64 KiB segment, or a bank. -/
def linesRetired (s : State) (crib : Bool) (i line : Nat) : Nat :=
  (s.rel.retired.filter (fun k =>
    if crib then k / 2 ^ 16 == lineKey true i 0 / 2 ^ 16 else k / 1024 == lineKey false i line / 1024)).length

/-- R482: an array SRAM line at its threshold: a spare line, or an event against the slot. -/
def retireArrayLine (s : State) (k line : Nat) : State :=
  let full := decide (16 ≤ linesRetired s false k line)
  let s := markRetired s (lineKey false k line) 0
  if full then slotEvent s k else s

/-- R482, R487: a crib line at its threshold: a spare line, or the bank is retired. -/
def retireCribLine (s : State) (b line : Nat) : State :=
  let full := decide (64 ≤ linesRetired s true b line)
  let s := markRetired s (lineKey true b line) 1
  if full && !isRetired s (resKey kBank b) then markRetired s (resKey kBank b) 1 else s

/-- R482: a finding on a line. -/
def lineFinding (s : State) (crib : Bool) (i line : Nat) (found : ScrubFound) : State :=
  if isRetired s (lineKey crib i line) then s else
  match found with
  | .clean => s
  | .corrected =>
    let (s, n) := faultEvent (logEntry s 0 (if crib then 1 else 0) 0 noCtx i) (lineKey crib i line) day
    if n < 4 then s else if crib then retireCribLine s i line else retireArrayLine s i line
  | .uncorrectable => if crib then retireCribLine (logEntry s 1 1 0 noCtx i) i line else slotEvent s i

/-! ### Scrub (R490, R492) -/

/-- The rows of a pseudo-channel with an uncorrectable unit within 24 h. -/
def badRows (s : State) (k : Nat) : Nat :=
  (s.rel.faults.filter (fun e => e.1 / 2 ^ 20 == 2 ^ 14 + k && e.2.any (fun t => s.time.toNat < t.toNat + day))).length

/-- R492: a finding on a 64-byte unit of Loft, in a row of a pseudo-channel. -/
def loftFinding (s : State) (u k row : Nat) : ScrubFound → State
  | .clean => s
  | .corrected =>
    let (s, n) := faultEvent (logEntry s 0 2 0 noCtx k) (resKey kPch k) hour
    if n < 1000 then s else retirePch s k
  | .uncorrectable =>
    let held := (tblFind s.grans (u / 2 ^ 15)).any (fun g => g.tier != .silo)
    let s := if held then s.setCom { s.com with poison := setIns s.com.poison u } else s
    let s := (faultEvent (logEntry s 1 2 0 noCtx k) (2 ^ 34 + k * 2 ^ 20 + row) day).1
    let s := if held && repairable s u then startRepair s (u / 2 ^ 15) u else s
    if badRows s k < 2 then s else retirePch s k

/-- SCRUB_UNIT: activity 0 scrubs Loft: unit `unit` in row `line` of pseudo-channel `res`; activity 1 scrubs SRAM: line `line` of array
slot `res`, or of crib bank `res` − 1,088. -/
def scrubUnit (s : State) (act u res line : Nat) (found : ScrubFound) : State :=
  if act = 0 then (if res < 1088 ∧ line < 2 ^ 20 then loftFinding (bgUnit s 0) u res line found else s)
  else if act = 1 then
    (if res < 1088 then (if line < 24576 then lineFinding (bgUnit s 1) false res line found else s)
     else if res < 1600 ∧ line < 16384 then lineFinding (bgUnit s 1) true (res - 1088) line found else s)
  else s

/-- PHY_CALIBRATION (R490). -/
def phyCalibration (s : State) (n : Nat) : State := if n < 16 then bgUnit s 2 else s

/-- BG_PASS_LATE (R494). -/
def bgPassLate (s : State) (a : Nat) : State := if a < 6 ∧ bgLate s a then bgPassEnds s a else s

/-! ### Silo ports (R482, R488, R489) -/

/-- R488: a replica held on the retired port is placed anew, or gone where no port can take it. -/
def moveReplica (p : Nat) (s : State) (k : Nat) : State :=
  match tblFind s.grans k with
  | some g =>
    match g.replica with
    | some r =>
      if r.port != p then s else
      let t := s.setGran k { g with replica := none }
      match replicaPlace t r.sectors (if g.tier == .silo then some (g.heap / 2 ^ 40) else none) with
      | some x => s.setGran k { g with replica := some x }
      | none => t
    | none => s
  | none => s

/-- R488: what lies on a retired port: migrations to it are abandoned, granules with a replica are rebuilt. -/
def leavePort (p : Nat) (s : State) (k : Nat) : State :=
  match tblFind s.grans k with
  | some g =>
    let s := if g.mig.any (fun m => g.tier == .loft && m.dst / 2 ^ 40 == p) then abandonMigration s k else s
    if g.tier == .silo && g.heap / 2 ^ 40 == p && g.replica.isSome then startRepair s k (k * 2 ^ 15) else s
  | none => s

/-- SILO_PORT_RETIRE (R488). -/
def siloPortRetire (s : State) (p : Nat) : State :=
  let x := s.siloPort p
  if 12 ≤ p ∨ x.retired then s else
  let s := markRetired (s.setSiloPort p { x with retired := true, tries := 0 }) (resKey kSiloPort p) 3
  let ks := s.grans.map (·.1)
  ks.foldl (leavePort p) (ks.foldl (moveReplica p) s)

/-- SILO_REQUEST_TIMEOUT (R482, R489): retried three times, then the port retrains. -/
def siloRequestTimeout (s : State) (p : Nat) : State :=
  let x := s.siloPort p
  if 12 ≤ p ∨ x.retired then s
  else if x.tries < 3 then s.setSiloPort p { x with tries := x.tries + 1 }
  else
    let (s, n) := faultEvent (logEntry (s.setSiloPort p { x with tries := 0 }) 1 3 0 noCtx p) (resKey kSiloPort p) hour
    if n < 3 then s else siloPortRetire s p

/-! ### The health record and the management cores (R483, R489) -/

/-- HEALTH_RECORD_WRITE (R483). -/
def healthRecordWrite (s : State) (okay : Bool) : State :=
  if okay then { s with rel := { s.rel with recorded := s.rel.retired } } else s

/-- CORE_WATCHDOG (R489): the core restarts; when all four have within 1 s, the hub requests a warm reset. -/
def coreWatchdog (s : State) (c : Nat) : State :=
  if 4 ≤ c then s else
  let l := (c, s.time) :: s.mgmt.restarts.filter (fun e => s.time.toNat < e.2.toNat + 1000000000)
  let s := (faultEvent (logEntry s 6 8 0 noCtx c) (resKey kCore 0) day).1
  if (List.range 4).all (fun d => l.any (fun e => e.1 == d)) then warmReset s 3
  else { s with mgmt := { s.mgmt with restarts := l } }

/-! ### The error log (R501, R502, R508) -/

/-- An entry's 32 bytes. -/
def LogEnt.bytes (e : LogEnt) : List Byte :=
  bytesLE e.time.toNat 8 ++ bytesLE e.seq 8 ++ bytesLE e.cls 1 ++ bytesLE e.unit 1 ++ bytesLE e.status 1 ++ bytesLE e.count 1
    ++ bytesLE e.ctx 2 ++ bytesLE 0 2 ++ bytesLE e.loc 8

/-- R502: a new ELOG_RD; a value outside ELOG_RD to ELOG_WR is ignored. -/
def elogRelease (s : State) (n : Nat) : State :=
  if s.elog.rd ≤ n ∧ n ≤ s.elog.wr then { s with elog := { s.elog with rd := n } } else s

/-- ELOG_RD_WRITE: the low half is held until the high half is written. -/
def elogRdWrite (s : State) (high : Bool) (v : Word) : State :=
  if high then
    let lo := (s.elog.rdLo.map (·.toNat)).getD (s.elog.rd % 2 ^ 32)
    elogRelease { s with elog := { s.elog with rdLo := none } } (v.toNat * 2 ^ 32 + lo)
  else { s with elog := { s.elog with rdLo := some v } }

/-- The slot that ELOG_SEL names; one that holds no entry reads zero. -/
def elogSlot (s : State) : List Byte :=
  match tblFind s.elog.ents (s.regField (kBar0 0x28318) 0 12) with
  | some e => e.bytes
  | none => List.replicate 32 0

/-- ELOG_ENTRY_READ: the slot goes to the shadow, and its first four bytes are answered. -/
def elogEntryRead (s : State) : State :=
  replyWith { s with elog := { s.elog with shadow := elogSlot s } } ((elogSlot s).take 4)

/-- R454, R517: a read of BAR0: zero while the PF is under a function-level reset and, over the management path, before READY; an
Unsupported Request while the BAR is closed. -/
def readBar0 (s : State) (a : Agent) (go : State → State) : State :=
  if bar0Open s a then
    match a with
    | .host f => if (s.fn f).flr then replyWith (wakeSource s 1) [0, 0, 0, 0] else go (wakeSource s 1)
    | _ => go s
  else replyWith s (if a == .mctp then [0, 0, 0, 0] else [])

/-! ### The time base (R503) -/

/-- TIME_STEP. -/
def timeStep (s : State) : State := { s with time := s.time + BitVec.ofNat 64 (s.ctr64 (kBar0 0x28208)) }

/-! ### Rows -/

def execWmCfgWrite (a : Agent) (v : Word) (s : State) : Out := hub s (viaBar0 s a 0x2A010 (fun s => wmCfgWrite s v))
def execWmThresholdWrite (a : Agent) (reg : Nat) (v : Word) (s : State) : Out := hub s (viaBar0 s a reg (fun s => wmThresholdWrite s reg v))
def execPchSpareCopyDone (stack : Nat) (s : State) : Out := hub s (pchSpareCopyDone s stack)
def execSiloRequestTimeout (port : Nat) (s : State) : Out := hub s (siloRequestTimeout s port)
def execSiloPortRetire (port : Nat) (s : State) : Out := hub s (siloPortRetire s port)
def execScrubUnit (act unit res line : Nat) (found : ScrubFound) (s : State) : Out := hub s (scrubUnit s act unit res line found)
def execPhyCalibration (stack : Nat) (s : State) : Out := hub s (phyCalibration s stack)
def execBgPassLate (act : Nat) (s : State) : Out := hub s (bgPassLate s act)
def execHealthRecordWrite (okay : Bool) (s : State) : Out := hub s (healthRecordWrite s okay)
def execCoreWatchdog (core : Nat) (s : State) : Out := hub s (coreWatchdog s core)
def execElogRdWrite (a : Agent) (high : Bool) (v : Word) (s : State) : Out := hub s (viaBar0 s a (if high then 0x2830C else 0x28308) (fun s => elogRdWrite s high v))
def execElogEntryRead (a : Agent) (s : State) : Out := hub s (readBar0 s a elogEntryRead)
def execTimeStep (a : Agent) (s : State) : Out := hub s (viaBar0 s a 0x28210 timeStep)

end Sys2Proof.Machine
end

