-- ==== Sys2Proof/Machine/Management.lean ====
section
/-! DEFINITION. Sys2Proof/Machine/Management.lean: hub firmware images and the management path (R413, R414, R420, R505 to R507, R513, R517)
and the rows MCTP_CONTROL, PLDM_REQUEST, PLDM_FIRMWARE_UPDATE, SPDM_REQUEST, HEALTH_RECORD_READ, ERROR_LOG_READ, ERROR_LOG_RELEASE. A
message begins with its binding, 0 I3C or SMBus and 1 PCIe VDM, and its MCTP type; the encodings of the DMTF standards are PRESUMED
(log entry 34). -/

namespace Sys2Proof.Machine

open Sys2Proof

/-! ### Firmware images (R420) -/

def fwKeyId (g : List Byte) : Nat := fld g 9 1

/-- R420: an image passes every check. -/
def fwPasses (s : State) (g : List Byte) : Bool :=
  fld g 0 4 == 0x3157464E && fld g 8 1 ≤ 63 && decide (s.vault.svn ≤ fld g 8 1)
    && fwKeyId g ≤ 3 && bits s.vault.revoked (fwKeyId g) 1 == 0
    && fld g 10 1 ≤ 15 && bits (fld g 10 1) (fwKeyId g) 1 == 0
    && allZero (recPart g 11 5) && allZero (recPart g 20 44)
    && 4096 ≤ g.length && g.length ≤ 33554432 && g.length % 8 == 0 && fld g 16 4 == g.length
    && ed25519Verifies (Config.firmwareKey (fwKeyId g)) (g.take (g.length - 64)) (g.drop (g.length - 64))

/-- An image area: 0 A, 1 B. -/
def fwArea (s : State) (a : Nat) : List Byte := if a = 0 then s.boot.areaA else s.boot.areaB

/-- R413: the security configuration (log entry 27). -/
def securityConfig (s : State) : List Byte := bytesLE s.vault.lifecycle 1 ++ bytesLE s.vault.svn 1 ++ bytesLE s.vault.revoked 1

/-- R413, R420: the image of an area runs: its header's fields, the measurements and the Alias key. -/
def runImage (s : State) (a : Nat) : State :=
  let g := fwArea s a
  let ms := [sha384 Config.bootLoader, sha384 g, sha384 (securityConfig s)]
  let cdi := hmac384 (hkdf Config.uds (ascii "CDI") 48) ms.flatten
  { s with boot := { s.boot with image := a },
           vault := { s.vault with fwVersion := fld g 4 4, fwSvn := fld g 8 1, fwRevoke := fld g 10 1, measured := ms.flatten,
                                   alias_ := ecPrivate (hkdf cdi (ascii "ALIAS") 48) } }

/-- R513: the firmware is selected: the pending area, the active one, the other; none passes: FAIL 2. -/
def selectImage (s : State) : State :=
  let act := s.boot.active
  let passes := fun a => fwPasses s (fwArea s a)
  match s.boot.pend.filter passes with
  | some p => runImage { s with boot := { s.boot with active := p, pend := none } } p
  | none =>
    let s := { s with boot := { s.boot with pend := none, pendFail := s.boot.pend.isSome } }
    if passes act then runImage s act
    else if passes (1 - act) then runImage { s with boot := { s.boot with fallback := true } } (1 - act)
    else { s with boot := { s.boot with fail := 2, running := false } }

/-! ### MCTP (R505, R517) -/

/-- R505: a message longer than 8 KiB is discarded. -/
def mctpDrop (s : State) : State :=
  s.setReg (kBar0 0x28400) (setField (s.reg (kBar0 0x28400)) 16 16 (min 65535 (s.regField (kBar0 0x28400) 16 16 + 1)))

/-- R505, R517: a message of a type: discarded when too long, answered busy before READY. -/
def viaMctp (s : State) (msg : List Byte) (ty : Nat) (always : List Byte → Bool) (go : Nat → List Byte → State) : State :=
  match msg with
  | b :: t :: m =>
    if 8192 < m.length then mctpDrop s
    else if 1 < b.toNat ∨ t.toNat ≠ ty then s
    else if s.boot.step = 10 ∨ always m then go b.toNat m
    else replyWith s [4#8]
  | _ => s

/-- The byte at an index of a message. -/
def at_ (m : List Byte) (i : Nat) : Byte := m.getD i 0#8

/-- The header of an answer: the request bit cleared, the type or command bytes repeated. -/
def answerHead (m : List Byte) (n : Nat) : List Byte := (at_ m 0 &&& 0x1F#8) :: (m.drop 1).take n

/-- The endpoint ID of a binding. -/
def eidOf (s : State) (b : Nat) : Nat := s.regField (kBar0 0x28400) (8 * b) 8

/-- Set Endpoint ID and Get Endpoint ID, which are answered from step 0. -/
def isEid (m : List Byte) : Bool := (at_ m 1).toNat == 1 || (at_ m 1).toNat == 2

/-- MCTP_CONTROL: the commands of R505. -/
def mctpControl (s : State) (b : Nat) (m : List Byte) : State :=
  let say := fun (s : State) (bs : List Byte) => replyWith s (answerHead m 1 ++ bs)
  match (at_ m 1).toNat with
  | 1 =>
    let e := (at_ m 3).toNat
    if e = 0 ∨ e = 255 then say s [2#8]
    else say (s.setReg (kBar0 0x28400) (setField (s.reg (kBar0 0x28400)) (8 * b) 8 e)) [0, 0, at_ m 3, 0]
  | 2 => say s [0, BitVec.ofNat 8 (eidOf s b), 0, 0]
  | 3 => say s (0#8 :: (fingerprint 2 (ecPublic deviceIdPrivate)).take 16)
  | 4 => say s [0, 1, 0xF1, 0xF3, 0xF1, 0x00]
  | 5 => say s [0, 3, 0x01, 0x05, 0x7E]
  | _ => say s [5#8]

/-! ### PLDM (R506) -/

/-- A PLDM answer. -/
def pldmSay (s : State) (m : List Byte) (bs : List Byte) : State := replyWith s (answerHead m 2 ++ bs)

/-- The commands supported, by type. -/
def pldmCommands (t : Nat) : List Nat :=
  match t with
  | 0 => [2, 3, 4, 5] | 2 => [0x04, 0x0B, 0x11, 0x21, 0x50, 0x51] | 4 => [0x01, 0x02] | 5 => [0x10] | _ => []

/-- The version of a type's standard. -/
def pldmVersion (t : Nat) : List Byte :=
  match t with | 2 => [0x00, 0xF0, 0xF2, 0xF1] | 5 => [0x00, 0xF0, 0xF1, 0xF1] | _ => [0x00, 0xF0, 0xF0, 0xF1]

/-- Type 0. -/
def pldmBase (s : State) (m : List Byte) : State :=
  match (at_ m 2).toNat with
  | 2 => pldmSay s m [0, 0]
  | 3 => pldmSay s m ([0, 0, 0, 0, 0, 5] ++ pldmVersion (at_ m 8).toNat)
  | 4 => pldmSay s m (0#8 :: bytesLE 0x35 8)
  | 5 => pldmSay s m (0#8 :: bytesLE ((pldmCommands (at_ m 3).toNat).map (2 ^ ·)).sum 32)
  | _ => pldmSay s m [5#8]

/-- A numeric sensor: 312 is PWR_IN, 313 IN_ENERGY. -/
def numericReading (s : State) (i : Nat) : Option (List Byte) :=
  if i < 312 then
    let x := s.sensor i
    some ((if i < 256 ∨ 309 < i then 3#8 else 2#8) :: (if x.valid then 0#8 else 2#8) :: [0, 1, 1, 1] ++ bytesLE x.value 2)
  else if i = 312 then some ([2, 0, 0, 1, 1, 1] ++ bytesLE (s.regField (kBar0 0x24024) 0 12) 2)
  else if i = 313 then some ([6, 0, 0, 1, 1, 1] ++ bytesLE (s.ctr64 (kBar0 0x24028)) 8)
  else none

/-- A state sensor: the power state, the spares of a die, the health of a rail. -/
def stateReading (s : State) (i : Nat) : Option Nat :=
  if i = 0x400 then some s.pwr.state.code
  else if 0x410 ≤ i ∧ i < 0x420 then some (freeSpares s (i - 0x410)).length
  else if 0x430 ≤ i ∧ i < 0x464 then some (if (s.rail (i - 0x430)).derated || (s.rail (i - 0x430)).limit then 2 else 1)
  else none

/-- The sensors that the PDR repository describes. -/
def pdrSensors : List Nat :=
  List.range 314 ++ [0x400] ++ (List.range 16).map (0x410 + ·) ++ (List.range 52).map (0x430 + ·)

/-- The record of a sensor. -/
def pdrRecord (h id : Nat) : List Byte :=
  bytesLE h 4 ++ bytesLE 1 1 ++ bytesLE (if id < 0x400 then 2 else 4) 1 ++ bytesLE 0 2 ++ bytesLE 4 2 ++ bytesLE 0 2 ++ bytesLE id 2

/-- R506: the notices and pending watermark events, for a poll. -/
def noticeWord (s : State) : Nat := s.regField (kBar0 0x28000) 0 7 + bit (s.mons.any (fun e => e.2.event)) 7

/-- Type 2. -/
def pldmMonitor (s : State) (m : List Byte) : State :=
  let id := fld m 3 2
  match (at_ m 2).toNat with
  | 0x04 => pldmSay { s with mgmt := { s.mgmt with events := at_ m 3 == 1#8 || at_ m 3 == 3#8 } } m [0]
  | 0x0B =>
    pldmSay s m ([0, 0] ++ bytesLE (if noticeWord s = 0 then 0 else 1) 2 ++ bytesLE 0 4 ++ [5, 0xF0] ++ bytesLE 4 4
      ++ bytesLE (noticeWord s) 4)
  | 0x11 => match numericReading s id with | some bs => pldmSay s m (0#8 :: bs) | none => pldmSay s m [0x80]
  | 0x21 => match stateReading s id with
    | some v => pldmSay s m ([0, 1, 0] ++ bytesLE v 1 ++ bytesLE v 1 ++ bytesLE v 1)
    | none => pldmSay s m [0x80]
  | 0x50 => pldmSay s m ([0, 0] ++ bytesLE 0 26 ++ bytesLE pdrSensors.length 4)
  | 0x51 =>
    let h := max 1 (fld m 3 4)
    match pdrSensors[h - 1]? with
    | some i => pldmSay s m (0#8 :: bytesLE (if h < pdrSensors.length then h + 1 else 0) 4 ++ bytesLE 0 4 ++ [5]
        ++ bytesLE (pdrRecord h i).length 2 ++ pdrRecord h i)
    | none => pldmSay s m [0x82]
  | _ => pldmSay s m [5#8]

/-- R506: FRU data: part number, serial number, stepping. -/
def fruRecord : List Byte :=
  let f := fun (t : Byte) (v : List Byte) => t :: bytesLE v.length 1 ++ v
  bytesLE 1 2 ++ [1, 3, 1] ++ f 3 (ascii "NGS-DT20-A1") ++ f 4 ((fingerprint 2 (ecPublic deviceIdPrivate)).take 8) ++ f 10 [0x11]

/-- Type 4. -/
def pldmFru (s : State) (m : List Byte) : State :=
  match (at_ m 2).toNat with
  | 1 => pldmSay s m ([0, 1, 0] ++ bytesLE 0 4 ++ bytesLE fruRecord.length 4 ++ bytesLE 1 2 ++ bytesLE 1 2 ++ bytesLE 0 4)
  | 2 => pldmSay s m (0#8 :: bytesLE 0 4 ++ [5] ++ fruRecord)
  | _ => pldmSay s m [5#8]

/-- PLDM_REQUEST. -/
def pldmRequest (s : State) (m : List Byte) : State :=
  match (at_ m 1).toNat % 64 with
  | 0 => pldmBase s m
  | 2 => pldmMonitor s m
  | 4 => pldmFru s m
  | _ => pldmSay s m [5#8]

/-- R506, R514: the image of a firmware update, written to the inactive area (to area A when no image runs) and verified there. -/
def firmwareUpdate (s : State) (g : List Byte) : State :=
  let a := if s.boot.fail = 2 then 0 else 1 - s.boot.active
  let b := if a = 0 then { s.boot with areaA := g } else { s.boot with areaB := g }
  if fwPasses s g then replyWith { s with boot := { b with pend := some a } } [0] else replyWith { s with boot := b } [1]

/-! ### SPDM (R414) -/

/-- The certificate chains. -/
def spdmChain (s : State) (slot : Nat) : List Byte :=
  Config.certChain slot (ecPublic (if slot = 0 then s.vault.alias_ else packagePrivate))

/-- R413, R414: the three measurements. -/
def spdmMeasurements (s : State) : List Byte :=
  (List.range 3).flatMap (fun i => bytesLE (i + 1) 1 ++ [1] ++ bytesLE 51 2 ++ bytesLE (if i = 2 then 3 else i) 1 ++ bytesLE 48 2
    ++ (s.vault.measured.drop (48 * i)).take 48)

/-- An answer signed by the Alias key over the request and the answer; the secret number is a free value. -/
def spdmSign (s : State) (m bs : List Byte) : State :=
  let (n, s) := s.draw
  let (k, s) := s.draw
  let bs := bs ++ bytesLE n 32 ++ bytesLE 0 2
  replyWith s (bs ++ ecdsaSign s.vault.alias_ (k % (p384N - 1) + 1) (m ++ bs))

/-- SPDM_REQUEST. -/
def spdmRequest (s : State) (m : List Byte) : State :=
  let slot := (at_ m 2).toNat
  match (at_ m 1).toNat with
  | 0x84 => replyWith s [0x10, 0x04, 0, 0, 0, 1, 0x00, 0x12]
  | 0xE1 => replyWith s ([0x12, 0x61, 0, 0, 0, 0, 0, 0] ++ bytesLE 0x16 4 ++ bytesLE 8192 4 ++ bytesLE 8192 4)
  | 0xE3 => replyWith s ([0x12, 0x63, 0, 0] ++ bytesLE 36 2 ++ [1, 0] ++ bytesLE 4 4 ++ bytesLE 0x80 4 ++ bytesLE 2 4 ++ bytesLE 0 16)
  | 0x81 => replyWith s ([0x12, 0x01, 0, 3] ++ sha384 (spdmChain s 0) ++ sha384 (spdmChain s 1))
  | 0x82 =>
    if 1 < slot then replyWith s [0x12, 0x7F, 1, 0] else
    let rest := (spdmChain s slot).drop (fld m 4 2)
    let part := rest.take (fld m 6 2)
    replyWith s ([0x12, 0x02, at_ m 2, 0] ++ bytesLE part.length 2 ++ bytesLE (rest.length - part.length) 2 ++ part)
  | 0x83 => if slot ≠ 0 then replyWith s [0x12, 0x7F, 1, 0] else spdmSign s m ([0x12, 0x03, 0, 3] ++ sha384 (spdmChain s 0))
  | 0xE0 =>
    spdmSign s m ([0x12, 0x60, 3, 0, 3] ++ bytesLE (spdmMeasurements s).length 3 ++ spdmMeasurements s)
  | c => replyWith s [0x12, 0x7F, 7, BitVec.ofNat 8 c]

/-! ### Vendor-defined messages (R507) -/

/-- R483: the health record: a bit for each retirable resource by kind, and the ageing counts (log entry 35). -/
def healthRecord (s : State) : List Byte :=
  let flag := fun k => s.rel.recorded.contains k
  let pack := fun (l : List Nat) => (chunks 8 l.length l).map (fun g =>
    BitVec.ofNat 8 ((g.zipIdx.map (fun e => if flag e.1 then 2 ^ e.2 else 0)).sum))
  pack ((List.range 13).flatMap (fun kind => (List.range 1088).map (resKey kind)))
    ++ (List.range 1088).flatMap (fun i => bytesLE (slotAge s i) 8)

/-- HEALTH_RECORD_READ: a part of up to 4 KiB. -/
def healthRecordRead (s : State) (part : Nat) : State := replyWith s (((healthRecord s).drop (4096 * part)).take 4096)

/-- ERROR_LOG_READ: entries from number `n` on, at most 128. -/
def errorLogRead (s : State) (n : Nat) : State :=
  let first := max n (s.elog.wr - 4096)
  replyWith s ((List.range (min 128 (s.elog.wr - first))).flatMap (fun i =>
    match tblFind s.elog.ents ((first + i) % 4096) with | some e => e.bytes | none => []))

/-- A vendor-defined message before READY is answered busy. -/
def vendor (s : State) (go : State → State) : State := if s.boot.step = 10 then go s else replyWith s [4#8]

/-! ### Rows -/

def execMctpControl (msg : List Byte) (s : State) : Out := aon s (viaMctp s msg 0 isEid (fun b m => mctpControl s b m))
def execPldmRequest (msg : List Byte) (s : State) : Out := aon s (viaMctp s msg 1 (fun _ => false) (fun _ m => pldmRequest s m))
def execPldmFirmwareUpdate (msg : List Byte) (s : State) : Out :=
  aon s (if s.boot.step = 10 ∨ s.boot.fail = 2 then firmwareUpdate s msg else replyWith s [4#8])
def execSpdmRequest (msg : List Byte) (s : State) : Out := aon s (viaMctp s msg 5 (fun _ => false) (fun _ m => spdmRequest s m))
def execHealthRecordRead (part : Nat) (s : State) : Out := aon s (vendor s (fun s => healthRecordRead s part))
def execErrorLogRead (idx : Nat) (s : State) : Out := aon s (vendor s (fun s => errorLogRead s idx))
def execErrorLogRelease (rd : Nat) (s : State) : Out := aon s (vendor s (fun s => elogRelease s rd))

end Sys2Proof.Machine
end

