-- ==== Sys2Proof/Machine/Startup.lean ====
section
/-! DEFINITION. Sys2Proof/Machine/Startup.lean: start-up and the reset kinds (R510 to R526, R532, R533) and the rows COLD_RESET,
AUX_POWER_LOSS, WARM_RESET, RST_CTRL_WARM, PERST_DEASSERT, PERST_ASSERT_IN_FALLOW, SYSREF_CLK_LOSS, STARTUP_STEP_DONE,
STARTUP_STEP1_RETRY, SILO_TRAINING_RETRY, SILO_PORT_TRAINED, BOOT_PLAN_LOAD, FALLOW_EXIT, STORE, ERASE, BOOT_STORE_DONE,
BOOT_CFG_WRITE. -/

namespace Sys2Proof.Machine

open Sys2Proof

/-! ### Resets (R510, R511, R532, R533) -/

/-- The module is in Fallow, or leaving it. -/
def inFallow (s : State) : Bool := s.pwr.state == .fallow

/-- AUX_POWER_LOSS (R533): what does not outlive the always-on domain is gone. -/
def auxPowerLoss (s : State) : State :=
  let t := coldReset s
  { t with boot := { t.boot with running := false }, pins := { t.pins with aux := false } }

/-- R511: PERST_N is asserted outside Fallow. -/
def perstAssert (s : State) : State :=
  if s.pins.perst || inFallow s then s else warmReset { s with pins := { s.pins with perst := true } } 1

/-- R510, R533: the 12 V input leaves its range; no rule states the class of the entry (log entry 1). -/
def supplyLoss (s : State) : State :=
  if !s.pins.v12 then s else
  let (c, s) := s.draw
  warmReset { logEntry s (c % 8) 6 0 noCtx 0 with pins := { s.pins with v12 := false } } 1

/-- WARM_RESET: by PERST_N, by the 12 V input, or by the hub (R489). -/
def warmResetBy (s : State) (cause : Nat) : State :=
  match cause with
  | 0 => perstAssert s
  | 1 => supplyLoss s
  | 2 => if s.up then warmReset s 3 else s
  | _ => s

/-- R525: a write to RST_CTRL. -/
def rstCtrl (s : State) (v : Word) : State := if bits v.toNat 0 8 = 0xA5 ∧ v.getLsbD 8 then warmReset s 2 else s

/-- SYSREF_CLK_LOSS (R532); no rule states LAST_KIND for it (log entry 1). -/
def sysrefLoss (s : State) : State :=
  if !s.pins.sysref then s else
  let t := { s with pins := { s.pins with sysref := false } }
  if s.boot.step < 2 then t else
  let (k, t) := t.draw
  warmReset t (k % 8)

/-! ### The steps (R512 to R515, R523) -/

/-- Step 1 begins; the last reset has ended. -/
def startSteps (s : State) : State := { s with boot := { s.boot with step := 1, running := true, began := s.time } }

/-- The next step begins. -/
def stepTo (s : State) (n : Nat) : State := { s with boot := { s.boot with step := n } }

/-- R510, R535: the steps after step 0, or after a warm reset, begin once PERST_N is deasserted; Fallow ends by FALLOW_EXIT. -/
def afterReset (s : State) : State :=
  if s.pins.perst then { s with boot := { s.boot with running := false } } else if inFallow s then s else startSteps s

/-- R514: step 1 checks the 12 V input and SYSREF_CLK. -/
def checkSupplies (s : State) : State :=
  if s.pins.v12 && s.pins.sysref then stepTo { s with boot := { s.boot with fail := 0 } } 2
  else { s with boot := { s.boot with fail := 1, running := false } }

/-- Step 5: the die links train to their full width; the repairs are kept (R26). -/
def trainLinks (s : State) : State := (List.range 47).foldl (fun s n => s.setLink n { s.link n with up := linkBuilt n }) s

/-- R32, R514: the self-test of every die, once since cold reset; what fails, no rule can say (log entry 1). -/
def selfTest (s : State) : State :=
  if inFallow s || !s.topo.diePresent.isEmpty then s else
  let (v, s) := s.draw
  let l := (List.range 20).filter (fun d => d == 18 || bits v d 1 == 1)
  { s with topo := { s.topo with diePresent := l }, boot := { s.boot with fail := if l.length = 20 then s.boot.fail else 3 } }

/-- R514: the Loft PHYs train; whether a stack fails, no rule can say (log entry 1). -/
def trainStacks (s : State) : State :=
  let (v, s) := s.draw
  if v % 2 = 0 then s else { s with boot := { s.boot with fail := 4 } }

/-- R18, R21, R483: a recorded retirement of an array slot. -/
def applySlot (s : State) (k : Nat) : State :=
  let s := mapEvent s
  let x := s.slot k
  match x.st with
  | .inService | .moving =>
    match (freeSpares s (k / 68)).head? with
    | some n => takeOver s x.field k n .retired
    | none =>
      let s := placeDoubled (s.setSlot k { st := .retired, field := x.field, doubled := none }) x.field
      match x.doubled with | some g => placeDoubled s g | none => s
  | _ => s.setSlot k { x with st := .retired, field := 0 }

/-- The recorded numbers of a kind of resource. -/
def recordedOf (s : State) (kind : Nat) : List Nat := (s.rel.recorded.filter (fun k => k / 2 ^ 16 == kind)).map (· % 2 ^ 16)

/-- R483, R512 step 8: the retirements of the health record come into force over the identity map. -/
def applyRecord (s : State) : State :=
  let s := { s with rel := { s.rel with retired := s.rel.recorded, copying := [] }, topo := { s.topo with arrays := [], slots := [], rotations := [] } }
  let s := (recordedOf s kSlot).foldl applySlot s
  let s := (recordedOf s kPhase).foldl (fun s i => s.setPhase i { s.phase i with st := 3, amps := 0 }) s
  let s := (recordedOf s kSiloPort).foldl (fun s p => s.setSiloPort p { s.siloPort p with retired := true }) s
  let s := (List.range 16).foldl (fun s n => { s with withdrawn := tblSet 0 s.withdrawn n (pchRetired s n - 2) }) s
  if inFallow s then s else (List.range 36).foldl retiredLanes s

/-- R523: after Fallow the retirements are those of before, but for one that the record does not hold. -/
def recordStep (s : State) : State := if inFallow s && s.rel.retired == s.rel.recorded then s else applyRecord s

/-- R515: READY. -/
def readyStep (s : State) : State :=
  let ms := (s.time.toNat - s.boot.began.toNat) / 1000000
  let s := stepTo { s with boot := { s.boot with startMs := min 65535 ms } } 10
  { s with bg := (List.range 6).map (fun a => (a, { began := s.time, units := 0 })) }

/-- R520: step 10 of a reset, without an enabled image. -/
def noBootPlan (s : State) : State :=
  if s.regField (kBar0 0x3000C) 0 1 = 1 ∧ !s.boot.plan.isEmpty then s else { s with boot := { s.boot with done := true, running := false } }

/-- R470, R523: step 10 of a Fallow exit: the saved state is in force again and its key destroyed. -/
def restoreStep (s : State) : State :=
  stateReached { s with boot := { s.boot with kind := 5, wrapKey := 0, done := true, running := false } } .run

/-- The end of step `n`. -/
def endStep (s : State) (n : Nat) : State :=
  match n with
  | 0 => afterReset s
  | 1 => checkSupplies s
  | 2 => stepTo s 3
  | 3 => let t := selectImage s; if t.boot.fail = 2 then t else stepTo t 4
  | 4 => stepTo s 5
  | 5 => stepTo (trainLinks s) 6
  | 6 => stepTo (portsTrain { selfTest s with boot := { (selfTest s).boot with trainAt := s.time } }) 7
  | 7 => stepTo (trainStacks s) 8
  | 8 => stepTo (recordStep s) 9
  | 9 => if inFallow s then stepTo s 10 else noBootPlan (readyStep s)
  | _ => if inFallow s then restoreStep s else s

/-- STARTUP_STEP_DONE: the step in progress ends; after a warm reset, the 2 ms of R510. -/
def startupStepDone (s : State) : State :=
  if s.boot.running then endStep s s.boot.step else if s.boot.step = 0 then afterReset s else s

/-- STARTUP_STEP1_RETRY (R514): what the check finds, the supplies alone say (log entry 1). -/
def step1Retry (s : State) : State :=
  if s.boot.step = 1 ∧ !s.boot.running then
    let (v, s) := s.draw
    if v % 2 = 0 then s
    else { s with pins := { s.pins with v12 := true, sysref := true }, boot := { s.boot with fail := 0, running := true } }
  else s

/-- FALLOW_EXIT (R470, R510, R523). After a trip it is a warm reset. -/
def fallowExit (s : State) : State :=
  if !inFallow s || s.pwr.moving != some .run || s.boot.running || s.boot.step != 0 then s
  else if s.pwr.tripped then warmReset s 4 else startSteps s

/-! ### PERST_N (R511) -/

/-- R511: the PF's configuration space and every function's BAR2 return to their reset values; VF Enable clears. -/
def hostPortReset (s : State) : State :=
  let s := if s.host.vfEnable then dropVfs s 1 else s
  let s := { s with host := { s.host with vfEnable := false, numVFs := 0, speed := 0, width := 0, flit := false },
                    regs := s.regs.filter (fun e => decide (e.1 / 2 ^ 32 < 8192)
                      || (e.1 / 2 ^ 32 != 8192 && e.1 % 2 ^ 32 == 0x10010)) }
  s.setFn 0 Fn.reset

/-- R469, R511: the deassertion in Fallow is a PCIE wake; it ends Fallow, after a trip once the module has cooled (R478). -/
def perstWake (s : State) : State :=
  let s := if s.regField kWakeCfg 21 1 = 1 then s.setBits kWakeCause 2 else s
  if s.pwr.tripped && !cooled s then s else wakeAny s

/-- PERST_DEASSERT. -/
def perstDeassert (s : State) : State :=
  if !s.pins.perst then s else
  let s := { s with pins := { s.pins with perst := false, wakeN := false } }
  if inFallow s then perstWake (hostPortReset s)
  else if s.boot.step = 0 ∧ !s.boot.running then startSteps s else s

/-- PERST_ASSERT_IN_FALLOW. -/
def perstAssertInFallow (s : State) : State := if inFallow s then { s with pins := { s.pins with perst := true } } else s

/-! ### Silo ports (R518) -/

/-- SILO_PORT_TRAINED. -/
def siloPortTrained (s : State) (p capacity : Nat) : State :=
  let x := s.siloPort p
  if 12 ≤ p ∨ x.retired then s else s.setSiloPort p { x with trained := true, capacity := capacity, tries := 0 }

/-! ### The boot plan (R520, R526) -/

/-- R520: every Silo port that the image names has trained, or SILO_WAIT_MS has passed. -/
def bootPlanDue (s : State) : Bool :=
  (namedSiloPorts s.boot.plan).all (fun p => (s.siloPort p).trained)
    || decide (s.boot.trainAt.toNat + 1000000 * s.regField (kBar0 0x3000C) 4 12 ≤ s.time.toNat)

/-- BOOT_PLAN_LOAD: as if host software had written the operation (R52). -/
def bootPlanLoad (s : State) : State :=
  if s.boot.step != 10 || !s.boot.running || inFallow s || fpBusy s || !bootPlanDue s then s else
  let s := { s with plan := { s.plan with lastOp := 1, lastSlot := 0 } }
  if someContext s || !allDies s then bootPlanEnds (fpEnd s .notReady none) .notReady
  else { s with plan := { s.plan with op := some { op := 1, slot := 0, addr := 0, len := s.boot.plan.length, boot := true } } }

/-- R525: a write to BOOT_CTRL. -/
def bootCtrl (s : State) (v : Word) : State :=
  if s.boot.op.isSome then s else
  match bits v.toNat 0 2 with
  | 1 => { s with boot := { s.boot with op := some (s.ctr64 kFpSrc, (s.reg (kBar0 0x800C)).toNat) } }
  | 2 => { s with boot := { s.boot with plan := [], opResult := .ok } }
  | 3 => { s with boot := { s.boot with opResult := .format } }
  | _ => s

/-- BOOT_STORE_DONE (R526). -/
def bootStoreDone (s : State) : State :=
  match s.boot.op with
  | none => s
  | some (a, n) =>
    let img := memRead s.com.host a (if n ≤ 4194304 then n else 0)
    match storeCheck s img n with
    | some f =>
      let s := if f.st == .signature then s.bump kSigFail 1 else s
      { s with boot := { s.boot with op := none, opResult := f.st } }
    | none => { s with boot := { s.boot with op := none, opResult := .ok, plan := img } }

/-- BOOT_CFG_WRITE. -/
def bootCfgWrite (s : State) (v : Word) : State := s.setReg (kBar0 0x3000C) (v &&& 0xFFF1#32)

/-! ### Rows -/

/-- A row of a register of PF BAR0 that works as soon as the host port enumerates (R514, FAIL 2). -/
def early (s t : State) : Out := if s.up || s.boot.fail == 2 then done t else .next s

/-- A row of the reset logic while P3V3_AUX is absent answers nothing; COLD_RESET is its return. -/
def execColdReset (s : State) : Out := done (coldReset s)
def execAuxPowerLoss (s : State) : Out := aon s (auxPowerLoss s)
def execWarmReset (cause : Nat) (s : State) : Out := aon s (warmResetBy s cause)
def execRstCtrlWarm (a : Agent) (v : Word) (s : State) : Out := early s (viaBar0 s a 0x30004 (fun s => rstCtrl s v))
def execPerstDeassert (s : State) : Out := aon s (perstDeassert s)
def execPerstAssertInFallow (s : State) : Out := aon s (perstAssertInFallow s)
def execSysrefClkLoss (s : State) : Out := aon s (sysrefLoss s)
def execStartupStepDone (s : State) : Out := aon s (startupStepDone s)
def execStartupStep1Retry (s : State) : Out := aon s (step1Retry s)
/-- R518: a try that finds the expander not ready changes nothing. -/
def execSiloTrainingRetry (_port : Nat) (s : State) : Out := hub s s
def execSiloPortTrained (port capacity : Nat) (s : State) : Out := hub s (siloPortTrained s port capacity)
def execBootPlanLoad (s : State) : Out := hub s (bootPlanLoad s)
def execFallowExit (s : State) : Out := aon s (fallowExit s)
def execBootStore (a : Agent) (s : State) : Out := early s (viaBar0 s a 0x30010 (fun s => bootCtrl s 1#32))
def execBootErase (a : Agent) (s : State) : Out := early s (viaBar0 s a 0x30010 (fun s => bootCtrl s 2#32))
def execBootStoreDone (s : State) : Out := early s (bootStoreDone s)
def execBootCfgWrite (a : Agent) (v : Word) (s : State) : Out := early s (viaBar0 s a 0x3000C (fun s => bootCfgWrite s v))

end Sys2Proof.Machine
end

