-- ==== Sys2Proof/Machine/Registers.lean ====
section
/-! DEFINITION. Sys2Proof/Machine/Registers.lean: register accesses: where they land, what each register reads, what a write does
(R6 to R8, R33, R185, R441 to R446, R458) and the rows REGISTER_WRITE, READ_CLEAR_REGISTER, LOW_HALF_READ, LATCH_INFO_READ,
BAD_REGISTER_ACCESS. -/

namespace Sys2Proof.Machine

open Sys2Proof

/-! ### What BAR0 reads -/

/-- Half `hi` of a 64-bit value. -/
def half (v : Nat) (hi : Bool) : Word := BitVec.ofNat 32 (if hi then v / 2 ^ 32 else v)

/-- Bits of a sum of powers. -/
def maskOf (l : List Nat) : Nat := (l.map (2 ^ ·)).sum

/-- R34: ARRAY_MAP[f]. -/
def arrayMapWord (s : State) (f : Nat) : Word :=
  let e := s.arrayEnt f
  let st := match e.st with | .own => 0 | .moving => 1 | .doubled => 2
  BitVec.ofNat 32 (e.slot + e.die * 2 ^ 8 + st * 2 ^ 12 + (match plotOfField s f with | some p => p * 2 ^ 16 + 2 ^ 22 | none => 0))

/-- R35: SLOT_STATE of slot 68 × die + slot. -/
def slotStateWord (s : State) (k : Nat) : Word :=
  let x := s.slot k
  let st := match x.st with | .inService => 0 | .spare => 1 | .moving => 2 | .retired => 3
  BitVec.ofNat 32 (st + x.field * 2 ^ 8 + (match x.doubled with | some g => 2 ^ 18 + g * 2 ^ 19 | none => 0))

/-- R37: D2D_LINK[n]. -/
def linkWord (s : State) (n : Nat) : Word :=
  let x := s.link n
  let st := if x.up = linkBuilt n then 0 else if x.up = 0 then 2 else 1
  BitVec.ofNat 32 (x.up + linkBuilt n * 2 ^ 3 + st * 2 ^ 6 + x.repairs * 2 ^ 8) ||| (s.reg (kLink n) &&& 0xFF0000#32)

/-- R65: FP_ACTIVE. -/
def fpActiveWord (s : State) : Word :=
  BitVec.ofNat 32 (s.plan.active + bit (planLoaded s) 3 + maskOf (((List.range 5).filter (fun i => (tblFind s.plan.slots i).isSome)).map (4 + ·)))

/-- R65: PLAN_ID of slot 0. -/
def planId (s : State) : Nat := ((tblFind s.plan.slots 0).map (·.planId)).getD 0

/-- CRIB_STAT[d]: the banks in service (R487). -/
def cribWord (s : State) (d : Nat) : Word := BitVec.ofNat 32 (cribInService s d + scratchFree s d * 2 ^ 8)

/-- R185: SCHED_STATUS. -/
def schedWord (s : State) : Word :=
  BitVec.ofNat 32 (s.ctxs.filter (fun e => e.2.st != .free)).length ||| (s.reg kSchedStatus &&& 0x10000#32)

/-- R375: CRV_NODE. -/
def crvNodeWord (s : State) : Word :=
  BitVec.ofNat 32 (match selfNode s with | some n => n + 2 ^ 12 + groupSize s * 2 ^ 16 | none => 0)

/-- R346: the code of a port's state. -/
def PortSt.code : PortSt → Nat
  | .off => 0 | .training => 1 | .ident => 2 | .up => 3 | .active => 4 | .retrain => 5 | .down => 6

/-- R375: PORT_STATUS. -/
def portStatusWord (x : Port) : Word :=
  let lanes := if x.st == .ident || x.st == .up || x.st == .active then (if x.narrow then 4 else 8) else 0
  BitVec.ofNat 32 (x.st.code + lanes * 2 ^ 3 + bit (x.spare.isSome && x.spareCal) 7 + bit x.enc 8 + bit x.narrow 9
    + x.peerPort % 64 * 2 ^ 10 + (match x.peerNode with | some n => n % 4096 * 2 ^ 16 + 2 ^ 28 | none => 0))

/-- R375: LANE_MAP and LANE_STATE. -/
def laneMapWord (x : Port) : Word := BitVec.ofNat 32 (((List.range 8).map (fun k => x.laneMap.getD k 0 % 16 * 16 ^ k)).sum)
def laneStateWord (x : Port) : Word := BitVec.ofNat 32 (x.spare.getD 15 + maskOf (x.retired.map (4 + ·)))

/-- A register of port `p`. -/
def portWord (s : State) (p r : Nat) : Option Word :=
  let x := s.port p
  match r with
  | 0x00 => some (portStatusWord x)
  | 0x08 => some (BitVec.ofNat 32 (min 65535 x.rtt))
  | 0x0C => some (laneMapWord x)
  | 0x10 => some (laneStateWord x)
  | 0x38 => some (BitVec.ofNat 32 x.txSeq)
  | 0x3C => some (BitVec.ofNat 32 x.rxSeq)
  | _ => none

/-- R398: WNW_BUSY. -/
def wnwBusy (s : State) : Word :=
  BitVec.ofNat 32 (maskOf ((List.range 4).filter (fun w =>
    !(cmdsWhere s (fun x => x.phase == .running && dOpcode x.desc == opReshard && x.att.any (fun a => a.inst == w))).isEmpty)))

/-- R434: KV_STATUS. -/
def kvStatusWord (s : State) : Word :=
  let v := s.vault
  BitVec.ofNat 32 (bit v.op.isSome 0 + bit v.owner.isSome 1 + statusCode v.result * 2 ^ 8 + v.svn % 64 * 2 ^ 16 + v.revoked % 16 * 2 ^ 22)

/-- R434: KV_PUB_INFO. -/
def pubInfoWord (s : State) : Word :=
  match tblFind s.vault.pubKeys (s.regField (kBar0 0x23018) 0 6) with
  | some k => BitVec.ofNat 32 (1 + k.alg % 4 * 2 + k.fn * 2 ^ 16)
  | none => 0

/-- Four bytes of a list. -/
def word4 (l : List Byte) (i : Nat) : Word := BitVec.ofNat 32 (leValue ((l.drop (4 * i)).take 4))

/-- R455: HOST_LINK. -/
def hostLinkWord (s : State) : Word :=
  let h := s.host
  BitVec.ofNat 32 (h.speed + h.width * 2 ^ 4 + bit h.flit 9 + bit (decide (h.speed ≠ 0) && (decide (h.width < 16) || decide (h.speed < 6))) 10)

/-- R455: HOST_BAD_INFO. -/
def badInfoWord (s : State) : Word := BitVec.ofNat 32 (s.host.badFn + s.host.badBar * 2 ^ 8 + bit s.host.badWrite 11)

/-- R455: FN_STATUS[fn]. -/
def fnStatusWord (s : State) (f : Nat) : Word :=
  let x := s.fn f
  BitVec.ofNat 32 (bit (fnEnabled s f) 0 + bit x.bme 1 + bit x.d3 2 + bit x.flr 3 + bit x.msixEn 4 + (fnContexts s f).length * 2 ^ 16)

/-- R508: retired resources of a kind. -/
def retiredCount (s : State) (kind : Nat) : Nat := (s.rel.retired.filter (fun k => k / 2 ^ 16 == kind)).length

/-- R508: HEALTH_SUM and SPARE_LEFT[d]. -/
def healthWord (s : State) : Word :=
  BitVec.ofNat 32 (min 255 (retiredCount s kSlot) + min 255 (retiredCount s kLane) * 2 ^ 8 + min 255 (retiredCount s kPch) * 2 ^ 16
    + min 255 (retiredCount s kPhase) * 2 ^ 24)
def spareLeftWord (s : State) (d : Nat) : Word :=
  BitVec.ofNat 32 ((dieSlots s d .spare).length + (2 - pchRetired s d) * 2 ^ 4 + (16 - tblGet 0 s.withdrawn d) * 2 ^ 8)

/-- R509: TEL_VALUE[i]. -/
def telWord (s : State) (i : Nat) : Word :=
  let x := s.sensor i
  let age := match x.at_ with | some t => min 255 ((s.time.toNat - t.toNat) / 1000000) | none => 255
  BitVec.ofNat 32 (x.value % 65536 + age * 2 ^ 16 + bit x.valid 24)

/-- R509: a register of the monitor that WM_SEL names. -/
def monitorWord (s : State) (off : Nat) : Word :=
  let x := s.mon (wmSel s)
  match off with
  | 0x2A004 => BitVec.ofNat 32 (x.kind + x.index * 2 ^ 8)
  | 0x2A008 => BitVec.ofNat 32 x.hi
  | 0x2A00C => BitVec.ofNat 32 x.lo
  | 0x2A010 => BitVec.ofNat 32 (bit x.en 0 + bit x.rise 1 + bit x.fall 2 + bit x.irq 3)
  | 0x2A014 => BitVec.ofNat 32 (bit x.above 0 + bit x.event 1 + bit x.err 2)
  | _ => BitVec.ofNat 32 x.count

/-- R499: WM_PENDING[j]. -/
def wmPendingWord (s : State) (j : Nat) : Word :=
  BitVec.ofNat 32 (maskOf ((s.mons.filter (fun e => e.1 / 32 == j && e.2.event)).map (fun e => e.1 % 32)))

/-- R525: RST_STATUS and BOOT_STATUS. -/
def rstWord (s : State) : Word :=
  BitVec.ofNat 32 (s.boot.step + bit (s.boot.step == 10) 4 + s.boot.kind * 2 ^ 8 + s.boot.fail * 2 ^ 16)
def bootStatusWord (s : State) : Word :=
  let b := s.boot
  BitVec.ofNat 32 (b.image + bit b.fallback 1 + bit b.pendFail 2 + bit b.op.isSome 3 + statusCode b.planResult * 2 ^ 8 + statusCode b.opResult * 2 ^ 16)

/-- Registers of the first blocks of BAR0 that are no stored bits. -/
def lowWord (s : State) (off : Nat) : Option Word :=
  if 0x1000 ≤ off ∧ off < 0x1400 then some (fnStatusWord s ((off - 0x1000) / 4))
  else if 0x5000 ≤ off ∧ off < 0x6000 then some (arrayMapWord s ((off - 0x5000) / 4))
  else if 0x6000 ≤ off ∧ off < 0x7100 then some (slotStateWord s ((off - 0x6000) / 4))
  else if 0x7400 ≤ off ∧ off < 0x74BC then some (linkWord s ((off - 0x7400) / 4))
  else if 0x9300 ≤ off ∧ off < 0x9340 then some (cribWord s ((off - 0x9300) / 4))
  else if 0xC100 ≤ off ∧ off < 0xC140 then some (BitVec.ofNat 32 (loftFree s ((off - 0xC100) / 4)))
  else if 0xC140 ≤ off ∧ off < 0xC170 then some (BitVec.ofNat 32 (siloFree s ((off - 0xC140) / 4)))
  else if 0xC180 ≤ off ∧ off < 0xC1B0 then some (BitVec.ofNat 32 (siloHeld s ((off - 0xC180) / 4)))
  else if 0xF200 ≤ off ∧ off < 0xF240 then some (BitVec.ofNat 32 (provWaiting s ((off - 0xF200) / 4)))
  else match off with
    | 0x0004 => some (hostLinkWord s)
    | 0x0030 => some (badInfoWord s)
    | 0x0034 => some (BitVec.ofNat 32 s.host.badOff)
    | 0x4004 => some (BitVec.ofNat 32 (maskOf s.topo.diePresent))
    | 0x4008 => some (half s.topo.mapGen.toNat false)
    | 0x400C => some (half s.topo.mapGen.toNat true)
    | 0x8010 => some (fpStatusWord s.plan ||| (s.reg kFpStatus &&& 0x200#32))
    | 0x8014 => some (BitVec.ofNat 32 ((s.plan.errAt.map (·.2)).getD 0))
    | 0x8018 => some (half (planId s) false)
    | 0x801C => some (half (planId s) true)
    | 0x8020 => some (half s.plan.gen.toNat false)
    | 0x8024 => some (half s.plan.gen.toNat true)
    | 0x8028 => some (fpActiveWord s)
    | 0x802C => some (BitVec.ofNat 32 s.plan.overlaps)
    | 0x8030 => some (BitVec.ofNat 32 s.plan.applyNs)
    | 0xB004 => some (schedWord s)
    | 0xB008 => some (half s.sched.idleUj.toNat false)
    | 0xB00C => some (half s.sched.idleUj.toNat true)
    | 0xB010 => some s.sched.ratio
    | 0xB018 => some (latchInfoWord (s.latch (s.regField (kBar0 0xB014) 0 16)))
    | 0xB01C => some (s.latch (s.regField (kBar0 0xB014) 0 16)).gen
    | 0xD000 => some (BitVec.ofNat 32 (kvTotal s))
    | 0xD004 => some (BitVec.ofNat 32 (kvFree s))
    | 0xD018 => some (BitVec.ofNat 32 (driftUsed s))
    | 0xD01C => some (BitVec.ofNat 32 (releasePend s))
    | 0xD038 => some (BitVec.ofNat 32 (s.com.slots.filter (fun e => e.2.st != .free)).length)
    | 0xD03C => some (BitVec.ofNat 32 s.com.sets.length)
    | _ => none

/-- Registers of the later blocks of BAR0 that are no stored bits. -/
def highWord (s : State) (off : Nat) : Option Word :=
  if 0x20100 ≤ off ∧ off < 0x20A00 then portWord s ((off - 0x20100) / 64) ((off - 0x20100) % 64)
  else if 0x23100 ≤ off ∧ off < 0x23164 then some (word4 (ecPublic deviceIdPrivate) ((off - 0x23100) / 4))
  else if 0x23180 ≤ off ∧ off < 0x231E4 then some (word4 (ecPublic packagePrivate) ((off - 0x23180) / 4))
  else if 0x24100 ≤ off ∧ off < 0x24140 then some (aclkStatusWord s ((off - 0x24100) / 4))
  else if 0x24400 ≤ off ∧ off < 0x24680 then some (phaseWord s ((off - 0x24400) / 4))
  else if 0x24800 ≤ off ∧ off < 0x248D0 then some (railWord s ((off - 0x24800) / 4))
  else if 0x28010 ≤ off ∧ off < 0x28050 then some (spareLeftWord s ((off - 0x28010) / 4))
  else if 0x28320 ≤ off ∧ off < 0x28340 then
    some (word4 (if off = 0x28320 then elogSlot s else s.elog.shadow) ((off - 0x28320) / 4))
  else if 0x29000 ≤ off ∧ off < 0x294E0 then some (telWord s ((off - 0x29000) / 4))
  else if 0x2A004 ≤ off ∧ off < 0x2A01C then some (monitorWord s off)
  else if 0x2B000 ≤ off ∧ off < 0x2B200 then some (wmPendingWord s ((off - 0x2B000) / 4))
  else match off with
    | 0x20000 => some (crvNodeWord s)
    | 0x20004 => some (BitVec.ofNat 32 (groupId s))
    | 0x21004 => some (wnwBusy s)
    | 0x2300C => some (kvStatusWord s)
    | 0x23010 => some (BitVec.ofNat 32 s.vault.ownerSeq)
    | 0x23014 => some (BitVec.ofNat 32 (maskOf (s.vault.planKeys.map (·.1))))
    | 0x2301C => some (pubInfoWord s)
    | 0x23020 => some (BitVec.ofNat 32 s.vault.pkgs.length)
    | 0x23024 => some (BitVec.ofNat 32 s.vault.fwVersion)
    | 0x24004 => some (pwrStatusWord s)
    | 0x24018 => some (s.reg (kBar0 0x24018) ||| BitVec.ofNat 32 (bit (!s.pwr.armed) 16))
    | 0x24020 => some (pwrBudgetWord s)
    | 0x28000 => some (BitVec.ofNat 32 (noticeWord s))
    | 0x28008 => some (healthWord s)
    | 0x28200 => some (half s.time.toNat false)
    | 0x28204 => some (half s.time.toNat true)
    | 0x28300 => some (half s.elog.wr false)
    | 0x28304 => some (half s.elog.wr true)
    | 0x28308 => some (half s.elog.rd false)
    | 0x2830C => some (half s.elog.rd true)
    | 0x28310 => some (half s.elog.lost false)
    | 0x28314 => some (half s.elog.lost true)
    | 0x30000 => some (rstWord s)
    | 0x30008 => some (bootStatusWord s)
    | 0x30014 => some (BitVec.ofNat 32 s.boot.startMs)
    | _ => none

/-- R6, R7: the stored bits of a register that a read shows; a reserved place reads zero. -/
def storedWord (s : State) (k : Nat) : Word :=
  match findReg (keySpace k).1 (keySpace k).2.2 with
  | some (d, _) => s.reg k &&& BitVec.ofNat 32 (d.rw ||| d.w1c ||| d.rc ||| d.ro)
  | none => 0

/-- What a register of BAR0 reads. -/
def bar0Word (s : State) (off : Nat) : Word :=
  match (if off < 0x10000 then lowWord s off else highWord s off) with
  | some w => w
  | none => storedWord s (kBar0 off)

/-! ### What a context window reads -/

/-- R151: a register of ring `n`. -/
def ringWord (s : State) (c n r : Nat) : Option Word :=
  let x := s.ring c n
  match r with
  | 0x08 => some (ringStatusWord x)
  | 0x20 => some (BitVec.ofNat 32 x.head)
  | 0x24 => some (BitVec.ofNat 32 x.tail)
  | 0x28 => some (BitVec.ofNat 32 x.retire)
  | 0x2C => some x.epoch
  | 0x30 => some (half x.serial false)
  | 0x34 => some (half x.serial true)
  | _ => none

/-- R224: the registers that describe the object OBJ_SEL names. -/
def objWord (s : State) (c off : Nat) : Word :=
  let o := s.regField (kWin c 0x3000) 0 24
  let x := objBody s.com c o
  let far := farBody s.com c o
  let held := fun p : Gran → Bool => match x with
    | some (sid, _, _) => (s.grans.filter (fun e => e.1 / 2 ^ 19 == sid && p e.2)).length
    | none => 0
  match off with
  | 0x3020 =>
    BitVec.ofNat 32 (bit (s.ctx c).objOp.isSome 0 + bit (x.isSome || far.isSome) 1 + bit (x.any (fun e => e.2.2)) 2
      + statusCode (s.ctx c).objErr * 2 ^ 8)
  | 0x3024 =>
    match x with
    | some (_, b, al) => objInfoWord b al
    | none => if far.isSome then BitVec.ofNat 32 (Config.farAttributes c o % 512) else 0
  | 0x3028 => BitVec.ofNat 32 (match x with | some (_, b, _) => b.size | none => (far.map (·.size)).getD 0)
  | 0x302C => BitVec.ofNat 32 (held (fun g => g.tier != .silo))
  | 0x3030 => BitVec.ofNat 32 (held (fun g => g.tier == .silo))
  | 0x3034 => BitVec.ofNat 32 (useLoft s c)
  | 0x3038 => BitVec.ofNat 32 (usePinned s c)
  | 0x303C => BitVec.ofNat 32 (useSilo s c)
  | _ => BitVec.ofNat 32 (ctxObjects s c).length

/-- R265: the registers that describe the slot SEQ_SEL names; zero when another context owns it. -/
def seqWord (s : State) (c off : Nat) : Word :=
  let x := s.seq (s.regField (kWin c 0x4000) 0 17)
  if x.st == .free || x.owner != c then 0 else
  match off with
  | 0x4004 =>
    BitVec.ofNat 32 ((if x.st == .open_ then 1 else 2) + bit x.insert 2 + bit x.steered 3 + bit x.detached 4 + bit x.husk 5
      + x.steerSet * 2 ^ 16)
  | 0x4008 => BitVec.ofNat 32 x.committed
  | 0x400C => BitVec.ofNat 32 x.tentative
  | 0x4010 => BitVec.ofNat 32 (x.pfx.getD 0xFFFFFFFF)
  | _ => BitVec.ofNat 32 (x.huskFirst.getD 0xFFFFFFFF)

/-- R265: SEQ_CANCEL_STATUS. -/
def cancelWord (s : State) (c : Nat) : Word :=
  BitVec.ofNat 32 (bit (s.ctx c).cancel.isSome 0 + statusCode (s.ctx c).cancelRes * 2 ^ 8) ||| (s.reg (kWin c 0x401C) &&& 6#32)

/-- A status that an operation in progress hides: BUSY, and NOT_READY in its place. -/
def busyErr (busy : Bool) (st : Status) : Nat := bit busy 0 + statusCode (if busy then .notReady else st) * 2 ^ 8

/-- R265: STEER_STATUS. -/
def steerWord (s : State) (c : Nat) : Word :=
  let n := steerSel s c
  BitVec.ofNat 32 (busyErr (s.ctx c).steerOp.isSome (s.ctx c).steerErr + bit (setVisible s.com (effGroup s c) n).isSome 1
    + bit ((tblFind s.com.sets n).any (fun x => x.ctx == c)) 2)

/-- R376: FAR_STATUS and FAR_GRAN. -/
def farStatusWord (s : State) (c : Nat) : Word :=
  BitVec.ofNat 32 (busyErr (s.ctx c).farOp.isSome (s.ctx c).farErr
    + (match farBody s.com c (farSel s c) with | some x => bit x.read 16 + bit x.write 17 + bit x.secure 18 | none => 0))
def farGranWord (s : State) (c : Nat) : Word := BitVec.ofNat 32 (((farBody s.com c (farSel s c)).map (·.size)).getD 0)

/-- The package that WPK_SEL names, when the context has it open. -/
def openPkg (s : State) (c : Nat) : Option PkgSlot := (tblFind s.vault.pkgs (wpkSel s c)).filter (fun p => p.ctx == c)

/-- R433: the status registers of packages. -/
def wpkWord (s : State) (c off : Nat) : Word :=
  let p := openPkg s c
  let o := s.regField (kWin c 0x3000) 0 24
  match off with
  | 0x803C =>
    BitVec.ofNat 32 (bit (s.ctx c).wpkOp.isSome 0 + bit p.isSome 1 + bit (p.any (·.allowFar)) 2 + statusCode (s.ctx c).wpkErr * 2 ^ 8)
  | 0x8040 => BitVec.ofNat 32 ((p.map (·.chunks)).getD 0)
  | 0x8044 => BitVec.ofNat 32 (s.ctx c).wpkErrChunk
  | _ =>
    match objBody s.com c o, farBody s.com c o with
    | some (_, b, _), _ => BitVec.ofNat 32 (bit b.isSealed 0 + bit b.farOk 1)
    | none, some x => BitVec.ofNat 32 (bit x.isSealed 0 + bit x.farOk 1)
    | none, none => 0

/-- R184: CTX_LATCH_INFO and CTX_LATCH_GEN. -/
def ctxLatchWord (s : State) (c : Nat) (gen : Bool) : Word :=
  let l := s.regField (kWin c 0x1D0) 0 16
  if latchInRange s c l then (if gen then (s.latch l).gen else latchInfoWord (s.latch l)) else 0

/-- Registers of a window that are no stored bits. -/
def windowOpt (s : State) (c off : Nat) : Option Word :=
  let x := s.ctx c
  let tbl := fun (t : Tbl DWord) (b : Nat) => some (half (tblGet 0 t ((off - b) / 8)).toNat (decide (off % 8 = 4)))
  if 0x1000 ≤ off ∧ off < 0x2000 then ringWord s c ((off - 0x1000) / 64) ((off - 0x1000) % 64)
  else if 0x2000 ≤ off ∧ off < 0x2800 then some (half (s.evctr c ((off - 0x2000) / 8)).toNat (decide (off % 8 = 4)))
  else if 0x100 ≤ off ∧ off < 0x138 then tbl x.cyc 0x100
  else if 0x140 ≤ off ∧ off < 0x178 then tbl x.lost 0x140
  else if 0x180 ≤ off ∧ off < 0x1B8 then tbl x.vt 0x180
  else if 0x3020 ≤ off ∧ off < 0x3044 then some (objWord s c off)
  else if 0x4004 ≤ off ∧ off < 0x4018 then some (seqWord s c off)
  else if 0x803C ≤ off ∧ off < 0x804C then some (wpkWord s c off)
  else match off with
    | 0x10 => some (ctxStatusWord x)
    | 0x18 => some (freezeInfoWord x.info)
    | 0x20 => some (half x.info.addr false)
    | 0x24 => some (half x.info.addr true)
    | 0x28 => some (half x.info.serial false)
    | 0x2C => some (half x.info.serial true)
    | 0x1C0 => some (half x.energy.toNat false)
    | 0x1C4 => some (half x.energy.toNat true)
    | 0x1D4 => some (ctxLatchWord s c false)
    | 0x1D8 => some (ctxLatchWord s c true)
    | 0x401C => some (cancelWord s c)
    | 0x4024 => some (BitVec.ofNat 32 (kvUse s c))
    | 0x4050 => some (steerWord s c)
    | 0x5000 => some (x.seedLo.getD (half x.seed.toNat false))
    | 0x5004 => some (half x.seed.toNat true)
    | 0x6014 => some (farStatusWord s c)
    | 0x6018 => some (farGranWord s c)
    | 0x7004 => some (half x.digest.toNat false)
    | 0x7008 => some (half x.digest.toNat true)
    | 0x700C => some (half x.units.toNat false)
    | 0x7010 => some (half x.units.toNat true)
    | _ => none

/-- What a register of the window reads. -/
def windowWord (s : State) (c off : Nat) : Word :=
  match windowOpt s c off with
  | some w => w
  | none => storedWord s (kWin c off)

/-! ### What a function's page reads (R445, R444) -/

/-- APT_STATUS. -/
def aptStatusWord (s : State) (f : Nat) : Word :=
  let writable := match aptOpen s f with | .inl (_, _, b, al) => b.writable && !al | .inr _ => false
  BitVec.ofNat 32 (bit (aptOpen s f).isLeft 0 + bit writable 1 + statusCode (s.fn f).aptErr * 2 ^ 8 + bit (s.fn f).aptSet 16)

/-- Double word `d` of entry `v` of the MSI-X table. -/
def msixWord (s : State) (f v d : Nat) : Word :=
  let e := tblGet MsixEnt.reset (s.fn f).table v
  match d with
  | 0 => half e.addr.toNat false
  | 1 => half e.addr.toNat true
  | 2 => e.data
  | _ => BitVec.ofNat 32 (bit e.mask 0)

/-- Word `i` of the PBA. -/
def pbaWord (s : State) (f i : Nat) : Word := BitVec.ofNat 32 (maskOf (((s.fn f).pba.filter (fun v => v / 32 == i)).map (· % 32)))

/-- What a register of the page reads. -/
def pageWord (s : State) (f off : Nat) : Word :=
  if 0x20000 ≤ off ∧ off < 0x28000 then msixWord s f ((off - 0x20000) / 16) ((off - 0x20000) % 16 / 4)
  else if 0x28000 ≤ off ∧ off < 0x28100 then pbaWord s f ((off - 0x28000) / 4)
  else match off with
    | 0x10004 => BitVec.ofNat 32 f
    | 0x10008 => s.reg (kBar0 (0xB400 + 8 * f))
    | 0x1000C => s.reg (kBar0 (0xB404 + 8 * f))
    | 0x10028 => aptStatusWord s f
    | _ => storedWord s (kPage f off)

/-- What a register reads, by its key. -/
def liveWord (s : State) (k : Nat) : Word :=
  match keySpace k with
  | (.bar0, _, off) => bar0Word s off
  | (.window, c, off) => windowWord s c off
  | (.page, f, off) => pageWord s f off

/-! ### Reads (R8, R33, R185, R411, R442, R455) -/

/-- R442: the reader whose shadows an access uses. -/
def readerOf (a : Agent) : Nat := match a with | .host f => f | .mctp => 256 | .firmware => 257

/-- The registers that a read of this one latches. -/
def latched (k : Nat) : List Nat :=
  match keySpace k with
  | (.window, _, 0x7004) => [k + 4, k + 8, k + 12]
  | (.window, _, 0x1D4) => [k + 4]
  | (.bar0, _, 0x30) => [k + 4]
  | (.bar0, _, 0xB018) => [k + 4]
  | (sp, _, off) => match findReg sp off with | some (d, _) => if d.lo then [k + 4] else [] | none => []

/-- R33: the shadow that a reader holds of a register. -/
def shadowKey (rd k : Nat) : Nat := rd * 2 ^ 64 + k

/-- R8: an RC field is cleared by the read of it. -/
def clearRead (s : State) (k : Nat) : State :=
  if k = 0x2A018 then s.setMon (wmSel s) { s.mon (wmSel s) with count := 0 } else
  match findReg (keySpace k).1 (keySpace k).2.2 with
  | some (d, _) => if d.rc = 0 then s else s.setReg k (s.reg k &&& ~~~(BitVec.ofNat 32 d.rc))
  | none => s

/-- One read of a register: the shadow where one waits, else the value; what it latches; what it clears. -/
def readKey (s : State) (rd k : Nat) : State × Word :=
  match tblFind s.shadows (shadowKey rd k) with
  | some v => ({ s with shadows := tblDel s.shadows (shadowKey rd k) }, v)
  | none =>
    let w := liveWord s k
    let s := { s with shadows := (latched k).foldl (fun t j => tblIns t (shadowKey rd j) (liveWord s j)) s.shadows,
                      elog := if k = 0x28320 then { s.elog with shadow := elogSlot s } else s.elog }
    (clearRead s k, w)

/-- The read answered. -/
def answerRead (s : State) (rd k : Nat) : State :=
  let (t, w) := readKey s rd k
  replyWith t (bytesLE w.toNat 4)

/-- R444, R446: the register of a BAR2 offset. -/
def pageKey (s : State) (f off : Nat) : Option Nat :=
  if off < 0x10000 then (shownCtx s f).map (fun c => kWin c off) else if off < 0x30000 then some (kPage f off) else none

/-- R441: an access that no aligned 4-byte access of a register is. -/
def badForm (bar : Bar) (off : Nat) : Bool :=
  off % 4 != 0 && match bar with | .bar0 => true | .bar2 => decide (off < 0x20000) | .bar4 => false

/-- The number of a BAR. -/
def barNum : Bar → Nat
  | .bar0 => 0 | .bar2 => 2 | .bar4 => 4

/-- R441, R446, R448, R454: a read of 4 bytes by an agent. BAR4 reads zero. -/
def regRead (s : State) (a : Agent) (bar : Bar) (off : Nat) : State :=
  let zero := fun (s : State) => replyWith s [0, 0, 0, 0]
  match a, bar with
  | _, .bar0 =>
    readBar0 s a (fun s => if badForm .bar0 off then zero (badAccess s 0 0 off false) else answerRead s (readerOf a) (kBar0 off))
  | .host f, .bar2 =>
    if 0x30000 ≤ off then viaAperture s f (off - 0x30000) 4 false (fun s => apertureRead s f (off - 0x30000) 4)
    else if !barOpen s f then replyWith s []
    else
      let s := wakeSource s 1
      if (s.fn f).flr then zero s
      else if badForm .bar2 off then zero (badAccess s f 2 off false)
      else match pageKey s f off with
        | some k => answerRead s f k
        | none => zero s
  | .host f, .bar4 => if barOpen s f then zero (wakeSource s 1) else replyWith s []
  | _, _ => s

/-! ### Writes (R6, R7, R446) -/

/-- R6: the RW bits take the value; a 1 clears a W1C bit. -/
def plainWrite (s : State) (k : Nat) (v : Word) : State :=
  match findReg (keySpace k).1 (keySpace k).2.2 with
  | some (d, _) =>
    let rw := BitVec.ofNat 32 d.rw
    s.setReg k ((((s.reg k &&& ~~~rw) ||| (v &&& rw)) &&& ~~~(v &&& BitVec.ofNat 32 d.w1c)))
  | none => s

/-- R375: CRV_CFG; E2E_US outside 200 to 400 leaves the register. -/
def crvCfgWrite (s : State) (v : Word) : State :=
  let e := bits v.toNat 16 12
  if e < 200 ∨ 400 < e then s else plainWrite s (kBar0 0x20008) v

/-- R479: THERM_CFG; a field outside its range keeps its value. -/
def thermWrite (s : State) (v : Word) : State :=
  let put := fun (w : Word) (lo a b : Nat) =>
    let x := bits v.toNat lo 8
    if a ≤ x ∧ x ≤ b then setField w lo 8 x else w
  let k := kBar0 0x24038
  s.setReg k (put (put (put (s.reg k) 0 60 95) 8 70 100) 16 70 92)

/-- R503: TIME_SLEW; values outside −500 to 500 are ignored. -/
def slewWrite (s : State) (v : Word) : State :=
  let x := (BitVec.ofNat 10 v.toNat).toInt
  if -500 ≤ x ∧ x ≤ 500 then plainWrite s (kBar0 0x28214) v else s

/-- R509: WM_STATUS of a monitor. -/
def wmStatusWrite (s : State) (v : Word) : State :=
  let x := s.mon (wmSel s)
  s.setMon (wmSel s) { x with event := x.event && !v.getLsbD 1, err := x.err && !v.getLsbD 2 }

/-- R499: WM_PENDING[j]. -/
def wmPendingWrite (s : State) (j : Nat) (v : Word) : State :=
  ((List.range 32).filter (fun b => v.getLsbD b)).foldl (fun s b => s.setMon (32 * j + b) { s.mon (32 * j + b) with event := false }) s

/-- A write to a register of BAR0. -/
def bar0Write (s : State) (off : Nat) (v : Word) : State :=
  if 0xB400 ≤ off ∧ off < 0xBC00 then fnRangeWrite s ((off - 0xB400) / 8) (off % 8 == 4) v
  else if 0x10000 ≤ off ∧ off < 0x20000 then cartOstdWrite s ((off - 0x10000) / 4) v
  else if 0x20100 ≤ off ∧ off < 0x20A00 ∧ (off - 0x20100) % 64 = 4 then portCtrlWrite s ((off - 0x20100) / 64) v
  else if 0x2B000 ≤ off ∧ off < 0x2B200 then wmPendingWrite s ((off - 0x2B000) / 4) v
  else match off with
    | 0x8000 => fpCtrl s v
    | 0xC000 => migCfgWrite s v
    | 0x20008 => crvCfgWrite s v
    | 0x22000 => detInjectWrite s v
    | 0x23008 => kvCtrl s v
    | 0x24000 => pwrCtrl s v
    | 0x24010 => wakeCfgWrite s v
    | 0x24038 => thermWrite s v
    | 0x28210 => if v.getLsbD 0 then timeStep s else s
    | 0x28214 => slewWrite s v
    | 0x28308 => elogRdWrite s false v
    | 0x2830C => elogRdWrite s true v
    | 0x2A004 => wmThresholdWrite s off v
    | 0x2A008 => wmThresholdWrite s off v
    | 0x2A00C => wmThresholdWrite s off v
    | 0x2A010 => wmCfgWrite s v
    | 0x2A014 => wmStatusWrite s v
    | 0x30004 => rstCtrl s v
    | 0x3000C => bootCfgWrite s v
    | 0x30010 => bootCtrl s v
    | _ => plainWrite s (kBar0 off) v

/-- R376: a write to FAR_CTRL. -/
def farCtrl (s : State) (c : Nat) (v : Word) : State :=
  match bits v.toNat 0 3 with
  | 0 => s
  | 1 => farExport s c
  | 2 => farUnexport s c
  | 3 => farBind s c
  | _ => farOp s c (fun s => farErr s c .format)

/-- A write to a register of ring `n`. -/
def ringWrite (s : State) (c n r : Nat) (v : Word) : State :=
  match r with
  | 0x00 => ringCfgWrite s c n r (v &&& 0x7FF7FF7#32)
  | 0x04 => ringCtrl s c n v
  | 0x10 => ringCfgWrite s c n r v
  | 0x14 => ringCfgWrite s c n r v
  | 0x18 => ringCfgWrite s c n r v
  | 0x1C => ringCfgWrite s c n r v
  | _ => plainWrite s (kWin c (ringOff n r)) v

/-- A write by function `f` to a register of the window of context `c`. -/
def windowWrite (s : State) (f c off : Nat) (v : Word) : State :=
  if 0x1000 ≤ off ∧ off < 0x2000 then ringWrite s c ((off - 0x1000) / 64) ((off - 0x1000) % 64) v
  else if 0x2800 ≤ off ∧ off < 0x2C00 then evcAdd s c ((off - 0x2800) / 4) (v.toNat % 65536)
  else match off with
    | 0x00 => ctxCfgWrite s c 0 0xFFFFF3F v
    | 0x04 => ctxWeightWrite s c v
    | 0x08 => ctxCfgWrite s c 8 0x1FFF0FFF v
    | 0x0C => ctxCtrl s f c v
    | 0x301C => objCtrl s f c v
    | 0x4018 => seqCancel s c (bits v.toNat 0 17)
    | 0x404C => steerCtrl s c v
    | 0x5000 => seedLoWrite s c v
    | 0x5004 => seedHiWrite s c v
    | 0x6010 => farCtrl s c v
    | 0x7000 => digestCtrl s c v
    | 0x8038 => wpkCtrl s c v
    | _ => plainWrite s (kWin c off) v

/-- R449: a write to the MSI-X table. -/
def msixWrite (s : State) (f v d : Nat) (w : Word) : State :=
  let x := s.fn f
  let e := tblGet MsixEnt.reset x.table v
  let put := fun (e : MsixEnt) => s.setFn f { x with table := tblSet MsixEnt.reset x.table v e }
  match d with
  | 0 => put { e with addr := e.addr.extractLsb' 32 32 ++ w }
  | 1 => put { e with addr := w ++ e.addr.extractLsb' 0 32 }
  | 2 => put { e with data := w }
  | _ => setVectorMask s f v (w.getLsbD 0)

/-- A write to a function's page. -/
def pageWrite (s : State) (f off : Nat) (v : Word) : State :=
  if 0x20000 ≤ off ∧ off < 0x28000 then
    (if off % 4 = 0 then msixWrite s f ((off - 0x20000) / 16) ((off - 0x20000) % 16 / 4) v else s)
  else if off = 0x10028 then (if v.getLsbD 16 then s.setFn f { s.fn f with aptSet := false } else s)
  else plainWrite s (kPage f off) v

/-- R441, R443 to R448, R454: a write of 4 bytes by an agent. -/
def regWrite (s : State) (a : Agent) (bar : Bar) (off : Nat) (v : Word) : State :=
  match a, bar with
  | _, .bar0 => viaBar0 s a off (fun s => if badForm .bar0 off then badAccess s 0 0 off true else bar0Write s off v)
  | .host f, .bar2 =>
    if 0x30000 ≤ off then viaAperture s f (off - 0x30000) 4 true (fun s => apertureWrite s f (off - 0x30000) (bytesLE v.toNat 4))
    else if !barOpen s f then s
    else if (s.fn f).flr then wakeSource (badAccess s f 2 off true) 1
    else if badForm .bar2 off then wakeSource (badAccess s f 2 off true) 1
    else if off < 0x10000 then viaWindow s f off (fun c => windowWrite s f c off v)
    else wakeSource (pageWrite s f off v) 1
  | .host f, .bar4 => doorbellPageWrite s f off (bytesLE v.toNat 4)
  | _, _ => s

/-- R441: an access of a wrong width, or with clear byte enables. -/
def badRegisterAccess (s : State) (f : Nat) (bar : Bar) (off : Nat) (write : Bool) : State :=
  if !barOpen s f || (bar == .bar0 && f != 0) then s else
  let s := badAccess (wakeSource s 1) f (barNum bar) off write
  if write then s else replyWith s [0, 0, 0, 0]

/-! ### Rows -/

/-- R514, R517: the registers of BAR0 are reached once the host port enumerates; the management path answers as soon as it has
power. -/
def regRow (a : Agent) (bar : Bar) (s t : State) : Out :=
  if a == .mctp then aon s t else if bar == .bar0 then early s t else hub s t

def execRegisterWrite (a : Agent) (bar : Bar) (off : Nat) (v : Word) (s : State) : Out := regRow a bar s (regWrite s a bar off v)
def execReadClearRegister (a : Agent) (bar : Bar) (off : Nat) (s : State) : Out := regRow a bar s (regRead s a bar off)
def execLowHalfRead (a : Agent) (bar : Bar) (off : Nat) (s : State) : Out := regRow a bar s (regRead s a bar off)
def execLatchInfoRead (a : Agent) (bar : Bar) (off : Nat) (s : State) : Out := regRow a bar s (regRead s a bar off)
def execBadRegisterAccess (fn : Nat) (bar : Bar) (off : Nat) (write : Bool) (s : State) : Out :=
  regRow (.host fn) bar s (badRegisterAccess s fn bar off write)

end Sys2Proof.Machine
end

