-- ==== Sys2Proof/Machine/Dispatch.lean ====
section
/-! DEFINITION. Sys2Proof/Machine/Dispatch.lean: one arm per command, one call per arm. -/

namespace Sys2Proof.Machine

open Sys2Proof

/-- The effect of a command on everything but the queue. -/
def exec (i : Instr) (s : State) : Host.Outcome State Fault Refusal :=
  match i with
  | .registerWrite a bar off v => Sys2Proof.Machine.execRegisterWrite a bar off v s
  | .readClearRegister a bar off => Sys2Proof.Machine.execReadClearRegister a bar off s
  | .lowHalfRead a bar off => Sys2Proof.Machine.execLowHalfRead a bar off s
  | .latchInfoRead a bar off => Sys2Proof.Machine.execLatchInfoRead a bar off s
  | .badRegisterAccess fn bar off write => Sys2Proof.Machine.execBadRegisterAccess fn bar off write s
  | .fpLoad a slot => Sys2Proof.Machine.execFpLoad a slot s
  | .fpPrepare a slot => Sys2Proof.Machine.execFpPrepare a slot s
  | .fpApply a slot => Sys2Proof.Machine.execFpApply a slot s
  | .applyBankSwitch => Sys2Proof.Machine.execApplyBankSwitch s
  | .applyWaitTimeout => Sys2Proof.Machine.execApplyWaitTimeout s
  | .applyAckTimeout die => Sys2Proof.Machine.execApplyAckTimeout die s
  | .fpDiscard a slot => Sys2Proof.Machine.execFpDiscard a slot s
  | .fpUnload a slot => Sys2Proof.Machine.execFpUnload a slot s
  | .rotationStart die => Sys2Proof.Machine.execRotationStart die s
  | .rotationCopy die => Sys2Proof.Machine.execRotationCopy die s
  | .rotationEnd die => Sys2Proof.Machine.execRotationEnd die s
  | .ageingTick => Sys2Proof.Machine.execAgeingTick s
  | .dieLinkCrcRetry link repaired retrained => Sys2Proof.Machine.execDieLinkCrcRetry link repaired retrained s
  | .dieLinkDown link up => Sys2Proof.Machine.execDieLinkDown link up s
  | .doorbell fn page ring v => Sys2Proof.Machine.execDoorbell fn page ring v s
  | .doorbellPageWrite fn off data => Sys2Proof.Machine.execDoorbellPageWrite fn off data s
  | .commandFetch ctx ring => Sys2Proof.Machine.execCommandFetch ctx ring s
  | .commandDispatch ctx ring inst => Sys2Proof.Machine.execCommandDispatch ctx ring inst s
  | .commandCommit ctx ring serial => Sys2Proof.Machine.execCommandCommit ctx ring serial s
  | .freezeComplete ctx => Sys2Proof.Machine.execFreezeComplete ctx s
  | .tile ctx ring serial env => Sys2Proof.Machine.execTile ctx ring serial env s
  | .attnFwd ctx ring serial env => Sys2Proof.Machine.execAttnFwd ctx ring serial env s
  | .attnBwd ctx ring serial env => Sys2Proof.Machine.execAttnBwd ctx ring serial env s
  | .merge ctx ring serial env => Sys2Proof.Machine.execMerge ctx ring serial env s
  | .elem ctx ring serial env => Sys2Proof.Machine.execElem ctx ring serial env s
  | .route ctx ring serial env => Sys2Proof.Machine.execRoute ctx ring serial env s
  | .gather ctx ring serial env => Sys2Proof.Machine.execGather ctx ring serial env s
  | .scatter ctx ring serial env => Sys2Proof.Machine.execScatter ctx ring serial env s
  | .momentum ctx ring serial env => Sys2Proof.Machine.execMomentum ctx ring serial env s
  | .adaptive ctx ring serial env => Sys2Proof.Machine.execAdaptive ctx ring serial env s
  | .signmom ctx ring serial env => Sys2Proof.Machine.execSignmom ctx ring serial env s
  | .orthoPrep ctx ring serial env => Sys2Proof.Machine.execOrthoPrep ctx ring serial env s
  | .orthoIter ctx ring serial env => Sys2Proof.Machine.execOrthoIter ctx ring serial env s
  | .orthoApply ctx ring serial env => Sys2Proof.Machine.execOrthoApply ctx ring serial env s
  | .kronStats ctx ring serial env => Sys2Proof.Machine.execKronStats ctx ring serial env s
  | .kronRoot ctx ring serial env => Sys2Proof.Machine.execKronRoot ctx ring serial env s
  | .kronApply ctx ring serial env => Sys2Proof.Machine.execKronApply ctx ring serial env s
  | .norm ctx ring serial env => Sys2Proof.Machine.execNorm ctx ring serial env s
  | .decideStep ctx ring serial env => Sys2Proof.Machine.execDecideStep ctx ring serial env s
  | .provisionalDecision ctx ring serial => Sys2Proof.Machine.execProvisionalDecision ctx ring serial s
  | .provisionalTimeout ctx ring serial => Sys2Proof.Machine.execProvisionalTimeout ctx ring serial s
  | .move ctx ring serial env => Sys2Proof.Machine.execMove ctx ring serial env s
  | .sample ctx ring serial env => Sys2Proof.Machine.execSample ctx ring serial env s
  | .sampleVerify ctx ring serial env => Sys2Proof.Machine.execSampleVerify ctx ring serial env s
  | .seqOpen ctx ring serial env => Sys2Proof.Machine.execSeqOpen ctx ring serial env s
  | .seqClose ctx ring serial env => Sys2Proof.Machine.execSeqClose ctx ring serial env s
  | .seqAccept ctx ring serial env => Sys2Proof.Machine.execSeqAccept ctx ring serial env s
  | .seqRollBack ctx ring serial env => Sys2Proof.Machine.execSeqRollBack ctx ring serial env s
  | .seqPrefixMatch ctx ring serial env => Sys2Proof.Machine.execSeqPrefixMatch ctx ring serial env s
  | .reduce ctx ring serial env => Sys2Proof.Machine.execReduce ctx ring serial env s
  | .reshard ctx ring serial env => Sys2Proof.Machine.execReshard ctx ring serial env s
  | .wait ctx ring serial => Sys2Proof.Machine.execWait ctx ring serial s
  | .signal ctx ring serial => Sys2Proof.Machine.execSignal ctx ring serial s
  | .latchAcquire ctx ring serial => Sys2Proof.Machine.execLatchAcquire ctx ring serial s
  | .latchTry ctx ring serial => Sys2Proof.Machine.execLatchTry ctx ring serial s
  | .latchRelease ctx ring serial => Sys2Proof.Machine.execLatchRelease ctx ring serial s
  | .waitLatchTimeout ctx ring serial => Sys2Proof.Machine.execWaitLatchTimeout ctx ring serial s
  | .watchdogExpiry ctx ring serial => Sys2Proof.Machine.execWatchdogExpiry ctx ring serial s
  | .injectedKill ctx ring serial => Sys2Proof.Machine.execInjectedKill ctx ring serial s
  | .evcAdd fn ctr inc => Sys2Proof.Machine.execEvcAdd fn ctr inc s
  | .ringEnable fn ring => Sys2Proof.Machine.execRingEnable fn ring s
  | .ringResume fn ring => Sys2Proof.Machine.execRingResume fn ring s
  | .ringFlush fn ring => Sys2Proof.Machine.execRingFlush fn ring s
  | .ringDisable fn ring => Sys2Proof.Machine.execRingDisable fn ring s
  | .flushComplete ctx ring => Sys2Proof.Machine.execFlushComplete ctx ring s
  | .ctxCreate fn => Sys2Proof.Machine.execCtxCreate fn s
  | .ctxDestroy fn => Sys2Proof.Machine.execCtxDestroy fn s
  | .destroyRelease ctx => Sys2Proof.Machine.execDestroyRelease ctx s
  | .ctxThaw fn => Sys2Proof.Machine.execCtxThaw fn s
  | .ctxReset fn => Sys2Proof.Machine.execCtxReset fn s
  | .fnRangeWrite a fn latches v => Sys2Proof.Machine.execFnRangeWrite a fn latches v s
  | .ctxWeightWrite fn v => Sys2Proof.Machine.execCtxWeightWrite fn v s
  | .preemptionCheck => Sys2Proof.Machine.execPreemptionCheck s
  | .vtIdleAdjust => Sys2Proof.Machine.execVtIdleAdjust s
  | .energyReconcile railUj => Sys2Proof.Machine.execEnergyReconcile railUj s
  | .objCreate fn => Sys2Proof.Machine.execObjCreate fn s
  | .objDestroy fn => Sys2Proof.Machine.execObjDestroy fn s
  | .objResize fn => Sys2Proof.Machine.execObjResize fn s
  | .objSetCfg fn => Sys2Proof.Machine.execObjSetCfg fn s
  | .objPromote fn => Sys2Proof.Machine.execObjPromote fn s
  | .objEvict fn => Sys2Proof.Machine.execObjEvict fn s
  | .objMap fn => Sys2Proof.Machine.execObjMap fn s
  | .migrationPressure stack => Sys2Proof.Machine.execMigrationPressure stack s
  | .heatPromotion => Sys2Proof.Machine.execHeatPromotion s
  | .migrationCopyDone sid gran => Sys2Proof.Machine.execMigrationCopyDone sid gran s
  | .sourceFree sid gran => Sys2Proof.Machine.execSourceFree sid gran s
  | .repairComplete sid gran => Sys2Proof.Machine.execRepairComplete sid gran s
  | .migCfgWrite a v => Sys2Proof.Machine.execMigCfgWrite a v s
  | .cartOstdWrite a q v => Sys2Proof.Machine.execCartOstdWrite a q v s
  | .seqCancel fn slot => Sys2Proof.Machine.execSeqCancel fn slot s
  | .cancelComplete ctx => Sys2Proof.Machine.execCancelComplete ctx s
  | .mapRelease => Sys2Proof.Machine.execMapRelease s
  | .driftGroupFree ctx => Sys2Proof.Machine.execDriftGroupFree ctx s
  | .steerInstall fn => Sys2Proof.Machine.execSteerInstall fn s
  | .steerRemove fn => Sys2Proof.Machine.execSteerRemove fn s
  | .rngSeedLoWrite fn v => Sys2Proof.Machine.execRngSeedLoWrite fn v s
  | .rngSeedHiWrite fn v => Sys2Proof.Machine.execRngSeedHiWrite fn v s
  | .portCtrlWrite a port v => Sys2Proof.Machine.execPortCtrlWrite a port v s
  | .trainingComplete port => Sys2Proof.Machine.execTrainingComplete port s
  | .trainingTimeout port => Sys2Proof.Machine.execTrainingTimeout port s
  | .downRetry port => Sys2Proof.Machine.execDownRetry port s
  | .linkPacket port msg => Sys2Proof.Machine.execLinkPacket port msg s
  | .portActivate port => Sys2Proof.Machine.execPortActivate port s
  | .frameTransmit port => Sys2Proof.Machine.execFrameTransmit port s
  | .frameReceive port frame => Sys2Proof.Machine.execFrameReceive port frame s
  | .retrainLock port => Sys2Proof.Machine.execRetrainLock port s
  | .retrainTimeout port => Sys2Proof.Machine.execRetrainTimeout port s
  | .laneRotationStart port => Sys2Proof.Machine.execLaneRotationStart port s
  | .laneRotationSwitch port => Sys2Proof.Machine.execLaneRotationSwitch port s
  | .laneRotateRetry port => Sys2Proof.Machine.execLaneRotateRetry port s
  | .laneCalibrationDone port => Sys2Proof.Machine.execLaneCalibrationDone port s
  | .laneRetire port lane => Sys2Proof.Machine.execLaneRetire port lane s
  | .linkRekey port => Sys2Proof.Machine.execLinkRekey port s
  | .creditStallTick port lane => Sys2Proof.Machine.execCreditStallTick port lane s
  | .farExport fn => Sys2Proof.Machine.execFarExport fn s
  | .farUnexport fn => Sys2Proof.Machine.execFarUnexport fn s
  | .farBind fn => Sys2Proof.Machine.execFarBind fn s
  | .writePacket pkt => Sys2Proof.Machine.execWritePacket pkt s
  | .readReqPacket pkt rereadsClean => Sys2Proof.Machine.execReadReqPacket pkt rereadsClean s
  | .readDataPacket pkt => Sys2Proof.Machine.execReadDataPacket pkt s
  | .commitPacket pkt => Sys2Proof.Machine.execCommitPacket pkt s
  | .abortPacket pkt => Sys2Proof.Machine.execAbortPacket pkt s
  | .donePacket pkt => Sys2Proof.Machine.execDonePacket pkt s
  | .e2eTimeout xid marked => Sys2Proof.Machine.execE2eTimeout xid marked s
  | .farStageExpire epoch => Sys2Proof.Machine.execFarStageExpire epoch s
  | .tallyUp port pkt => Sys2Proof.Machine.execTallyUp port pkt s
  | .tallyDown port pkt => Sys2Proof.Machine.execTallyDown port pkt s
  | .collTimeout tree seq group => Sys2Proof.Machine.execCollTimeout tree seq group s
  | .digestClear fn => Sys2Proof.Machine.execDigestClear fn s
  | .detInjectWrite a v => Sys2Proof.Machine.execDetInjectWrite a v s
  | .keyRecordApply a => Sys2Proof.Machine.execKeyRecordApply a s
  | .svnCommit a => Sys2Proof.Machine.execSvnCommit a s
  | .wpkOpen fn => Sys2Proof.Machine.execWpkOpen fn s
  | .wpkLoad fn => Sys2Proof.Machine.execWpkLoad fn s
  | .wpkClose fn => Sys2Proof.Machine.execWpkClose fn s
  | .apertureRead fn off len => Sys2Proof.Machine.execApertureRead fn off len s
  | .apertureWrite fn off data => Sys2Proof.Machine.execApertureWrite fn off data s
  | .irqHoldoffExpiry fn vec => Sys2Proof.Machine.execIrqHoldoffExpiry fn vec s
  | .msixUnmask fn vec => Sys2Proof.Machine.execMsixUnmask fn vec s
  | .functionQuiesce fn d3 => Sys2Proof.Machine.execFunctionQuiesce fn d3 s
  | .functionResume fn => Sys2Proof.Machine.execFunctionResume fn s
  | .vfReset fn => Sys2Proof.Machine.execVfReset fn s
  | .pfReset => Sys2Proof.Machine.execPfReset s
  | .configRequest fn req => Sys2Proof.Machine.execConfigRequest fn req s
  | .atsInvalidation fn page => Sys2Proof.Machine.execAtsInvalidation fn page s
  | .hostCompletionTimeout ctx ring serial page => Sys2Proof.Machine.execHostCompletionTimeout ctx ring serial page s
  | .pwrRun a => Sys2Proof.Machine.execPwrRun a s
  | .pwrHold a => Sys2Proof.Machine.execPwrHold a s
  | .pwrNap a => Sys2Proof.Machine.execPwrNap a s
  | .autoHold => Sys2Proof.Machine.execAutoHold s
  | .handshakeAnswer part ans => Sys2Proof.Machine.execHandshakeAnswer part ans s
  | .handshakeTimeout => Sys2Proof.Machine.execHandshakeTimeout s
  | .powerTransitionDone => Sys2Proof.Machine.execPowerTransitionDone s
  | .wakeEvent src => Sys2Proof.Machine.execWakeEvent src s
  | .compTrip => Sys2Proof.Machine.execCompTrip s
  | .wakeCfgWrite a v => Sys2Proof.Machine.execWakeCfgWrite a v s
  | .aclkSlewDone die => Sys2Proof.Machine.execAclkSlewDone die s
  | .phaseSample amps bad => Sys2Proof.Machine.execPhaseSample amps bad s
  | .sparePhaseSwitched rail => Sys2Proof.Machine.execSparePhaseSwitched rail s
  | .budgetEvaluation inW delivW => Sys2Proof.Machine.execBudgetEvaluation inW delivW s
  | .inputOvercurrent => Sys2Proof.Machine.execInputOvercurrent s
  | .sensorSample sensor v => Sys2Proof.Machine.execSensorSample sensor v s
  | .wmCfgWrite a v => Sys2Proof.Machine.execWmCfgWrite a v s
  | .wmThresholdWrite a reg v => Sys2Proof.Machine.execWmThresholdWrite a reg v s
  | .pchSpareCopyDone stack => Sys2Proof.Machine.execPchSpareCopyDone stack s
  | .siloRequestTimeout port => Sys2Proof.Machine.execSiloRequestTimeout port s
  | .siloPortRetire port => Sys2Proof.Machine.execSiloPortRetire port s
  | .scrubUnit act unit res line found => Sys2Proof.Machine.execScrubUnit act unit res line found s
  | .phyCalibration stack => Sys2Proof.Machine.execPhyCalibration stack s
  | .bgPassLate act => Sys2Proof.Machine.execBgPassLate act s
  | .healthRecordWrite okay => Sys2Proof.Machine.execHealthRecordWrite okay s
  | .coreWatchdog core => Sys2Proof.Machine.execCoreWatchdog core s
  | .elogRdWrite a high v => Sys2Proof.Machine.execElogRdWrite a high v s
  | .elogEntryRead a => Sys2Proof.Machine.execElogEntryRead a s
  | .timeStep a => Sys2Proof.Machine.execTimeStep a s
  | .mctpControl msg => Sys2Proof.Machine.execMctpControl msg s
  | .pldmRequest msg => Sys2Proof.Machine.execPldmRequest msg s
  | .pldmFirmwareUpdate msg => Sys2Proof.Machine.execPldmFirmwareUpdate msg s
  | .spdmRequest msg => Sys2Proof.Machine.execSpdmRequest msg s
  | .powerRequest target => Sys2Proof.Machine.execPowerRequest target s
  | .sidebandWake => Sys2Proof.Machine.execSidebandWake s
  | .healthRecordRead part => Sys2Proof.Machine.execHealthRecordRead part s
  | .errorLogRead idx => Sys2Proof.Machine.execErrorLogRead idx s
  | .errorLogRelease rd => Sys2Proof.Machine.execErrorLogRelease rd s
  | .coldReset => Sys2Proof.Machine.execColdReset s
  | .auxPowerLoss => Sys2Proof.Machine.execAuxPowerLoss s
  | .warmReset cause => Sys2Proof.Machine.execWarmReset cause s
  | .rstCtrlWarm a v => Sys2Proof.Machine.execRstCtrlWarm a v s
  | .perstDeassert => Sys2Proof.Machine.execPerstDeassert s
  | .sysrefClkLoss => Sys2Proof.Machine.execSysrefClkLoss s
  | .crvRefClkLoss => Sys2Proof.Machine.execCrvRefClkLoss s
  | .startupStep1Retry => Sys2Proof.Machine.execStartupStep1Retry s
  | .siloTrainingRetry port => Sys2Proof.Machine.execSiloTrainingRetry port s
  | .siloPortTrained port capacity => Sys2Proof.Machine.execSiloPortTrained port capacity s
  | .bootPlanLoad => Sys2Proof.Machine.execBootPlanLoad s
  | .fallowExit => Sys2Proof.Machine.execFallowExit s
  | .bootStore a => Sys2Proof.Machine.execBootStore a s
  | .bootErase a => Sys2Proof.Machine.execBootErase a s
  | .bootCfgWrite a v => Sys2Proof.Machine.execBootCfgWrite a v s
  | .startupStepDone => Sys2Proof.Machine.execStartupStepDone s
  | .resetComplete ctx => Sys2Proof.Machine.execResetComplete ctx s
  | .fpOperationDone => Sys2Proof.Machine.execFpOperationDone s
  | .objOperationDone ctx => Sys2Proof.Machine.execObjOperationDone ctx s
  | .steerOperationDone ctx => Sys2Proof.Machine.execSteerOperationDone ctx s
  | .keyVaultOpDone => Sys2Proof.Machine.execKeyVaultOpDone s
  | .wpkOperationDone ctx => Sys2Proof.Machine.execWpkOperationDone ctx s
  | .bootStoreDone => Sys2Proof.Machine.execBootStoreDone s
  | .bindQuery pkt => Sys2Proof.Machine.execBindQuery pkt s
  | .bindAnswer pkt => Sys2Proof.Machine.execBindAnswer pkt s
  | .d2dLinkRestored link => Sys2Proof.Machine.execD2dLinkRestored link s
  | .crvRefClkReturn => Sys2Proof.Machine.execCrvRefClkReturn s
  | .compRearm => Sys2Proof.Machine.execCompRearm s
  | .perstAssertInFallow => Sys2Proof.Machine.execPerstAssertInFallow s
  | .hostLinkTrained speed width flit => Sys2Proof.Machine.execHostLinkTrained speed width flit s

end Sys2Proof.Machine
end

