-- ==== Sys2Proof/Safety.lean ====
section
/-! DEFINITION. Sys2Proof/Safety.lean: the terms in which claims speak of a run: how a command ends, the canonical form of the
state, settled monitors, and who reaches a register. -/

namespace Sys2Proof.Machine

open Sys2Proof

/-! ### How a command ends -/

/-- A command answers a next state, of which `p` holds: no fault, no refusal. -/
def Ends (o : Out) (p : State → Prop) : Prop := ∃ t, o = .next t ∧ p t

/-! ### The canonical form -/

/-- The bytes of objects, of host memory and of the KV sheaves are in canonical form. -/
def StoreOk (m : Store) : Prop := Memory.wf m.mem = true ∧ Memory.wf m.host = true ∧ Memory.wf m.kv = true

/-- Every memory is in canonical form, and the keys of the tables of registers, rings, event counters, contexts, latches and
functions rise. -/
def CanonOf (com : Store) (repl : Memory) (regs : Tbl Word) (rings : Tbl Ring) (evc : Tbl DWord) (ctxs : Tbl Ctx) (latches : Tbl Latch)
    (fns : Tbl Fn) : Prop :=
  StoreOk com ∧ Memory.wf repl = true ∧ tblSorted regs = true ∧ tblSorted rings = true ∧ tblSorted evc = true
    ∧ tblSorted ctxs = true ∧ tblSorted latches = true ∧ tblSorted fns = true

/-- The canonical form of the state: equal memories and equal registers are equal data. -/
def State.Canon (s : State) : Prop := CanonOf s.com s.replMem s.regs s.rings s.evc s.ctxs s.latches s.fns

/-! ### Monitors (R497, R498) -/

/-- R498: an enabled monitor has seen the value of its source: ABOVE is 1 at HI and above, 0 at LO and below. -/
def Monitor.settled (x : Monitor) (v : Int) : Prop :=
  x.en = true → x.kind ≠ 0 → x.afresh = false ∧
    (threshold x.kind x.hi ≤ v → threshold x.kind x.lo < v → x.above = true)
    ∧ (v ≤ threshold x.kind x.lo → v < threshold x.kind x.hi → x.above = false)

/-- Every monitor is settled. -/
def State.Settled (s : State) : Prop := ∀ k, (s.mon k).settled (sourceValue s (s.mon k).kind (s.mon k).index)

/-! ### Reaching a register -/

/-- R440, R441, R454: an agent's access to BAR0 reaches its register. -/
def Reaches (s : State) (a : Agent) : Prop := bar0Open s a = true ∧ ∀ f, a = .host f → (s.fn f).flr = false

/-- R441, R446, R454: a host's access through function `f` reaches the window of context `c`. -/
def Shows (s : State) (f c : Nat) : Prop := barOpen s f = true ∧ (s.fn f).flr = false ∧ shownCtx s f = some c

/-- The offsets of BAR0 whose writes do more than R6 says: they have a row, or a rule, of their own. -/
def ownRow (off : Nat) : Bool :=
  (decide (0xB400 ≤ off) && decide (off < 0xBC00)) || (decide (0x10000 ≤ off) && decide (off < 0x20000))
  || (decide (0x20100 ≤ off) && decide (off < 0x20A00) && decide ((off - 0x20100) % 64 = 4))
  || (decide (0x2B000 ≤ off) && decide (off < 0x2B200))
  || [0x8000, 0xC000, 0x20008, 0x22000, 0x23008, 0x24000, 0x24010, 0x24038, 0x28210, 0x28214, 0x28308, 0x2830C, 0x2A004, 0x2A008,
      0x2A00C, 0x2A010, 0x2A014, 0x30004, 0x3000C, 0x30010].contains off

/-- The offsets of a context window whose writes do more than R6 says. -/
def ownWindowRow (off : Nat) : Bool :=
  (decide (0x1000 ≤ off) && decide (off < 0x2000) && [0x00, 0x04, 0x10, 0x14, 0x18, 0x1C].contains ((off - 0x1000) % 64))
  || (decide (0x2800 ≤ off) && decide (off < 0x2C00))
  || [0x00, 0x04, 0x08, 0x0C, 0x301C, 0x4018, 0x404C, 0x5000, 0x5004, 0x6010, 0x7000, 0x8038].contains off

/-- R6: bit `b` of a register whose row is `d` and whose bit was `old`, after a write of bit `v`. -/
def writtenBit (d : RegDesc) (b : Nat) (old v : Bool) : Bool :=
  if d.w1c.testBit b then old && !v else if d.rw.testBit b then v else old

/-- R464: the module is in Run, with no transition and no entry handshake in progress. -/
def State.Awake (s : State) : Prop := s.pwr.state = .run ∧ s.pwr.moving = none ∧ s.pwr.shake = none

/-- R469: the state after a host's memory request has been seen. -/
def seenFrom (s : State) (a : Agent) : State := match a with | .host _ => wakeSource s 1 | _ => s

end Sys2Proof.Machine
end

