-- ==== Sys2Proof/Certificates/Slice0/Obligations.lean ====
section
/-! DEFINITION. Sys2Proof/Certificates/Slice0/Obligations.lean: the statements for the provers, in the order of OBLIGATIONS.json. -/

open Sys2Proof Sys2Proof.Machine

/-- For every command c and state s whose queue begins with c, step of s is exec of c on s with the queue's rest. (The queue is the block's interface: log entry 36.) (00_scope.md: The module at a glance, R440, R454) -/
def Obligations.StepRunsFrontCommand : Prop :=
  ∀ (s : State) (c : Instr) (rest : List Instr), s.pending = c :: rest → step s = exec c { s with pending := rest }

/-- On an empty queue a step is one cycle of the clock that the time base counts: without P3V3_AUX, or in step 0 of a cold reset, nothing changes; while TCLK runs (start-up step 1 or later, SYSREF_CLK present) the time advances by 10 ns, or, at the evenly spaced cycles that TIME_SLEW names, by 20 ns or 0; while TCLK is off it advances by 30,518 ns. The time base, and the count of cycles modulo 1,000,000, are all that changes. That an idle step is one such cycle is the model's choice (log entry 4). (R503, R521) -/
def Obligations.IdleStepCountsTime : Prop :=
  ∀ s : State, s.pending = [] →
    ((s.pins.aux = false ∨ (s.boot.step = 0 ∧ s.boot.running = true)) → step s = .next s)
    ∧ (s.pins.aux = true → 1 ≤ s.boot.step → s.pins.sysref = true → slewed (slewPpm s).natAbs s.tclk = false →
        step s = .next { s with time := s.time + 10, tclk := (s.tclk + 1) % 1000000 })
    ∧ (s.pins.aux = true → 1 ≤ s.boot.step → s.pins.sysref = true → slewed (slewPpm s).natAbs s.tclk = true → 0 < slewPpm s →
        step s = .next { s with time := s.time + 20, tclk := (s.tclk + 1) % 1000000 })
    ∧ (s.pins.aux = true → 1 ≤ s.boot.step → s.pins.sysref = true → slewed (slewPpm s).natAbs s.tclk = true → slewPpm s ≤ 0 →
        step s = .next { s with tclk := (s.tclk + 1) % 1000000 })
    ∧ (s.pins.aux = true → (s.boot.step = 0 ∧ s.boot.running = false ∨ 1 ≤ s.boot.step ∧ s.pins.sysref = false) →
        step s = .next { s with time := s.time + 30518 })

/-- For a slew of p ppm, 0 <= p <= 500, the first n cycles of a million-cycle period hold exactly floor(n p / 1,000,000) adjusted cycles, so p in the whole period. Which cycles those are is the model's reading of 'evenly spaced' (log entry 4). (R503) -/
def Obligations.SlewedCyclesEvenlySpaced : Prop :=
  ∀ p n : Nat, p ≤ 500 → ((List.range n).filter (slewed p)).length = n * p / 1000000

/-- For every command c and all states s and t: when exec c s answers next t, the queue of t is the queue of s. Only step removes the front command, and only the outside adds one (log entry 36). (00_scope.md: The module at a glance, R440) -/
def Obligations.CommandsLeaveTheQueue : Prop :=
  ∀ (c : Instr) (s t : State), exec c s = .next t → t.pending = s.pending

/-- For every command c and state s, exec c s answers a next state: s itself, where the part of the module that would take the command has no power or has not started, or a state in which every watermark monitor has just evaluated its source. No command faults and none is refused. (R497, R498, R464, R533) -/
def Obligations.EveryCommandAnswers : Prop :=
  ∀ (c : Instr) (s : State), exec c s = .next s ∨ ∃ u, exec c s = .next (watch u)

/-- For all states s and t: when s is canonical and a step of s answers next t, then t is canonical. Canonical: the bytes of objects, of host memory, of the KV sheaves and of the Silo replicas are lists of strictly rising addresses that list no zero byte, and the tables of registers, rings, event counters, contexts, latches and functions list their keys in rising order; so equal memories and equal registers are equal data. (R187, R440) -/
def Obligations.EveryStepKeepsCanon : Prop :=
  ∀ s t : State, s.Canon → step s = .next t → t.Canon

/-- State.reset meets the invariant of EveryStepKeepsCanon: it lists nothing. (R187, R522) -/
def Obligations.CanonAtReset : Prop :=
  State.reset.Canon

/-- For all states s and t: when every monitor of s is settled and a step of s answers next t, every monitor of t is settled: a monitor that is enabled and has a source has ABOVE 1 where the value of its source is at WM_HI or above (and above WM_LO), and ABOVE 0 where it is at WM_LO or below (and below WM_HI). So no command changes a watched value (a free granule count, a sensor, the error log's fill, ...) unseen. That monitors evaluate once per command is the model's choice (log entry 52). (R497, R498) -/
def Obligations.EveryStepKeepsMonitorsSettled : Prop :=
  ∀ s t : State, s.Settled → step s = .next t → t.Settled

/-- State.reset meets the invariant of EveryStepKeepsMonitorsSettled: no monitor is enabled. (R498, R522) -/
def Obligations.MonitorsSettledAtReset : Prop :=
  State.reset.Settled

/-- For every state s: watch s differs from s only in the monitors, in the functions' interrupt vectors and in the messages sent to the host; so every register, every context and ring, and every byte of every memory is unchanged. Where no monitor is enabled, watch s is s. An evaluated monitor keeps its source, thresholds and enables. (R497, R498, R499) -/
def Obligations.MonitorEvaluationChangesOnlySignals : Prop :=
  ∀ s : State, watch s = { s with mons := (watch s).mons, fns := (watch s).fns, host := (watch s).host }
    ∧ ((∀ k, (s.mon k).en = false) → watch s = s)
    ∧ ∀ k, ((watch s).mon k).en = (s.mon k).en ∧ ((watch s).mon k).kind = (s.mon k).kind ∧ ((watch s).mon k).index = (s.mon k).index
        ∧ ((watch s).mon k).hi = (s.mon k).hi ∧ ((watch s).mon k).lo = (s.mon k).lo

/-- After a cold reset: the time base is zero; RST_STATUS shows step 0 with FAIL 0 (start-up has begun, kind Cold); no context exists and no ring is enabled; no plan is loaded and FP_STATUS.RESULT is NOT_READY; the map of field indices is the identity (field f on die f div 64, slot f mod 64, own) and slots 64 to 67 of every die are Spare; every counter register reads its reset value; the PF owns contexts 0 to 4095 and latches 0 to 65535; no object, no byte and no queued command exists; the RNG and the error log are empty. (R18, R35, R61, R154, R185, R512, R521, R522) -/
def Obligations.ResetLeavesStatedValues : Prop :=
  State.reset.time = 0 ∧ State.reset.boot.step = 0 ∧ State.reset.boot.running = true ∧ State.reset.boot.fail = 0 ∧ State.reset.boot.kind = 0
    ∧ (∀ c, (State.reset.ctx c).st = .free) ∧ (∀ c n, (State.reset.ring c n).st = .disabled)
    ∧ planLoaded State.reset = false ∧ State.reset.plan.result = .notReady ∧ State.reset.topo.mapGen = 0
    ∧ (∀ f, State.reset.arrayEnt f = { die := f / 64, slot := f % 64, st := .own })
    ∧ (∀ d i, 64 ≤ i → i < 68 → (State.reset.slot (68 * d + i)).st = .spare)
    ∧ (∀ k, State.reset.reg k = regReset k)
    ∧ fnCtxBase State.reset 0 = 0 ∧ fnCtxCount State.reset 0 = 4096 ∧ fnLatchBase State.reset 0 = 0 ∧ fnLatchCount State.reset 0 = 65536
    ∧ (∀ f, 1 ≤ f → f < 256 → fnCtxCount State.reset f = 0 ∧ fnLatchCount State.reset f = 0)
    ∧ State.reset.com = Store.reset ∧ State.reset.grans = [] ∧ State.reset.pending = [] ∧ State.reset.elog.wr = 0 ∧ State.reset.elog.rd = 0

/-- REGISTER_WRITE, for a register that has no row of its own: a write of v by an agent to BAR0, or by a function to the window of the context it shows or to its page, leaves every RW bit at v's bit, every W1C bit at 0 where v has a 1 and as it was elsewhere, and every other bit (RO, RC, reserved, write-only) as it was; no other register, and nothing else of the state, changes (beyond what the wake event of a host's request changes). Which of set and clear wins in one cycle (R8) does not arise: commands run one at a time. (R6, R7, R441, R446) -/
def Obligations.RegisterWriteFollowsAccessCodes : Prop :=
  ∀ (s : State) (v : Word), s.up = true →
    (∀ (a : Agent) (off i : Nat) (d : RegDesc), (a = .mctp → s.pins.aux = true) → Reaches s a → off < 2 ^ 32 → off % 4 = 0 →
      ownRow off = false → findReg .bar0 off = some (d, i) →
      ∃ w : Word, (∀ b < 32, w.getLsbD b = writtenBit d b (((seenFrom s a).reg (kBar0 off)).getLsbD b) (v.getLsbD b))
        ∧ exec (.registerWrite a .bar0 off v) s = .next (watch ((seenFrom s a).setReg (kBar0 off) w)))
    ∧ (∀ (f c off i : Nat) (d : RegDesc), Shows s f c → c < 4096 → off < 0x10000 → off % 4 = 0 → ownWindowRow off = false →
      findReg .window off = some (d, i) →
      ∃ w : Word, (∀ b < 32, w.getLsbD b = writtenBit d b ((s.reg (kWin c off)).getLsbD b) (v.getLsbD b))
        ∧ exec (.registerWrite (.host f) .bar2 off v) s = .next (watch (wakeSource (s.setReg (kWin c off) w) 1)))
    ∧ (∀ (f off i : Nat) (d : RegDesc), barOpen s f = true → (s.fn f).flr = false → 0x10000 ≤ off → off < 0x20000 → off % 4 = 0 →
      off ≠ 0x10028 → findReg .page off = some (d, i) →
      ∃ w : Word, (∀ b < 32, w.getLsbD b = writtenBit d b ((s.reg (kPage f off)).getLsbD b) (v.getLsbD b))
        ∧ exec (.registerWrite (.host f) .bar2 off v) s = .next (watch (wakeSource (s.setReg (kPage f off) w) 1)))

/-- READ_CLEAR_REGISTER: a read of a register with RC bits (D2D_LINK.RETRAINS, COMP_COUNT, DB_DROPS, FN_DB_BAD; of no 64-bit pair, and with no shadow waiting) answers the four bytes of its value, clears the RC bits and changes no other register; a read of WM_COUNT answers the count of the monitor that WM_SEL names and zeroes it. Nothing else changes. (R6, R8, R441, R509) -/
def Obligations.ReadClearsOnlyReadToClearBits : Prop :=
  ∀ s : State, s.up = true →
    (∀ (a : Agent) (off i : Nat) (d : RegDesc), (a = .mctp → s.pins.aux = true) → Reaches s a → off < 2 ^ 32 → off % 4 = 0 →
      off ≠ 0x2A018 → off ≠ 0x28320 → findReg .bar0 off = some (d, i) → d.rc ≠ 0 → latched (kBar0 off) = [] →
      tblFind s.shadows (shadowKey (readerOf a) (kBar0 off)) = none →
      exec (.readClearRegister a .bar0 off) s =
        .next (watch { (seenFrom s a).setReg (kBar0 off) ((seenFrom s a).reg (kBar0 off) &&& ~~~(BitVec.ofNat 32 d.rc)) with
          reply := bytesLE (liveWord (seenFrom s a) (kBar0 off)).toNat 4, replyPoison := false }))
    ∧ (∀ a : Agent, (a = .mctp → s.pins.aux = true) → Reaches s a → tblFind s.shadows (shadowKey (readerOf a) 0x2A018) = none →
      exec (.readClearRegister a .bar0 0x2A018) s =
        .next (watch { (seenFrom s a).setMon (wmSel (seenFrom s a)) { (seenFrom s a).mon (wmSel (seenFrom s a)) with count := 0 } with
          reply := bytesLE (liveWord (seenFrom s a) 0x2A018).toNat 4, replyPoison := false }))
    ∧ (∀ (f c off i : Nat) (d : RegDesc), barOpen s f = true → ((wakeSource s 1).fn f).flr = false → shownCtx (wakeSource s 1) f = some c →
      c < 4096 → off < 0x10000 → off % 4 = 0 → findReg .window off = some (d, i) → d.rc ≠ 0 → latched (kWin c off) = [] →
      tblFind s.shadows (shadowKey f (kWin c off)) = none →
      exec (.readClearRegister (.host f) .bar2 off) s =
        .next (watch { (wakeSource s 1).setReg (kWin c off) ((wakeSource s 1).reg (kWin c off) &&& ~~~(BitVec.ofNat 32 d.rc)) with
          reply := bytesLE (liveWord (wakeSource s 1) (kWin c off)).toNat 4, replyPoison := false }))

/-- LOW_HALF_READ, for every 64-bit pair of BAR0 under the latch rule: the read answers the low half and latches the high half of the same moment. In every later state u that still holds this reader's shadow, the reader's next read of the high half answers the latched value, whatever the counter has become, and consumes the shadow; a read of a register with no shadow of this reader waiting answers its live value. Another reader's shadows are other keys: no read by a reader changes them. (R33, R442) -/
def Obligations.LowHalfReadLatchesHighHalf : Prop :=
  ∀ (s : State) (a : Agent) (off i : Nat) (d : RegDesc), s.up = true → (a = .mctp → s.pins.aux = true) → Reaches s a → off + 4 < 2 ^ 32 →
    off % 4 = 0 → off ≠ 0x28320 → off ≠ 0x30 → off ≠ 0xB018 → findReg .bar0 off = some (d, i) → d.lo = true → d.rc = 0 →
    tblFind s.shadows (shadowKey (readerOf a) (kBar0 off)) = none →
    ∃ t, exec (.lowHalfRead a .bar0 off) s = .next t
      ∧ t.reply = bytesLE (liveWord (seenFrom s a) (kBar0 off)).toNat 4
      ∧ tblFind t.shadows (shadowKey (readerOf a) (kBar0 off + 4)) = some (liveWord (seenFrom s a) (kBar0 off + 4))
      ∧ (∀ k, k ≠ shadowKey (readerOf a) (kBar0 off + 4) → tblFind t.shadows k = tblFind s.shadows k)
      ∧ (∀ k, t.reg k = (seenFrom s a).reg k)
      ∧ ∀ u : State, u.up = true → (a = .mctp → u.pins.aux = true) → Reaches u a →
          tblFind u.shadows (shadowKey (readerOf a) (kBar0 off + 4)) = tblFind t.shadows (shadowKey (readerOf a) (kBar0 off + 4)) →
          exec (.lowHalfRead a .bar0 (off + 4)) u =
            .next (watch { seenFrom u a with shadows := tblDel u.shadows (shadowKey (readerOf a) (kBar0 off + 4)),
                                             reply := bytesLE (liveWord (seenFrom s a) (kBar0 off + 4)).toNat 4, replyPoison := false })

/-- R33 for MAP_GEN: a read of MAP_GEN_LO by the PF answers the low half of the count of remap events and latches the upper half; the next read of MAP_GEN_HI, in any state that holds the shadow, returns it, whatever the count is then. (R33) -/
def Obligations.MapGenLatchRule : Prop :=
  ∀ (s : State), s.up = true → Reaches s (.host 0) → tblFind s.shadows (shadowKey 0 0x4008) = none →
    ∃ t, exec (.lowHalfRead (.host 0) .bar0 0x4008) s = .next t ∧ t.reply = bytesLE (s.topo.mapGen.toNat % 2 ^ 32) 4
      ∧ (∀ u : State, u.up = true → Reaches u (.host 0) → tblFind u.shadows (shadowKey 0 0x400C) = tblFind t.shadows (shadowKey 0 0x400C) →
          Ends (exec (.lowHalfRead (.host 0) .bar0 0x400C) u) (fun v => v.reply = bytesLE (s.topo.mapGen.toNat / 2 ^ 32) 4))
      ∧ (∀ u : State, u.up = true → Reaches u (.host 0) → tblFind u.shadows (shadowKey 0 0x400C) = none →
          Ends (exec (.lowHalfRead (.host 0) .bar0 0x400C) u) (fun v => v.reply = bytesLE (u.topo.mapGen.toNat / 2 ^ 32) 4))

/-- LATCH_INFO_READ: a read of LATCH_INFO answers the state, holder and number of waiters of the latch that LATCH_SEL names (Free 0, Held 1 with the context in bits 13:2, Broken 2; waiters in bits 31:16, at most 65,535), and latches its generation for the same reader's next read of LATCH_GEN, which answers it in any state that still holds the shadow. Nothing but the reply and the shadow changes. (R185) -/
def Obligations.LatchInfoReadLatchesGeneration : Prop :=
  ∀ (s : State) (a : Agent), s.up = true → (a = .mctp → s.pins.aux = true) → Reaches s a →
    tblFind s.shadows (shadowKey (readerOf a) 0xB018) = none →
    ∃ t, exec (.latchInfoRead a .bar0 0xB018) s = .next (watch t)
      ∧ t = { seenFrom s a with shadows := t.shadows, reply := t.reply, replyPoison := false }
      ∧ t.reply = bytesLE (match (s.latch ((seenFrom s a).regField (kBar0 0xB014) 0 16)).st with
          | .free => BitVec.ofNat 32 (min 65535 (s.latch ((seenFrom s a).regField (kBar0 0xB014) 0 16)).waiters.length * 2 ^ 16)
          | .held c => BitVec.ofNat 32 (1 + c * 4 + min 65535 (s.latch ((seenFrom s a).regField (kBar0 0xB014) 0 16)).waiters.length * 2 ^ 16)
          | .broken => BitVec.ofNat 32 (2 + min 65535 (s.latch ((seenFrom s a).regField (kBar0 0xB014) 0 16)).waiters.length * 2 ^ 16)).toNat 4
      ∧ ∀ u : State, u.up = true → (a = .mctp → u.pins.aux = true) → Reaches u a →
          tblFind u.shadows (shadowKey (readerOf a) 0xB01C) = tblFind t.shadows (shadowKey (readerOf a) 0xB01C) →
          Ends (exec (.latchInfoRead a .bar0 0xB01C) u)
            (fun v => v.reply = bytesLE (s.latch ((seenFrom s a).regField (kBar0 0xB014) 0 16)).gen.toNat 4)

/-- BAD_REGISTER_ACCESS: a register access of a wrong form through an open BAR (BAR0 only by the PF) is counted once in the 64-bit HOST_BAD_ACCESS and recorded (function, BAR number, write bit, offset) in HOST_BAD_INFO and HOST_BAD_OFF; a read answers four zero bytes; nothing else changes beyond what the request's wake event changes. (R441, R455) -/
def Obligations.BadRegisterAccessIsIgnoredAndRecorded : Prop :=
  ∀ (s : State) (f off : Nat) (bar : Bar) (write : Bool), s.up = true → barOpen s f = true → (bar = .bar0 → f = 0) →
    ∃ u, exec (.badRegisterAccess f bar off write) s = .next (watch u)
      ∧ u = { wakeSource s 1 with
          regs := (((wakeSource s 1).setReg 0x28 (BitVec.ofNat 32 ((wakeSource s 1).ctr64 0x28 + 1))).setReg 0x2C
            (BitVec.ofNat 32 (((wakeSource s 1).ctr64 0x28 + 1) / 2 ^ 32))).regs,
          host := { (wakeSource s 1).host with badFn := f, badBar := (match bar with | .bar0 => 0 | .bar2 => 2 | .bar4 => 4),
                                               badWrite := write, badOff := off },
          reply := if write then s.reply else [0#8, 0#8, 0#8, 0#8], replyPoison := if write then s.replyPoison else false }

/-- A write of FP_CTRL by an agent that reaches BAR0. While an operation runs, each of the five sets REJECTED (bit 9 of FP_STATUS) and does nothing else. Otherwise OP and SLOT are recorded, and: LOAD, with FP_SRC a multiple of 8, no context and every die present, starts the reading of FP_SRC_LEN bytes at FP_SRC; PREPARE of slot 1 to 4 with a plan loaded likewise; APPLY, when no queue of a changed plot holds an unstarted command and no REDUCE runs on a changed tree, stops dispatch on the changed plots and waits for the commands that execute there; DISCARD of a slot from 1 to 4 that is not active empties it and ends OK; UNLOAD without contexts empties every slot, switches the configuration and ends OK. A LOAD while a context exists ends NOT_READY with the slots as they were. Everything else is as the request's wake event leaves it. (R16, R52, R54, R55, R56, R62, R64) -/
def Obligations.FieldPlanOperationsBegin : Prop :=
  ∀ (s : State) (a : Agent) (slot : Nat), s.up = true → Reaches s a → slot < 8 →
    (fpBusy s = true →
      exec (.fpLoad a slot) s = .next (watch ((seenFrom s a).setBits kFpStatus 0x200))
      ∧ exec (.fpPrepare a slot) s = .next (watch ((seenFrom s a).setBits kFpStatus 0x200))
      ∧ exec (.fpApply a slot) s = .next (watch ((seenFrom s a).setBits kFpStatus 0x200))
      ∧ exec (.fpDiscard a slot) s = .next (watch ((seenFrom s a).setBits kFpStatus 0x200))
      ∧ exec (.fpUnload a slot) s = .next (watch ((seenFrom s a).setBits kFpStatus 0x200)))
    ∧ (fpBusy s = false → slot ≤ 4 →
      ((seenFrom s a).ctr64 kFpSrc % 8 = 0 → someContext s = false → allDies s = true →
        exec (.fpLoad a slot) s = .next (watch { seenFrom s a with plan := { s.plan with
          lastOp := 1, lastSlot := slot,
          op := some { op := 1, slot := slot, addr := (seenFrom s a).ctr64 kFpSrc, len := ((seenFrom s a).reg 0x800C).toNat, boot := false } } }))
      ∧ ((seenFrom s a).ctr64 kFpSrc % 8 = 0 → someContext s = true →
        Ends (exec (.fpLoad a slot) s) (fun t => t.plan = { s.plan with
          lastOp := 1, lastSlot := slot, op := none, apply := none, result := .notReady, errAt := none }))
      ∧ (slot ≠ 0 → (seenFrom s a).ctr64 kFpSrc % 8 = 0 → planLoaded s = true →
        exec (.fpPrepare a slot) s = .next (watch { seenFrom s a with plan := { s.plan with
          lastOp := 2, lastSlot := slot,
          op := some { op := 2, slot := slot, addr := (seenFrom s a).ctr64 kFpSrc, len := ((seenFrom s a).reg 0x800C).toNat, boot := false } } }))
      ∧ (∀ x y, inForce s = some x → configOf s.plan slot = some y → holdsUnstarted (seenFrom s a) (changedPlots x y) = false →
        reducesOn (seenFrom s a) (changedTrees x y) = false →
        exec (.fpApply a slot) s = .next (watch { seenFrom s a with plan := { s.plan with
          lastOp := 3, lastSlot := slot,
          apply := some {
            slot := slot, plots := changedPlots x y, began := s.time,
            waits := (ringsOfPlots (seenFrom s a) (changedPlots x y)).flatMap (fun e =>
              (e.2.2.cmds.filter Cmd.dispatched).map (fun z => ({ ctx := e.1, ring := e.2.1, serial := z.serial } : CmdRef))) } } }))
      ∧ (slot ≠ 0 → slot ≠ s.plan.active →
        Ends (exec (.fpDiscard a slot) s) (fun t => t.plan = { s.plan with
            lastOp := 4, lastSlot := slot, op := none, apply := none, slots := tblDel s.plan.slots slot, result := .ok, errAt := none }
          ∧ t.com = s.com ∧ t.ctxs = s.ctxs ∧ t.rings = s.rings))
      ∧ (someContext s = false →
        exec (.fpUnload a slot) s = .next (watch (fpEnd (configSwitched { seenFrom s a with plan := { s.plan with
          lastOp := 5, lastSlot := slot, slots := [], active := 0, force := none } } (inForce s)) .ok none))))

/-- APPLY_BANK_SWITCH: once every command that APPLY waits for is final, the slot it named becomes the active one, its configuration over the full plan is in force, FP_GEN advances by one, and APPLY ends OK with its duration in FP_APPLY_NS; while one is not final nothing changes. APPLY_WAIT_TIMEOUT and APPLY_ACK_TIMEOUT end it NOT_READY with the slots, the active slot and the configuration in force as before, the second with a class 6 entry in the error log that names the die. FP_OPERATION_DONE: an image that fails a check leaves every slot and the configuration in force as they were, and ends the operation with the failing status, section and entry; a valid one of PREPARE is put in its slot and nothing else changes; a valid one of LOAD is put in slot 0 alone, which becomes active and is in force, and FP_GEN advances. Nothing happens where no operation is in progress. (R48, R52, R56, R57, R65) -/
def Obligations.FieldPlanOperationsEnd : Prop :=
  ∀ s : State, s.up = true →
    (∀ r, s.plan.apply = some r → applyReturned s r = false →
      (applyWaiting s r = true → exec .applyBankSwitch s = .next (watch s))
      ∧ (applyWaiting s r = false → Ends (exec .applyBankSwitch s) (fun t => t.plan.slots = s.plan.slots ∧ t.plan.active = r.slot
          ∧ t.plan.force = configOf s.plan r.slot ∧ t.plan.apply = none ∧ t.plan.result = .ok ∧ t.plan.gen = s.plan.gen + 1 ∧ t.plan.errAt = none
          ∧ t.plan.applyNs = min 0xFFFFFFFF (s.time - r.began).toNat ∧ t.com = s.com ∧ t.ctxs = s.ctxs ∧ t.rings = s.rings)))
    ∧ (∀ r, s.plan.apply = some r → applyWaiting s r = true →
      Ends (exec .applyWaitTimeout s) (fun t => t.plan = { s.plan with
        op := none, apply := none, result := .notReady, errAt := none, applyNs := min 0xFFFFFFFF (s.time - r.began).toNat }
        ∧ t.com = s.com ∧ t.ctxs = s.ctxs ∧ t.rings = s.rings))
    ∧ (∀ r die, s.plan.apply = some r → applyWaiting s r = false → applyReturned s r = false →
      Ends (exec (.applyAckTimeout die) s) (fun t => t.plan = { s.plan with
        op := none, apply := none, result := .notReady, errAt := none, applyNs := min 0xFFFFFFFF (s.time - r.began).toNat }
        ∧ t.com = s.com ∧ t.ctxs = s.ctxs ∧ t.rings = s.rings
        ∧ tblFind t.elog.ents (s.elog.wr % 4096) = some { time := s.time, seq := s.elog.wr, cls := 6, unit := 8, status := 0x23, count := 1, ctx := 0xFFFF, loc := die }))
    ∧ (s.plan.op = none → exec .fpOperationDone s = .next (watch s))
    ∧ (∀ o, s.plan.op = some o → o.boot = false →
      (∀ f, validateImage s (memRead s.com.host o.addr (if o.len ≤ 4194304 then o.len else 0)) o.len o.op = .inr f →
        Ends (exec .fpOperationDone s) (fun t => t.plan = { s.plan with op := none, apply := none, result := f.st, errAt := f.at_ } ∧ t.com = s.com))
      ∧ (∀ img, validateImage s (memRead s.com.host o.addr (if o.len ≤ 4194304 then o.len else 0)) o.len o.op = .inl img →
        (o.op = 1 → Ends (exec .fpOperationDone s) (fun t => t.plan.slots = [(0, img)] ∧ t.plan.active = 0 ∧ t.plan.force = some img.secs ∧ t.plan.op = none
          ∧ t.plan.result = .ok ∧ t.plan.gen = s.plan.gen + 1))
        ∧ (o.op ≠ 1 → Ends (exec .fpOperationDone s) (fun t => t.plan = { s.plan with
            slots := tblIns s.plan.slots o.slot img, op := none, apply := none, result := .ok, errAt := none } ∧ t.com = s.com))))

/-- ROTATION_START, on a compute die with no rotation in progress and a rotation period set: when the greatest ageing count among the slots in service exceeds the least among the free spares by more than 1 %, that slot and its field index become Moving towards that spare and MAP_GEN advances; else only the background unit is counted. ROTATION_COPY: when neither the moving slot's field index nor one that it hosts runs a command, the spare's slot state shows the field index and the copy is done. ROTATION_END, after the copy: the spare is In service with the field index, the field index is Own on it, the outgoing slot is Spare, the rotation is over and MAP_GEN advances. Without a rotation the last two change nothing. (R20, R493) -/
def Obligations.RotationMovesAFieldIndexToASpare : Prop :=
  ∀ (s : State) (d : Nat), s.up = true →
    (∀ o n, d < 16 → tblFind s.topo.rotations d = none → s.regField 0x28060 16 8 ≠ 0 →
      firstBy (fun a b => slotAge (bgUnit s 4) b < slotAge (bgUnit s 4) a) (dieSlots (bgUnit s 4) d .inService) = some o →
      firstBy (fun a b => slotAge (bgUnit s 4) a < slotAge (bgUnit s 4) b) (freeSpares (bgUnit s 4) d) = some n →
      (slotAge (bgUnit s 4) o * 100 ≤ slotAge (bgUnit s 4) n * 101 → exec (.rotationStart d) s = .next (watch (bgUnit s 4)))
      ∧ (slotAge (bgUnit s 4) n * 101 < slotAge (bgUnit s 4) o * 100 →
        Ends (exec (.rotationStart d) s) (fun t => t.topo.mapGen = (bgUnit s 4).topo.mapGen + 1
          ∧ t.topo.rotations = tblIns (bgUnit s 4).topo.rotations d { from_ := o, spare := n, copied := false }
          ∧ t.topo.slots = tblSet (PhysSlot.reset o) (bgUnit s 4).topo.slots o { (bgUnit s 4).slot o with st := .moving }
          ∧ t.topo.arrays = tblSet (ArrayEnt.reset ((bgUnit s 4).slot o).field) (bgUnit s 4).topo.arrays ((bgUnit s 4).slot o).field
              { (bgUnit s 4).arrayEnt ((bgUnit s 4).slot o).field with st := .moving }
          ∧ t.com = s.com ∧ t.rings = s.rings ∧ t.ctxs = s.ctxs)))
    ∧ (∀ r, tblFind s.topo.rotations d = some r → r.copied = false → fieldBusy s (s.slot r.from_).field = false →
      (∀ g, (s.slot r.from_).doubled = some g → fieldBusy s g = false) →
      exec (.rotationCopy d) s = .next (watch { s.setSlot r.spare { s.slot r.spare with field := (s.slot r.from_).field } with
        topo := { (s.setSlot r.spare { s.slot r.spare with field := (s.slot r.from_).field }).topo with
          rotations := tblIns s.topo.rotations d { r with copied := true } } }))
    ∧ (∀ r, tblFind s.topo.rotations d = some r → r.copied = true → (s.slot r.from_).doubled = none →
      Ends (exec (.rotationEnd d) s) (fun t => t.topo.mapGen = s.topo.mapGen + 1 ∧ t.topo.rotations = tblDel s.topo.rotations d
        ∧ t.topo.arrays = tblSet (ArrayEnt.reset (s.slot r.from_).field) s.topo.arrays (s.slot r.from_).field
            { die := r.spare / 68, slot := r.spare % 68, st := .own }
        ∧ t.topo.slots = tblSet (PhysSlot.reset r.from_) (tblSet (PhysSlot.reset r.spare) s.topo.slots r.spare
            { st := .inService, field := (s.slot r.from_).field, doubled := none }) r.from_ { st := .spare, field := 0, doubled := none }
        ∧ t.com = s.com ∧ t.rings = s.rings ∧ t.ctxs = s.ctxs))
    ∧ (tblFind s.topo.rotations d = none → exec (.rotationCopy d) s = .next (watch s) ∧ exec (.rotationEnd d) s = .next (watch s))

/-- AGEING_TICK: the ageing count of every slot in service or moving advances by its factor at this time (the calibration is open: log entry 9), no other count changes. DIE_LINK_CRC_RETRY on link n < 47: a repair adds one to REPAIRS and a retrain one to RETRAINS of D2D_LINK[n], each holding at 255; a bare retry changes nothing. DIE_LINK_DOWN to fewer modules, not zero: the link's width becomes what is left and an entry of class 3 names the link; to zero: first the running commands whose data cross it are killed with cause remap. D2D_LINK_RESTORED: the link has every module that it is built of. Nothing else changes. (R24, R26, R37, R138, R493, R501) -/
def Obligations.AgeingAndDieLinkEvents : Prop :=
  ∀ s : State, s.up = true →
    exec .ageingTick s = .next (watch { s with rel := { s.rel with
      ageing := ((List.range 1088).filter (fun k => (s.slot k).st == .inService || (s.slot k).st == .moving)).foldl
        (fun t k => tblSet 0 t k (tblGet 0 t k + Config.ageFactor k s.time.toNat)) s.rel.ageing } })
    ∧ ∀ n, n < 47 →
      (exec (.dieLinkCrcRetry n false false) s = .next (watch s))
      ∧ (exec (.dieLinkCrcRetry n true false) s = .next (watch (s.setLink n { s.link n with repairs := min 255 ((s.link n).repairs + 1) })))
      ∧ (exec (.dieLinkCrcRetry n false true) s = .next (watch (s.setReg (0x7400 + 4 * n)
          (setField (s.reg (0x7400 + 4 * n)) 16 8 (min 255 (s.regField (0x7400 + 4 * n) 16 8 + 1))))))
      ∧ (∀ up, 0 < up → up < (s.link n).up →
          exec (.dieLinkDown n up) s = .next (watch (logEntry (s.setLink n { s.link n with up := up }) 3 5 0 noCtx n)))
      ∧ (0 < (s.link n).up → exec (.dieLinkDown n 0) s = .next (watch (logEntry
          ((killWhere s (fun y => y.phase == .running && attemptCrosses s y n) .remap).setLink n { s.link n with up := 0 }) 3 5 0 noCtx n)))
      ∧ exec (.d2dLinkRestored n) s = .next (watch (s.setLink n { s.link n with up := if n ≤ 21 then 4 else if n ≤ 39 then 2 else 1 }))

/-- DOORBELL of ring n (n < 64) of the context c on a page of the function, the BAR open, no function-level reset, the ring Running, Halted or Frozen and the context Active or Frozen. If EPOCH (bits 31:20) equals bits 11:0 of the ring's FLUSH_EPOCH, bits 19:17 are zero, and the forward distance from TAIL to the new TAIL modulo 2 x DEPTH is at most RETIRE + DEPTH - TAIL, then TAIL takes the new index (so a doorbell equal to TAIL changes nothing); otherwise no ring, context or object changes and DB_DROPS, bits 15:0 of the ring's register at 0x38, goes up by one and holds at 65,535. Beyond that only the wake events of the request act (R469). (R111) -/
def Obligations.DoorbellAcceptedOnlyByRule : Prop :=
  ∀ (s : State) (f page n : Nat) (v : Word), s.up = true → barOpen s f = true → (s.fn f).flr = false → page < fnCtxCount s f → n < 64 →
    ∀ c r, c = fnCtxBase s f + page → r = s.ring c n →
    (r.st = .running ∨ r.st = .halted ∨ r.st = .frozen) → ((s.ctx c).st = .active ∨ (s.ctx c).st = .frozen) →
    ∀ tail, tail = v.toNat % 2 ^ 17 % (2 * r.depth) →
    ((v.toNat / 2 ^ 20 % 2 ^ 12 = r.epoch.toNat % 4096 ∧ v.toNat / 2 ^ 17 % 8 = 0
        ∧ slotDist r r.tail tail ≤ slotDist r r.tail ((r.retire + r.depth) % (2 * r.depth)) →
      exec (.doorbell f page n v) s = .next (watch (wakeSource (wakeSource (s.setRing c n { r with tail := tail }) 4) 1)))
    ∧ (¬(v.toNat / 2 ^ 20 % 2 ^ 12 = r.epoch.toNat % 4096 ∧ v.toNat / 2 ^ 17 % 8 = 0
        ∧ slotDist r r.tail tail ≤ slotDist r r.tail ((r.retire + r.depth) % (2 * r.depth))) →
      ∃ w, exec (.doorbell f page n v) s = .next (watch (wakeSource (s.setReg (kDbDrops c n) w) 1))
        ∧ w.toNat % 65536 = min 65535 ((s.reg (kDbDrops c n)).toNat % 65536 + 1) ∧ w.toNat / 65536 = (s.reg (kDbDrops c n)).toNat / 65536))

/-- DOORBELL_PAGE_WRITE of four bytes at an aligned offset is the DOORBELL of its page and ring with the little-endian value; of eight bytes, the two doorbells in ascending order under one access; a unit that the bytes cover only in part, one on a page beyond the function's contexts and one at or above 0x100 of its page change nothing but FN_DB_BAD of the page, plus one up to 65,535. (R448) -/
def Obligations.DoorbellPageWritesAreUnitByUnit : Prop :=
  ∀ (s : State) (f page off : Nat), s.up = true →
    (∀ n v, n < 64 → exec (.doorbellPageWrite f (4096 * page + 4 * n) (bytesLE v.toNat 4)) s = exec (.doorbell f page n v) s)
    ∧ (∀ n v w, n + 1 < 64 → barOpen s f = true → (s.fn f).flr = false → page < fnCtxCount s f →
        exec (.doorbellPageWrite f (4096 * page + 4 * n) (bytesLE v.toNat 4 ++ bytesLE w.toNat 4)) s
          = .next (watch (wakeSource (doorbellUnit (ringDoorbell s (fnCtxBase s f + page) n v) f page (4 * (n + 1)) w) 1)))
    ∧ (∀ b, barOpen s f = true → (s.fn f).flr = false →
        ∃ w, exec (.doorbellPageWrite f off [b]) s = .next (watch (wakeSource (s.setReg (kPage f 0x10010) w) 1))
          ∧ w.toNat % 65536 = min 65535 ((s.reg (kPage f 0x10010)).toNat % 65536 + 1) ∧ w.toNat / 65536 = (s.reg (kPage f 0x10010)).toNat / 65536)
    ∧ (∀ n v, barOpen s f = true → (s.fn f).flr = false → fnCtxCount s f ≤ page →
        ∃ w, exec (.doorbell f page n v) s = .next (watch (wakeSource (s.setReg (kPage f 0x10010) w) 1))
          ∧ w.toNat % 65536 = min 65535 ((s.reg (kPage f 0x10010)).toNat % 65536 + 1) ∧ w.toNat / 65536 = (s.reg (kPage f 0x10010)).toNat / 65536)

/-- RESUME makes a Halted ring Running; FLUSH and DISABLE of a Running or Halted ring make it Flushing (with Running or Disabled to follow) and kill its dispatched commands with cause flush; FLUSH of a Frozen ring kills and ends at once, still Frozen; FLUSH_COMPLETE ends a flush: the items from HEAD to TAIL and the open commands are CANCELLED, the ring takes the state that was to follow, TAIL and RETIRE come to HEAD, FLUSH_EPOCH advances by one and no command is left but those whose record is due again. An operation in any other state sets LAST_ERR to NOT_READY and changes nothing else of the ring; FLUSH_COMPLETE in another state does nothing. (R149, R150) -/
def Obligations.RingOperationsFollowTheStateTable : Prop :=
  ∀ (s : State) (f c n : Nat), s.up = true → n < 64 →
    (Shows s f c →
      ((s.ring c n).st = .halted → exec (.ringResume f n) s = .next (watch (wakeSource (s.setRing c n { s.ring c n with st := .running }) 1)))
      ∧ ((s.ring c n).st ≠ .halted →
          exec (.ringResume f n) s = .next (watch (wakeSource (s.setRing c n { s.ring c n with lastErr := .notReady }) 1)))
      ∧ ((s.ring c n).st = .running ∨ (s.ring c n).st = .halted →
          exec (.ringFlush f n) s = .next (watch (wakeSource
            (killRing (s.setRing c n { s.ring c n with st := .flushing, after := .running }) c n .flush) 1))
          ∧ exec (.ringDisable f n) s = .next (watch (wakeSource
            (killRing (s.setRing c n { s.ring c n with st := .flushing, after := .disabled }) c n .flush) 1)))
      ∧ ((s.ring c n).st = .frozen →
          exec (.ringFlush f n) s = .next (watch (wakeSource (flushEnd (killRing s c n .flush) c n .frozen) 1))
          ∧ exec (.ringDisable f n) s = .next (watch (wakeSource (s.setRing c n { s.ring c n with lastErr := .notReady }) 1)))
      ∧ ((s.ring c n).st = .disabled ∨ (s.ring c n).st = .flushing →
          exec (.ringFlush f n) s = .next (watch (wakeSource (s.setRing c n { s.ring c n with lastErr := .notReady }) 1))
          ∧ exec (.ringDisable f n) s = .next (watch (wakeSource (s.setRing c n { s.ring c n with lastErr := .notReady }) 1))))
    ∧ ((s.ring c n).st = .flushing → ∀ u, u = cancelOpen (takeItems c n (s.ring c n).depth s) c n →
        exec (.flushComplete c n) s = .next (watch (u.setRing c n { u.ring c n with
          st := (s.ring c n).after, tail := (u.ring c n).head, retire := (u.ring c n).head, epoch := (u.ring c n).epoch + 1,
          cmds := (u.ring c n).cmds.filter (fun x => x.recDue) })))
    ∧ ((s.ring c n).st ≠ .flushing → exec (.flushComplete c n) s = .next (watch s))

/-- A Disabled ring bound to a queue that its plot defines, within the limits of R106, with no other enabled ring of the context on that queue, both areas at multiples of 4,096: in host memory, ENABLE makes it Running with HEAD, TAIL, RETIRE and serial 0, no command, and DEPTH of the queue's entry, and allocates nothing; in device memory, the same on top of the allocation of its granules. Where a check fails, the status of the first failure is LAST_ERR and the ring stays as it was: NOT_READY for an undefined queue, FORMAT for a base that is not a multiple of 4,096. ENABLE of a ring that is not Disabled sets NOT_READY. (R106, R108, R149, R544) -/
def Obligations.EnableTakesIndicesToZero : Prop :=
  ∀ (s : State) (f c n : Nat), s.up = true → n < 64 → Shows s f c →
    ((s.ring c n).st ≠ .disabled → exec (.ringEnable f n) s = .next (watch (wakeSource (s.setRing c n { s.ring c n with lastErr := .notReady }) 1)))
    ∧ ((s.ring c n).st = .disabled →
      (queueEntry s (ctxPlot s c) (ringClass s c n) = none →
        exec (.ringEnable f n) s = .next (watch (wakeSource (s.setRing c n { s.ring c n with lastErr := .notReady }) 1)))
      ∧ (∀ st, enableChecks s c n = .inr st →
        exec (.ringEnable f n) s = .next (watch (wakeSource (s.setRing c n { s.ring c n with lastErr := st }) 1)))
      ∧ (∀ q, queueEntry s (ctxPlot s c) (ringClass s c n) = some q → ringIndex s c n < q.queues →
        (enabledRings s c).length < 64 → enabledTotal s < 65536 →
        (∀ m ∈ enabledRings s c, m ≠ n → ¬(ringClass s c m = ringClass s c n ∧ ringIndex s c m = ringIndex s c n)) →
        ((ringSq s c n % 4096 ≠ 0 ∨ ringCq s c n % 4096 ≠ 0) →
          exec (.ringEnable f n) s = .next (watch (wakeSource (s.setRing c n { s.ring c n with lastErr := .format }) 1)))
        ∧ (ringSq s c n % 4096 = 0 → ringCq s c n % 4096 = 0 → ringHost s c n = true →
          exec (.ringEnable f n) s = .next (watch (wakeSource (s.setRing c n { s.ring c n with
            st := .running, depth := q.depth, head := 0, tail := 0, retire := 0, serial := 0, cmds := [] }) 1))))
      ∧ (∀ u, enableChecks s c n = .inl u →
        exec (.ringEnable f n) s = .next (watch (wakeSource (u.setRing c n { u.ring c n with
            st := .running, depth := queueDepth s c n, head := 0, tail := 0, retire := 0, serial := 0, cmds := [] }) 1))))

/-- EVC_ADD of counter k (k < 256) of a context that is not Free: zero does nothing; INC (below 65,536) is added to the counter, no other counter, register, ring or object changes; a sum of 2^64 or more leaves the counter at 2^64 - 1 and the event is an entry of class 6 in the error log. A Free context has no counters and nothing happens. (R144, R152) -/
def Obligations.EventCounterAdds : Prop :=
  ∀ (s : State) (f c k inc : Nat), s.up = true → Shows s f c → k < 256 → inc < 65536 →
    (((s.ctx c).st = .free ∨ inc = 0) → exec (.evcAdd f k inc) s = .next (watch (wakeSource s 1)))
    ∧ ((s.ctx c).st ≠ .free → inc ≠ 0 →
      ((s.evctr c k).toNat + inc < 2 ^ 64 →
        exec (.evcAdd f k inc) s = .next (watch (wakeSource (s.setEvctr c k (s.evctr c k + BitVec.ofNat 64 inc)) 1)))
      ∧ (2 ^ 64 ≤ (s.evctr c k).toNat + inc →
        exec (.evcAdd f k inc) s = .next (watch (wakeSource (logEntry (s.setEvctr c k (BitVec.allOnes 64)) 6 8 0 c k) 1))))

/-- For the context c that CTXSEL of the function shows. In a state with no row, and while BUSY is 1, CREATE, DESTROY, RESET and THAW leave the context as it was but for LAST_ERR = NOT_READY. CREATE of a Free context that passes every check of R156 makes it Active with accounts, virtual times, digest, event counters and rings at zero, LAST_ERR as it was (the model's reading: log entry 101; what else a new context holds: log entry 15) and fresh XTS keys (a free value, log entry 1); a failing check's status is LAST_ERR. RESET and DESTROY of an Active or Frozen context make it Resetting or Destroying and kill its dispatched commands with cause cancel; DESTROY also drops its steering sets, cancels its rings and breaks its latches. THAW of a Frozen context makes it Active, gives its frozen rings back their states, applies the halt rule to the breaching command's ring and writes the records that are due. RESET_COMPLETE makes a Resetting context Active with all event counters zero; FREEZE_COMPLETE ends the freeze steps and writes FREEZE_INFO; DESTROY_RELEASE makes a Destroying context Free. Each does nothing in another state. (R156, R157, R158, R159, R172, R174) -/
def Obligations.ContextOperationsFollowTheStateTable : Prop :=
  ∀ (s : State) (f c : Nat), s.up = true →
    (Shows s f c →
      (ctxBusy (s.ctx c) = true →
        exec (.ctxCreate f) s = .next (watch (wakeSource (s.setCtx c { s.ctx c with lastErr := .notReady }) 1))
        ∧ exec (.ctxDestroy f) s = .next (watch (wakeSource (s.setCtx c { s.ctx c with lastErr := .notReady }) 1))
        ∧ exec (.ctxReset f) s = .next (watch (wakeSource (s.setCtx c { s.ctx c with lastErr := .notReady }) 1))
        ∧ exec (.ctxThaw f) s = .next (watch (wakeSource (s.setCtx c { s.ctx c with lastErr := .notReady }) 1)))
      ∧ ((s.ctx c).st = .free → (s.ctx c).freezing = none →
        exec (.ctxDestroy f) s = .next (watch (wakeSource (s.setCtx c { s.ctx c with lastErr := .notReady }) 1))
        ∧ exec (.ctxReset f) s = .next (watch (wakeSource (s.setCtx c { s.ctx c with lastErr := .notReady }) 1))
        ∧ exec (.ctxThaw f) s = .next (watch (wakeSource (s.setCtx c { s.ctx c with lastErr := .notReady }) 1))
        ∧ (∀ st, createCheck s f c = some st →
          exec (.ctxCreate f) s = .next (watch (wakeSource (s.setCtx c { s.ctx c with lastErr := st }) 1)))
        ∧ (createCheck s f c = none → Ends (exec (.ctxCreate f) s) (fun t =>
            t.ctxs = tblSet Ctx.reset s.ctxs c { Ctx.reset with st := .active, lastErr := (s.ctx c).lastErr, xts := s.draw.1 % 2 ^ 512 }
            ∧ t.evc = s.evc.filter (fun e => e.1 / 256 != c) ∧ t.rings = s.rings.filter (fun e => e.1 / 64 != c)
            ∧ t.com = s.com ∧ t.grans = s.grans ∧ t.latches = s.latches)))
      ∧ ((s.ctx c).st = .active ∨ (s.ctx c).st = .frozen → (s.ctx c).freezing = none →
        exec (.ctxCreate f) s = .next (watch (wakeSource (s.setCtx c { s.ctx c with lastErr := .notReady }) 1))
        ∧ exec (.ctxReset f) s = .next (watch (wakeSource (killCtx (s.setCtx c { s.ctx c with st := .resetting }) c .cancel) 1))
        ∧ exec (.ctxDestroy f) s = .next (watch (wakeSource (breakLatches (cancelRings
            (dropSets (killCtx (s.setCtx c { s.ctx c with st := .destroying }) c .cancel) c) c) c) 1)))
      ∧ ((s.ctx c).st = .active → (s.ctx c).freezing = none →
        exec (.ctxThaw f) s = .next (watch (wakeSource (s.setCtx c { s.ctx c with lastErr := .notReady }) 1)))
      ∧ ((s.ctx c).st = .frozen → (s.ctx c).freezing = none →
        exec (.ctxThaw f) s = .next (watch (wakeSource (
          let u := ringNums.foldl (fun v n => thawRing v c n) (s.setCtx c { s.ctx c with st := .active, haltRing := none })
          ringNums.foldl (fun v n => redoRecords v c n) (match (s.ctx c).haltRing with | some n => haltRule u c n .frozen | none => u)) 1)))
      ∧ (∀ n, (s.ring c n).st = .frozen → thawRing s c n = s.setRing c n { s.ring c n with st := (s.ring c n).before }))
    ∧ ((s.ctx c).st = .resetting → Ends (exec (.resetComplete c) s) (fun t =>
        (t.ctx c).st = .active ∧ (t.ctx c).digest = 0 ∧ ∀ k < 256, t.evctr c k = 0))
    ∧ ((s.ctx c).st ≠ .resetting → exec (.resetComplete c) s = .next (watch s))
    ∧ ((s.ctx c).freezing = none → exec (.freezeComplete c) s = .next (watch s))
    ∧ (∀ z, (s.ctx c).freezing = some z → z.serValid = false → Ends (exec (.freezeComplete c) s) (fun t =>
        t.ctxs = tblSet Ctx.reset s.ctxs c { s.ctx c with freezing := none, info := z, haltRing := none } ∧ t.com = s.com ∧ t.rings = s.rings))
    ∧ ((∀ g, ownerFn s c = some g → (s.fn g).flr = false) →
      ((s.ctx c).st ≠ .destroying → exec (.destroyRelease c) s = .next (watch s))
      ∧ ((s.ctx c).st = .destroying → (aliasesElsewhere s c).any (fun e => objNamed s e.1 e.2) = true →
        exec (.destroyRelease c) s = .next (watch s))
      ∧ ((s.ctx c).st = .destroying → (aliasesElsewhere s c).any (fun e => objNamed s e.1 e.2) = false →
        exec (.destroyRelease c) s = .next (watch (releaseCtx s c))
        ∧ ∃ u x, releaseCtx s c = State.setCtx u c x ∧ x.st = .free ∧ x.freezing = none ∧ x.objOp = none ∧ x.steerOp = none ∧ x.wpkOp = none))

/-- CTX_WEIGHT_WRITE with a non-zero weight (bits 15:0) changes that register alone: no virtual time is rescaled, and the next charge of ns nanoseconds advances VT[class] by (ns x 65536 + the carried remainder) divided by the new weight. A weight of zero changes nothing but LAST_ERR, which reads FORMAT. (R164) -/
def Obligations.WeightTakesEffectAtTheNextCharge : Prop :=
  ∀ (s : State) (f c : Nat) (v : Word), s.up = true → Shows s f c →
    (v.toNat % 65536 = 0 → exec (.ctxWeightWrite f v) s = .next (watch (wakeSource (s.setCtx c { s.ctx c with lastErr := .format }) 1)))
    ∧ (v.toNat % 65536 ≠ 0 → ∃ u, exec (.ctxWeightWrite f v) s = .next (watch (wakeSource u 1))
        ∧ u = s.setReg (kWin c 4) (BitVec.ofNat 32 (v.toNat % 65536)) ∧ u.ctxs = s.ctxs
        ∧ (tblSorted s.regs = true → ∀ cls ns, chargeVt u c cls ns = u.setCtx c { s.ctx c with
            vt := tblSet 0 (s.ctx c).vt cls (tblGet 0 (s.ctx c).vt cls
              + BitVec.ofNat 64 ((ns * 65536 + tblGet 0 (s.ctx c).rem cls) / (v.toNat % 65536))),
            rem := tblSet 0 (s.ctx c).rem cls ((ns * 65536 + tblGet 0 (s.ctx c).rem cls) % (v.toNat % 65536)) }))

/-- FN_RANGE_WRITE of function fn (fn < 256) by an agent that reaches BAR0. The new range (for FN_LATCH in units of 16) must lie within 4,096 contexts or 65,536 latches and meet no other function's range, and every context that fn owns now, or for FN_CTX would own, must be Free. Then the register takes the written BASE (11:0) and COUNT (28:16), reserved bits 0; otherwise it stays as it was and bit 16 of SCHED_STATUS is set. (R154) -/
def Obligations.FunctionRangeWritesAreCheckedWhole : Prop :=
  ∀ (s : State) (a : Agent) (fn : Nat) (v : Word) (latches : Bool) (t : State) (b n : Nat), s.up = true → Reaches s a → fn < 256 → t = seenFrom s a →
    b = v.toNat % 2 ^ 12 * (if latches then 16 else 1) → n = v.toNat / 2 ^ 16 % 2 ^ 13 * (if latches then 16 else 1) →
    ((b + n ≤ (if latches then 65536 else 4096)
        ∧ (∀ g < 256, g ≠ fn → ¬(∃ x, b ≤ x ∧ x < b + n ∧ (if latches then fnLatchBase t g else fnCtxBase t g) ≤ x
            ∧ x < (if latches then fnLatchBase t g else fnCtxBase t g) + (if latches then fnLatchCount t g else fnCtxCount t g)))
        ∧ (∀ e ∈ s.ctxs, ctxOwnedBy t fn e.1 = true ∨ (latches = false ∧ b ≤ e.1 ∧ e.1 < b + n) → e.2.st = .free)) →
      exec (.fnRangeWrite a fn latches v) s
        = .next (watch (t.setReg (kBar0 ((if latches then 0xB404 else 0xB400) + 8 * fn)) (v &&& 0x1FFF0FFF#32))))
    ∧ (¬(b + n ≤ (if latches then 65536 else 4096)
        ∧ (∀ g < 256, g ≠ fn → ¬(∃ x, b ≤ x ∧ x < b + n ∧ (if latches then fnLatchBase t g else fnCtxBase t g) ≤ x
            ∧ x < (if latches then fnLatchBase t g else fnCtxBase t g) + (if latches then fnLatchCount t g else fnCtxCount t g)))
        ∧ (∀ e ∈ s.ctxs, ctxOwnedBy t fn e.1 = true ∨ (latches = false ∧ b ≤ e.1 ∧ e.1 < b + n) → e.2.st = .free)) →
      exec (.fnRangeWrite a fn latches v) s = .next (watch (t.setBits kSchedStatus 0x10000)))

/-- PREEMPTION_CHECK kills, with cause preemption, the running commands that meet every condition of R165 and nothing else: where none does (as with a slice of zero, or no eligible rival) nothing changes. VT_IDLE_ADJUST changes virtual times alone. ENERGY_RECONCILE adds each rail's measured energy to its counter; with a modelled total M that is not zero every account receives its modelled energy times E_meas plus its carried remainder, divided by M (the quotient is added, the remainder carried), the module's own account likewise, and every modelled energy returns to zero; with M zero no account changes (log entry 16). (R163, R165, R169) -/
def Obligations.SchedulerAndEnergyEvents : Prop :=
  ∀ s : State, s.up = true →
    ((∀ e ∈ cmdsWhere s (fun x => x.phase == .running), preemptable s e.1 e.2.2 = false) → exec .preemptionCheck s = .next (watch s))
    ∧ (∀ e, cmdsWhere s (fun x => x.phase == .running) = [e] → preemptable s e.1 e.2.2 = true →
        exec .preemptionCheck s = .next (watch (killCmd s e.1 e.2.1 e.2.2 .preemption)))
    ∧ (s.regField (kBar0 0xB000) 0 12 = 0 → exec .preemptionCheck s = .next (watch s))
    ∧ Ends (exec .vtIdleAdjust s) (fun t => ∃ u, t = watch u ∧ u = { s with ctxs := u.ctxs }
        ∧ ∀ c, u.ctx c = { s.ctx c with vt := (u.ctx c).vt } ∨ tblSorted s.ctxs = false)
    ∧ ∀ rails : List Nat, ∃ u, u = (rails.zip (List.range 52)).foldl (fun v e => v.bump (kBar0 (0x29800 + 8 * e.2)) e.1) s
        ∧ ∀ m, m = (s.ctxs.map (fun e => e.2.model)).sum + s.sched.idleModel →
        (m = 0 → exec (.energyReconcile rails) s = .next (watch u))
        ∧ (m ≠ 0 → Ends (exec (.energyReconcile rails) s) (fun t =>
            t.sched = { s.sched with
              idleUj := s.sched.idleUj + BitVec.ofNat 64 ((s.sched.idleModel * rails.sum + s.sched.idleFrac) / m),
              idleFrac := (s.sched.idleModel * rails.sum + s.sched.idleFrac) % m,
              idleModel := 0, ratio := BitVec.ofNat 32 (rails.sum * 65536 / m) }
            ∧ t.ctxs = s.ctxs.foldl (fun k e => tblSet Ctx.reset k e.1 { e.2 with
                energy := e.2.energy + BitVec.ofNat 64 ((e.2.model * rails.sum + e.2.frac) / m),
                frac := (e.2.model * rails.sum + e.2.frac) % m, model := 0 }) s.ctxs
            ∧ t.com = s.com ∧ t.rings = s.rings ∧ t.evc = s.evc))

/-- COMMAND_FETCH of ring n of context c changes nothing where the context is not Active, the ring neither Running nor Halted, the owning function quiesced, or HEAD equals TAIL. A first slot that breaches freezes the context with cause 1; an item whose slots do not all lie before TAIL stays invisible. An item that is complete and readable is taken: HEAD moves past its slots (one where SLOTS is 0 or above 4) modulo 2 x DEPTH, its command has the ring's serial, the serial advances by one, and the command stands last in the ring, not yet dispatched; its PENDING record is written and checks 1 to 5 follow. A privileged opcode freezes the context with cause 2. (R107, R109, R112, R113, R114, R118, R153) -/
def Obligations.FetchTakesTheItemAtHead : Prop :=
  ∀ (s : State) (c n : Nat), s.up = true →
    (((s.ctx c).st ≠ .active ∨ ¬((s.ring c n).st = .running ∨ (s.ring c n).st = .halted) ∨ ctxQuiesced s c = true ∨ (s.ring c n).head = (s.ring c n).tail) →
      exec (.commandFetch c n) s = .next (watch s))
    ∧ ((s.ctx c).st = .active → ((s.ring c n).st = .running ∨ (s.ring c n).st = .halted) → ctxQuiesced s c = false →
        (s.ring c n).head ≠ (s.ring c n).tail →
      (∀ a, slotsRead c n (headSlots s c n 1) s = .inr a →
        exec (.commandFetch c n) s = .next (watch (beginFreeze s c { cause := 1, write := false, serValid := false, ring := n, addr := a, serial := 0 })))
      ∧ (∀ t, slotsRead c n (headSlots s c n 1) s = .inl t → itemComplete t c n = false → exec (.commandFetch c n) s = .next (watch t))
      ∧ (∀ t u k r x, slotsRead c n (headSlots s c n 1) s = .inl t → itemComplete t c n = true →
          slotsRead c n (headSlots t c n (itemSlots t c n)) t = .inl u → k = itemSlots u c n → r = u.ring c n →
          x = newCmd (itemBytes u c n k) r.serial r.head k →
        1 ≤ k ∧ k ≤ 4 ∧ x.phase = .waiting ∧ x.serial = r.serial ∧ x.att = none
        ∧ ∃ v, v = u.setRing c n { r with head := (r.head + k) % (2 * r.depth), serial := r.serial + 1, cmds := r.cmds ++ [x] }
          ∧ exec (.commandFetch c n) s = .next (watch (checkFetched (writePending v c n x) c n x))
          ∧ (0x80 ≤ dOpcode x.desc → exec (.commandFetch c n) s = .next (watch (beginFreeze (writePending v c n x) c
              { cause := 2, write := false, serValid := true, ring := n, addr := 0, serial := x.serial })))
          ∧ (dOpcode x.desc < 0x80 → fetchChecks (writePending v c n x) c n x.desc = none →
              exec (.commandFetch c n) s = .next (watch (writePending v c n x)))
          ∧ (∀ st det, dOpcode x.desc < 0x80 → fetchChecks (writePending v c n x) c n x.desc = some (st, det) →
              exec (.commandFetch c n) s = .next (watch (finishCmd (writePending v c n x) c n x st false det)))))

/-- COMMAND_DISPATCH acts on the command at the ring's dispatch point. Nothing changes where there is none, where the context is not Active, the ring not Running or its function quiesced, where a fence before it is open, and, for a command not yet marked, where its plot is stopped by an APPLY or its order, counter or granules hold it back. A command marked for cancelling ends CANCELLED; one whose queue the configuration in force does not define, or whose plot is empty, ends NOT_READY. In Run with no transition or handshake: a WAIT, SIGNAL or LATCH begins to execute, on no engine; another command that wins the instance, need not wait for a resource, passes its checks, meets no retired Silo port or window breach and gets its granules and KV space, starts its attempt, which reads the committed contents of this moment. (R59, R108, R131, R132, R133, R135, R149, R153) -/
def Obligations.DispatchFollowsTheConditionsOfTheRing : Prop :=
  ∀ (s : State) (c n inst : Nat), s.up = true →
    (dispatchPoint (s.ring c n) = none → exec (.commandDispatch c n inst) s = .next (watch s))
    ∧ (ringActs s c n = false → exec (.commandDispatch c n inst) s = .next (watch s))
    ∧ ∀ x, dispatchPoint (s.ring c n) = some x → ringActs s c n = true → x.phase = .waiting → dOpcode x.desc < 0x80 →
      (((earlier (s.ring c n) x).any (fun y => y.open_ && isFence (dOpcode y.desc))) = true →
        exec (.commandDispatch c n inst) s = .next (watch s))
      ∧ (((earlier (s.ring c n) x).any (fun y => y.open_ && isFence (dOpcode y.desc))) = false →
        (x.cancelMark = true → exec (.commandDispatch c n inst) s = .next (watch (finishCmd s c n x .cancelled false noField)))
        ∧ (x.cancelMark = false → queueServed s c n = false →
          exec (.commandDispatch c n inst) s = .next (watch (finishCmd s c n x .notReady false noField)))
        ∧ (x.cancelMark = false → queueServed s c n = true → (plotStopped s c = true ∨ cmdReady s c n x = false) →
          exec (.commandDispatch c n inst) s = .next (watch s))
        ∧ (x.cancelMark = false → queueServed s c n = true → plotStopped s c = false → cmdReady s c n x = true → s.Awake →
          (isFence (dOpcode x.desc) = true → exec (.commandDispatch c n inst) s
            = .next (watch (s.setCmd c n { x with phase := .running, joined := s.time, param := some [] })))
          ∧ (isFence (dOpcode x.desc) = false → ∀ u, u = noteEligible s →
            (winner u (dOpcode x.desc) inst ≠ some (c, n) → exec (.commandDispatch c n inst) s = .next (watch u))
            ∧ (winner u (dOpcode x.desc) inst = some (c, n) → mustWait u c n x inst = true → exec (.commandDispatch c n inst) s = .next (watch u))
            ∧ (winner u (dOpcode x.desc) inst = some (c, n) → mustWait u c n x inst = false →
              (∀ st det, firstFail [featureCheck u x.desc (paramOf u c x), if x.param.isNone then dispatchChecks u c x.desc (paramOf u c x) else none] = some (st, det) →
                exec (.commandDispatch c n inst) s = .next (watch (finishCmd u c n x st false det)))
              ∧ (firstFail [featureCheck u x.desc (paramOf u c x), if x.param.isNone then dispatchChecks u c x.desc (paramOf u c x) else none] = none →
                (readGrans u c (accessesNow u c x)).filter (onRetiredPort u) = [] → firstBreach u c (accessesNow u c x) = none →
                ∀ v got w kv, allocWrites c (accessesNow u c x) u [] = (.done v, got) →
                takeKv v (refOf c n x) x.desc (paramOf u c x) = .done w kv →
                exec (.commandDispatch c n inst) s = .next (watch (startAttempt w c n x inst got kv)))))))

/-- For the command x with serial ser of the ring. COMMAND_COMMIT of an attempt computed with OK applies its effects, seals, adds the header's signal and finishes the command with OK, or DEGRADED where it ran reduced; one computed with another status has no effect and finishes with that status; any other command is left alone. WATCHDOG_EXPIRY of a running command other than a fence kills it with cause timeout and records the instance to avoid; else nothing. INJECTED_KILL acts only with KILL_EN and a rate set, on a running command other than a fence with fewer than three injections. PROVISIONAL_TIMEOUT ends a deciding command NOT_READY where WAIT_TIMEOUT is not zero. PROVISIONAL_DECISION, once the counter is reached and its record is present, in range, allowed and not poisoned: FORMAT for a record that does not decode, SKIPPED for a skip, the commit where the values are as assumed, else the UPDATE goes back as a plain one. (R13, R135, R136, R140, R328, R329, R410) -/
def Obligations.CommitAndItsExceptions : Prop :=
  ∀ (s : State) (c n ser : Nat) (x : Cmd), s.up = true → s.cmd c n ser = some x →
    (x.phase ≠ .computed → exec (.commandCommit c n ser) s = .next (watch s))
    ∧ (∀ a o, x.phase = .computed → x.att = some a → x.out = some o →
      (o.status ≠ .ok → exec (.commandCommit c n ser) s = .next (watch (endWithout s c n x a o.status o.nonfinite o.detail)))
      ∧ (∀ t ws v, o.status = .ok → slotTaken s c o.effs = false → applyEffs s (refOf c n x) o.effs = some (t, ws) →
        v = finishCmd (sigEffect (dropReqs (sealCommit t c x a ws) (refOf c n x)) c x.desc) c n x
          (if ranReduced s c n x a then .degraded else .ok) o.nonfinite o.detail →
        exec (.commandCommit c n ser) s = .next (watch (if dOpcode x.desc = opAttnFwd then injectDrop v else v))))
    ∧ (x.phase ≠ .running ∨ isFence (dOpcode x.desc) = true →
        exec (.watchdogExpiry c n ser) s = .next (watch s) ∧ exec (.injectedKill c n ser) s = .next (watch s))
    ∧ (∀ a, x.phase = .running → isFence (dOpcode x.desc) = false → x.att = some a →
        exec (.watchdogExpiry c n ser) s = .next (watch (expire s c n x a))
        ∧ (injects s 0 = true → injectPpm s 0 ≠ 0 → x.injected < 3 → ∀ u y, u = (killCmd s c n x .preemption).bump (kBar0 0x22008) 1 →
          u.cmd c n ser = some y → exec (.injectedKill c n ser) s = .next (watch (u.setCmd c n { y with injected := y.injected + 1 })))
        ∧ (injects s 0 = false ∨ injectPpm s 0 = 0 ∨ 3 ≤ x.injected → exec (.injectedKill c n ser) s = .next (watch s)))
    ∧ (∀ a, x.att = some a → x.phase ≠ .deciding →
        exec (.provisionalDecision c n ser) s = .next (watch s) ∧ exec (.provisionalTimeout c n ser) s = .next (watch s))
    ∧ (∀ a p, x.att = some a → x.phase = .deciding → p = x.param.getD [] →
        (ringWaitTo s c n = 0 → exec (.provisionalTimeout c n ser) s = .next (watch s))
        ∧ (ringWaitTo s c n ≠ 0 → exec (.provisionalTimeout c n ser) s = .next (watch (endWithout s c n x a .notReady false noField)))
        ∧ ((s.evctr c (upDecCtr p)).toNat < upDecVal p → exec (.provisionalDecision c n ser) s = .next (watch s))
        ∧ (upDecVal p ≤ (s.evctr c (upDecCtr p)).toNat → objectsPresent s.com c [rd (upDec p) 64 (inParam 32)] = none →
            rangesWithin s.com c [rd (upDec p) 64 (inParam 32)] = none → firstBreach s c [rd (upDec p) 64 (inParam 32)] = none →
            accessPoison s.com c (rd (upDec p) 64 0) = [] →
          (readDecision (devByte s.com c) (upDec p) = none →
            exec (.provisionalDecision c n ser) s = .next (watch (endWithout s c n x a .format false (inParam 32))))
          ∧ (∀ skip v, readDecision (devByte s.com c) (upDec p) = some (skip, v) →
            (skip ≠ 0 → exec (.provisionalDecision c n ser) s = .next (watch (endWithout s c n x a .skipped false noField)))
            ∧ (skip = 0 → v = assumedVals (devByte a.snap c) (upStepIn p) →
              exec (.provisionalDecision c n ser) s = .next (watch (commitCmd s c n x)))
            ∧ (skip = 0 → v ≠ assumedVals (devByte a.snap c) (upStepIn p) →
              exec (.provisionalDecision c n ser) s = .next (watch (redoUpdate s c n x a))))))

/-- TILE, ATTN_FWD, ATTN_BWD, MERGE, ELEM, ROUTE, GATHER, SCATTER, SAMPLE (both kinds), and the five SEQ operations. For a command of ring n that is running: a row of another opcode leaves the state unchanged. A row of its own opcode, where none of the units that the attempt reads is poisoned, ends the attempt: the command is computed, what the row's function computes from the committed contents at dispatch is staged as its outcome, its engine time ends now, the context is charged for it, and no object, host byte, counter, granule, other command or other context changes (outputs are staged until commit). The charge of a context that exists, with ns the engine time and cls the class of the opcode: the virtual time of the class advances by (65536 ns + remainder) div weight, the remainder becomes that mod weight, the class's cycle account takes the engine time in its own clock, and the context's modelled energy takes the attempt's (a free value). Where a unit is poisoned the attempt is killed by the poison rules instead. (R67, R73, R95, R135, R141, R161, R167, R168, R245, R278, R287) -/
def Obligations.EngineRowsStageTheirOutcomeAndCharge : Prop :=
  ∀ (s : State) (c n ser : Nat) (env : RunEnv) (x : Cmd) (a : Attempt), s.up = true → s.cmd c n ser = some x → x.att = some a → x.phase = .running →
    ∀ (i : Instr) (is : List Byte → Bool) (run : Job → Outcome_),
    ((i = .tile c n ser env ∧ is = isOp opTile ∧ run = tileOn s) ∨ (i = .attnFwd c n ser env ∧ is = isOp opAttnFwd ∧ run = attnFwdRun)
      ∨ (i = .attnBwd c n ser env ∧ is = isOp opAttnBwd ∧ run = attnBwdRun) ∨ (i = .merge c n ser env ∧ is = isOp opMerge ∧ run = mergeRun)
      ∨ (i = .elem c n ser env ∧ is = isOp opElem ∧ run = elemRun) ∨ (i = .route c n ser env ∧ is = isOp opRoute ∧ run = routeRun)
      ∨ (i = .gather c n ser env ∧ is = isOp opGather ∧ run = gatherRun) ∨ (i = .scatter c n ser env ∧ is = isOp opScatter ∧ run = scatterRun)
      ∨ (i = .sample c n ser env ∧ is = isSample false ∧ run = sampleRun) ∨ (i = .sampleVerify c n ser env ∧ is = isSample true ∧ run = verifyRun)
      ∨ (i = .seqOpen c n ser env ∧ is = isSeq 0 ∧ run = seqRun) ∨ (i = .seqClose c n ser env ∧ is = isSeq 1 ∧ run = seqRun)
      ∨ (i = .seqAccept c n ser env ∧ is = isSeq 2 ∧ run = seqRun) ∨ (i = .seqRollBack c n ser env ∧ is = isSeq 3 ∧ run = seqRun)
      ∨ (i = .seqPrefixMatch c n ser env ∧ is = isSeq 4 ∧ run = seqRun)) →
    (is x.desc = false → exec i s = .next (watch s))
    ∧ (is x.desc = true → attemptPoison s c x a = [] →
        exec i s = .next (watch ((accountAttempt s c x true).setCmd c n { x with phase := .computed, out := some (run (jobOf s c x a)), att := some { a with t1 := s.time } }))
        ∧ ∀ u cls ns q, u = accountAttempt s c x true → (s.ctx c).st ≠ .free → opClass (dOpcode x.desc) = some cls → ns = (s.time - a.t0).toNat →
          q = ns * 65536 + tblGet 0 (s.ctx c).rem cls →
          u = { s with ctxs := u.ctxs } ∧ (∀ d, d ≠ c → u.ctx d = s.ctx d)
          ∧ ∃ w, w = s.regField (kWin c 4) 0 16 ∧ u.ctx c = { s.ctx c with
              vt := tblSet 0 (s.ctx c).vt cls (tblGet 0 (s.ctx c).vt cls + BitVec.ofNat 64 (q / w)), rem := tblSet 0 (s.ctx c).rem cls (q % w),
              cyc := tblSet 0 (s.ctx c).cyc cls (tblGet 0 (s.ctx c).cyc cls + BitVec.ofNat 64 (ns * classMHz s cls a.inst / 1000)),
              model := (s.ctx c).model + Config.attemptEnergy x.desc ns })
    ∧ (is x.desc = true → attemptPoison s c x a ≠ [] →
        exec i s = .next (watch (consumed s c n x a (attemptPoison s c x a) env.rereadsClean)))

/-- MOMENTUM, ADAPTIVE, SIGNMOM, ORTHO_PREP, ORTHO_ITER, ORTHO_APPLY, KRON_STATS, KRON_ROOT, KRON_APPLY, NORM and DECIDE, each on a running UPDATE of its own rule with no poisoned input: the attempt ends with what the update computes from the contents committed at dispatch, staged; when the rule is elementwise, PROVISIONAL is set and the result is OK, the command waits for its decision from now; otherwise it is computed. The context is charged for the engine time, as every attempt that ends. A row of another rule changes nothing. Nothing but the command and that charge changes. (R135, R311, R319, R328, R329) -/
def Obligations.UpdateRowsAndTheirDecision : Prop :=
  ∀ (s : State) (c n ser : Nat) (env : RunEnv) (x : Cmd) (a : Attempt), s.up = true → s.cmd c n ser = some x → x.att = some a → x.phase = .running →
    ∀ (i : Instr) (rule : Nat),
    ((i = .momentum c n ser env ∧ rule = ruleMomentum) ∨ (i = .adaptive c n ser env ∧ rule = ruleAdaptive) ∨ (i = .signmom c n ser env ∧ rule = ruleSignmom)
      ∨ (i = .orthoPrep c n ser env ∧ rule = rulePrep) ∨ (i = .orthoIter c n ser env ∧ rule = ruleIter) ∨ (i = .orthoApply c n ser env ∧ rule = ruleApply)
      ∨ (i = .kronStats c n ser env ∧ rule = ruleStats) ∨ (i = .kronRoot c n ser env ∧ rule = ruleRoot) ∨ (i = .kronApply c n ser env ∧ rule = ruleKron)
      ∨ (i = .norm c n ser env ∧ rule = ruleNorm) ∨ (i = .decideStep c n ser env ∧ rule = ruleDecide)) →
    (isRule rule x.desc = false → exec i s = .next (watch s))
    ∧ (isRule rule x.desc = true → attemptPoison s c x a = [] → ∀ y, y = { x with phase := .computed, out := some (updateRun (jobOf s c x a)), att := some { a with t1 := s.time } } →
        (¬(isElemRule rule = true ∧ upProvisional (x.param.getD []) = true) → exec i s = .next (watch ((accountAttempt s c x true).setCmd c n y)))
        ∧ (isElemRule rule = true → upProvisional (x.param.getD []) = true →
            ((updateRun (jobOf s c x a)).status ≠ .ok → exec i s = .next (watch ((accountAttempt s c x true).setCmd c n y)))
            ∧ ((updateRun (jobOf s c x a)).status = .ok → 
                exec i s = .next (watch (((accountAttempt s c x true).setCmd c n y).setCmd c n { y with phase := .deciding, joined := s.time })))))
    ∧ (isRule rule x.desc = true → attemptPoison s c x a ≠ [] →
        exec i s = .next (watch (consumed s c n x a (attemptPoison s c x a) env.rereadsClean)))

/-- A running MOVE or RESHARD with no poisoned input and no far object ends its attempt with its outcome staged and the context charged for its engine time, and nothing else changes. A host failure on a page of a MOVE's range (a failed read, or HOST_COMPLETION_TIMEOUT for a source page) is counted, and kills the attempt with cause host fault, or at the third that meets it on the page ends it with HOST_FAULT. A REDUCE whose tree the configuration does not define ends with FORMAT at offset 56; else it contributes to its collective and, while that goes on, waits for it with its engine time ended and charged. A row that does not fit the running command changes nothing. (R135, R221, R222, R357, R363, R383, R438) -/
def Obligations.MoveReshardReduceAttempts : Prop :=
  ∀ (s : State) (c n ser : Nat) (env : RunEnv) (x : Cmd) (a : Attempt), s.up = true → s.cmd c n ser = some x → x.att = some a → x.phase = .running →
    (isOp opMove x.desc = false → exec (.move c n ser env) s = .next (watch s)
      ∧ ∀ page, exec (.hostCompletionTimeout c n ser page) s = .next (watch s))
    ∧ (isOp opReshard x.desc = false → exec (.reshard c n ser env) s = .next (watch s))
    ∧ (isOp opReduce x.desc = false → exec (.reduce c n ser env) s = .next (watch s))
    ∧ (isOp opMove x.desc = true → attemptPoison s c x a = [] → faultPage x.desc env = none →
        (moveFarPackets s (jobOf s c x a) (refOf c n x) x.kills).2 = [] →
        exec (.move c n ser env) s = .next (watch ((accountAttempt s c x true).setCmd c n { x with
          phase := .computed, out := some (moveRun (jobOf s c x a) 0 0), att := some { a with t1 := s.time } })))
    ∧ (∀ p, isOp opMove x.desc = true → attemptPoison s c x a = [] → faultPage x.desc env = some p →
        ∃ u, (u = s.draw.2.bump 0x10 1 ∨ u = s.draw.2.bump 0x18 1) ∧ exec (.move c n ser env) s = .next (watch (hostFault u c n x p)))
    ∧ (∀ page, isOp opMove x.desc = true → mvSrcHost x.desc = true → pageIn (mvSrc x.desc) (mvBytes x.desc) page = true →
        (∀ k y, k = tblGet 0 x.hostFaults page + 1 → y = { x with hostFaults := tblSet 0 x.hostFaults page k } →
          (k < 3 → exec (.hostCompletionTimeout c n ser page) s = .next (watch (killCmd (s.bump 0x18 1) c n y .hostFault)))
          ∧ (3 ≤ k → exec (.hostCompletionTimeout c n ser page) s = .next (watch ((accountAttempt ((s.bump 0x18 1).setCmd c n y) c y true).setCmd c n { y with
              phase := .computed, out := some (endOut .hostFault noField), att := some { a with t1 := s.time } })))))
    ∧ (isOp opReshard x.desc = true → attemptPoison s c x a = [] → reshardFarPackets s a.snap c (x.param.getD []) (refOf c n x) x.kills = [] →
        exec (.reshard c n ser env) s = .next (watch ((accountAttempt s c x true).setCmd c n { x with
          phase := .computed, out := some (reshardRun (jobOf s c x a)), att := some { a with t1 := s.time } })))
    ∧ (isOp opReduce x.desc = true → attemptPoison s c x a = [] →
        (treeOf s (rdTree x.desc) = none → exec (.reduce c n ser env) s = .next (watch ((accountAttempt s c x true).setCmd c n { x with
          phase := .computed, out := some (endOut .format 56), att := some { a with t1 := s.time } })))
        ∧ (∀ e, treeOf s (rdTree x.desc) = some e → s.fab.colls.find? (fun k => k.isOf (rdTree x.desc) (rdSeq x.desc) (ctxShareGroup s c) && k.has (refOf c n x)) = none →
            exec (.reduce c n ser env) s = .next (watch (awaitPeers (enterTerm s ((liveColl s (rdTree x.desc) (rdSeq x.desc) (ctxShareGroup s c)).getD
              (newColl s (rdTree x.desc) (rdSeq x.desc) (ctxShareGroup s c) e.home (rdElems x.desc) (rdRop x.desc) (rdFmt x.desc) (reduceExact s x.desc)))
              e (refOf c n x) x a.snap) (refOf c n x))))
        ∧ (∀ e k, treeOf s (rdTree x.desc) = some e → s.fab.colls.find? (fun k => k.isOf (rdTree x.desc) (rdSeq x.desc) (ctxShareGroup s c) && k.has (refOf c n x)) = some k →
            k.ended = true → exec (.reduce c n ser env) s = .next (watch ((accountAttempt s c x true).setCmd c n { x with
              phase := .computed, out := some (reduceOut k c x.desc a.snap), att := some { a with t1 := s.time } }))))

/-- For a running WAIT, SIGNAL or LATCH x of ring n. WAIT commits OK when its counter is at least VALUE, else nothing changes. SIGNAL adds INC to its counter and commits OK. ACQUIRE and TRY of a Free latch take it with OK, of a Broken one with BROKEN_LATCH; of one held by another context TRY ends LATCH_BUSY and ACQUIRE joins the waiting list; an ACQUIRE of a latch its own context holds ends LATCH_BUSY. RELEASE by the holder passes the latch to the first waiter, or frees it, and commits OK; by another ends NOT_HOLDER. A row of another kind changes nothing. WAIT_LATCH_TIMEOUT ends a waiting WAIT or ACQUIRE that has a limit NOT_READY and takes it off the waiting list; without a limit nothing happens. (R140, R145, R178, R179, R180) -/
def Obligations.FencesCompleteByTheirRules : Prop :=
  ∀ (s : State) (c n ser : Nat) (x : Cmd), s.up = true → s.cmd c n ser = some x →
    (x.phase = .running →
      (dOpcode x.desc = opWait → (waitValue x.desc ≤ (s.evctr c (waitCtr x.desc)).toNat →
          exec (.wait c n ser) s = .next (watch (commitFence s c n x .ok)))
        ∧ ((s.evctr c (waitCtr x.desc)).toNat < waitValue x.desc → exec (.wait c n ser) s = .next (watch s)))
      ∧ (dOpcode x.desc = opSignal → exec (.signal c n ser) s = .next (watch (commitFence (evcInc s c (sigCtr x.desc) (sigAmount x.desc)) c n x .ok)))
      ∧ (dOpcode x.desc ≠ opWait → exec (.wait c n ser) s = .next (watch s))
      ∧ (dOpcode x.desc ≠ opSignal → exec (.signal c n ser) s = .next (watch s))
      ∧ (dOpcode x.desc ≠ opLatch → exec (.latchAcquire c n ser) s = .next (watch s) ∧ exec (.latchTry c n ser) s = .next (watch s)
          ∧ exec (.latchRelease c n ser) s = .next (watch s))
      ∧ (dOpcode x.desc = opLatch → ∀ l, l = latchNum x.desc →
        (latchOp x.desc = 0 →
          ((s.latch l).st = .free → exec (.latchAcquire c n ser) s = .next (watch (commitFence (s.setLatch l { s.latch l with st := .held c }) c n x .ok)))
          ∧ ((s.latch l).st = .broken → exec (.latchAcquire c n ser) s = .next (watch (commitFence (s.setLatch l { s.latch l with st := .held c }) c n x .brokenLatch)))
          ∧ ((s.latch l).st = .held c → exec (.latchAcquire c n ser) s = .next (watch (finishCmd s c n x .latchBusy false noField)))
          ∧ (∀ h, (s.latch l).st = .held h → h ≠ c → exec (.latchAcquire c n ser) s = .next (watch
              ((s.setLatch l { s.latch l with waiters := (s.latch l).waiters ++ [refOf c n x] }).setCmd c n { x with phase := .latchWait, joined := s.time })))
          ∧ exec (.latchTry c n ser) s = .next (watch s) ∧ exec (.latchRelease c n ser) s = .next (watch s))
        ∧ (latchOp x.desc = 1 →
          ((s.latch l).st = .free → exec (.latchTry c n ser) s = .next (watch (commitFence (s.setLatch l { s.latch l with st := .held c }) c n x .ok)))
          ∧ ((s.latch l).st = .broken → exec (.latchTry c n ser) s = .next (watch (commitFence (s.setLatch l { s.latch l with st := .held c }) c n x .brokenLatch)))
          ∧ (∀ h, (s.latch l).st = .held h → exec (.latchTry c n ser) s = .next (watch (finishCmd s c n x .latchBusy false noField)))
          ∧ exec (.latchAcquire c n ser) s = .next (watch s))
        ∧ (latchOp x.desc = 2 →
          ((s.latch l).st ≠ .held c → exec (.latchRelease c n ser) s = .next (watch (finishCmd s c n x .notHolder false noField)))
          ∧ ((s.latch l).st = .held c → (s.latch l).waiters = [] →
              exec (.latchRelease c n ser) s = .next (watch (commitFence (s.setLatch l { s.latch l with st := .free }) c n x .ok)))
          ∧ (∀ w ws y, (s.latch l).st = .held c → (s.latch l).waiters = w :: ws → s.cmd w.ctx w.ring w.serial = some y →
              exec (.latchRelease c n ser) s = .next (watch (commitFence (commitFence
                (s.setLatch l { s.latch l with st := .held w.ctx, waiters := ws }) w.ctx w.ring y .ok) c n x .ok))))))
    ∧ ((fenceWaits x = false ∨ fenceTimeout s c n x.desc = none) → exec (.waitLatchTimeout c n ser) s = .next (watch s))
    ∧ (fenceWaits x = true → (fenceTimeout s c n x.desc).isSome = true →
        (dOpcode x.desc = opWait → exec (.waitLatchTimeout c n ser) s = .next (watch (finishCmd s c n x .notReady false noField)))
        ∧ (dOpcode x.desc = opLatch → ∀ l, l = fld x.desc 32 2 → exec (.waitLatchTimeout c n ser) s = .next (watch (finishCmd
            (s.setLatch l { s.latch l with waiters := (s.latch l).waiters.filter (fun w => w != refOf c n x) }) c n x .notReady false noField))))

/-- An operation written to OBJ_CTRL while one runs sets LAST_ERR to NOT_READY and does nothing. CREATE: NOT_READY for a context not Active or Frozen, FORMAT for an existing number, LENGTH for a size outside 1 to 524,288, FORMAT for an undefined STACK, QUOTA at 4,194,304 objects; else a new storage with the written attributes under the next storage number, and nothing allocated unless it reserves at admission. DESTROY: NO_OBJECT, NOT_READY while a command or steering set names it, else the number is gone. SET_CFG, PROMOTE, EVICT and MAP by their checks, each with LAST_ERR OK; MAP makes an alias of a live context's object of the same function. RESIZE changes the size and drops the exports. A failed operation changes LAST_ERR alone. OBJ_OPERATION_DONE ends the running operation. (R188, R189, R191, R192, R193, R224) -/
def Obligations.ObjectOperationsCheckThenAct : Prop :=
  ∀ (s : State) (f c : Nat), s.up = true →
    (Shows s f c →
      ((s.ctx c).objOp.isSome = true → ∀ i ∈ [Instr.objCreate f, .objDestroy f, .objResize f, .objSetCfg f, .objPromote f, .objEvict f, .objMap f],
        exec i s = .next (watch (wakeSource (s.setCtx c { s.ctx c with objErr := .notReady }) 1)))
      ∧ ((s.ctx c).objOp = none → ∀ o n fail, o = objSel s c → n = objSize s c →
          fail = (fun st => Host.Outcome.next (watch (wakeSource (s.setCtx c { s.ctx c with objErr := st }) 1))) →
        (ctxLives s c = false → exec (.objCreate f) s = fail .notReady)
        ∧ (ctxLives s c = true → objExists s.com c o = true → exec (.objCreate f) s = fail .format)
        ∧ (ctxLives s c = true → objExists s.com c o = false →
          (n < 1 ∨ 524288 < n → exec (.objCreate f) s = fail .length)
          ∧ (1 ≤ n → n ≤ 524288 →
            (stackDefined (objStack s c) = false → exec (.objCreate f) s = fail .format)
            ∧ (stackDefined (objStack s c) = true → 4194304 ≤ objectCount s → exec (.objCreate f) s = fail .quota)
            ∧ (stackDefined (objStack s c) = true → objectCount s < 4194304 → reservesAtAdmission s c = false →
                ∀ t b, b = Body.mk c o n (objPlace s c) (objWritable s c) (objReplica s c) (objStack s c) false false false true →
                t = { s with nextSid := s.nextSid + 1, com := { s.com with bodies := tblIns s.com.bodies s.nextSid b, objs := tblIns s.com.objs (objKey c o) { sid := s.nextSid, alias_ := false } } } →
                exec (.objCreate f) s = .next (watch (wakeSource (t.setCtx c { s.ctx c with objErr := .ok }) 1)))))
        ∧ (objExists s.com c o = false → exec (.objDestroy f) s = fail .noObject)
        ∧ (objExists s.com c o = true → (objNamed s c o = true ∨ objSteers s c o = true) → exec (.objDestroy f) s = fail .notReady)
        ∧ (objExists s.com c o = true → objNamed s c o = false → objSteers s c o = false → ∀ t, t = destroyNumber s c o →
            ∃ u, u = t.setCtx c { t.ctx c with objOp := some { op := 2, a := o, b := 0 } }
              ∧ exec (.objDestroy f) s = .next (watch (wakeSource (u.setCtx c { u.ctx c with objErr := .ok }) 1)))
        ∧ (∀ st, ownBody s c o = .inr st → exec (.objResize f) s = fail st ∧ exec (.objSetCfg f) s = fail st)
        ∧ (∀ sid b, ownBody s c o = .inl (sid, b) →
          (n < 1 ∨ 524288 < n → exec (.objResize f) s = fail .length)
          ∧ (1 ≤ n → n ≤ 524288 → (n < b.size ∧ objNamed s c o = true) ∨ objSteers s c o = true → exec (.objResize f) s = fail .notReady)
          ∧ (b.size ≤ n → 1 ≤ n → n ≤ 524288 → b.reserved = false → objSteers s c o = false →
              ∀ t, t = dropExports (s.setCom { s.com with bodies := tblIns s.com.bodies sid { b with size := n } }) (fun e => e.ctx == c && e.obj == o) →
              ∃ u, u = t.setCtx c { t.ctx c with objOp := some { op := 3, a := o, b := n } }
                ∧ exec (.objResize f) s = .next (watch (wakeSource (u.setCtx c { u.ctx c with objErr := .ok }) 1)))
          ∧ (hasGrans s sid = true → (objReplica s c ≠ b.replica ∨ ¬(objPlace s c = 2 ↔ b.place = 2)) → exec (.objSetCfg f) s = fail .format)
          ∧ (hasGrans s sid = false → stackDefined (objStack s c) = true → ∀ y,
              y = { b with place := objPlace s c, writable := objWritable s c, replica := objReplica s c, stack := objStack s c } →
              exec (.objSetCfg f) s = .next (watch (wakeSource (State.setCtx { s with com := { s.com with
                bodies := tblIns s.com.bodies sid y } } c { s.ctx c with objErr := .ok }) 1))))
        ∧ (∀ st, moveRange s c = .inr st → exec (.objPromote f) s = fail st ∧ exec (.objEvict f) s = fail st)
        ∧ (∀ sid, moveRange s c = .inl sid →
            (∃ t, t = (rangeGrans s c sid).foldl askPromote s ∧ exec (.objPromote f) s = .next (watch (wakeSource (t.setCtx c { t.ctx c with objErr := .ok }) 1)))
            ∧ (∃ t, t = (rangeGrans s c sid).foldl askEvict s ∧ exec (.objEvict f) s = .next (watch (wakeSource (t.setCtx c { t.ctx c with objErr := .ok }) 1))))
        ∧ (objExists s.com c o = true → exec (.objMap f) s = fail .format)
        ∧ (objExists s.com c o = false → (ctxOwnedBy s f (objMapSrc s c) = false ∨ ctxLives s (objMapSrc s c) = false) → exec (.objMap f) s = fail .notReady)
        ∧ (∀ sid b, objExists s.com c o = false → ctxOwnedBy s f (objMapSrc s c) = true → ctxLives s (objMapSrc s c) = true →
            objBody s.com (objMapSrc s c) (objMapObj s c) = some (sid, b, false) → objectCount s < 4194304 →
            exec (.objMap f) s = .next (watch (wakeSource (State.setCtx { s with com := { s.com with
              objs := tblIns s.com.objs (objKey c o) { sid := sid, alias_ := true } } } c { s.ctx c with objErr := .ok }) 1)))))
    ∧ ((s.ctx c).objOp.isSome = true → exec (.objOperationDone c) s = .next (watch (s.setCtx c { s.ctx c with objOp := none })))
    ∧ ((s.ctx c).objOp = none → exec (.objOperationDone c) s = .next (watch s))

/-- MIGRATION_COPY_DONE of a granule with a migration: a Silo granule is now in Loft at the destination, without sectors, and MIG promotions count one more; a Loft granule is in Silo with the sectors compressed, and evictions count one more; the old copy stays while dispatched commands cover it; without a migration nothing happens. SOURCE_FREE frees exactly the old copies of the granule that no command reads. MIGRATION_PRESSURE does nothing while the stack's free share is at or above the low mark; HEAT_PROMOTION starts the counts anew. REPAIR_COMPLETE of a granule not in repair does nothing; of one in repair each poisoned unit takes its replica's bytes unless the replica's unit is poisoned, and the repair is counted. MIG_CFG_WRITE is refused (bit 0 of MIG status) where the high mark is not above the low one; CART_OSTD_WRITE (bit 1) outside 1 to 1,024; else the register takes the value. (R209, R211, R218, R223, R225) -/
def Obligations.MigrationAndRepairMoveGranules : Prop :=
  ∀ (s : State) (a : Agent) (sid g : Nat), s.up = true →
    (tblFind s.grans (granKey sid g) = none →
      exec (.migrationCopyDone sid g) s = .next (watch s) ∧ exec (.repairComplete sid g) s = .next (watch s))
    ∧ (∀ x, tblFind s.grans (granKey sid g) = some x →
      (x.mig = none → exec (.migrationCopyDone sid g) s = .next (watch s))
      ∧ (∀ m, x.mig = some m → Ends (exec (.migrationCopyDone sid g) s) (fun t =>
          t.grans = tblIns s.grans (granKey sid g) (if x.tier = .silo then { x with tier := .loft, heap := m.dst, sectors := 0, mig := none }
            else { x with tier := .silo, heap := m.dst, sectors := m.sectors, mig := none })
          ∧ t.olds = (if granReaders s (granKey sid g) = [] then s.olds
              else OldCopy.mk (granKey sid g / 2 ^ 19) (granKey sid g % 2 ^ 19) x.tier x.heap x.sectors (granReaders s (granKey sid g)) :: s.olds)
          ∧ t.com = s.com ∧ t.rings = s.rings ∧ t.ctxs = s.ctxs))
      ∧ (x.repairing = false → exec (.repairComplete sid g) s = .next (watch s))
      ∧ (x.repairing = true → exec (.repairComplete sid g) s = .next (watch (releaseRepaired
          ((rehome ((s.com.poison.filter (fun u => u / 2 ^ 15 == granKey sid g)).foldl mendUnit (s.setGran (granKey sid g) { x with repairing := false }))
            (granKey sid g)).bump kPsnRepair 1)))))
    ∧ (∀ u, s.replPoison.contains u = true → mendUnit s u = s)
    ∧ (∀ u, s.replPoison.contains u = false → mendUnit s u = { s with com := { s.com with
        mem := memCopy s.com.mem s.replMem (64 * u) 64, poison := s.com.poison.filter (fun v => v != u) } })
    ∧ exec (.sourceFree sid g) s = .next (watch { s with olds := s.olds.filter (fun o => !(o.sid == sid && o.gran == g && o.readers.isEmpty)) })
    ∧ (∀ n, s.regField 0xC000 0 8 ≤ loftFree s n → exec (.migrationPressure n) s = .next (watch s))
    ∧ (∀ n, loftFree s n < s.regField 0xC000 0 8 →
        exec (.migrationPressure n) s = .next (watch (pressureEvict n (s.regField 0xC000 8 8) (s.grans.length + 1) s)))
    ∧ (s.regField 0xC000 24 1 = 0 → exec .heatPromotion s = .next (watch { s with grans := s.grans.map (fun e => (e.1, { e.2 with reads := 0 })) }))
    ∧ (Ends (exec .heatPromotion s) (fun t => ∀ e ∈ t.grans, e.2.reads = 0))
    ∧ (Reaches s a → ∀ v : Word,
        (v.toNat / 2 ^ 8 % 256 ≤ v.toNat % 256 → exec (.migCfgWrite a v) s = .next (watch ((seenFrom s a).setBits 0xC004 1)))
        ∧ (v.toNat % 256 < v.toNat / 2 ^ 8 % 256 → exec (.migCfgWrite a v) s = .next (watch ((seenFrom s a).setReg 0xC000 (v &&& 0x1FFFFFF#32))))
        ∧ ∀ q, q < 16384 →
          ((v.toNat % 2048 = 0 ∨ 1024 < v.toNat % 2048) → exec (.cartOstdWrite a q v) s = .next (watch ((seenFrom s a).setBits 0xC004 2)))
          ∧ (v.toNat % 2048 ≠ 0 → v.toNat % 2048 ≤ 1024 →
              exec (.cartOstdWrite a q v) s = .next (watch ((seenFrom s a).setReg (0x10000 + 4 * q) (BitVec.ofNat 32 (v.toNat % 2048))))))

/-- SEQ_CANCEL of slot n: with a cancellation running, the BUSY refusal bit (bit 2 of SEQ_CANCEL_STATUS) is set; a slot that is Free or another context's ends SLOT_STATE, one already Cancelled ends OK; else the slot is Cancelled and R262 steps 1 and 2 follow. CANCEL_COMPLETE ends a running cancellation with OK and detaches the slot's map. MAP_RELEASE drops the references of the oldest queued map and frees its sheaves; DRIFT_GROUP_FREE acts only on a group queued for it. INSTALL and REMOVE are ignored while an operation runs; INSTALL that fails a check sets its status, one that passes binds the set to the index; REMOVE of a set of the context that no Open sequence names unbinds it and waits for the commands that may use it; STEER_OPERATION_DONE ends the operation once they are final. RNG_SEED_LO is held, and RNG_SEED_HI then sets all 64 bits (or keeps the low half when none was held). (R229, R238, R258, R260, R262, R297) -/
def Obligations.SlotSteeringAndSeedOperations : Prop :=
  ∀ (s : State) (f c n : Nat) (v : Word), s.up = true → n < 2 ^ 17 →
    (Shows s f c →
      ((s.ctx c).cancel.isSome = true → exec (.seqCancel f n) s = .next (watch (wakeSource (s.setBits (kWin c 0x401C) 4) 1)))
      ∧ ((s.ctx c).cancel = none →
        ((s.seq n).st = .free ∨ (s.seq n).owner ≠ c →
          exec (.seqCancel f n) s = .next (watch (wakeSource (s.setCtx c { s.ctx c with cancelRes := .slotState }) 1)))
        ∧ ((s.seq n).st = .cancelled → (s.seq n).owner = c →
          exec (.seqCancel f n) s = .next (watch (wakeSource (s.setCtx c { s.ctx c with cancelRes := .ok }) 1)))
        ∧ ((s.seq n).st = .open_ → (s.seq n).owner = c → (openCmds s c) = [] →
          exec (.seqCancel f n) s = .next (watch (wakeSource
            ((s.setSeq n { s.seq n with st := .cancelled }).setCtx c { s.ctx c with cancel := some n }) 1))))
      ∧ ((s.ctx c).steerOp.isSome = true → exec (.steerInstall f) s = .next (watch (wakeSource s 1)) ∧ exec (.steerRemove f) s = .next (watch (wakeSource s 1)))
      ∧ ((s.ctx c).steerOp = none → ∀ k, k = steerSel s c →
        (∀ st, installCheck s c = .inr st → exec (.steerInstall f) s = .next (watch (wakeSource (s.setCtx c { s.ctx c with steerErr := st }) 1)))
        ∧ (∀ x, installCheck s c = .inl x → exec (.steerInstall f) s = .next (watch (wakeSource
            (State.setCtx { s with com := { s.com with sets := tblIns s.com.sets k x } } c
              { s.ctx c with steerErr := .ok, steerOp := some { op := 1, a := k, b := 0 } }) 1)))
        ∧ (tblFind s.com.sets k = none → exec (.steerRemove f) s = .next (watch (wakeSource (s.setCtx c { s.ctx c with steerErr := .notReady }) 1)))
        ∧ (∀ x, tblFind s.com.sets k = some x → (x.ctx ≠ c ∨ setNamed s k = true) →
            exec (.steerRemove f) s = .next (watch (wakeSource (s.setCtx c { s.ctx c with steerErr := .notReady }) 1)))
        ∧ (∀ x, tblFind s.com.sets k = some x → x.ctx = c → setNamed s k = false → ∀ y,
            y = { s.ctx c with steerErr := .ok, steerOp := some { op := 2, a := k, b := 0 }, steerWaits := steeredNow s } →
            exec (.steerRemove f) s = .next (watch (wakeSource (State.setCtx { s with com := { s.com with sets := tblDel s.com.sets k } } c y) 1))))
      ∧ exec (.rngSeedLoWrite f v) s = .next (watch (wakeSource (s.setCtx c { s.ctx c with seedLo := some v }) 1))
      ∧ (∀ lo, (s.ctx c).seedLo = some lo →
          exec (.rngSeedHiWrite f v) s = .next (watch (wakeSource (s.setCtx c { s.ctx c with seed := v ++ lo, seedLo := none }) 1)))
      ∧ ((s.ctx c).seedLo = none → exec (.rngSeedHiWrite f v) s
          = .next (watch (wakeSource (s.setCtx c { s.ctx c with seed := v ++ BitVec.ofNat 32 (s.ctx c).seed.toNat, seedLo := none }) 1))))
    ∧ ((s.ctx c).cancel = none → exec (.cancelComplete c) s = .next (watch s))
    ∧ (∀ k, (s.ctx c).cancel = some k → Ends (exec (.cancelComplete c) s) (fun t =>
        t.ctxs = tblSet Ctx.reset s.ctxs c { s.ctx c with cancel := none, cancelRes := .ok } ∧ t.rings = s.rings
        ∧ t.com = (if (s.seq k).st = .cancelled ∧ (s.seq k).owner = c then detachMap s k else s).com))
    ∧ (s.relQueue = [] → exec .mapRelease s = .next (watch s))
    ∧ (∀ d l, s.relQueue = d :: l → exec .mapRelease s
        = .next (watch (d.sheaves.foldl freeSheaf (d.stooks.foldl (fun t b => dropRef t b.2) { s with relQueue := l }))))
    ∧ (s.groupFree.contains c = false → exec (.driftGroupFree c) s = .next (watch s))
    ∧ (s.groupFree.contains c = true → exec (.driftGroupFree c) s
        = .next (watch (freeGroup (0x8000 + c) (s.nodes.length + 1) { s with groupFree := setDel s.groupFree c })))
    ∧ ((s.ctx c).steerOp = none ∨ (∃ r ∈ (s.ctx c).steerWaits, isFinal s r = false) → exec (.steerOperationDone c) s = .next (watch s))
    ∧ ((s.ctx c).steerOp.isSome = true → (∀ r ∈ (s.ctx c).steerWaits, isFinal s r = true) →
        exec (.steerOperationDone c) s = .next (watch (s.setCtx c { s.ctx c with steerOp := none, steerWaits := [] })))

/-- For port p (below 36). PORT_CTRL_WRITE stores EN alone: EN 0 ends the session of a port that is not Off, which becomes Off; EN 1 takes an Off port to Training and changes no other state. TRAINING_COMPLETE and TRAINING_TIMEOUT act in Training only: Ident with counters and credits at zero, or a retrain counted and Down. DOWN_RETRY takes a Down port with its reference clock to Training. LINK: an identity in Ident without key agreement names the peer and takes the port to Up; READY in Up or Active records the peer's readiness; an identity elsewhere changes nothing. PORT_ACTIVATE of an Up port that the plan enables: a peer of another group, or one that reports no node, is counted; a ready peer makes it Active (the measured round trip is a free value, log entry 1). RETRAIN_LOCK makes a retraining port Active with the replay at the oldest unacknowledged flit, RETRAIN_TIMEOUT ends its session Down. CRV_REF_CLK_LOSS ends every session that is not Off. (R335, R343, R345, R346, R347, R532) -/
def Obligations.PortStatesFollowTheStateTable : Prop :=
  ∀ (s : State) (p : Nat) (x : Port), s.up = true → p < 36 → s.port p = x →
    (∀ (a : Agent) (v : Word) (t : State), Reaches s a → t = (seenFrom s a).setReg (kPort p 4) (BitVec.ofNat 32 (v.toNat % 2)) → t.port p = x →
      (v.toNat % 2 = 0 → x.st = .off → exec (.portCtrlWrite a p v) s = .next (watch t))
      ∧ (v.toNat % 2 = 0 → x.st ≠ .off → exec (.portCtrlWrite a p v) s = .next (watch (endSession t p .off)))
      ∧ (v.toNat % 2 = 1 → x.st = .off → exec (.portCtrlWrite a p v) s = .next (watch (t.setPort p { x with st := .training })))
      ∧ (v.toNat % 2 = 1 → x.st ≠ .off → exec (.portCtrlWrite a p v) s = .next (watch t)))
    ∧ (x.st ≠ .training → exec (.trainingComplete p) s = .next (watch s) ∧ exec (.trainingTimeout p) s = .next (watch s))
    ∧ (x.st = .training → exec (.trainingTimeout p) s = .next (watch (endSession (s.bump16 (kPort p 0x30) 1) p .down))
        ∧ (encBit s p = false → ∃ y, y = { x with
              st := .ident, txSeq := 0, rxSeq := 0, sendNext := 0, retry := [], rx := [], nak := false, sent := [0, 0, 0],
              cred := [0, 0, 0], ret := [0, 0, 0], txFrame := 0, rxFrame := 0, narrow := decide (9 - x.retired.length < 8), enc := false }
            ∧ Ends (exec (.trainingComplete p) s) (fun t => ∃ u : State, u = s.setPort p y ∧ t = watch (sendLink u p (.identity (reportedNode u) p (groupId u))))))
    ∧ (x.st = .down → s.pins.crvRef = true → exec (.downRetry p) s = .next (watch (s.setPort p { x with st := .training })))
    ∧ (x.st ≠ .down ∨ s.pins.crvRef = false → exec (.downRetry p) s = .next (watch s))
    ∧ (∀ node port group, x.st = .ident → x.agree = none → exec (.linkPacket p (.identity node port group)) s
        = .next (watch (enterUp (s.setPort p { x with peerNode := if node = 0xFFFF then none else some node, peerPort := port, peerGroup := group }) p)))
    ∧ (∀ node port group, x.st ≠ .ident → exec (.linkPacket p (.identity node port group)) s = .next (watch s))
    ∧ (∀ on, x.st = .up ∨ x.st = .active → exec (.linkPacket p (.ready on)) s = .next (watch (s.setPort p { x with peerReady := on })))
    ∧ (x.st ≠ .up ∨ inForce s = none ∨ portEnabled s p = false → exec (.portActivate p) s = .next (watch s))
    ∧ (x.st = .up → (inForce s).isSome = true → portEnabled s p = true →
        ((x.peerGroup ≠ groupId s ∨ x.peerNode = none) → exec (.portActivate p) s = .next (watch (s.bump16 0x20050 1)))
        ∧ (x.peerGroup = groupId s → x.peerNode ≠ none → x.peerReady = false → exec (.portActivate p) s = .next (watch s))
        ∧ (x.peerGroup = groupId s → x.peerNode ≠ none → x.peerReady = true →
            exec (.portActivate p) s = .next (watch (s.draw.2.setPort p { x with st := .active, rtt := s.draw.1 % 65536 }))))
    ∧ (x.st = .retrain → exec (.retrainTimeout p) s = .next (watch (endSession s p .down))
        ∧ exec (.retrainLock p) s = .next (watch (s.setPort p { x with
            st := .active, sendNext := (x.txSeq + 2 ^ 32 - x.retry.length) % 2 ^ 32, replayFlag := true, replayEnd := some x.txSeq })))
    ∧ (x.st ≠ .retrain → exec (.retrainTimeout p) s = .next (watch s) ∧ exec (.retrainLock p) s = .next (watch s))
    ∧ ((∀ q < 36, (s.port q).st = .off) → exec .crvRefClkLoss s = .next (watch { s with pins := { s.pins with crvRef := false } })
        ∧ exec .crvRefClkReturn s = .next (watch { s with pins := { s.pins with crvRef := true } }))
    ∧ exec .crvRefClkLoss s = .next (watch ((List.range 36).foldl (fun t q => if (t.port q).st = .off then t else endSession t q .down)
        { s with pins := { s.pins with crvRef := false } }))

/-- For port p (below 36). LANE_ROTATION_START and LANE_ROTATE_RETRY ask for a rotation (ROTATE_REQ of the stalest lane, for the frame 128 ahead) exactly when the port is Active, ranks lower, a period is set, its spare is calibrated and no request or swap is open; else nothing. LANE_ROTATION_SWITCH puts the spare in the agreed lane's place and the lane becomes the spare, not calibrated. LANE_CALIBRATION_DONE marks the spare calibrated now. LANE_RETIRE of a lane already retired, or above 8, does nothing; of the spare, it leaves none; of a lane in use, with a spare, the spare takes its place and RETIRE is sent; each is kept in the health record's retirements. LINK_REKEY advances the sending epoch, flips its phase and starts the frame count anew; at epoch 2^32 - 1 the session ends in Training; without keys nothing. CREDIT_STALL_TICK counts (to 65,535) exactly when the lane has a flit queued and no credit. (R344, R348, R349, R350, R353, R372, R432) -/
def Obligations.LanesAndKeysOfAPort : Prop :=
  ∀ (s : State) (p : Nat) (x : Port), s.up = true → p < 36 → s.port p = x →
    ((x.st = .active ∧ lowerRank s p x.peerRank x.peerPort = true ∧ s.regField 0x20014 0 16 ≠ 0 ∧ x.spare.isSome = true ∧ x.spareCal = true ∧ x.req = none ∧ x.swap = none) →
      ∀ l fr, l = stalestLane x → fr = (x.txFrame + 128) % 4096 →
        exec (.laneRotationStart p) s = .next (watch (s.setPort p { x with lcmd := 1, larg := l + 16 * fr, req := some (l, fr) }))
        ∧ exec (.laneRotateRetry p) s = .next (watch (s.setPort p { x with lcmd := 1, larg := l + 16 * fr, req := some (l, fr) })))
    ∧ (¬(x.st = .active ∧ lowerRank s p x.peerRank x.peerPort = true ∧ s.regField 0x20014 0 16 ≠ 0 ∧ x.spare.isSome = true ∧ x.spareCal = true ∧ x.req = none ∧ x.swap = none) →
        exec (.laneRotationStart p) s = .next (watch s) ∧ exec (.laneRotateRetry p) s = .next (watch s))
    ∧ (∀ l fr sp, x.swap = some (l, fr) → x.spare = some sp → exec (.laneRotationSwitch p) s = .next (watch (s.setPort p { x with
        laneMap := x.laneMap.set l sp, spare := some (x.laneMap.getD l 0), spareCal := false, swap := none, lcmd := 0, larg := 0 })))
    ∧ (x.swap = none ∨ x.spare = none → exec (.laneRotationSwitch p) s = .next (watch s))
    ∧ (∀ sp, x.spare = some sp → exec (.laneCalibrationDone p) s
        = .next (watch (bgUnit (s.setPort p { x with spareCal := true, calAt := tblSet 0 x.calAt sp s.time }) 3)))
    ∧ (x.spare = none → exec (.laneCalibrationDone p) s = .next (watch s))
    ∧ (∀ lane, x.retired.contains lane = true ∨ 8 < lane → exec (.laneRetire p lane) s = .next (watch s))
    ∧ (∀ lane u, x.retired.contains lane = false → lane ≤ 8 →
        u = notice { s with rel := { s.rel with retired := setIns s.rel.retired (resKey kLane (p * 16 + lane)) } } 0 →
        (x.spare = some lane → exec (.laneRetire p lane) s
          = .next (watch (u.setPort p { x with retired := setIns x.retired lane, spare := none, spareCal := false })))
        ∧ (∀ l sp, x.spare = some sp → sp ≠ lane → x.laneMap.idxOf? lane = some l → exec (.laneRetire p lane) s = .next (watch (u.setPort p { x with
            retired := setIns x.retired lane, laneMap := x.laneMap.set l sp, spare := none, spareCal := false, lcmd := 4, larg := l })))
        ∧ (∀ l, x.spare = none → x.laneMap.idxOf? lane = some l → (workingLanes { x with retired := setIns x.retired lane }).length < 4 →
            exec (.laneRetire p lane) s = .next (watch (endSession (u.setPort p { x with retired := setIns x.retired lane }) p .down))))
    ∧ (x.keys = none → exec (.linkRekey p) s = .next (watch s))
    ∧ (∀ k, x.keys = some k → (k.epochTx = 0xFFFFFFFF → exec (.linkRekey p) s = .next (watch (endSession s p .training)))
        ∧ (k.epochTx ≠ 0xFFFFFFFF → exec (.linkRekey p) s = .next (watch (s.setPort p { x with
            keys := some { k with epochTx := k.epochTx + 1, phaseTx := !k.phaseTx, frames := 0 } }))))
    ∧ (∀ v, v < 3 → x.tx.any (fun f => f.vl == v) = true → creditsLeft x v = 0 →
        ∃ w, exec (.creditStallTick p v) s = .next (watch (s.setReg (0x20A00 + 0x10 * p + 4 * v) w))
          ∧ w.toNat % 65536 = min 65535 ((s.reg (0x20A00 + 0x10 * p + 4 * v)).toNat % 65536 + 1))
    ∧ (∀ v, (3 ≤ v ∨ x.tx.any (fun f => f.vl == v) = false ∨ creditsLeft x v ≠ 0) → exec (.creditStallTick p v) s = .next (watch s))

/-- For port p (below 36). A port that is not in Ident, Up or Active sends and takes no frame. FRAME_TRANSMIT sends the frame of the unacknowledged flits still to be replayed and then new ones; the new flits go to the retry buffer, the sequence number advances by their number, the frame counts advance by one; after the eighth replay in a row an Active port retrains. FRAME_RECEIVE counts the corrected symbols; a frame with bad FEC, a length other than 2,560 bytes, a bad CRC or a reserved field is counted as bad and sets NAK, and nothing of it is taken; one whose tag fails is counted as a tag failure; else it is a good frame, with the tag failures back at zero. A good frame whose sequence number is the expected one, with no gap open or with REPLAY, has its flits taken and closes the gap; another sets NAK. (R337, R338, R339, R340, R341, R342, R343, R372) -/
def Obligations.FramesKeepTheSequence : Prop :=
  ∀ (s : State) (p : Nat) (x : Port) (f : RxFrame), s.up = true → p < 36 → s.port p = x →
    (carriesFrames x = false → exec (.frameTransmit p) s = .next (watch s) ∧ exec (.frameReceive p f) s = .next (watch s))
    ∧ (carriesFrames x = true →
      (∀ fs new rest y, nextFlits x = (fs, new, rest) → y = replayEnds { x with
          lastFrame := frameBytes x fs, txFrame := x.txFrame + 1, replayFlag := false, tx := rest,
          retry := x.retry ++ fs.drop (fs.length - new), sent := countSent x.sent (fs.drop (fs.length - new)),
          txSeq := (x.txSeq + new) % 2 ^ 32, sendNext := (x.sendNext + fs.length) % 2 ^ 32,
          keys := x.keys.map (fun k => { k with frames := k.frames + 1 }) } →
        (¬(y.st = .active ∧ 8 ≤ y.replays) → exec (.frameTransmit p) s = .next (watch (s.setPort p y)))
        ∧ (y.st = .active ∧ 8 ≤ y.replays → exec (.frameTransmit p) s = .next (watch (startRetrain (s.setPort p y) p))))
      ∧ (∀ c u, c = parseControl f.bytes → u = (s.bump (kPort p 0x18) f.corrected).setPort p { x with rxFrame := x.rxFrame + 1 } →
        (f.fecBad = true ∨ f.bytes.length ≠ 2560 ∨ crcGood f.bytes = false ∨ c.reserved = true →
          ∃ v, v = u.bump (kPort p 0x20) 1 ∧ exec (.frameReceive p f) s = .next (watch (v.setPort p { v.port p with nak := true })))
        ∧ (f.fecBad = false → f.bytes.length = 2560 → crcGood f.bytes = true → c.reserved = false →
          (openFrame x c f.bytes = none → exec (.frameReceive p f) s = .next (watch (tagFailure u p)))
          ∧ (∀ m k, openFrame x c f.bytes = some (m, k) → ∃ v, v = u.setPort p { u.port p with keys := k, tagFails := 0 } ∧
              exec (.frameReceive p f) s = .next (watch (goodFrame v p c m))))))
    ∧ (∀ c m, (c.fsn = x.rxSeq ∧ (x.nak = false ∨ c.replay = true)) → takeFlits s p c m = [0, 1, 2].foldl (drainLane p) (s.setPort p { x with
        nak := false, rxSeq := (x.rxSeq + (frameFlits c m).length) % 2 ^ 32, rx := x.rx ++ frameFlits c m }))
    ∧ (∀ c m, ¬(c.fsn = x.rxSeq ∧ (x.nak = false ∨ c.replay = true)) → takeFlits s p c m = s.setPort p { x with nak := true })

/-- While a far operation runs, EXPORT, UNEXPORT and BIND set LAST_ERR to NOT_READY alone. EXPORT that fails a check sets its status; one that passes stores the export under its number with a generation one higher modulo 65,536, its access and its counter, and LAST_ERR OK. UNEXPORT removes an export of the context, else NOT_READY. BIND of an existing number or to the own node is FORMAT; without a route it is counted and UNREACHABLE. BIND_QUERY for this module is answered with the export's generation, size and access when its context shares the asker's group, else NO_OBJECT; a packet for another module travels on. BIND_ANSWER to a running bind with status OK enters the far object in the table and ends the bind OK; another status ends it NO_OBJECT; without a request nothing happens. (R352, R355, R356, R376, R429) -/
def Obligations.ExportsAndBinds : Prop :=
  ∀ (s : State) (f c : Nat) (k : FarPacket), s.up = true →
    (Shows s f c →
      ((s.ctx c).farOp.isSome = true → ∀ i ∈ [Instr.farExport f, .farUnexport f, .farBind f],
        exec i s = .next (watch (wakeSource (s.setCtx c { s.ctx c with farErr := .notReady }) 1)))
      ∧ ((s.ctx c).farOp = none → ∀ e, e = farExp s c →
        (∀ st, exportCheck s c = some st → exec (.farExport f) s = .next (watch (wakeSource (s.setCtx c { s.ctx c with farErr := st }) 1)))
        ∧ (exportCheck s c = none → ∀ g x, g = (tblGet 0 s.fab.expGens e + 1) % 65536 →
            x = Export.mk c (farSel s c) g (farCfg s c 0) (farCfg s c 1) (farCfg s c 2) (farCfg s c 3) (s.regField (kWin c 0x600C) 8 8) →
            exec (.farExport f) s = .next (watch (wakeSource (State.setCtx { s with fab := { s.fab with
              exports := tblIns s.fab.exports e x, expGens := tblSet 0 s.fab.expGens e g } } c { s.ctx c with farErr := .ok }) 1)))
        ∧ (∀ x, tblFind s.fab.exports e = some x → x.ctx = c → exec (.farUnexport f) s = .next (watch (wakeSource
            (State.setCtx { s with fab := { s.fab with exports := tblDel s.fab.exports e } } c { s.ctx c with farErr := .ok }) 1)))
        ∧ ((tblFind s.fab.exports e = none ∨ ∃ x, tblFind s.fab.exports e = some x ∧ x.ctx ≠ c) →
            exec (.farUnexport f) s = .next (watch (wakeSource (s.setCtx c { s.ctx c with farErr := .notReady }) 1)))
        ∧ ((objExists s.com c (farSel s c) = true ∨ selfNode s = some (farNode s c)) →
            exec (.farBind f) s = .next (watch (wakeSource (s.setCtx c { s.ctx c with farErr := .format }) 1)))
        ∧ (objExists s.com c (farSel s c) = false → selfNode s ≠ some (farNode s c) → routePort s (farNode s c) false s.fab.nextXid = none →
            ∃ u, u = s.bump kUnreach 1 ∧ exec (.farBind f) s = .next (watch (wakeSource (u.setCtx c { u.ctx c with farErr := .unreachable }) 1)))
        ∧ (∀ p, objExists s.com c (farSel s c) = false → selfNode s ≠ some (farNode s c) → routePort s (farNode s c) false s.fab.nextXid = some p →
            Ends (exec (.farBind f) s) (fun t => t.fab.nextXid = s.fab.nextXid + 1
              ∧ t.ctxs = tblSet Ctx.reset s.ctxs c { s.ctx c with farOp := some { op := 3, a := farSel s c, b := s.fab.nextXid } }
              ∧ (∃ r, tblFind t.fab.reqs s.fab.nextXid = some r ∧ r.kind = .bind ∧ r.ctx = c ∧ r.pkt.dest = farNode s c ∧ r.pkt.expo = e)
              ∧ t.com = s.com))))
    ∧ (selfNode s ≠ some k.dest → exec (.bindQuery k) s = .next (watch (sendOrDrop s ptLink k none)))
    ∧ (selfNode s = some k.dest → (∀ p, routePort s k.src k.secure k.xid = some p →
          exec (.bindQuery k) s = .next (watch { s with fab := { s.fab with asks := bindReply s k :: s.fab.asks } }))
        ∧ (routePort s k.src k.secure k.xid = none → exec (.bindQuery k) s = .next (watch (s.bump kUnreach 1))))
    ∧ (∀ e b, (tblFind s.fab.exports k.expo).bind (fun e => (objBody s.com e.ctx e.obj).map (fun b => (e, b.2.1))) = some (e, b) →
        (ctxShareGroup s e.ctx = k.group → (bindReply s k).status = .ok ∧ (bindReply s k).gen = e.gen ∧ (bindReply s k).bytes = b.size
          ∧ (bindReply s k).access = accessBits e b ∧ (bindReply s k).dest = k.src ∧ (bindReply s k).xid = k.xid)
        ∧ (ctxShareGroup s e.ctx ≠ k.group → (bindReply s k).status = .noObject))
    ∧ (tblFind s.fab.reqs k.xid = none → exec (.bindAnswer k) s = .next (watch s))
    ∧ (∀ r o, tblFind s.fab.reqs k.xid = some r → r.kind = .bind → (s.ctx r.ctx).farOp = some o → o.b = k.xid → ∀ u,
        u = { s with fab := { s.fab with reqs := tblDel s.fab.reqs k.xid } } →
        (k.status ≠ .ok → exec (.bindAnswer k) s = .next (watch (State.setCtx u r.ctx { s.ctx r.ctx with farOp := none, farErr := .noObject })))
        ∧ (k.status = .ok → ∀ y, y = FarObj.mk r.pkt.dest r.pkt.expo k.gen k.bytes (bits k.access 0 1 == 1) (bits k.access 1 1 == 1) (bits k.access 2 1 == 1)
            (bits k.access 3 1 == 1) (bits k.access 4 1 == 1) → exec (.bindAnswer k) s = .next (watch (State.setCtx { u with com := { s.com with
              far := tblIns s.com.far (objKey r.ctx o.a) y } } r.ctx { s.ctx r.ctx with farOp := none, farErr := .ok }))))

/-- A packet for another module travels on or is dropped and counted. At the exporter: a WRITE or READ_REQ to no export, to a stale generation, past the object or without the access is answered NO_OBJECT and stages nothing; a WRITE of an epoch already committed is answered OK and stages nothing; an accepted one is staged under its epoch, a higher attempt discarding the bytes of a lower, and answered OK. COMMIT of a committed epoch changes nothing but its answer; of a staged one commits the bytes once and the epoch is remembered; ABORT discards the stage of an attempt not above its own; FAR_STAGE_EXPIRE discards the stage. At the issuer: READ_DATA that answers nothing outstanding, or comes again, changes nothing; one with OK and no poison is noted, one with another status ends the command with it. DONE notes a WRITE, ends a COMMIT. (R352, R357, R358, R359, R360, R373) -/
def Obligations.FarPacketsAtExporterAndIssuer : Prop :=
  ∀ (s : State) (k : FarPacket) (clean : Bool), s.up = true →
    (selfNode s ≠ some k.dest → exec (.writePacket k) s = .next (watch (sendOrDrop s ptWrite k none))
      ∧ exec (.readReqPacket k clean) s = .next (watch (sendOrDrop s ptReadReq k none)) ∧ exec (.commitPacket k) s = .next (watch (sendOrDrop s ptCommit k none))
      ∧ exec (.abortPacket k) s = .next (watch (sendOrDrop s ptAbort k none)) ∧ exec (.readDataPacket k) s = .next (watch (sendOrDrop s ptReadData k none))
      ∧ exec (.donePacket k) s = .next (watch (sendOrDrop s ptDone k none)))
    ∧ (selfNode s = some k.dest →
      (exportOf s k = none → exec (.writePacket k) s = .next (watch (wakeSource (answer s ptDone k .noObject [] []) 3))
        ∧ exec (.readReqPacket k clean) s = .next (watch (wakeSource (answer s ptReadData k .noObject [] []) 3)))
      ∧ (∀ e sid b, exportOf s k = some (e, sid, b) →
        (e.write = false ∨ b.size * 2 ^ 21 < k.off + k.data.length → exec (.writePacket k) s = .next (watch (wakeSource (answer s ptDone k .noObject [] []) 3)))
        ∧ (e.write = true → k.off + k.data.length ≤ b.size * 2 ^ 21 →
          (s.fab.farDone.contains k.epoch = true → exec (.writePacket k) s = .next (watch (wakeSource (answer s ptDone k .ok [] []) 3)))
          ∧ (∀ u, s.fab.farDone.contains k.epoch = false → allocGrans s sid b (unallocated s sid (granRange k.off k.data.length)) = .done u →
              exec (.writePacket k) s = .next (watch (wakeSource (answer (stageFar u k) ptDone k .ok [] []) 3))))
        ∧ (e.read = false ∨ b.size * 2 ^ 21 < k.off + k.bytes → exec (.readReqPacket k clean) s = .next (watch (wakeSource (answer s ptReadData k .noObject [] []) 3)))
        ∧ (e.read = true → k.off + k.bytes ≤ b.size * 2 ^ 21 → poisonedIn s.com (cellKey sid k.off) k.bytes = [] →
            exec (.readReqPacket k clean) s = .next (watch (wakeSource (answer s ptReadData k .ok (memRead s.com.mem (cellKey sid k.off) k.bytes)
              (flitMarks s.com (cellKey sid k.off) k.bytes)) 3))))
      ∧ (s.fab.farDone.contains k.epoch = true → exec (.commitPacket k) s = .next (watch (wakeSource (answer s ptDone k .ok [] []) 3)))
      ∧ (∀ st e sid b, s.fab.farDone.contains k.epoch = false → tblFind s.fab.stages k.epoch = some st → exportOf s k = some (e, sid, b) →
          ∃ u, u = commitFar { s with fab := { s.fab with stages := tblDel s.fab.stages k.epoch } } e sid st
            ∧ exec (.commitPacket k) s = .next (watch (wakeSource (answer (u.setFab { u.fab with farDone := setIns u.fab.farDone k.epoch }) ptDone k .ok [] []) 3)))
      ∧ (∀ st, tblFind s.fab.stages k.epoch = some st →
          (st.attempt ≤ k.attempt → exec (.abortPacket k) s = .next (watch { s with fab := { s.fab with stages := tblDel s.fab.stages k.epoch } }))
          ∧ (k.attempt < st.attempt → exec (.abortPacket k) s = .next (watch s)))
      ∧ (tblFind s.fab.reqs k.xid = none → exec (.readDataPacket k) s = .next (watch s) ∧ exec (.donePacket k) s = .next (watch s))
      ∧ (∀ r c, tblFind s.fab.reqs k.xid = some r → r.cmd = some c →
          (r.kind = .read → (r.answered = true → exec (.readDataPacket k) s = .next (watch s))
            ∧ (r.answered = false → k.status = .ok → k.poison = [] → exec (.readDataPacket k) s = .next (watch (noteAnswer s k.xid r k.data [])))
            ∧ (r.answered = false → k.status ≠ .ok → k.status ≠ .dataLost → exec (.readDataPacket k) s = .next (watch (farFails s c k.status))))
          ∧ (r.kind = .write → (r.answered = true → exec (.donePacket k) s = .next (watch s))
            ∧ (r.answered = false → k.status = .ok → exec (.donePacket k) s = .next (watch (noteAnswer s k.xid r [] [])))
            ∧ (r.answered = false → k.status ≠ .ok → exec (.donePacket k) s = .next (watch (farFails s c k.status))))
          ∧ (r.kind = .commit → exec (.donePacket k) s = .next (watch { s with fab := { s.fab with reqs := tblDel s.fab.reqs k.xid } }))))
    ∧ (∀ epoch, exec (.farStageExpire epoch) s = .next (watch { s with fab := { s.fab with stages := tblDel s.fab.stages epoch } }))
    ∧ (∀ x, tblFind s.fab.stages k.epoch = some x →
        (x.attempt < k.attempt → tblFind (stageFar s k).fab.stages k.epoch
          = some { attempt := k.attempt, expo := k.expo, parts := [(k.off, k.data, k.poison)], last := s.time })
        ∧ (k.attempt < x.attempt → tblFind (stageFar s k).fab.stages k.epoch = some x)
        ∧ (k.attempt = x.attempt → tblFind (stageFar s k).fab.stages k.epoch = some { x with parts := x.parts ++ [(k.off, k.data, k.poison)], last := s.time }))

/-- With u the state after the wake event of a packet for this module. TALLY_UP and TALLY_DOWN of a tree that is not in force, or from a port that is not a child or the parent, are bad packets; of another instance count than the current one they are counted as duplicates and change no collective. A TALLY_UP with a failure status fails the collective with it; one that disagrees fails it COLL_MISMATCH; one already held is a duplicate; a new one joins the parts and the collective advances. COLL_TIMEOUT fails the live collective of that identity with PEER_TIMEOUT, and does nothing without one. E2E_TIMEOUT of an answered request does nothing; of one not yet sent again (other than a COMMIT) sends it again; of a command's request sent again ends the command UNREACHABLE; without a request or a retained TALLY_UP nothing happens. (R358, R361, R363, R364, R369, R370, R545) -/
def Obligations.CollectivesAndTimers : Prop :=
  ∀ (s : State) (p : Nat) (k : TallyPacket) (u : State), s.up = true → u = (if selfNode s = some k.dest then wakeSource s 3 else s) →
    (treeOf u k.tree = none → exec (.tallyUp p k) s = .next (watch (packetBad u p)) ∧ exec (.tallyDown p k) s = .next (watch (packetBad u p)))
    ∧ (∀ e, treeOf u k.tree = some e →
      (e.kids.contains p = false → exec (.tallyUp p k) s = .next (watch (packetBad u p)))
      ∧ (e.parent ≠ p → exec (.tallyDown p k) s = .next (watch (packetBad u p)))
      ∧ (k.inst ≠ collCount u k.tree k.seq k.group →
          (e.kids.contains p = true → exec (.tallyUp p k) s = .next (watch (u.bump kCollDup 1)))
          ∧ (e.parent = p → exec (.tallyDown p k) s = .next (watch (u.bump kCollDup 1))))
      ∧ (k.inst = collCount u k.tree k.seq k.group → ∀ c, c = collOf u e k →
          (e.kids.contains p = true → k.status ≠ .ok → exec (.tallyUp p k) s = .next (watch (failColl u c k.status (some p))))
          ∧ (e.kids.contains p = true → k.status = .ok → disagrees c k = true → exec (.tallyUp p k) s = .next (watch (failColl u c .collMismatch none)))
          ∧ (e.kids.contains p = true → k.status = .ok → disagrees c k = false →
              (c.parts.any (fun x => x.port == p && x.pass == k.pass && x.elem0 == k.elem0) = true → exec (.tallyUp p k) s = .next (watch (u.bump kCollDup 1)))
              ∧ (c.parts.any (fun x => x.port == p && x.pass == k.pass && x.elem0 == k.elem0) = false → ∀ x, x = CollPart.mk p k.pass k.elem0 k.terms k.data →
                  exec (.tallyUp p k) s = .next (watch (advanceColl u { c with parts := c.parts ++ [x] }))))
          ∧ (e.parent = p → k.status ≠ .ok → exec (.tallyDown p k) s = .next (watch (failColl u c k.status (some p))))
          ∧ (e.parent = p → k.status = .ok → k.pass = 1 → tblFind c.finals (k.elem0 / 256) = none →
              exec (.tallyDown p k) s = .next (watch (advanceColl (sendDown u e.kids k) { c with finals := tblIns c.finals (k.elem0 / 256) k.data })))
          ∧ (e.parent = p → k.status = .ok → k.pass ≠ 1 → tblFind c.results (k.elem0 / 256) = none →
              exec (.tallyDown p k) s = .next (watch (advanceColl (sendDown u e.kids k) { c with results := tblIns c.results (k.elem0 / 256) (downCodes c k.data) })))))
    ∧ (∀ t q g, (liveColl s t q g = none → exec (.collTimeout t q g) s = .next (watch s))
        ∧ (∀ c, liveColl s t q g = some c → exec (.collTimeout t q g) s = .next (watch (failColl s c .peerTimeout none))))
    ∧ (∀ xid marked,
        (∀ r, tblFind s.fab.reqs xid = some r →
          (r.answered = true → exec (.e2eTimeout xid marked) s = .next (watch s))
          ∧ (r.answered = false → r.kind ≠ .commit → r.resent = false → exec (.e2eTimeout xid marked) s = .next (watch (resendReq s xid r)))
          ∧ (∀ c, r.answered = false → r.kind ≠ .commit → r.kind ≠ .bind → r.resent = true → r.cmd = some c →
              exec (.e2eTimeout xid marked) s = .next (watch (farFails s c .unreachable)))
          ∧ (r.answered = false → r.kind = .bind → r.resent = true →
              exec (.e2eTimeout xid marked) s = .next (watch (bindEnds { s with fab := { s.fab with reqs := tblDel s.fab.reqs xid } } r.ctx .unreachable))))
        ∧ (tblFind s.fab.reqs xid = none →
          (s.fab.colls.find? (fun c => !c.ended && c.sentUp.any (fun x => x.xid == xid)) = none → exec (.e2eTimeout xid marked) s = .next (watch s))
          ∧ (∀ c, s.fab.colls.find? (fun c => !c.ended && c.sentUp.any (fun x => x.xid == xid)) = some c → marked = true →
              exec (.e2eTimeout xid marked) s = .next (watch (failColl s c .dataLost none)))))

/-- With u the state after an agent that reaches BAR0 has been seen. A write of APPLY or SVN_COMMIT starts that operation unless one runs, in which case nothing happens. The operation's end: a record that fails a check sets KV_STATUS.RESULT to that status and leaves owner, sequence, keys, security version and revocations as they were; a record that passes sets RESULT to OK, the owner sequence to the record's (0 for a transfer of ownership), the owner to the record's key (a claim or a transfer) or to none (a release, which also empties the key slots), and a key record of class 1 or 2 fills its slot; a commit raises the security version to the firmware's, never lowers it, and adds the firmware's revocations. With no operation the row does nothing. DIGEST_CLEAR zeroes the context's digest and unit count and keeps EN; a write to DET_INJECT stores its defined bits, for every value written. (R409, R410, R411, R412, R417, R418, R419, R421, R434) -/
def Obligations.KeyRecordsVersionsAndInjection : Prop :=
  ∀ (s : State), s.up = true →
    (∀ a u, Reaches s a → u = seenFrom s a →
      (s.vault.op = none →
          exec (.keyRecordApply a) s = .next (watch { u with vault := { u.vault with op := some 1 } })
          ∧ exec (.svnCommit a) s = .next (watch { u with vault := { u.vault with op := some 2 } }))
      ∧ (s.vault.op ≠ none → exec (.keyRecordApply a) s = .next (watch u) ∧ exec (.svnCommit a) s = .next (watch u))
      ∧ (∀ v, exec (.detInjectWrite a v) s = .next (watch (u.setReg (kBar0 0x22000) (v &&& 0xFFFF0003#32)))))
    ∧ (s.vault.op = none → exec .keyVaultOpDone s = .next (watch s))
    ∧ (∀ r, s.vault.op = some 1 → r = keyRecord s →
        (∀ st, recordCheck s r = some st → Ends (exec .keyVaultOpDone s) (fun t => t.vault = { s.vault with op := none, result := st } ∧ t.plan = s.plan))
        ∧ (recordCheck s r = none → ∀ w, w = { s with vault := { s.vault with ownerSeq := if recOp r = 3 then 0 else recSeq r } } →
            (recOp r = 3 ∨ recClaim r = true → Ends (exec .keyVaultOpDone s) (fun t =>
              t.vault = { w.vault with owner := some (recKey r), op := none, result := .ok } ∧ t.plan = s.plan))
            ∧ (recOp r ≠ 3 → recClaim r = false → recClass r = 3 → Ends (exec .keyVaultOpDone s) (fun t =>
              t.vault.owner = none ∧ t.vault.op = none ∧ t.vault.result = .ok
              ∧ t.vault.planKeys = ((List.range 64).foldl emptyPubKey ((List.range 8).foldl emptyPlanKey w)).vault.planKeys
              ∧ t.vault.pubKeys = ((List.range 64).foldl emptyPubKey ((List.range 8).foldl emptyPlanKey w)).vault.pubKeys))
            ∧ (recOp r = 1 → recClass r = 1 → Ends (exec .keyVaultOpDone s) (fun t =>
              tblFind t.vault.planKeys (recIndex r) = some (recKey r) ∧ t.vault.op = none ∧ t.vault.result = .ok))
            ∧ (recOp r = 1 → recClass r = 2 → Ends (exec .keyVaultOpDone s) (fun t =>
              tblFind t.vault.pubKeys (recIndex r) = some { alg := recAlg r, fn := recFn r, key := recKey r } ∧ t.vault.op = none ∧ t.vault.result = .ok))))
    ∧ (s.vault.op = some 2 → exec .keyVaultOpDone s = .next (watch { s with vault := { s.vault with
        svn := max s.vault.svn s.vault.fwSvn, revoked := s.vault.revoked ||| s.vault.fwRevoke, op := none, result := .ok } }))
    ∧ (∀ f c, Shows s f c → exec (.digestClear f) s
        = .next (watch (wakeSource ((s.setReg (kWin c 0x7000) (s.reg (kWin c 0x7000) &&& 1#32)).setCtx c { s.ctx c with digest := 0, units := 0 }) 1)))

/-- For a host that sees context c. While an operation of the context runs, a write of OPEN, LOAD or CLOSE sets WPK_STATUS.ERR to NOT_READY and nothing else. Otherwise OPEN joins the module's queue of opens and the context's operation is an OPEN of the selected slot, LOAD makes it a LOAD of it, and CLOSE empties the slot if this context opened it (OK), else NOT_READY. WPK_OPERATION_DONE does nothing without an operation or for an OPEN that is not first of the module's queue. The first OPEN leaves the queue; it ends NOT_READY on a slot in use and LENGTH on a manifest outside 456 to 819,456 bytes, else as its later checks answer, and a good one fills the slot for the context. A LOAD ends NOT_READY where the context does not live, the slot is empty or another context's; a failed chunk is recorded with the status; a good one ends by writing its decrypted bytes. (R207, R422, R424, R425, R426, R427, R428, R433) -/
def Obligations.WeightPackageOperations : Prop :=
  ∀ (s : State) (c : Nat), s.up = true →
    (∀ f, Shows s f c →
      ((s.ctx c).wpkOp ≠ none → ∀ t, t = s.setCtx c { s.ctx c with wpkErr := .notReady } →
          exec (.wpkOpen f) s = .next (watch (wakeSource t 1)) ∧ exec (.wpkLoad f) s = .next (watch (wakeSource t 1))
          ∧ exec (.wpkClose f) s = .next (watch (wakeSource t 1)))
      ∧ ((s.ctx c).wpkOp = none →
          exec (.wpkOpen f) s = .next (watch (wakeSource (({ s with vault := { s.vault with opens := s.vault.opens ++ [c] } }).setCtx c
              { s.ctx c with wpkOp := some { op := 1, a := wpkSel s c, b := 0 } }) 1))
          ∧ exec (.wpkLoad f) s = .next (watch (wakeSource (s.setCtx c { s.ctx c with wpkOp := some { op := 2, a := wpkSel s c, b := 0 } }) 1))
          ∧ (∀ p, tblFind s.vault.pkgs (wpkSel s c) = some p → p.ctx = c →
              exec (.wpkClose f) s = .next (watch (wakeSource (({ s with vault := { s.vault with pkgs := tblDel s.vault.pkgs (wpkSel s c) } }).setCtx c
                { s.ctx c with wpkErr := .ok }) 1)))
          ∧ ((∀ p, tblFind s.vault.pkgs (wpkSel s c) = some p → p.ctx ≠ c) →
              exec (.wpkClose f) s = .next (watch (wakeSource (s.setCtx c { s.ctx c with wpkErr := .notReady }) 1)))))
    ∧ ((s.ctx c).wpkOp = none → exec (.wpkOperationDone c) s = .next (watch s))
    ∧ (∀ o, (s.ctx c).wpkOp = some o → o.op = 1 →
        (s.vault.opens.head? ≠ some c → exec (.wpkOperationDone c) s = .next (watch s))
        ∧ (s.vault.opens.head? = some c → ∀ u, u = { s with vault := { s.vault with opens := s.vault.opens.filter (fun d => d != c) } } →
            ((tblFind s.vault.pkgs (wpkSel s c)).isSome = true → exec (.wpkOperationDone c) s = .next (watch (wpkEnds u c .notReady none)))
            ∧ (tblFind s.vault.pkgs (wpkSel s c) = none → (wpkManLen s c < 456 ∨ 819456 < wpkManLen s c) →
                exec (.wpkOperationDone c) s = .next (watch (wpkEnds u c .length none)))
            ∧ (∀ st k, wpkOpenRun u c = .fail st k → exec (.wpkOperationDone c) s = .next (watch (wpkEnds u c st none)))
            ∧ (∀ x w, wpkOpenRun u c = .breach x w → exec (.wpkOperationDone c) s = .next (watch (wpkBreach u c x w)))
            ∧ (∀ p, wpkOpenRun u c = .good p → Ends (exec (.wpkOperationDone c) s) (fun t => t.vault.pkgs = tblIns s.vault.pkgs (wpkSel s c) p
                  ∧ t.vault.opens = u.vault.opens ∧ t.com = s.com ∧ t.rings = s.rings))))
    ∧ (∀ o, (s.ctx c).wpkOp = some o → o.op ≠ 1 →
        (ctxLives s c = false → exec (.wpkOperationDone c) s = .next (watch (wpkEnds s c .notReady none)))
        ∧ (ctxLives s c = true →
            (tblFind s.vault.pkgs o.a = none → exec (.wpkOperationDone c) s = .next (watch (wpkEnds s c .notReady none)))
            ∧ (∀ p, tblFind s.vault.pkgs o.a = some p → p.ctx ≠ c → exec (.wpkOperationDone c) s = .next (watch (wpkEnds s c .notReady none)))
            ∧ (∀ st k, wpkLoadRun s c o.a = .fail st k → exec (.wpkOperationDone c) s = .next (watch (wpkEnds s c st k)))
            ∧ (∀ x w, wpkLoadRun s c o.a = .breach x w → exec (.wpkOperationDone c) s = .next (watch (wpkBreach s c x w)))
            ∧ (∀ x, wpkLoadRun s c o.a = .good x → exec (.wpkOperationDone c) s = .next (watch (commitLoad s c x)))))

/-- A closed BAR answers nothing; a write above the function's maximum payload changes nothing (the model's choice, log entry 48). With u the state after the host's request has been seen: during a function-level reset a read answers zeros and a write is a counted bad access; one past the end of the aperture is a counted bad access and a read of it answers zeros. Otherwise a request whose conditions fail sets the status of that failure in LAST_ERR and ERR, and a read answers zeros; a read answers the bytes of the object and changes no object; a write to an aliased or read-only object is refused FORMAT, else it allocates and commits its bytes as one commit. IRQ_HOLDOFF_EXPIRY does nothing without a running hold-off; else the count ends and the vector's pending bit is set where it is masked, and otherwise its message is sent. MSIX_UNMASK clears the mask of the vector or the function; then, with MSI-X enabled and the function running, exactly the pending bits of masked vectors stay, and each message released has been sent. (R441, R447, R448, R449, R450, R454) -/
def Obligations.ApertureAndMessages : Prop :=
  ∀ (s : State) (f : Nat), s.up = true →
    (∀ off n (bs : List Byte), bs.length = n →
      (barOpen s f = false → exec (.apertureRead f off n) s = .next (watch s) ∧ exec (.apertureWrite f off bs) s = .next (watch s))
      ∧ ((s.fn f).mps < n → exec (.apertureWrite f off bs) s = .next (watch s))
      ∧ (barOpen s f = true → ∀ u, u = wakeSource s 1 →
        ((u.fn f).flr = true → exec (.apertureRead f off n) s = .next (watch (replyWith u (List.replicate n 0)))
            ∧ (n ≤ (s.fn f).mps → exec (.apertureWrite f off bs) s = .next (watch (badAccess u f 2 (0x30000 + off) true))))
        ∧ ((u.fn f).flr = false → 65536 < off + n → exec (.apertureRead f off n) s
              = .next (watch (replyWith (badAccess u f 2 (0x30000 + off) false) (List.replicate n 0)))
            ∧ (n ≤ (s.fn f).mps → exec (.apertureWrite f off bs) s = .next (watch (badAccess u f 2 (0x30000 + off) true))))
        ∧ ((u.fn f).flr = false → off + n ≤ 65536 →
            (∀ st, aptOpen u f = .inr st →
              exec (.apertureRead f off n) s = .next (watch (replyWith (aptRefuse u f st) (List.replicate n 0)))
              ∧ (n ≤ (s.fn f).mps → exec (.apertureWrite f off bs) s = .next (watch (aptRefuse u f st))))
            ∧ (∀ c sid b al k, aptOpen u f = .inl (c, sid, b, al) → k = cellKey sid (aptBase u f * 65536 + off) →
              Ends (exec (.apertureRead f off n) s) (fun t => t.reply = memRead s.com.mem k n ∧ t.com = s.com ∧ t.rings = s.rings ∧ t.ctxs = s.ctxs)
              ∧ (n ≤ (s.fn f).mps →
                  ((al = true ∨ b.writable = false) → exec (.apertureWrite f off bs) s = .next (watch (aptRefuse u f .format)))
                  ∧ (al = false → b.writable = true → ∀ w, allocGrans u sid b (unallocated u sid (granRange (aptBase u f * 65536 + off) n)) = .done w →
                      (commitObjects w [(k, bs)] = none → exec (.apertureWrite f off bs) s = .next (watch (aptRefuse u f .quota)))
                      ∧ (∀ z, commitObjects w [(k, bs)] = some z → exec (.apertureWrite f off bs) s = .next (watch z))))))))
    ∧ (∀ v, (tblFind (s.fn f).counts v = none → exec (.irqHoldoffExpiry f v) s = .next (watch s))
      ∧ (∀ c x e, tblFind (s.fn f).counts v = some c → x = { s.fn f with counts := tblDel (s.fn f).counts v } → e = tblGet MsixEnt.reset x.table v →
          (c.holdoff = 0 → exec (.irqHoldoffExpiry f v) s = .next (watch s))
          ∧ (c.holdoff ≠ 0 → (e.mask || x.fnMask || x.stopped) = true →
              exec (.irqHoldoffExpiry f v) s = .next (watch (s.setFn f { x with pba := setIns x.pba v })))
          ∧ (c.holdoff ≠ 0 → (e.mask || x.fnMask || x.stopped) = false → ∀ h, h = { s.host with msgs := { fn := f, vec := v, addr := e.addr, data := e.data } :: s.host.msgs } →
              exec (.irqHoldoffExpiry f v) s = .next (watch { s.setFn f x with host := h }))))
    ∧ (fnEnabled s f = false → exec (.msixUnmask f none) s = .next (watch s))
    ∧ (fnEnabled s f = true → exec (.msixUnmask f none) s = .next (watch (sendHeld (s.setFn f { s.fn f with fnMask := false }) f)))
    ∧ (∀ v, (barOpen s f = false ∨ (s.fn f).flr = true ∨ 2048 ≤ v → exec (.msixUnmask f (some v)) s = .next (watch s))
      ∧ (barOpen s f = true → (s.fn f).flr = false → v < 2048 → ∀ x e, x = (wakeSource s 1).fn f → e = { tblGet MsixEnt.reset x.table v with mask := false } →
          exec (.msixUnmask f (some v)) s
            = .next (watch (sendHeld ((wakeSource s 1).setFn f { x with table := tblSet MsixEnt.reset x.table v e }) f))))
    ∧ ((s.fn f).msixEn = true → (s.fn f).fnMask = false → (s.fn f).stopped = false → ∀ v,
        (v ∈ ((sendHeld s f).fn f).pba ↔ v ∈ (s.fn f).pba ∧ (tblGet MsixEnt.reset (s.fn f).table v).mask = true)
        ∧ (∀ e, v ∈ (s.fn f).pba → e = tblGet MsixEnt.reset (s.fn f).table v → e.mask = false →
            { fn := f, vec := v, addr := e.addr, data := e.data } ∈ (sendHeld s f).host.msgs))

/-- Rows for a function that is not enabled do nothing, and so does a VF_RESET of the PF. Clearing Bus Master Enable, or entering D3hot, sets that bit (without bus mastering no interrupt count is kept); a function that was running then has the dispatched commands of its contexts killed by preemption, and the PF entering D3hot requests the power state that D3_TARGET names. FUNCTION_RESUME leaves the function in D0 with bus mastering, its memory enable, MSI-X table and the rings, contexts and objects as they were, and with MSI-X enabled and unmasked a held bit stays only for a masked vector. A function-level reset treats each of its contexts by R158 steps 1 and 2, so that no sequence, no package and no queued OPEN of it is left, clears the registers of its page (FN_DB_BAD only with the PF) and no others, and puts the function at its reset values with FLR set while it has contexts. PF_RESET first resets every enabled VF, then disables VFs and resets the PF. (R158, R453, R454, R465, R524) -/
def Obligations.QuiescenceAndFunctionResets : Prop :=
  ∀ (s : State) (f : Nat), s.up = true →
    (fnEnabled s f = false → (∀ d, exec (.functionQuiesce f d) s = .next (watch s)) ∧ exec (.functionResume f) s = .next (watch s))
    ∧ (fnEnabled s f = true →
        (∀ y, y = { s.fn f with bme := false, counts := [] } →
          ((s.fn f).stopped = true → exec (.functionQuiesce f false) s = .next (watch (s.setFn f y)))
          ∧ ((s.fn f).stopped = false → exec (.functionQuiesce f false) s = .next (watch (quiesceFn (s.setFn f y) f))))
        ∧ (∀ y t, y = { s.fn f with d3 := true, counts := if (s.fn f).bme then (s.fn f).counts else [] } →
            t = (if (s.fn f).stopped then s.setFn f y else quiesceFn (s.setFn f y) f) →
            (f = 0 → (s.fn 0).d3 = false → exec (.functionQuiesce f true) s = .next (watch (pwrD3 t)))
            ∧ (f ≠ 0 ∨ (s.fn 0).d3 = true → exec (.functionQuiesce f true) s = .next (watch t)))
        ∧ (s.Canon → ∃ u, exec (.functionResume f) s = .next (watch u) ∧ (u.fn f).bme = true ∧ (u.fn f).d3 = false ∧ (u.fn f).mse = (s.fn f).mse
            ∧ (u.fn f).table = (s.fn f).table ∧ (u.fn f).fnMask = (s.fn f).fnMask ∧ (u.fn f).flr = (s.fn f).flr
            ∧ u.rings = s.rings ∧ u.ctxs = s.ctxs ∧ u.com = s.com ∧ u.regs = s.regs))
    ∧ (f = 0 ∨ fnEnabled s f = false → exec (.vfReset f) s = .next (watch s))
    ∧ (f ≠ 0 → fnEnabled s f = true → exec (.vfReset f) s = .next (watch (flrFn s f)))
    ∧ (∀ w, w = (if s.host.vfEnable then ((List.range s.host.numVFs).map (fun i => 1 + i)).foldl vfReset s else s) →
        exec .pfReset s = .next (watch (flrFn { w with host := { w.host with vfEnable := false, numVFs := 0 } } 0)))
    ∧ (flrFn s f = (clearPage ((fnContexts s f).foldl flrCtx s) f).setFn f { Fn.reset with flr := !(fnContexts s f).isEmpty })
    ∧ (s.Canon → ∀ k, (clearPage s f).reg k = if k / 2 ^ 32 = 8192 + f ∧ (f = 0 ∨ k % 2 ^ 32 ≠ 0x10010) then regReset k else s.reg k)
    ∧ (∀ c, (∀ e ∈ (flrCtx s c).vault.pkgs, e.2.ctx ≠ c) ∧ c ∉ (flrCtx s c).vault.opens ∧ (∀ e ∈ (flrCtx s c).com.sets, e.2.ctx ≠ c))

/-- Without a host link a configuration request is not answered; before READY (and without FAIL 2) it is answered with Request Retry Status; to a function that is not enabled with Unsupported Request (the reply's form is the model's choice, log entry 48). A read then answers the identity and changes nothing else. A write sets the one field it names: memory space, ATS, MSI-X enable, function mask, bus mastering and power state of that function; a payload or read-request size only where it is a legal one; PME enable, NumVFs (at most 255) and VF Enable only in the PF, the VFs that leave being reset from the lowest on. An ATS invalidation completes, and is counted, where the function has ATS enabled and no running move uses the page. A trained host link records its speed, width and FLIT mode where they are those of the port; otherwise nothing changes. (R436, R437, R438, R439, R450, R453, R514, R516) -/
def Obligations.ConfigurationAndTheHostLink : Prop :=
  ∀ (s : State) (f : Nat),
    (s.pins.aux = true →
      (∀ q, (s.pins.perst = true ∨ s.boot.step < 2 → exec (.configRequest f q) s = .next (watch (replyWith s [])))
        ∧ (s.pins.perst = false → 2 ≤ s.boot.step → s.boot.step ≠ 10 → s.boot.fail ≠ 2 → exec (.configRequest f q) s = .next (watch (replyWith s [2#8])))
        ∧ (s.pins.perst = false → 2 ≤ s.boot.step → s.boot.step = 10 ∨ s.boot.fail = 2 → fnEnabled s f = false →
            exec (.configRequest f q) s = .next (watch (replyWith s [1#8]))))
      ∧ (s.pins.perst = false → 2 ≤ s.boot.step → s.boot.step = 10 ∨ s.boot.fail = 2 → fnEnabled s f = true → ∀ x, x = s.fn f →
          exec (.configRequest f .read) s = .next (watch (replyWith s (0#8 :: configIdentity f)))
          ∧ (∀ on, exec (.configRequest f (.memorySpace on)) s = .next (watch (replyWith (s.setFn f { x with mse := on }) [0#8]))
            ∧ exec (.configRequest f (.atsEnable on)) s = .next (watch (replyWith (s.setFn f { x with ats := on }) [0#8]))
            ∧ exec (.configRequest f (.msixEnable on)) s
                = .next (watch (replyWith (sendHeld (s.setFn f { x with msixEn := on, counts := if on then x.counts else [] }) f) [0#8]))
            ∧ exec (.configRequest f (.functionMask on)) s = .next (watch (replyWith (sendHeld (s.setFn f { x with fnMask := on }) f) [0#8]))
            ∧ exec (.configRequest f (.busMaster on)) s = .next (watch (replyWith (fnChange s f { x with bme := on }) [0#8]))
            ∧ (f ≠ 0 → exec (.configRequest f (.powerState on)) s = .next (watch (replyWith (fnChange s f { x with d3 := on }) [0#8])))
            ∧ (f ≠ 0 → exec (.configRequest f (.pmeEnable on)) s = .next (watch (replyWith s [0#8])))
            ∧ (f = 0 → exec (.configRequest f (.pmeEnable on)) s = .next (watch (replyWith (s.setFn 0 { s.fn 0 with pme := on }) [0#8])))
            ∧ (f ≠ 0 → exec (.configRequest f (.vfEnable on)) s = .next (watch (replyWith s [0#8])))
            ∧ (f = 0 → s.host.vfEnable = false ∨ on = true →
                exec (.configRequest f (.vfEnable on)) s = .next (watch (replyWith { s with host := { s.host with vfEnable := on } } [0#8])))
            ∧ (∀ w, f = 0 → s.host.vfEnable = true → on = false → w = ((List.range s.host.numVFs).map (fun i => 1 + i)).foldl vfReset s →
                exec (.configRequest f (.vfEnable on)) s = .next (watch (replyWith { w with host := { w.host with vfEnable := false } } [0#8]))))
          ∧ (∀ n, (n = 128 ∨ n = 256 ∨ n = 512 → exec (.configRequest f (.maxPayload n)) s = .next (watch (replyWith (s.setFn f { x with mps := n }) [0#8])))
            ∧ (¬(n = 128 ∨ n = 256 ∨ n = 512) → exec (.configRequest f (.maxPayload n)) s = .next (watch (replyWith s [0#8])))
            ∧ (n = 128 ∨ n = 256 ∨ n = 512 ∨ n = 1024 ∨ n = 2048 ∨ n = 4096 →
                exec (.configRequest f (.maxReadRequest n)) s = .next (watch (replyWith (s.setFn f { x with mrrs := n }) [0#8])))
            ∧ (¬(n = 128 ∨ n = 256 ∨ n = 512 ∨ n = 1024 ∨ n = 2048 ∨ n = 4096) →
                exec (.configRequest f (.maxReadRequest n)) s = .next (watch (replyWith s [0#8])))
            ∧ (f ≠ 0 ∨ 255 < n → exec (.configRequest f (.numVFs n)) s = .next (watch (replyWith s [0#8])))
            ∧ (f = 0 → n ≤ 255 → s.host.vfEnable = false ∨ s.host.numVFs ≤ n →
                exec (.configRequest f (.numVFs n)) s = .next (watch (replyWith { s with host := { s.host with numVFs := n } } [0#8])))
            ∧ (∀ w, f = 0 → n ≤ 255 → s.host.vfEnable = true → n < s.host.numVFs →
                w = ((List.range (s.host.numVFs - n)).map (fun i => n + 1 + i)).foldl vfReset s →
                exec (.configRequest f (.numVFs n)) s = .next (watch (replyWith { w with host := { w.host with numVFs := n } } [0#8])))))
      ∧ (∀ sp w fl, s.pins.perst = false → 2 ≤ s.boot.step →
          (1 ≤ sp → sp ≤ 6 → (w = 1 ∨ w = 2 ∨ w = 4 ∨ w = 8 ∨ w = 16) → (fl = true ↔ sp = 6) →
            exec (.hostLinkTrained sp w fl) s = .next (watch { s with host := { s.host with speed := sp, width := w, flit := fl } }))
          ∧ (sp = 0 ∨ 6 < sp ∨ ¬(w = 1 ∨ w = 2 ∨ w = 4 ∨ w = 8 ∨ w = 16) ∨ ¬(fl = true ↔ sp = 6) → exec (.hostLinkTrained sp w fl) s = .next (watch s)))
      ∧ (∀ sp w fl, s.pins.perst = true ∨ s.boot.step < 2 → exec (.hostLinkTrained sp w fl) s = .next (watch s)))
    ∧ (s.up = true → ∀ page,
        ((s.fn f).ats = true → usesPage s f page = false → exec (.atsInvalidation f page) s = .next (watch (s.bump (kBar0 0x20) 1)))
        ∧ ((s.fn f).ats = false ∨ usesPage s f page = true → exec (.atsInvalidation f page) s = .next (watch s)))

/-- With u the state after the access has been seen, RUN, HOLD and NAP request that state; AUTO_HOLD requests Hold where HOLD_AUTO is set in Run, else nothing; POWER_REQUEST before start-up step 10 does nothing, else requests the named state and answers PWR_STATUS.RESULT. A request while another is served changes nothing; one for the present state ends OK; one for Fallow with the PF not in D3hot ends NOT_READY with reason 1; one for a shallower state wakes the module; one for a deeper state starts the entry handshake with no participant yet. HANDSHAKE_ANSWER counts only from a participant that has not accepted and only when it is the answer that R467 gives: DELAY changes nothing, REFUSE abandons the entry (NOT_READY, reason 1, that participant), ACCEPT is recorded, and the last one begins the entry steps. HANDSHAKE_TIMEOUT abandons the entry with reason 2 for the first that has not accepted. POWER_TRANSITION_DONE ends a transition: the state is the target, RESULT is OK, no request remains; without a transition, and on the way out of Fallow (which start-up ends), it does nothing. (R464, R465, R466, R467, R468, R469, R470, R479, R507) -/
def Obligations.PowerStateRequestsAndEntry : Prop :=
  ∀ (s : State),
    (∀ t, (pwrBusy s = true → pwrRequest s t = s)
      ∧ (pwrBusy s = false → t = s.pwr.state → pwrRequest s t = { s with pwr := { s.pwr with result := .ok, reason := 0, refuser := 0 } })
      ∧ (pwrBusy s = false → t ≠ s.pwr.state → t = .fallow → (s.fn 0).d3 = false →
          pwrRequest s t = { s with pwr := { s.pwr with result := .notReady, reason := 1, refuser := 0 } })
      ∧ (pwrBusy s = false → t.depth < s.pwr.state.depth → pwrRequest s t = wakeAny s)
      ∧ (pwrBusy s = false → s.pwr.state.depth < t.depth → (t = .fallow → (s.fn 0).d3 = true) →
          pwrRequest s t = { s with pwr := { s.pwr with shake := some (t, []), reason := 0, refuser := 0 } }))
    ∧ (s.up = true →
      (∀ a u, Reaches s a → u = seenFrom s a →
        exec (.pwrRun a) s = .next (watch (pwrRequest u .run)) ∧ exec (.pwrHold a) s = .next (watch (pwrRequest u .hold))
        ∧ exec (.pwrNap a) s = .next (watch (pwrRequest u .nap)))
      ∧ (s.regField (kBar0 0x24008) 0 1 = 1 ∧ s.pwr.state = .run → exec .autoHold s = .next (watch (pwrRequest s .hold)))
      ∧ (¬(s.regField (kBar0 0x24008) 0 1 = 1 ∧ s.pwr.state = .run) → exec .autoHold s = .next (watch s))
      ∧ (∀ n w, (s.boot.step < 10 → exec (.powerRequest n) s = .next (watch s))
        ∧ (10 ≤ s.boot.step → ((n = 0 → w = pwrRequest s .run) ∧ (n = 1 → w = pwrRequest s .hold) ∧ (n = 2 → w = pwrRequest s .nap)
              ∧ (n = 3 → w = pwrRequest s .fallow) ∧ (3 < n → w = s)) →
            exec (.powerRequest n) s = .next (watch { w with reply := [BitVec.ofNat 8 (statusCode w.pwr.result)], replyPoison := false })))
      ∧ (s.pwr.shake = none → (∀ p x, exec (.handshakeAnswer p x) s = .next (watch s)) ∧ exec .handshakeTimeout s = .next (watch s))
      ∧ (∀ t acc, s.pwr.shake = some (t, acc) →
        (∀ p x, (p ∉ participants t ∨ p ∈ acc → exec (.handshakeAnswer p x) s = .next (watch s))
          ∧ (∀ y, partAnswer s t p = some y → x ≠ y → exec (.handshakeAnswer p x) s = .next (watch s))
          ∧ (p ∈ participants t → p ∉ acc → (partAnswer s t p = some x ∨ (partAnswer s t p = none ∧ x ≠ .refuse)) →
              (x = .delay → exec (.handshakeAnswer p x) s = .next (watch s))
              ∧ (x = .refuse → exec (.handshakeAnswer p x) s
                  = .next (watch { s with pwr := { s.pwr with shake := none, result := .notReady, reason := 1, refuser := p } }))
              ∧ (x = .accept → (∀ q ∈ participants t, q ∈ acc ∨ q = p) →
                  exec (.handshakeAnswer p x) s = .next (watch { s with pwr := { s.pwr with shake := none, moving := some t } }))
              ∧ (x = .accept → (∃ q ∈ participants t, q ∉ acc ∧ q ≠ p) →
                  exec (.handshakeAnswer p x) s = .next (watch { s with pwr := { s.pwr with shake := some (t, setIns acc p) } }))))
        ∧ (∀ p, (participants t).find? (fun q => !acc.contains q) = some p →
            exec .handshakeTimeout s = .next (watch { s with pwr := { s.pwr with shake := none, result := .notReady, reason := 2, refuser := p } })))
      ∧ (s.pwr.moving = none → exec .powerTransitionDone s = .next (watch s))
      ∧ (s.pwr.moving = some .run → s.pwr.state = .fallow → exec .powerTransitionDone s = .next (watch s))
      ∧ (s.pwr.moving = some .run → s.pwr.state ≠ .fallow → Ends (exec .powerTransitionDone s) (fun t => t.pwr
          = { s.pwr with state := .run, moving := none, shake := none, result := .ok, reason := 0, refuser := 0 } ∧ t.rings = s.rings ∧ t.com = s.com))
      ∧ (∀ x, (x = .hold ∨ x = .nap) → s.pwr.moving = some x → s.pwr.wake = false → Ends (exec .powerTransitionDone s) (fun t => t.pwr
          = { s.pwr with state := x, moving := none, shake := none, result := .ok, reason := 0, refuser := 0 } ∧ t.rings = s.rings ∧ t.com = s.com))
      ∧ (s.pwr.moving = some .fallow → s.pwr.wake = false → Ends (exec .powerTransitionDone s) (fun t => t.pwr.state = .fallow ∧ t.pwr.moving = none
          ∧ t.pwr.result = .ok ∧ t.pwr.keepLoft = (s.regField (kBar0 0x24008) 13 1 == 1) ∧ t.boot.step = 0 ∧ t.aclk = [])))

/-- A wake event whose source WAKE_CFG does not enable, that does not end the present state, or that finds the module tripped (unless it is the sideband's and the module has cooled) changes nothing; a source above 4 does nothing. Otherwise its WAKE_CAUSE bit is set, and in Fallow with PERST asserted WAKE_N is driven where PME is enabled; else the module wakes: on its way to Run already, nothing more; during another transition the wake is remembered; a handshake in progress is abandoned with reason 2; out of a state below Run the exit begins. The sideband's wake is source 2. COMP_TRIP with the comparator disarmed does nothing; armed, it disarms it, sets WAKE_CAUSE bit 0, counts one and is a wake event of source 0. COMP_REARM arms it. A write to WAKE_CFG stores its defined bits and arms the comparator; nothing else changes. (R469, R471, R478, R480, R505, R536) -/
def Obligations.WakeEventsAndTheComparator : Prop :=
  ∀ (s : State),
    (s.pins.aux = true →
      (∀ k, 4 < k → exec (.wakeEvent k) s = .next (watch s))
      ∧ (∀ k, k ≤ 4 → exec (.wakeEvent k) s = .next (watch (wakeSource s k)))
      ∧ exec .sidebandWake s = .next (watch (wakeSource s 2))
      ∧ (s.pwr.armed = false → exec .compTrip s = .next (watch s))
      ∧ (∀ u, s.pwr.armed = true → u = { s with pwr := { s.pwr with armed := false } } →
          exec .compTrip s = .next (watch (wakeSource ((u.setBits kWakeCause 1).bump16 (kBar0 0x24018) 1) 0)))
      ∧ exec .compRearm s = .next (watch { s with pwr := { s.pwr with armed := true } }))
    ∧ (∀ a u v, s.up = true → Reaches s a → u = seenFrom s a →
        exec (.wakeCfgWrite a v) s = .next (watch { u.setReg kWakeCfg (v &&& 0x1FFF77F#32) with pwr := { u.pwr with armed := true } }))
    ∧ (∀ k,
      (s.regField kWakeCfg (20 + k) 1 = 0 ∨ wakeMatters s k = false ∨ (s.pwr.tripped = true ∧ (k ≠ 2 ∨ cooled s = false)) → wakeSource s k = s)
      ∧ (s.regField kWakeCfg (20 + k) 1 ≠ 0 → wakeMatters s k = true → (s.pwr.tripped = true → k = 2 ∧ cooled s = true) → ∀ w, w = s.setBits kWakeCause (2 ^ k) →
          ((s.pwr.state = .fallow ∧ s.pwr.moving = none ∧ s.pins.perst = true) →
            wakeSource s k = { w with pins := { w.pins with wakeN := w.pins.wakeN || (w.fn 0).pme } })
          ∧ (¬(s.pwr.state = .fallow ∧ s.pwr.moving = none ∧ s.pins.perst = true) → wakeSource s k = wakeAny w)))
    ∧ (s.pwr.moving = some .run → wakeAny s = s)
    ∧ (∀ x, s.pwr.moving = some x → x ≠ .run → (wakeAny s).pwr = { s.pwr with wake := true } ∧ (wakeAny s).reg kPwrIrq = s.reg kPwrIrq ||| 0x20000#32)
    ∧ (s.pwr.moving = none → s.pwr.state ≠ .run → s.pwr.shake = none →
        (wakeAny s).pwr = { s.pwr with moving := some .run, wake := false } ∧ (wakeAny s).reg kPwrIrq = s.reg kPwrIrq ||| 0x20000#32)
    ∧ (s.pwr.moving = none → s.pwr.state ≠ .run → s.pwr.shake ≠ none →
        (wakeAny s).pwr = { s.pwr with shake := none, moving := some .run, wake := false, result := .notReady, reason := 2, refuser := 0 }
        ∧ (wakeAny s).reg kPwrIrq = s.reg kPwrIrq ||| 0x20000#32)
    ∧ (s.pwr.moving = none → s.pwr.state = .run → s.pwr.shake ≠ none →
        (wakeAny s).pwr = { s.pwr with shake := none, result := .notReady, reason := 2, refuser := 0 }
        ∧ (wakeAny s).reg kPwrIrq = s.reg kPwrIrq ||| 0x20000#32)
    ∧ (s.pwr.moving = none → s.pwr.state = .run → s.pwr.shake = none → wakeAny s = s)

/-- A slew's end raises ACLK of the die to the step it slewed to where that is still allowed, else the die goes to its present target, and does nothing without a slew. A phase sample records the currents of the phases in service and retires each reported as faulty or carrying more than 50 A; retiring a phase marks it retired with no current, once. A spare's switch takes the rail's free spare, if any, and lifts what its shortage caused, else step 3 applies; a rail complete or beyond 51 changes nothing. A budget evaluation accounts the power; with the compute dies off it does nothing more; else it takes one action: it grants sprint to the next die, or above the budget takes the last grant back, lowers every ceiling by 25 MHz to no less than 600, or at the floor halves the issue rates, or 100 W below raises the ceilings to no more than 1200. An input overcurrent takes back every grant. A sensor's sample is recorded; an invalid one is counted against its die; a domain that is off is not read. At its trip limit the module trips: THERMTRIP_N, Fallow, Loft not kept. Below all its limits nothing acts. After a trip samples are only recorded. (R463, R473, R474, R475, R476, R477, R478, R479, R495) -/
def Obligations.ClocksPhasesBudgetAndTemperatures : Prop :=
  ∀ (s : State),
    (s.up = true →
      (∀ d, (16 ≤ d ∨ (s.die d).rising = none → exec (.aclkSlewDone d) s = .next (watch s))
        ∧ (∀ f, d < 16 → (s.die d).rising = some f →
            (f ≤ aclkTarget s d → exec (.aclkSlewDone d) s = .next (watch ({ s with aclk := tblSet 1200 s.aclk d f }.setDie d { s.die d with rising := none })))
            ∧ (aclkTarget s d < f → exec (.aclkSlewDone d) s = .next (watch (adjustDie s d)))))
      ∧ (∀ amps bad w l, w = (amps.zip (List.range 160)).foldl (fun u e => if (u.phase e.2).st ≤ 1 then u.setPhase e.2 { u.phase e.2 with amps := e.1 } else u) s →
          l = (List.range 160).filter (fun i => bad.contains i || (amps.zip (List.range 160)).any (fun e => e.2 == i && decide (500 < e.1) && decide ((w.phase i).st ≤ 1))) →
          exec (.phaseSample amps bad) s = .next (watch (l.foldl retirePhase w)))
      ∧ (∀ r, (52 ≤ r ∨ railBuilt r ≤ (railPhases s r).length → exec (.sparePhaseSwitched r) s = .next (watch s))
        ∧ (r < 52 → (railPhases s r).length < railBuilt r → ∀ w v,
            ((∀ i, spareFor s r = some i → w = spareNotice (s.setPhase i { st := 0, rail := r, amps := 0 }) ((freePhases s).length - 1))
              ∧ (spareFor s r = none → w = s)) →
            v = (if railBuilt r ≤ (railPhases w r).length then w.setRail r RailSt.reset else railStep3 w r) →
            (32 ≤ r → exec (.sparePhaseSwitched r) s = .next (watch v))
            ∧ (r < 32 → exec (.sparePhaseSwitched r) s = .next (watch (adjustDie v (r % 16))))))
      ∧ (∀ inW delivW u, u = budgetAccounts s inW delivW →
          (diesOn u = false → exec (.budgetEvaluation inW delivW) s = .next (watch u))
          ∧ (diesOn u = true → ∀ v w, v = (List.range 16).foldl (fun s d => thermStep (s.setDie d { s.die d with held := false }) d) u →
              w = (if inW < budgetW v then v.setPwr { v.pwr with halved := false } else v) →
              exec (.budgetEvaluation inW delivW) s = .next (watch (adjustDies (budgetAction w inW)))))
      ∧ (∃ u, exec .inputOvercurrent s = .next (watch u) ∧ u.pwr.granted = [])
      ∧ (s.pwr.tripped = false → ∀ i,
          (∀ v, 312 ≤ i → exec (.sensorSample i v) s = .next (watch s))
          ∧ (∀ u, i < 312 → u = s.setSensor i { s.sensor i with valid := false, at_ := some s.time } →
              (sensorOff s i = true → exec (.sensorSample i none) s = .next (watch u))
              ∧ (sensorOff s i = false → exec (.sensorSample i none) s = .next (watch (logEntry u 1 9 0 noCtx i))))
          ∧ (∀ v, i < 312 → sensorOff s i = true → exec (.sensorSample i (some v)) s = .next (watch s))
          ∧ (∀ v u, i < 312 → sensorOff s i = false → u = (bgUnit s 5).setSensor i { value := v % 65536, valid := true, at_ := some s.time } →
              exec (.sensorSample i (some v)) s = .next (watch (thermalSample u i (reading s i) (BitVec.ofNat 16 v).toInt)))))
    ∧ (s.pwr.tripped = true → s.pins.aux = true → ∀ i,
        exec (.sensorSample i none) s = .next (watch s)
        ∧ (∀ v, 312 ≤ i → exec (.sensorSample i v) s = .next (watch s))
        ∧ (∀ v, i < 312 → exec (.sensorSample i (some v)) s = .next (watch (s.setSensor i { value := v % 65536, valid := true, at_ := some s.time }))))
    ∧ (∀ i, ((s.phase i).st = 3 → retirePhase s i = s)
        ∧ ((s.phase i).st ≠ 3 → (retirePhase s i).pwr.phases = tblSet (PhaseSt.reset i) s.pwr.phases i { s.phase i with st := 3, amps := 0 }))
    ∧ (∀ inW, (∀ d, grantee s inW = some d → (budgetAction s inW).pwr.granted = d :: s.pwr.granted ∧ (budgetAction s inW).pwr.lastDie = d)
        ∧ (∀ d l, grantee s inW = none → budgetW s < inW → s.pwr.granted = d :: l → budgetAction s inW = revokeSprint s d)
        ∧ (grantee s inW = none → budgetW s < inW → s.pwr.granted = [] → (∀ d < 16, (s.die d).ceil ≤ 600) → (budgetAction s inW).pwr.halved = true)
        ∧ (grantee s inW = none → budgetW s < inW → s.pwr.granted = [] → (∃ d < 16, 600 < (s.die d).ceil) → budgetAction s inW = setCeilings s (fun c => max 600 (c - 25)))
        ∧ (grantee s inW = none → inW ≤ budgetW s → inW + 100 ≤ budgetW s → budgetAction s inW = setCeilings s (fun c => min 1200 (c + 25)))
        ∧ (grantee s inW = none → inW ≤ budgetW s → budgetW s < inW + 100 → budgetAction s inW = s))
    ∧ (∀ i old v thr crit trip, sensorLimits s i = some (thr, crit, trip) →
        (trip ≤ v → (thermalSample s i old v).pwr.state = .fallow ∧ (thermalSample s i old v).pwr.tripped = true
            ∧ (thermalSample s i old v).pwr.keepLoft = false ∧ (thermalSample s i old v).pins.thermtrip = true)
        ∧ (v < thr → v < crit → v < trip → thermalSample s i old v = s))

/-- For an agent that reaches BAR0, with u the state after its access has been seen and k the monitor that WM_SEL names: a write to WM_CFG sets EN, RISE, FALL and IRQ, and with EN 1 also ABOVE from the source's present value (1 exactly where it is at HI or above), recording no crossing. A write to WM_SRC of a kind that exists with an index within it sets both; otherwise only ERR is set. A write to WM_HI or WM_LO that leaves LO below HI sets it; otherwise only ERR is set. The low half of ELOG_RD is held; the high half makes both the new ELOG_RD where it lies from ELOG_RD to ELOG_WR, and otherwise ELOG_RD stays; the hold ends. A read of the entry data shows the slot that ELOG_SEL names, zeros where it holds none, and answers its first four bytes; it changes nothing else but the answer and its shadow. TIME_STEP adds TIME_ADJ to TIME; nothing else changes. (R497, R498, R501, R502, R503, R508, R509) -/
def Obligations.MonitorsErrorLogAndTime : Prop :=
  ∀ (s : State) (a : Agent) (u : State), s.up = true → Reaches s a → u = seenFrom s a →
    (∀ k x, k = wmSel u → x = u.mon k →
      (∀ v : Word, ∀ y, y = { x with en := v.getLsbD 0, rise := v.getLsbD 1, fall := v.getLsbD 2, irq := v.getLsbD 3 } →
        (v.getLsbD 0 = false → exec (.wmCfgWrite a v) s = .next (watch (u.setMon k y)))
        ∧ (v.getLsbD 0 = true → exec (.wmCfgWrite a v) s
            = .next (watch (u.setMon k { y with above := decide (threshold x.kind x.hi ≤ sourceValue u x.kind x.index), afresh := false }))))
      ∧ (∀ v : Word,
        (∀ n, kindIndices (bits v.toNat 0 8) = some n → bits v.toNat 8 16 < n → exec (.wmThresholdWrite a 0x2A004 v) s
            = .next (watch (u.setMon k { x with kind := bits v.toNat 0 8, index := bits v.toNat 8 16, afresh := x.en })))
        ∧ (kindIndices (bits v.toNat 0 8) = none → exec (.wmThresholdWrite a 0x2A004 v) s = .next (watch (u.setMon k { x with err := true })))
        ∧ (∀ n, kindIndices (bits v.toNat 0 8) = some n → n ≤ bits v.toNat 8 16 →
            exec (.wmThresholdWrite a 0x2A004 v) s = .next (watch (u.setMon k { x with err := true })))
        ∧ (threshold x.kind x.lo < threshold x.kind v.toNat →
            exec (.wmThresholdWrite a 0x2A008 v) s = .next (watch (u.setMon k { x with hi := v.toNat, afresh := x.en })))
        ∧ (threshold x.kind v.toNat ≤ threshold x.kind x.lo → exec (.wmThresholdWrite a 0x2A008 v) s = .next (watch (u.setMon k { x with err := true })))
        ∧ (threshold x.kind v.toNat < threshold x.kind x.hi →
            exec (.wmThresholdWrite a 0x2A00C v) s = .next (watch (u.setMon k { x with lo := v.toNat, afresh := x.en })))
        ∧ (threshold x.kind x.hi ≤ threshold x.kind v.toNat → exec (.wmThresholdWrite a 0x2A00C v) s = .next (watch (u.setMon k { x with err := true })))))
    ∧ (∀ v : Word, exec (.elogRdWrite a false v) s = .next (watch { u with elog := { u.elog with rdLo := some v } }))
    ∧ (∀ (v : Word) n, n = v.toNat * 2 ^ 32 + (u.elog.rdLo.map (·.toNat)).getD (u.elog.rd % 2 ^ 32) →
        (u.elog.rd ≤ n → n ≤ u.elog.wr → exec (.elogRdWrite a true v) s = .next (watch { u with elog := { u.elog with rdLo := none, rd := n } }))
        ∧ (n < u.elog.rd ∨ u.elog.wr < n → exec (.elogRdWrite a true v) s = .next (watch { u with elog := { u.elog with rdLo := none } })))
    ∧ (∀ bs, ((∀ e, tblFind u.elog.ents (u.regField (kBar0 0x28318) 0 12) = some e → bs = e.bytes)
          ∧ (tblFind u.elog.ents (u.regField (kBar0 0x28318) 0 12) = none → bs = List.replicate 32 0)) →
        exec (.elogEntryRead a) s = .next (watch { u with elog := { u.elog with shadow := bs }, reply := bs.take 4, replyPoison := false }))
    ∧ exec (.timeStep a) s = .next (watch { u with time := u.time + BitVec.ofNat 64 (u.ctr64 (kBar0 0x28208)) })

/-- A scrubbed unit counts in its pass and a finding acts: a clean unit does nothing more; a corrected Loft unit is logged and the 1,000th within an hour retires the pseudo-channel; a corrected line is logged and the fourth within a day takes a spare line; an uncorrectable crib line takes one at once; a line already retired has no finding. Units that do not exist are no unit. A PHY calibration counts for stacks 0 to 15; a pass beyond its period ends late. A spare copy's completion ends the oldest copy of the stack. A Silo request that times out is tried three times; then it is logged as an event, and the third within an hour retires the port; a retired port, or one beyond 11, is left alone. Retiring a Silo port marks it and leaves what lies on it. A written health record holds what is retired; a failed write changes nothing. A management core's restart is logged; when all four have restarted within 1 s a warm reset of kind 3 begins. (R482, R483, R485, R487, R488, R489, R490, R492, R494) -/
def Obligations.FaultsScrubAndRetirement : Prop :=
  ∀ (s : State), s.up = true →
    (∀ u k row f,
      (1088 ≤ k ∨ 2 ^ 20 ≤ row → exec (.scrubUnit 0 u k row f) s = .next (watch s))
      ∧ (k < 1088 → row < 2 ^ 20 → ∀ v, v = bgUnit s 0 →
          exec (.scrubUnit 0 u k row .clean) s = .next (watch v)
          ∧ (∀ e, e = faultEvent (logEntry v 0 2 0 noCtx k) (resKey kPch k) hour →
              (e.2 < 1000 → exec (.scrubUnit 0 u k row .corrected) s = .next (watch e.1))
              ∧ (1000 ≤ e.2 → exec (.scrubUnit 0 u k row .corrected) s = .next (watch (retirePch e.1 k))))
          ∧ exec (.scrubUnit 0 u k row .uncorrectable) s = .next (watch (loftFinding v u k row .uncorrectable))))
    ∧ (∀ u k line f,
      ((k < 1088 ∧ 24576 ≤ line) ∨ (1088 ≤ k ∧ 16384 ≤ line) ∨ 1600 ≤ k → exec (.scrubUnit 1 u k line f) s = .next (watch s))
      ∧ (∀ v, v = bgUnit s 1 → k < 1088 → line < 24576 →
          (isRetired v (lineKey false k line) = true ∨ f = .clean → exec (.scrubUnit 1 u k line f) s = .next (watch v))
          ∧ (isRetired v (lineKey false k line) = false → f = .corrected → ∀ e, e = faultEvent (logEntry v 0 0 0 noCtx k) (lineKey false k line) day →
              (e.2 < 4 → exec (.scrubUnit 1 u k line f) s = .next (watch e.1))
              ∧ (4 ≤ e.2 → exec (.scrubUnit 1 u k line f) s = .next (watch (retireArrayLine e.1 k line))))
          ∧ (isRetired v (lineKey false k line) = false → f = .uncorrectable → exec (.scrubUnit 1 u k line f) s = .next (watch (slotEvent v k))))
      ∧ (∀ v b, v = bgUnit s 1 → k = 1088 + b → b < 512 → line < 16384 →
          (isRetired v (lineKey true b line) = true ∨ f = .clean → exec (.scrubUnit 1 u k line f) s = .next (watch v))
          ∧ (isRetired v (lineKey true b line) = false → f = .corrected → ∀ e, e = faultEvent (logEntry v 0 1 0 noCtx b) (lineKey true b line) day →
              (e.2 < 4 → exec (.scrubUnit 1 u k line f) s = .next (watch e.1))
              ∧ (4 ≤ e.2 → exec (.scrubUnit 1 u k line f) s = .next (watch (retireCribLine e.1 b line))))
          ∧ (isRetired v (lineKey true b line) = false → f = .uncorrectable →
              exec (.scrubUnit 1 u k line f) s = .next (watch (retireCribLine (logEntry v 1 1 0 noCtx b) b line)))))
    ∧ (∀ act u k line f, 1 < act → exec (.scrubUnit act u k line f) s = .next (watch s))
    ∧ (∀ n, (n < 16 → exec (.phyCalibration n) s = .next (watch (bgUnit s 2))) ∧ (16 ≤ n → exec (.phyCalibration n) s = .next (watch s)))
    ∧ (∀ n, (n < 6 → bgLate s n = true → exec (.bgPassLate n) s = .next (watch (bgPassEnds s n)))
        ∧ (6 ≤ n ∨ bgLate s n = false → exec (.bgPassLate n) s = .next (watch s)))
    ∧ (∀ n, (∀ k, s.rel.copying.find? (fun k => k / 68 == n) = some k →
          exec (.pchSpareCopyDone n) s = .next (watch { s with rel := { s.rel with copying := s.rel.copying.erase k } }))
        ∧ (s.rel.copying.find? (fun k => k / 68 == n) = none → exec (.pchSpareCopyDone n) s = .next (watch s)))
    ∧ (∀ p, (12 ≤ p ∨ (s.siloPort p).retired = true → exec (.siloRequestTimeout p) s = .next (watch s) ∧ exec (.siloPortRetire p) s = .next (watch s))
        ∧ (p < 12 → (s.siloPort p).retired = false →
          ((s.siloPort p).tries < 3 → exec (.siloRequestTimeout p) s = .next (watch (s.setSiloPort p { s.siloPort p with tries := (s.siloPort p).tries + 1 })))
          ∧ (3 ≤ (s.siloPort p).tries → ∀ e, e = faultEvent (logEntry (s.setSiloPort p { s.siloPort p with tries := 0 }) 1 3 0 noCtx p) (resKey kSiloPort p) hour →
              (e.2 < 3 → exec (.siloRequestTimeout p) s = .next (watch e.1))
              ∧ (3 ≤ e.2 → exec (.siloRequestTimeout p) s = .next (watch (siloPortRetire e.1 p))))
          ∧ (∀ t ks, t = markRetired (s.setSiloPort p { s.siloPort p with retired := true, tries := 0 }) (resKey kSiloPort p) 3 → ks = t.grans.map (·.1) →
              exec (.siloPortRetire p) s = .next (watch (ks.foldl (leavePort p) (ks.foldl (moveReplica p) t))))))
    ∧ exec (.healthRecordWrite true) s = .next (watch { s with rel := { s.rel with recorded := s.rel.retired } })
    ∧ exec (.healthRecordWrite false) s = .next (watch s)
    ∧ (∀ c, (4 ≤ c → exec (.coreWatchdog c) s = .next (watch s))
        ∧ (c < 4 → ∀ l t, l = (c, s.time) :: s.mgmt.restarts.filter (fun e => s.time.toNat < e.2.toNat + 1000000000) →
            t = (faultEvent (logEntry s 6 8 0 noCtx c) (resKey kCore 0) day).1 →
            ((∀ d < 4, ∃ e ∈ l, e.1 = d) → exec (.coreWatchdog c) s = .next (watch (warmReset t 3)))
            ∧ ((∃ d < 4, ∀ e ∈ l, e.1 ≠ d) → exec (.coreWatchdog c) s = .next (watch { t with mgmt := { t.mgmt with restarts := l } }))))

/-- With auxiliary power: a message of more than 8 KiB only adds one to MCTP_DROP (saturating); one without a binding and type, of a binding above 1 or of another type, does nothing; before READY it is answered busy (4, a PRESUMED code, log entry 34), except Set and Get Endpoint ID. Set Endpoint ID of 1 to 254 sets that binding's EID and no other field; of 0 and 255 it only answers an error; Get Endpoint ID answers it. The message formats are PRESUMED (log entry 34). A PLDM request of an unsupported type is answered unsupported; a numeric sensor's reading is answered, and a sensor that does not exist is an error; no PLDM request but the event receiver's changes anything but the answer. GET_DIGESTS answers the digests of both chains, GET_MEASUREMENTS ends with a signature by the Alias key; an unsupported SPDM request is answered with an error. A firmware image goes to the inactive area (to area A after FAIL 2) and is pending exactly where it passes every check. Before READY the vendor messages are answered busy; a health record is answered in parts of 4 KiB, the error log from the oldest entry kept; a release sets ELOG_RD where it lies from ELOG_RD to ELOG_WR. (R413, R414, R420, R483, R502, R505, R506, R507, R508, R514, R517) -/
def Obligations.ManagementMessages : Prop :=
  ∀ (s : State), s.pins.aux = true →
    (∀ (b t : Byte) (m : List Byte) (i : Instr) (ty : Nat),
        (i = .mctpControl (b :: t :: m) ∧ ty = 0 ∨ i = .pldmRequest (b :: t :: m) ∧ ty = 1 ∨ i = .spdmRequest (b :: t :: m) ∧ ty = 5) →
      (8192 < m.length → exec i s = .next (watch (s.setReg (kBar0 0x28400)
          (setField (s.reg (kBar0 0x28400)) 16 16 (min 65535 (s.regField (kBar0 0x28400) 16 16 + 1))))))
      ∧ (m.length ≤ 8192 → 1 < b.toNat ∨ t.toNat ≠ ty → exec i s = .next (watch s))
      ∧ (m.length ≤ 8192 → b.toNat ≤ 1 → t.toNat = ty → s.boot.step ≠ 10 → (ty = 0 → (at_ m 1).toNat ≠ 1 ∧ (at_ m 1).toNat ≠ 2) →
          exec i s = .next (watch (replyWith s [4#8]))))
    ∧ (∀ msg : List Byte, msg.length < 2 →
        exec (.mctpControl msg) s = .next (watch s) ∧ exec (.pldmRequest msg) s = .next (watch s) ∧ exec (.spdmRequest msg) s = .next (watch s))
    ∧ (∀ (b t : Byte) (m : List Byte), m.length ≤ 8192 → b.toNat ≤ 1 → t.toNat = 0 →
        ((at_ m 1).toNat = 1 → (at_ m 3).toNat = 0 ∨ (at_ m 3).toNat = 255 → exec (.mctpControl (b :: t :: m)) s = .next (watch (replyWith s (answerHead m 1 ++ [2]))))
        ∧ ((at_ m 1).toNat = 1 → (at_ m 3).toNat ≠ 0 → (at_ m 3).toNat ≠ 255 → exec (.mctpControl (b :: t :: m)) s
            = .next (watch (replyWith (s.setReg (kBar0 0x28400) (setField (s.reg (kBar0 0x28400)) (8 * b.toNat) 8 (at_ m 3).toNat))
                (answerHead m 1 ++ [0, 0, at_ m 3, 0]))))
        ∧ ((at_ m 1).toNat = 2 → exec (.mctpControl (b :: t :: m)) s
            = .next (watch (replyWith s (answerHead m 1 ++ [0, BitVec.ofNat 8 (s.regField (kBar0 0x28400) (8 * b.toNat) 8), 0, 0]))))
        ∧ (s.boot.step = 10 → 5 < (at_ m 1).toNat → exec (.mctpControl (b :: t :: m)) s = .next (watch (replyWith s (answerHead m 1 ++ [5])))))
    ∧ (∀ (b t : Byte) (m : List Byte), m.length ≤ 8192 → b.toNat ≤ 1 → t.toNat = 1 → s.boot.step = 10 → ∀ q, q = (at_ m 1).toNat % 64 →
        (q ≠ 0 → q ≠ 2 → q ≠ 4 → exec (.pldmRequest (b :: t :: m)) s = .next (watch (replyWith s (answerHead m 2 ++ [5]))))
        ∧ (q = 2 → (at_ m 2).toNat = 0x11 → ∀ bs, numericReading s (fld m 3 2) = some bs →
            exec (.pldmRequest (b :: t :: m)) s = .next (watch (replyWith s (answerHead m 2 ++ (0 :: bs)))))
        ∧ (q = 2 → (at_ m 2).toNat = 0x11 → numericReading s (fld m 3 2) = none →
            exec (.pldmRequest (b :: t :: m)) s = .next (watch (replyWith s (answerHead m 2 ++ [0x80]))))
        ∧ (∃ bs e, exec (.pldmRequest (b :: t :: m)) s = .next (watch { s with mgmt := { s.mgmt with events := e }, reply := bs, replyPoison := false })
            ∧ (¬(q = 2 ∧ (at_ m 2).toNat = 4) → e = s.mgmt.events)))
    ∧ (∀ (b t : Byte) (m : List Byte), m.length ≤ 8192 → b.toNat ≤ 1 → t.toNat = 5 → s.boot.step = 10 →
        ((at_ m 1).toNat = 0x81 → exec (.spdmRequest (b :: t :: m)) s
            = .next (watch (replyWith s ([0x12, 0x01, 0, 3] ++ sha384 (spdmChain s 0) ++ sha384 (spdmChain s 1)))))
        ∧ ((at_ m 1).toNat = 0xE0 → Ends (exec (.spdmRequest (b :: t :: m)) s) (fun u => u.free = s.free + 2 ∧ u.vault = s.vault ∧ ∃ k, ∃ bs : List Byte,
            bs = [0x12, 0x60, 3, 0, 3] ++ bytesLE (spdmMeasurements s).length 3 ++ spdmMeasurements s ++ bytesLE (Config.freeValue s.free) 32 ++ bytesLE 0 2
            ∧ u.reply = bs ++ ecdsaSign s.vault.alias_ k (m ++ bs)))
        ∧ ((at_ m 1).toNat ∉ [0x84, 0xE1, 0xE3, 0x81, 0x82, 0x83, 0xE0] → exec (.spdmRequest (b :: t :: m)) s
            = .next (watch (replyWith s [0x12, 0x7F, 7, at_ m 1]))))
    ∧ (∀ g : List Byte, (s.boot.step ≠ 10 → s.boot.fail ≠ 2 → exec (.pldmFirmwareUpdate g) s = .next (watch (replyWith s [4#8])))
        ∧ (s.boot.step = 10 ∨ s.boot.fail = 2 → Ends (exec (.pldmFirmwareUpdate g) s) (fun u =>
            ((s.boot.fail = 2 ∨ s.boot.active = 1) → u.boot.areaA = g ∧ u.boot.areaB = s.boot.areaB)
            ∧ ((s.boot.fail ≠ 2 ∧ s.boot.active = 0) → u.boot.areaA = s.boot.areaA ∧ u.boot.areaB = g)
            ∧ (fwPasses s g = true → u.reply = [0] ∧ u.boot.pend = some (if s.boot.fail = 2 then 0 else 1 - s.boot.active))
            ∧ (fwPasses s g = false → u.reply = [1] ∧ u.boot.pend = s.boot.pend)
            ∧ u.boot.active = s.boot.active ∧ u.vault = s.vault)))
    ∧ (∀ n, (s.boot.step ≠ 10 → exec (.healthRecordRead n) s = .next (watch (replyWith s [4#8])) ∧ exec (.errorLogRead n) s = .next (watch (replyWith s [4#8]))
          ∧ exec (.errorLogRelease n) s = .next (watch (replyWith s [4#8])))
      ∧ (s.boot.step = 10 →
          exec (.healthRecordRead n) s = .next (watch (replyWith s (((healthRecord s).drop (4096 * n)).take 4096)))
          ∧ (∀ f, f = max n (s.elog.wr - 4096) → exec (.errorLogRead n) s
              = .next (watch (replyWith s ((List.range (min 128 (s.elog.wr - f))).flatMap (fun i => ((tblFind s.elog.ents ((f + i) % 4096)).map LogEnt.bytes).getD [])))))
          ∧ (s.elog.rd ≤ n → n ≤ s.elog.wr → exec (.errorLogRelease n) s = .next (watch { s with elog := { s.elog with rd := n } }))
          ∧ (n < s.elog.rd ∨ s.elog.wr < n → exec (.errorLogRelease n) s = .next (watch s))))

/-- COLD_RESET is answered in every state: no context, ring, object, event or latch is left, the registers are at reset but BOOT_CFG, the key records, security version, health record and SPI NOR are kept, auxiliary power is present and the steps run from step 0. AUX_POWER_LOSS does the same and leaves the module without auxiliary power and no step running. A warm reset also ends all work; it keeps TIME, the error log, the health record, the counters that only a cold reset clears, the die links' repairs and DIE_PRESENT, and sets LAST_KIND; PERST_N outside Fallow, the 12 V input, the hub and SYSREF_CLK after step 1 each begin one, and RST_CTRL does with its key and bit only. PERST_N asserted in Fallow only sets the pin; asserted again, or with a supply already lost, nothing happens. Its deassertion outside Fallow starts the steps that wait for it; in Fallow it resets the host port and is a wake. (R464, R469, R510, R511, R522, R523, R525, R531, R532, R533) -/
def Obligations.ResetsKeepAndClear : Prop :=
  ∀ (s : State),
    Ends (exec .coldReset s) (fun t => t.ctxs = [] ∧ t.rings = [] ∧ t.evc = [] ∧ t.latches = [] ∧ t.grans = [] ∧ t.com.bodies = [] ∧ t.com.mem = []
        ∧ t.com.host = s.com.host ∧ t.pending = s.pending ∧ t.fab = Fabric.reset ∧ t.topo = Topo.reset ∧ t.plan = PlanSt.reset
        ∧ t.regs = s.regs.filter (fun e => e.1 == 0x3000C)
        ∧ t.vault.owner = s.vault.owner ∧ t.vault.ownerSeq = s.vault.ownerSeq ∧ t.vault.planKeys = s.vault.planKeys ∧ t.vault.pubKeys = s.vault.pubKeys
        ∧ t.vault.svn = s.vault.svn ∧ t.vault.revoked = s.vault.revoked ∧ t.vault.pkgs = []
        ∧ t.rel.recorded = s.rel.recorded ∧ t.boot.areaA = s.boot.areaA ∧ t.boot.areaB = s.boot.areaB ∧ t.boot.plan = s.boot.plan
        ∧ t.boot.step = 0 ∧ t.boot.running = true ∧ t.pins.aux = true ∧ t.pins.sbAddr = 0x60 + s.pins.strap)
    ∧ (∀ k, (warmReset s k).ctxs = [] ∧ (warmReset s k).rings = [] ∧ (warmReset s k).evc = [] ∧ (warmReset s k).com.bodies = [] ∧ (warmReset s k).time = s.time
        ∧ (warmReset s k).elog.ents = s.elog.ents ∧ (warmReset s k).elog.wr = s.elog.wr ∧ (warmReset s k).rel.recorded = s.rel.recorded
        ∧ (warmReset s k).topo.diePresent = s.topo.diePresent ∧ (warmReset s k).boot.kind = k ∧ (warmReset s k).boot.step = 0
        ∧ (warmReset s k).vault.owner = s.vault.owner ∧ (warmReset s k).boot.plan = s.boot.plan ∧ (warmReset s k).pins.perst = s.pins.perst)
    ∧ (s.pins.aux = true →
      Ends (exec .auxPowerLoss s) (fun t => t.pins.aux = false ∧ t.boot.running = false ∧ t.boot.step = 0 ∧ t.ctxs = [] ∧ t.rings = []
          ∧ t.vault.owner = s.vault.owner ∧ t.boot.plan = s.boot.plan)
      ∧ (s.pins.perst = true ∨ s.pwr.state = .fallow → exec (.warmReset 0) s = .next (watch s))
      ∧ (s.pins.perst = false → s.pwr.state ≠ .fallow → exec (.warmReset 0) s = .next (watch (warmReset { s with pins := { s.pins with perst := true } } 1)))
      ∧ (s.pins.v12 = false → exec (.warmReset 1) s = .next (watch s))
      ∧ (s.pins.v12 = true → ∃ u, exec (.warmReset 1) s = .next (watch (warmReset u 1)) ∧ u.pins = { s.pins with v12 := false } ∧ u.time = s.time)
      ∧ (s.up = true → exec (.warmReset 2) s = .next (watch (warmReset s 3)))
      ∧ (s.up = false → exec (.warmReset 2) s = .next (watch s))
      ∧ (s.pins.perst = false → exec .perstDeassert s = .next (watch s))
      ∧ (∀ u, s.pins.perst = true → u = { s with pins := { s.pins with perst := false, wakeN := false } } →
          (s.pwr.state = .fallow → exec .perstDeassert s = .next (watch (perstWake (hostPortReset u))))
          ∧ (s.pwr.state ≠ .fallow → s.boot.step = 0 → s.boot.running = false →
              exec .perstDeassert s = .next (watch { u with boot := { u.boot with step := 1, running := true, began := u.time } }))
          ∧ (s.pwr.state ≠ .fallow → s.boot.step ≠ 0 ∨ s.boot.running = true → exec .perstDeassert s = .next (watch u)))
      ∧ (s.pwr.state = .fallow → exec .perstAssertInFallow s = .next (watch { s with pins := { s.pins with perst := true } }))
      ∧ (s.pwr.state ≠ .fallow → exec .perstAssertInFallow s = .next (watch s))
      ∧ (s.pins.sysref = false → exec .sysrefClkLoss s = .next (watch s))
      ∧ (∀ u, s.pins.sysref = true → u = { s with pins := { s.pins with sysref := false } } →
          (s.boot.step < 2 → exec .sysrefClkLoss s = .next (watch u))
          ∧ (2 ≤ s.boot.step → ∃ k, exec .sysrefClkLoss s = .next (watch (warmReset { u with free := u.free + 1 } k)))))
    ∧ (∀ a (v : Word), (s.up = true ∨ s.boot.fail = 2) → Reaches s a →
        (bits v.toNat 0 8 = 0xA5 → v.getLsbD 8 = true → exec (.rstCtrlWarm a v) s = .next (watch (warmReset (seenFrom s a) 2)))
        ∧ (bits v.toNat 0 8 ≠ 0xA5 ∨ v.getLsbD 8 = false → exec (.rstCtrlWarm a v) s = .next (watch (seenFrom s a))))

/-- With auxiliary power, a step in progress ends: after step 0, or the wait of a warm reset, step 1 begins unless PERST_N is asserted (or the module is in Fallow); step 1 goes on with both supplies present, else FAIL is 1 and start-up stops; step 3 goes on with an image that passes, else FAIL is 2; the other steps each begin the next, step 5 with the die links trained, step 8 with the record's retirements in force, step 9 with READY (step 10), START_MS holding the milliseconds since step 1 began. Step 10 of a Fallow exit ends in Run with the wrapping key gone. No other end of a step changes anything. A retry of step 1 only acts where step 1 has stopped; what it finds is a free value (log entry 1). A training try of a Silo port that is not ready changes nothing; a port that trained holds its capacity unless it is retired. The boot plan's load starts in step 10 once its Silo ports have trained or SILO_WAIT_MS has passed, and ends NOT_READY where a context exists or a die is missing. FALLOW_EXIT begins the steps of an exit, after a trip a warm reset of kind 4, and otherwise does nothing. (R470, R489, R510, R512, R513, R514, R515, R518, R519, R520, R523, R535) -/
def Obligations.StartupRunsItsStepsInOrder : Prop :=
  ∀ (s : State),
    (s.pins.aux = true → ∀ b, b = s.boot →
      (b.running = false → b.step ≠ 0 → exec .startupStepDone s = .next (watch s))
      ∧ (b.step = 0 → s.pins.perst = true → exec .startupStepDone s = .next (watch { s with boot := { b with running := false } }))
      ∧ (b.step = 0 → s.pins.perst = false → s.pwr.state = .fallow → exec .startupStepDone s = .next (watch s))
      ∧ (b.step = 0 → s.pins.perst = false → s.pwr.state ≠ .fallow →
          exec .startupStepDone s = .next (watch { s with boot := { b with step := 1, running := true, began := s.time } }))
      ∧ (b.running = true →
        (b.step = 1 → s.pins.v12 = true → s.pins.sysref = true → exec .startupStepDone s = .next (watch { s with boot := { b with fail := 0, step := 2 } }))
        ∧ (b.step = 1 → s.pins.v12 = false ∨ s.pins.sysref = false →
            exec .startupStepDone s = .next (watch { s with boot := { b with fail := 1, running := false } }))
        ∧ (b.step = 2 ∨ b.step = 4 → exec .startupStepDone s = .next (watch { s with boot := { b with step := b.step + 1 } }))
        ∧ (∀ u, b.step = 3 → u = selectImage s → (u.boot.fail = 2 → exec .startupStepDone s = .next (watch u))
            ∧ (u.boot.fail ≠ 2 → exec .startupStepDone s = .next (watch { u with boot := { u.boot with step := 4 } })))
        ∧ (∀ u, b.step = 5 → u = (List.range 47).foldl (fun t n => t.setLink n { t.link n with up := linkBuilt n }) s →
            exec .startupStepDone s = .next (watch { u with boot := { u.boot with step := 6 } }))
        ∧ (∀ u, b.step = 8 → u = recordStep s → exec .startupStepDone s = .next (watch { u with boot := { u.boot with step := 9 } }))
        ∧ (b.step = 9 → s.pwr.state = .fallow → exec .startupStepDone s = .next (watch { s with boot := { b with step := 10 } }))
        ∧ (b.step = 9 → s.pwr.state ≠ .fallow → Ends (exec .startupStepDone s) (fun t => t.boot.step = 10
            ∧ t.boot.startMs = min 65535 ((s.time.toNat - b.began.toNat) / 1000000) ∧ t.ctxs = s.ctxs ∧ t.regs = s.regs))
        ∧ (10 ≤ b.step → s.pwr.state ≠ .fallow → exec .startupStepDone s = .next (watch s))
        ∧ (10 ≤ b.step → s.pwr.state = .fallow → Ends (exec .startupStepDone s) (fun t => t.pwr.state = .run ∧ t.boot.wrapKey = 0
            ∧ t.boot.running = false ∧ t.ctxs = s.ctxs ∧ t.rings = s.rings ∧ t.com = s.com)))
      ∧ (b.step = 6 → b.running = true → ∃ u : State, exec .startupStepDone s = .next (watch { u with boot := { u.boot with step := 7 } }) ∧ u.ctxs = s.ctxs)
      ∧ (b.step = 7 → b.running = true → ∃ f, (f = b.fail ∨ f = 4) ∧
          exec .startupStepDone s = .next (watch { s with free := s.free + 1, boot := { b with fail := f, step := 8 } }))
      ∧ (¬(b.step = 1 ∧ b.running = false) → exec .startupStep1Retry s = .next (watch s))
      ∧ (b.step = 1 → b.running = false → ∃ u, exec .startupStep1Retry s = .next (watch u) ∧ u.boot.step = 1
          ∧ (u.boot.running = true → u.pins.v12 = true ∧ u.pins.sysref = true ∧ u.boot.fail = 0) ∧ u.regs = s.regs)
      ∧ (s.pwr.state ≠ .fallow ∨ s.pwr.moving ≠ some .run ∨ b.running = true ∨ b.step ≠ 0 → exec .fallowExit s = .next (watch s))
      ∧ (s.pwr.state = .fallow → s.pwr.moving = some .run → b.running = false → b.step = 0 →
          (s.pwr.tripped = true → exec .fallowExit s = .next (watch (warmReset s 4)))
          ∧ (s.pwr.tripped = false → exec .fallowExit s = .next (watch { s with boot := { b with step := 1, running := true, began := s.time } }))))
    ∧ (s.up = true →
      (∀ p, exec (.siloTrainingRetry p) s = .next (watch s))
      ∧ (∀ p n, (12 ≤ p ∨ (s.siloPort p).retired = true → exec (.siloPortTrained p n) s = .next (watch s))
        ∧ (p < 12 → (s.siloPort p).retired = false →
            exec (.siloPortTrained p n) s = .next (watch (s.setSiloPort p { s.siloPort p with trained := true, capacity := n, tries := 0 }))))
      ∧ (s.boot.step ≠ 10 ∨ s.boot.running = false ∨ s.pwr.state = .fallow ∨ fpBusy s = true ∨ bootPlanDue s = false →
          exec .bootPlanLoad s = .next (watch s))
      ∧ (s.boot.step = 10 → s.boot.running = true → s.pwr.state ≠ .fallow → fpBusy s = false → bootPlanDue s = true →
          (someContext s = true ∨ allDies s = false → ∀ u, u = { s with plan := { s.plan with lastOp := 1, lastSlot := 0 } } →
            exec .bootPlanLoad s = .next (watch (bootPlanEnds (fpEnd u .notReady none) .notReady)))
          ∧ (someContext s = false → allDies s = true → ∀ o, o = { op := 1, slot := 0, addr := 0, len := s.boot.plan.length, boot := true } →
              exec .bootPlanLoad s = .next (watch { s with plan := { s.plan with lastOp := 1, lastSlot := 0, op := some o } }))))

/-- For an agent that reaches BAR0 from FAIL 2 or start-up step 2 on, u being the state after its access has been seen. STORE starts an operation with FP_SRC and FP_LEN unless one runs; ERASE empties the stored image and sets BOOT_RESULT to OK unless one runs; a write during an operation changes nothing. The operation's end: an image that fails a check sets BOOT_RESULT to that status and leaves the stored image as it was (a SIGNATURE outcome is counted); one that passes becomes the stored image, byte for byte, with OK. Without an operation nothing happens. A write to BOOT_CFG stores its defined bits. None of them changes a context, a ring or an object. (R434, R514, R520, R525, R526) -/
def Obligations.BootStoreAndItsConfiguration : Prop :=
  ∀ (s : State), (s.up = true ∨ s.boot.fail = 2) →
    (∀ a u, Reaches s a → u = seenFrom s a →
      (s.boot.op = none →
          exec (.bootStore a) s = .next (watch { u with boot := { u.boot with op := some (u.ctr64 kFpSrc, (u.reg (kBar0 0x800C)).toNat) } })
          ∧ exec (.bootErase a) s = .next (watch { u with boot := { u.boot with plan := [], opResult := .ok } }))
      ∧ (s.boot.op ≠ none → exec (.bootStore a) s = .next (watch u) ∧ exec (.bootErase a) s = .next (watch u))
      ∧ (∀ v, exec (.bootCfgWrite a v) s = .next (watch (u.setReg (kBar0 0x3000C) (v &&& 0xFFF1#32)))))
    ∧ (s.boot.op = none → exec .bootStoreDone s = .next (watch s))
    ∧ (∀ x n img, s.boot.op = some (x, n) → img = memRead s.com.host x (if n ≤ 4194304 then n else 0) →
        (∀ f, storeCheck s img n = some f → Ends (exec .bootStoreDone s) (fun t => t.boot = { s.boot with op := none, opResult := f.st }
            ∧ t.ctxs = s.ctxs ∧ t.rings = s.rings ∧ t.com = s.com ∧ (f.st ≠ .signature → t.regs = s.regs)))
        ∧ (storeCheck s img n = none → exec .bootStoreDone s = .next (watch { s with boot := { s.boot with op := none, opResult := .ok, plan := img } })))
end

