-- ==== Sys2Proof/Laws/Table.lean ====
section
/-! SUPPORT. Sys2Proof/Laws/Table.lean: what the operations on sparse tables do: reads after writes, and the rising keys kept. -/

namespace Sys2Proof.Machine

variable {α β : Type}

/-! ### Reads after writes, on any list -/

@[simp] theorem tblFind_nil (k : Nat) : tblFind ([] : Tbl α) k = none := rfl

@[simp] theorem tblGet_nil (d : α) (k : Nat) : tblGet d [] k = d := rfl

/-- What has been inserted is found. -/
@[simp] theorem tblFind_tblIns_self (t : Tbl α) (k : Nat) (v : α) : tblFind (tblIns t k v) k = some v := by
  induction t with
  | nil => simp [tblIns, tblFind]
  | cons e t ih =>
    obtain ⟨j, w⟩ := e
    simp only [tblIns]
    split
    · simp [tblFind]
    · split
      · simp [tblFind]
      · simp [tblFind, *]

/-- An insertion leaves every other key. -/
theorem tblFind_tblIns_ne (t : Tbl α) {k j : Nat} (v : α) (h : j ≠ k) : tblFind (tblIns t k v) j = tblFind t j := by
  induction t with
  | nil =>
    simp only [tblIns, tblFind, if_neg h]
    split <;> rfl
  | cons e t ih =>
    obtain ⟨i, w⟩ := e
    simp only [tblIns]
    split
    · next hk =>
      subst hk
      simp only [tblFind, if_neg h]
    · split
      · simp only [tblFind, if_neg h]
        by_cases h1 : j < k
        · have h2 : j ≠ i := by omega
          have h3 : j < i := by omega
          simp [h1, h2, h3]
        · simp [h1]
      · simp only [tblFind, ih]

theorem tblGet_tblIns_self (d : α) (t : Tbl α) (k : Nat) (v : α) : tblGet d (tblIns t k v) k = v := by
  simp [tblGet]

theorem tblGet_tblIns_ne (d : α) (t : Tbl α) {k j : Nat} (v : α) (h : j ≠ k) :
    tblGet d (tblIns t k v) j = tblGet d t j := by
  simp [tblGet, tblFind_tblIns_ne t v h]

/-- A value other than the default is read back, from any list. -/
theorem tblGet_tblSet_of_ne [DecidableEq α] (d : α) (t : Tbl α) (k : Nat) {v : α} (h : v ≠ d) :
    tblGet d (tblSet d t k v) k = v := by
  simp [tblSet, h, tblGet]

/-- A found key is listed. -/
theorem tblFind_mem {t : Tbl α} {k : Nat} {v : α} (h : tblFind t k = some v) : (k, v) ∈ t := by
  induction t with
  | nil => simp at h
  | cons e t ih =>
    obtain ⟨j, w⟩ := e
    simp only [tblFind] at h
    split at h
    · next hk => subst hk; cases h; exact List.mem_cons_self
    · split at h
      · cases h
      · exact List.mem_cons_of_mem _ (ih h)

/-! ### Rising keys -/

theorem tblAbove_iff {n : Nat} {t : Tbl α} : tblAbove n t = true ↔ tblSorted t = true ∧ ∀ e ∈ t, n < e.1 := by
  induction t generalizing n with
  | nil => simp [tblAbove, tblSorted]
  | cons e t ih =>
    obtain ⟨j, w⟩ := e
    simp only [tblAbove, tblSorted, Bool.and_eq_true, decide_eq_true_eq, List.mem_cons, forall_eq_or_imp]
    constructor
    · rintro ⟨h, h'⟩
      exact ⟨h', h, fun e he => Nat.lt_trans h ((ih.1 h').2 e he)⟩
    · rintro ⟨h', h, _⟩
      exact ⟨h, h'⟩

theorem tblSorted_cons {e : Nat × α} {t : Tbl α} : tblSorted (e :: t) = true ↔ tblSorted t = true ∧ ∀ x ∈ t, e.1 < x.1 :=
  tblAbove_iff

theorem mem_tblIns {t : Tbl α} {k : Nat} {v : α} {e : Nat × α} (h : e ∈ tblIns t k v) : e = (k, v) ∨ e ∈ t := by
  induction t with
  | nil => simpa [tblIns] using h
  | cons x t ih =>
    obtain ⟨j, w⟩ := x
    simp only [tblIns] at h
    split at h
    · rcases List.mem_cons.1 h with h | h
      · exact .inl h
      · exact .inr (List.mem_cons_of_mem _ h)
    · split at h
      · rcases List.mem_cons.1 h with h | h
        · exact .inl h
        · exact .inr h
      · rcases List.mem_cons.1 h with h | h
        · exact .inr (h ▸ List.mem_cons_self)
        · exact (ih h).imp id (List.mem_cons_of_mem _)

/-- An insertion keeps the keys rising. -/
@[simp] theorem tblSorted_tblIns {t : Tbl α} {k : Nat} {v : α} (h : tblSorted t = true) : tblSorted (tblIns t k v) = true := by
  induction t with
  | nil => rfl
  | cons x t ih =>
    obtain ⟨j, w⟩ := x
    have h' := tblSorted_cons.1 h
    simp only [tblIns]
    split
    · next hk => subst hk; exact tblSorted_cons.2 h'
    · split
      · next hlt =>
        refine tblSorted_cons.2 ⟨h, ?_⟩
        intro e he
        rcases List.mem_cons.1 he with he | he
        · subst he; exact hlt
        · exact Nat.lt_trans hlt (h'.2 e he)
      · next hne hlt =>
        refine tblSorted_cons.2 ⟨ih h'.1, ?_⟩
        intro e he
        rcases mem_tblIns he with he | he
        · subst he; simp only; omega
        · exact h'.2 e he

/-- A part of a table keeps the keys rising. -/
theorem tblSorted_sublist {t u : Tbl α} (hs : List.Sublist u t) (h : tblSorted t = true) : tblSorted u = true := by
  induction hs with
  | slnil => rfl
  | cons x _ ih => exact ih (tblSorted_cons.1 h).1
  | cons_cons x hsub ih =>
    have h' := tblSorted_cons.1 h
    exact tblSorted_cons.2 ⟨ih h'.1, fun e he => h'.2 e (hsub.subset he)⟩

@[simp] theorem tblSorted_filter {t : Tbl α} {p : Nat × α → Bool} (h : tblSorted t = true) : tblSorted (t.filter p) = true :=
  tblSorted_sublist List.filter_sublist h

theorem tblDel_sublist (t : Tbl α) (k : Nat) : List.Sublist (tblDel t k) t := by
  induction t with
  | nil => exact List.Sublist.slnil
  | cons x t ih =>
    obtain ⟨j, w⟩ := x
    simp only [tblDel]
    split
    · exact List.sublist_cons_self _ _
    · split
      · exact List.Sublist.refl _
      · exact ih.cons_cons _

@[simp] theorem tblSorted_tblDel {t : Tbl α} {k : Nat} (h : tblSorted t = true) : tblSorted (tblDel t k) = true :=
  tblSorted_sublist (tblDel_sublist t k) h

/-- A write keeps the keys rising. -/
@[simp] theorem tblSorted_tblSet [DecidableEq α] {d : α} {t : Tbl α} {k : Nat} {v : α} (h : tblSorted t = true) :
    tblSorted (tblSet d t k v) = true := by
  unfold tblSet
  split
  · exact tblSorted_tblDel h
  · exact tblSorted_tblIns h

/-- New values under the same keys keep the keys rising. -/
theorem tblSorted_map {t : Tbl α} {f : Nat × α → Nat × β} (hf : ∀ e, (f e).1 = e.1) (h : tblSorted t = true) :
    tblSorted (t.map f) = true := by
  induction t with
  | nil => rfl
  | cons e t ih =>
    have h' := tblSorted_cons.1 h
    refine tblSorted_cons.2 ⟨ih h'.1, ?_⟩
    intro x hx
    obtain ⟨y, hy, rfl⟩ := List.mem_map.1 hx
    rw [hf, hf]
    exact h'.2 y hy

/-- Entries dropped or changed under their keys keep the keys rising. -/
theorem tblSorted_filterMap {t : Tbl α} {f : Nat × α → Option (Nat × β)} (hf : ∀ e y, f e = some y → y.1 = e.1)
    (h : tblSorted t = true) : tblSorted (t.filterMap f) = true := by
  induction t with
  | nil => rfl
  | cons e t ih =>
    have h' := tblSorted_cons.1 h
    rw [List.filterMap_cons]
    cases he : f e with
    | none => exact ih h'.1
    | some y =>
      refine tblSorted_cons.2 ⟨ih h'.1, ?_⟩
      intro x hx
      obtain ⟨z, hz, hfz⟩ := List.mem_filterMap.1 hx
      rw [hf e y he, hf z x hfz]
      exact h'.2 z hz

/-! ### Deletion, on a table with rising keys -/

theorem tblFind_none_of_above {t : Tbl α} {k : Nat} (h : ∀ e ∈ t, k < e.1) : tblFind t k = none := by
  cases t with
  | nil => rfl
  | cons e t =>
    obtain ⟨j, w⟩ := e
    have hj : k < j := h (j, w) List.mem_cons_self
    simp only [tblFind, if_neg (Nat.ne_of_lt hj), if_pos hj]

theorem tblFind_tblDel_self {t : Tbl α} {k : Nat} (h : tblSorted t = true) : tblFind (tblDel t k) k = none := by
  induction t with
  | nil => rfl
  | cons e t ih =>
    obtain ⟨j, w⟩ := e
    have h' := tblSorted_cons.1 h
    simp only [tblDel]
    split
    · next hk => subst hk; exact tblFind_none_of_above h'.2
    · split
      · next hne hlt => simp only [tblFind, if_neg hne, if_pos hlt]
      · next hne hlt => simp only [tblFind, if_neg hne, if_neg hlt]; exact ih h'.1

theorem tblFind_tblDel_ne {t : Tbl α} {k j : Nat} (hs : tblSorted t = true) (h : j ≠ k) : tblFind (tblDel t k) j = tblFind t j := by
  induction t with
  | nil => rfl
  | cons e t ih =>
    obtain ⟨i, w⟩ := e
    have h' := tblSorted_cons.1 hs
    simp only [tblDel]
    split
    · next hk =>
      subst hk
      simp only [tblFind, if_neg h]
      split
      · next hlt => exact tblFind_none_of_above (fun e he => Nat.lt_trans hlt (h'.2 e he))
      · rfl
    · split
      · rfl
      · simp only [tblFind, ih h'.1]

/-- A read after a write of the same key. -/
theorem tblGet_tblSet_self [DecidableEq α] {d : α} {t : Tbl α} (k : Nat) (v : α) (h : tblSorted t = true) :
    tblGet d (tblSet d t k v) k = v := by
  unfold tblSet
  split
  · next hv => subst hv; simp [tblGet, tblFind_tblDel_self h]
  · simp [tblGet]

/-- A write leaves every other key. -/
theorem tblGet_tblSet_ne [DecidableEq α] {d : α} {t : Tbl α} {k j : Nat} (v : α) (hs : tblSorted t = true) (h : j ≠ k) :
    tblGet d (tblSet d t k v) j = tblGet d t j := by
  unfold tblSet
  split
  · simp [tblGet, tblFind_tblDel_ne hs h]
  · exact tblGet_tblIns_ne d t v h

/-- A write leaves what is listed at every other key. -/
theorem tblFind_tblSet_ne [DecidableEq α] {d : α} {t : Tbl α} {k j : Nat} (v : α) (hs : tblSorted t = true) (h : j ≠ k) :
    tblFind (tblSet d t k v) j = tblFind t j := by
  unfold tblSet
  split
  · exact tblFind_tblDel_ne hs h
  · exact tblFind_tblIns_ne t v h

/-- A write of another value than the default leaves every other key, on any list. -/
theorem tblGet_tblSet_ne_of_ne [DecidableEq α] {d : α} {t : Tbl α} {k j : Nat} {v : α} (hv : v ≠ d) (h : j ≠ k) :
    tblGet d (tblSet d t k v) j = tblGet d t j := by
  rw [tblSet, if_neg hv]
  exact tblGet_tblIns_ne d t v h

end Sys2Proof.Machine
end

