-- ==== Sys2Proof/Laws/State.lean ====
section
/-! SUPPORT. Sys2Proof/Laws/State.lean: every update of the state, field by field: the field it writes, and the fields it leaves. -/

namespace Sys2Proof.Machine

open Sys2Proof

variable (s : State)

section

variable {c : Nat} {x : Ctx}

@[simp] theorem State.setCtx_ctxs : (s.setCtx c x).ctxs = tblSet Ctx.reset s.ctxs c x := rfl
@[simp] theorem State.setCtx_pending : (s.setCtx c x).pending = s.pending := rfl
@[simp] theorem State.setCtx_regs : (s.setCtx c x).regs = s.regs := rfl
@[simp] theorem State.setCtx_shadows : (s.setCtx c x).shadows = s.shadows := rfl
@[simp] theorem State.setCtx_reply : (s.setCtx c x).reply = s.reply := rfl
@[simp] theorem State.setCtx_replyPoison : (s.setCtx c x).replyPoison = s.replyPoison := rfl
@[simp] theorem State.setCtx_free : (s.setCtx c x).free = s.free := rfl
@[simp] theorem State.setCtx_time : (s.setCtx c x).time = s.time := rfl
@[simp] theorem State.setCtx_tclk : (s.setCtx c x).tclk = s.tclk := rfl
@[simp] theorem State.setCtx_topo : (s.setCtx c x).topo = s.topo := rfl
@[simp] theorem State.setCtx_plan : (s.setCtx c x).plan = s.plan := rfl
@[simp] theorem State.setCtx_com : (s.setCtx c x).com = s.com := rfl
@[simp] theorem State.setCtx_nextSid : (s.setCtx c x).nextSid = s.nextSid := rfl
@[simp] theorem State.setCtx_grans : (s.setCtx c x).grans = s.grans := rfl
@[simp] theorem State.setCtx_olds : (s.setCtx c x).olds = s.olds := rfl
@[simp] theorem State.setCtx_replMem : (s.setCtx c x).replMem = s.replMem := rfl
@[simp] theorem State.setCtx_replPoison : (s.setCtx c x).replPoison = s.replPoison := rfl
@[simp] theorem State.setCtx_rings : (s.setCtx c x).rings = s.rings := rfl
@[simp] theorem State.setCtx_evc : (s.setCtx c x).evc = s.evc := rfl
@[simp] theorem State.setCtx_latches : (s.setCtx c x).latches = s.latches := rfl
@[simp] theorem State.setCtx_sched : (s.setCtx c x).sched = s.sched := rfl
@[simp] theorem State.setCtx_nodes : (s.setCtx c x).nodes = s.nodes := rfl
@[simp] theorem State.setCtx_driftKey : (s.setCtx c x).driftKey = s.driftKey := rfl
@[simp] theorem State.setCtx_usedSheaves : (s.setCtx c x).usedSheaves = s.usedSheaves := rfl
@[simp] theorem State.setCtx_recSheaves : (s.setCtx c x).recSheaves = s.recSheaves := rfl
@[simp] theorem State.setCtx_relQueue : (s.setCtx c x).relQueue = s.relQueue := rfl
@[simp] theorem State.setCtx_groupFree : (s.setCtx c x).groupFree = s.groupFree := rfl
@[simp] theorem State.setCtx_fns : (s.setCtx c x).fns = s.fns := rfl
@[simp] theorem State.setCtx_host : (s.setCtx c x).host = s.host := rfl
@[simp] theorem State.setCtx_trace : (s.setCtx c x).trace = s.trace := rfl
@[simp] theorem State.setCtx_elog : (s.setCtx c x).elog = s.elog := rfl
@[simp] theorem State.setCtx_silo : (s.setCtx c x).silo = s.silo := rfl
@[simp] theorem State.setCtx_aclk : (s.setCtx c x).aclk = s.aclk := rfl
@[simp] theorem State.setCtx_rel : (s.setCtx c x).rel = s.rel := rfl
@[simp] theorem State.setCtx_vault : (s.setCtx c x).vault = s.vault := rfl
@[simp] theorem State.setCtx_fab : (s.setCtx c x).fab = s.fab := rfl
@[simp] theorem State.setCtx_withdrawn : (s.setCtx c x).withdrawn = s.withdrawn := rfl
@[simp] theorem State.setCtx_mons : (s.setCtx c x).mons = s.mons := rfl
@[simp] theorem State.setCtx_sensors : (s.setCtx c x).sensors = s.sensors := rfl
@[simp] theorem State.setCtx_pwr : (s.setCtx c x).pwr = s.pwr := rfl
@[simp] theorem State.setCtx_boot : (s.setCtx c x).boot = s.boot := rfl
@[simp] theorem State.setCtx_mgmt : (s.setCtx c x).mgmt = s.mgmt := rfl
@[simp] theorem State.setCtx_bg : (s.setCtx c x).bg = s.bg := rfl
@[simp] theorem State.setCtx_pins : (s.setCtx c x).pins = s.pins := rfl

end

section

variable {c : Nat} {n : Nat} {r : Ring}

@[simp] theorem State.setRing_rings : (s.setRing c n r).rings = tblSet Ring.reset s.rings (c * 64 + n) r := rfl
@[simp] theorem State.setRing_pending : (s.setRing c n r).pending = s.pending := rfl
@[simp] theorem State.setRing_regs : (s.setRing c n r).regs = s.regs := rfl
@[simp] theorem State.setRing_shadows : (s.setRing c n r).shadows = s.shadows := rfl
@[simp] theorem State.setRing_reply : (s.setRing c n r).reply = s.reply := rfl
@[simp] theorem State.setRing_replyPoison : (s.setRing c n r).replyPoison = s.replyPoison := rfl
@[simp] theorem State.setRing_free : (s.setRing c n r).free = s.free := rfl
@[simp] theorem State.setRing_time : (s.setRing c n r).time = s.time := rfl
@[simp] theorem State.setRing_tclk : (s.setRing c n r).tclk = s.tclk := rfl
@[simp] theorem State.setRing_topo : (s.setRing c n r).topo = s.topo := rfl
@[simp] theorem State.setRing_plan : (s.setRing c n r).plan = s.plan := rfl
@[simp] theorem State.setRing_com : (s.setRing c n r).com = s.com := rfl
@[simp] theorem State.setRing_nextSid : (s.setRing c n r).nextSid = s.nextSid := rfl
@[simp] theorem State.setRing_grans : (s.setRing c n r).grans = s.grans := rfl
@[simp] theorem State.setRing_olds : (s.setRing c n r).olds = s.olds := rfl
@[simp] theorem State.setRing_replMem : (s.setRing c n r).replMem = s.replMem := rfl
@[simp] theorem State.setRing_replPoison : (s.setRing c n r).replPoison = s.replPoison := rfl
@[simp] theorem State.setRing_evc : (s.setRing c n r).evc = s.evc := rfl
@[simp] theorem State.setRing_ctxs : (s.setRing c n r).ctxs = s.ctxs := rfl
@[simp] theorem State.setRing_latches : (s.setRing c n r).latches = s.latches := rfl
@[simp] theorem State.setRing_sched : (s.setRing c n r).sched = s.sched := rfl
@[simp] theorem State.setRing_nodes : (s.setRing c n r).nodes = s.nodes := rfl
@[simp] theorem State.setRing_driftKey : (s.setRing c n r).driftKey = s.driftKey := rfl
@[simp] theorem State.setRing_usedSheaves : (s.setRing c n r).usedSheaves = s.usedSheaves := rfl
@[simp] theorem State.setRing_recSheaves : (s.setRing c n r).recSheaves = s.recSheaves := rfl
@[simp] theorem State.setRing_relQueue : (s.setRing c n r).relQueue = s.relQueue := rfl
@[simp] theorem State.setRing_groupFree : (s.setRing c n r).groupFree = s.groupFree := rfl
@[simp] theorem State.setRing_fns : (s.setRing c n r).fns = s.fns := rfl
@[simp] theorem State.setRing_host : (s.setRing c n r).host = s.host := rfl
@[simp] theorem State.setRing_trace : (s.setRing c n r).trace = s.trace := rfl
@[simp] theorem State.setRing_elog : (s.setRing c n r).elog = s.elog := rfl
@[simp] theorem State.setRing_silo : (s.setRing c n r).silo = s.silo := rfl
@[simp] theorem State.setRing_aclk : (s.setRing c n r).aclk = s.aclk := rfl
@[simp] theorem State.setRing_rel : (s.setRing c n r).rel = s.rel := rfl
@[simp] theorem State.setRing_vault : (s.setRing c n r).vault = s.vault := rfl
@[simp] theorem State.setRing_fab : (s.setRing c n r).fab = s.fab := rfl
@[simp] theorem State.setRing_withdrawn : (s.setRing c n r).withdrawn = s.withdrawn := rfl
@[simp] theorem State.setRing_mons : (s.setRing c n r).mons = s.mons := rfl
@[simp] theorem State.setRing_sensors : (s.setRing c n r).sensors = s.sensors := rfl
@[simp] theorem State.setRing_pwr : (s.setRing c n r).pwr = s.pwr := rfl
@[simp] theorem State.setRing_boot : (s.setRing c n r).boot = s.boot := rfl
@[simp] theorem State.setRing_mgmt : (s.setRing c n r).mgmt = s.mgmt := rfl
@[simp] theorem State.setRing_bg : (s.setRing c n r).bg = s.bg := rfl
@[simp] theorem State.setRing_pins : (s.setRing c n r).pins = s.pins := rfl

end

section

variable {l : Nat} {x : Latch}

@[simp] theorem State.setLatch_latches : (s.setLatch l x).latches = tblSet Latch.reset s.latches l x := rfl
@[simp] theorem State.setLatch_pending : (s.setLatch l x).pending = s.pending := rfl
@[simp] theorem State.setLatch_regs : (s.setLatch l x).regs = s.regs := rfl
@[simp] theorem State.setLatch_shadows : (s.setLatch l x).shadows = s.shadows := rfl
@[simp] theorem State.setLatch_reply : (s.setLatch l x).reply = s.reply := rfl
@[simp] theorem State.setLatch_replyPoison : (s.setLatch l x).replyPoison = s.replyPoison := rfl
@[simp] theorem State.setLatch_free : (s.setLatch l x).free = s.free := rfl
@[simp] theorem State.setLatch_time : (s.setLatch l x).time = s.time := rfl
@[simp] theorem State.setLatch_tclk : (s.setLatch l x).tclk = s.tclk := rfl
@[simp] theorem State.setLatch_topo : (s.setLatch l x).topo = s.topo := rfl
@[simp] theorem State.setLatch_plan : (s.setLatch l x).plan = s.plan := rfl
@[simp] theorem State.setLatch_com : (s.setLatch l x).com = s.com := rfl
@[simp] theorem State.setLatch_nextSid : (s.setLatch l x).nextSid = s.nextSid := rfl
@[simp] theorem State.setLatch_grans : (s.setLatch l x).grans = s.grans := rfl
@[simp] theorem State.setLatch_olds : (s.setLatch l x).olds = s.olds := rfl
@[simp] theorem State.setLatch_replMem : (s.setLatch l x).replMem = s.replMem := rfl
@[simp] theorem State.setLatch_replPoison : (s.setLatch l x).replPoison = s.replPoison := rfl
@[simp] theorem State.setLatch_rings : (s.setLatch l x).rings = s.rings := rfl
@[simp] theorem State.setLatch_evc : (s.setLatch l x).evc = s.evc := rfl
@[simp] theorem State.setLatch_ctxs : (s.setLatch l x).ctxs = s.ctxs := rfl
@[simp] theorem State.setLatch_sched : (s.setLatch l x).sched = s.sched := rfl
@[simp] theorem State.setLatch_nodes : (s.setLatch l x).nodes = s.nodes := rfl
@[simp] theorem State.setLatch_driftKey : (s.setLatch l x).driftKey = s.driftKey := rfl
@[simp] theorem State.setLatch_usedSheaves : (s.setLatch l x).usedSheaves = s.usedSheaves := rfl
@[simp] theorem State.setLatch_recSheaves : (s.setLatch l x).recSheaves = s.recSheaves := rfl
@[simp] theorem State.setLatch_relQueue : (s.setLatch l x).relQueue = s.relQueue := rfl
@[simp] theorem State.setLatch_groupFree : (s.setLatch l x).groupFree = s.groupFree := rfl
@[simp] theorem State.setLatch_fns : (s.setLatch l x).fns = s.fns := rfl
@[simp] theorem State.setLatch_host : (s.setLatch l x).host = s.host := rfl
@[simp] theorem State.setLatch_trace : (s.setLatch l x).trace = s.trace := rfl
@[simp] theorem State.setLatch_elog : (s.setLatch l x).elog = s.elog := rfl
@[simp] theorem State.setLatch_silo : (s.setLatch l x).silo = s.silo := rfl
@[simp] theorem State.setLatch_aclk : (s.setLatch l x).aclk = s.aclk := rfl
@[simp] theorem State.setLatch_rel : (s.setLatch l x).rel = s.rel := rfl
@[simp] theorem State.setLatch_vault : (s.setLatch l x).vault = s.vault := rfl
@[simp] theorem State.setLatch_fab : (s.setLatch l x).fab = s.fab := rfl
@[simp] theorem State.setLatch_withdrawn : (s.setLatch l x).withdrawn = s.withdrawn := rfl
@[simp] theorem State.setLatch_mons : (s.setLatch l x).mons = s.mons := rfl
@[simp] theorem State.setLatch_sensors : (s.setLatch l x).sensors = s.sensors := rfl
@[simp] theorem State.setLatch_pwr : (s.setLatch l x).pwr = s.pwr := rfl
@[simp] theorem State.setLatch_boot : (s.setLatch l x).boot = s.boot := rfl
@[simp] theorem State.setLatch_mgmt : (s.setLatch l x).mgmt = s.mgmt := rfl
@[simp] theorem State.setLatch_bg : (s.setLatch l x).bg = s.bg := rfl
@[simp] theorem State.setLatch_pins : (s.setLatch l x).pins = s.pins := rfl

end

section

variable {f : Nat} {x : Fn}

@[simp] theorem State.setFn_fns : (s.setFn f x).fns = tblSet Fn.reset s.fns f x := rfl
@[simp] theorem State.setFn_pending : (s.setFn f x).pending = s.pending := rfl
@[simp] theorem State.setFn_regs : (s.setFn f x).regs = s.regs := rfl
@[simp] theorem State.setFn_shadows : (s.setFn f x).shadows = s.shadows := rfl
@[simp] theorem State.setFn_reply : (s.setFn f x).reply = s.reply := rfl
@[simp] theorem State.setFn_replyPoison : (s.setFn f x).replyPoison = s.replyPoison := rfl
@[simp] theorem State.setFn_free : (s.setFn f x).free = s.free := rfl
@[simp] theorem State.setFn_time : (s.setFn f x).time = s.time := rfl
@[simp] theorem State.setFn_tclk : (s.setFn f x).tclk = s.tclk := rfl
@[simp] theorem State.setFn_topo : (s.setFn f x).topo = s.topo := rfl
@[simp] theorem State.setFn_plan : (s.setFn f x).plan = s.plan := rfl
@[simp] theorem State.setFn_com : (s.setFn f x).com = s.com := rfl
@[simp] theorem State.setFn_nextSid : (s.setFn f x).nextSid = s.nextSid := rfl
@[simp] theorem State.setFn_grans : (s.setFn f x).grans = s.grans := rfl
@[simp] theorem State.setFn_olds : (s.setFn f x).olds = s.olds := rfl
@[simp] theorem State.setFn_replMem : (s.setFn f x).replMem = s.replMem := rfl
@[simp] theorem State.setFn_replPoison : (s.setFn f x).replPoison = s.replPoison := rfl
@[simp] theorem State.setFn_rings : (s.setFn f x).rings = s.rings := rfl
@[simp] theorem State.setFn_evc : (s.setFn f x).evc = s.evc := rfl
@[simp] theorem State.setFn_ctxs : (s.setFn f x).ctxs = s.ctxs := rfl
@[simp] theorem State.setFn_latches : (s.setFn f x).latches = s.latches := rfl
@[simp] theorem State.setFn_sched : (s.setFn f x).sched = s.sched := rfl
@[simp] theorem State.setFn_nodes : (s.setFn f x).nodes = s.nodes := rfl
@[simp] theorem State.setFn_driftKey : (s.setFn f x).driftKey = s.driftKey := rfl
@[simp] theorem State.setFn_usedSheaves : (s.setFn f x).usedSheaves = s.usedSheaves := rfl
@[simp] theorem State.setFn_recSheaves : (s.setFn f x).recSheaves = s.recSheaves := rfl
@[simp] theorem State.setFn_relQueue : (s.setFn f x).relQueue = s.relQueue := rfl
@[simp] theorem State.setFn_groupFree : (s.setFn f x).groupFree = s.groupFree := rfl
@[simp] theorem State.setFn_host : (s.setFn f x).host = s.host := rfl
@[simp] theorem State.setFn_trace : (s.setFn f x).trace = s.trace := rfl
@[simp] theorem State.setFn_elog : (s.setFn f x).elog = s.elog := rfl
@[simp] theorem State.setFn_silo : (s.setFn f x).silo = s.silo := rfl
@[simp] theorem State.setFn_aclk : (s.setFn f x).aclk = s.aclk := rfl
@[simp] theorem State.setFn_rel : (s.setFn f x).rel = s.rel := rfl
@[simp] theorem State.setFn_vault : (s.setFn f x).vault = s.vault := rfl
@[simp] theorem State.setFn_fab : (s.setFn f x).fab = s.fab := rfl
@[simp] theorem State.setFn_withdrawn : (s.setFn f x).withdrawn = s.withdrawn := rfl
@[simp] theorem State.setFn_mons : (s.setFn f x).mons = s.mons := rfl
@[simp] theorem State.setFn_sensors : (s.setFn f x).sensors = s.sensors := rfl
@[simp] theorem State.setFn_pwr : (s.setFn f x).pwr = s.pwr := rfl
@[simp] theorem State.setFn_boot : (s.setFn f x).boot = s.boot := rfl
@[simp] theorem State.setFn_mgmt : (s.setFn f x).mgmt = s.mgmt := rfl
@[simp] theorem State.setFn_bg : (s.setFn f x).bg = s.bg := rfl
@[simp] theorem State.setFn_pins : (s.setFn f x).pins = s.pins := rfl

end

section

variable {c : Nat} {k : Nat} {v : DWord}

@[simp] theorem State.setEvctr_evc : (s.setEvctr c k v).evc = tblSet 0 s.evc (c * 256 + k) v := rfl
@[simp] theorem State.setEvctr_pending : (s.setEvctr c k v).pending = s.pending := rfl
@[simp] theorem State.setEvctr_regs : (s.setEvctr c k v).regs = s.regs := rfl
@[simp] theorem State.setEvctr_shadows : (s.setEvctr c k v).shadows = s.shadows := rfl
@[simp] theorem State.setEvctr_reply : (s.setEvctr c k v).reply = s.reply := rfl
@[simp] theorem State.setEvctr_replyPoison : (s.setEvctr c k v).replyPoison = s.replyPoison := rfl
@[simp] theorem State.setEvctr_free : (s.setEvctr c k v).free = s.free := rfl
@[simp] theorem State.setEvctr_time : (s.setEvctr c k v).time = s.time := rfl
@[simp] theorem State.setEvctr_tclk : (s.setEvctr c k v).tclk = s.tclk := rfl
@[simp] theorem State.setEvctr_topo : (s.setEvctr c k v).topo = s.topo := rfl
@[simp] theorem State.setEvctr_plan : (s.setEvctr c k v).plan = s.plan := rfl
@[simp] theorem State.setEvctr_com : (s.setEvctr c k v).com = s.com := rfl
@[simp] theorem State.setEvctr_nextSid : (s.setEvctr c k v).nextSid = s.nextSid := rfl
@[simp] theorem State.setEvctr_grans : (s.setEvctr c k v).grans = s.grans := rfl
@[simp] theorem State.setEvctr_olds : (s.setEvctr c k v).olds = s.olds := rfl
@[simp] theorem State.setEvctr_replMem : (s.setEvctr c k v).replMem = s.replMem := rfl
@[simp] theorem State.setEvctr_replPoison : (s.setEvctr c k v).replPoison = s.replPoison := rfl
@[simp] theorem State.setEvctr_rings : (s.setEvctr c k v).rings = s.rings := rfl
@[simp] theorem State.setEvctr_ctxs : (s.setEvctr c k v).ctxs = s.ctxs := rfl
@[simp] theorem State.setEvctr_latches : (s.setEvctr c k v).latches = s.latches := rfl
@[simp] theorem State.setEvctr_sched : (s.setEvctr c k v).sched = s.sched := rfl
@[simp] theorem State.setEvctr_nodes : (s.setEvctr c k v).nodes = s.nodes := rfl
@[simp] theorem State.setEvctr_driftKey : (s.setEvctr c k v).driftKey = s.driftKey := rfl
@[simp] theorem State.setEvctr_usedSheaves : (s.setEvctr c k v).usedSheaves = s.usedSheaves := rfl
@[simp] theorem State.setEvctr_recSheaves : (s.setEvctr c k v).recSheaves = s.recSheaves := rfl
@[simp] theorem State.setEvctr_relQueue : (s.setEvctr c k v).relQueue = s.relQueue := rfl
@[simp] theorem State.setEvctr_groupFree : (s.setEvctr c k v).groupFree = s.groupFree := rfl
@[simp] theorem State.setEvctr_fns : (s.setEvctr c k v).fns = s.fns := rfl
@[simp] theorem State.setEvctr_host : (s.setEvctr c k v).host = s.host := rfl
@[simp] theorem State.setEvctr_trace : (s.setEvctr c k v).trace = s.trace := rfl
@[simp] theorem State.setEvctr_elog : (s.setEvctr c k v).elog = s.elog := rfl
@[simp] theorem State.setEvctr_silo : (s.setEvctr c k v).silo = s.silo := rfl
@[simp] theorem State.setEvctr_aclk : (s.setEvctr c k v).aclk = s.aclk := rfl
@[simp] theorem State.setEvctr_rel : (s.setEvctr c k v).rel = s.rel := rfl
@[simp] theorem State.setEvctr_vault : (s.setEvctr c k v).vault = s.vault := rfl
@[simp] theorem State.setEvctr_fab : (s.setEvctr c k v).fab = s.fab := rfl
@[simp] theorem State.setEvctr_withdrawn : (s.setEvctr c k v).withdrawn = s.withdrawn := rfl
@[simp] theorem State.setEvctr_mons : (s.setEvctr c k v).mons = s.mons := rfl
@[simp] theorem State.setEvctr_sensors : (s.setEvctr c k v).sensors = s.sensors := rfl
@[simp] theorem State.setEvctr_pwr : (s.setEvctr c k v).pwr = s.pwr := rfl
@[simp] theorem State.setEvctr_boot : (s.setEvctr c k v).boot = s.boot := rfl
@[simp] theorem State.setEvctr_mgmt : (s.setEvctr c k v).mgmt = s.mgmt := rfl
@[simp] theorem State.setEvctr_bg : (s.setEvctr c k v).bg = s.bg := rfl
@[simp] theorem State.setEvctr_pins : (s.setEvctr c k v).pins = s.pins := rfl

end

section

variable {m : Store}

@[simp] theorem State.setCom_com : (s.setCom m).com = m := rfl
@[simp] theorem State.setCom_pending : (s.setCom m).pending = s.pending := rfl
@[simp] theorem State.setCom_regs : (s.setCom m).regs = s.regs := rfl
@[simp] theorem State.setCom_shadows : (s.setCom m).shadows = s.shadows := rfl
@[simp] theorem State.setCom_reply : (s.setCom m).reply = s.reply := rfl
@[simp] theorem State.setCom_replyPoison : (s.setCom m).replyPoison = s.replyPoison := rfl
@[simp] theorem State.setCom_free : (s.setCom m).free = s.free := rfl
@[simp] theorem State.setCom_time : (s.setCom m).time = s.time := rfl
@[simp] theorem State.setCom_tclk : (s.setCom m).tclk = s.tclk := rfl
@[simp] theorem State.setCom_topo : (s.setCom m).topo = s.topo := rfl
@[simp] theorem State.setCom_plan : (s.setCom m).plan = s.plan := rfl
@[simp] theorem State.setCom_nextSid : (s.setCom m).nextSid = s.nextSid := rfl
@[simp] theorem State.setCom_grans : (s.setCom m).grans = s.grans := rfl
@[simp] theorem State.setCom_olds : (s.setCom m).olds = s.olds := rfl
@[simp] theorem State.setCom_replMem : (s.setCom m).replMem = s.replMem := rfl
@[simp] theorem State.setCom_replPoison : (s.setCom m).replPoison = s.replPoison := rfl
@[simp] theorem State.setCom_rings : (s.setCom m).rings = s.rings := rfl
@[simp] theorem State.setCom_evc : (s.setCom m).evc = s.evc := rfl
@[simp] theorem State.setCom_ctxs : (s.setCom m).ctxs = s.ctxs := rfl
@[simp] theorem State.setCom_latches : (s.setCom m).latches = s.latches := rfl
@[simp] theorem State.setCom_sched : (s.setCom m).sched = s.sched := rfl
@[simp] theorem State.setCom_nodes : (s.setCom m).nodes = s.nodes := rfl
@[simp] theorem State.setCom_driftKey : (s.setCom m).driftKey = s.driftKey := rfl
@[simp] theorem State.setCom_usedSheaves : (s.setCom m).usedSheaves = s.usedSheaves := rfl
@[simp] theorem State.setCom_recSheaves : (s.setCom m).recSheaves = s.recSheaves := rfl
@[simp] theorem State.setCom_relQueue : (s.setCom m).relQueue = s.relQueue := rfl
@[simp] theorem State.setCom_groupFree : (s.setCom m).groupFree = s.groupFree := rfl
@[simp] theorem State.setCom_fns : (s.setCom m).fns = s.fns := rfl
@[simp] theorem State.setCom_host : (s.setCom m).host = s.host := rfl
@[simp] theorem State.setCom_trace : (s.setCom m).trace = s.trace := rfl
@[simp] theorem State.setCom_elog : (s.setCom m).elog = s.elog := rfl
@[simp] theorem State.setCom_silo : (s.setCom m).silo = s.silo := rfl
@[simp] theorem State.setCom_aclk : (s.setCom m).aclk = s.aclk := rfl
@[simp] theorem State.setCom_rel : (s.setCom m).rel = s.rel := rfl
@[simp] theorem State.setCom_vault : (s.setCom m).vault = s.vault := rfl
@[simp] theorem State.setCom_fab : (s.setCom m).fab = s.fab := rfl
@[simp] theorem State.setCom_withdrawn : (s.setCom m).withdrawn = s.withdrawn := rfl
@[simp] theorem State.setCom_mons : (s.setCom m).mons = s.mons := rfl
@[simp] theorem State.setCom_sensors : (s.setCom m).sensors = s.sensors := rfl
@[simp] theorem State.setCom_pwr : (s.setCom m).pwr = s.pwr := rfl
@[simp] theorem State.setCom_boot : (s.setCom m).boot = s.boot := rfl
@[simp] theorem State.setCom_mgmt : (s.setCom m).mgmt = s.mgmt := rfl
@[simp] theorem State.setCom_bg : (s.setCom m).bg = s.bg := rfl
@[simp] theorem State.setCom_pins : (s.setCom m).pins = s.pins := rfl

end

section

variable {k : Nat} {v : Word}

@[simp] theorem State.setReg_regs : (s.setReg k v).regs = tblSet (regReset k) s.regs k v := rfl
@[simp] theorem State.setReg_pending : (s.setReg k v).pending = s.pending := rfl
@[simp] theorem State.setReg_shadows : (s.setReg k v).shadows = s.shadows := rfl
@[simp] theorem State.setReg_reply : (s.setReg k v).reply = s.reply := rfl
@[simp] theorem State.setReg_replyPoison : (s.setReg k v).replyPoison = s.replyPoison := rfl
@[simp] theorem State.setReg_free : (s.setReg k v).free = s.free := rfl
@[simp] theorem State.setReg_time : (s.setReg k v).time = s.time := rfl
@[simp] theorem State.setReg_tclk : (s.setReg k v).tclk = s.tclk := rfl
@[simp] theorem State.setReg_topo : (s.setReg k v).topo = s.topo := rfl
@[simp] theorem State.setReg_plan : (s.setReg k v).plan = s.plan := rfl
@[simp] theorem State.setReg_com : (s.setReg k v).com = s.com := rfl
@[simp] theorem State.setReg_nextSid : (s.setReg k v).nextSid = s.nextSid := rfl
@[simp] theorem State.setReg_grans : (s.setReg k v).grans = s.grans := rfl
@[simp] theorem State.setReg_olds : (s.setReg k v).olds = s.olds := rfl
@[simp] theorem State.setReg_replMem : (s.setReg k v).replMem = s.replMem := rfl
@[simp] theorem State.setReg_replPoison : (s.setReg k v).replPoison = s.replPoison := rfl
@[simp] theorem State.setReg_rings : (s.setReg k v).rings = s.rings := rfl
@[simp] theorem State.setReg_evc : (s.setReg k v).evc = s.evc := rfl
@[simp] theorem State.setReg_ctxs : (s.setReg k v).ctxs = s.ctxs := rfl
@[simp] theorem State.setReg_latches : (s.setReg k v).latches = s.latches := rfl
@[simp] theorem State.setReg_sched : (s.setReg k v).sched = s.sched := rfl
@[simp] theorem State.setReg_nodes : (s.setReg k v).nodes = s.nodes := rfl
@[simp] theorem State.setReg_driftKey : (s.setReg k v).driftKey = s.driftKey := rfl
@[simp] theorem State.setReg_usedSheaves : (s.setReg k v).usedSheaves = s.usedSheaves := rfl
@[simp] theorem State.setReg_recSheaves : (s.setReg k v).recSheaves = s.recSheaves := rfl
@[simp] theorem State.setReg_relQueue : (s.setReg k v).relQueue = s.relQueue := rfl
@[simp] theorem State.setReg_groupFree : (s.setReg k v).groupFree = s.groupFree := rfl
@[simp] theorem State.setReg_fns : (s.setReg k v).fns = s.fns := rfl
@[simp] theorem State.setReg_host : (s.setReg k v).host = s.host := rfl
@[simp] theorem State.setReg_trace : (s.setReg k v).trace = s.trace := rfl
@[simp] theorem State.setReg_elog : (s.setReg k v).elog = s.elog := rfl
@[simp] theorem State.setReg_silo : (s.setReg k v).silo = s.silo := rfl
@[simp] theorem State.setReg_aclk : (s.setReg k v).aclk = s.aclk := rfl
@[simp] theorem State.setReg_rel : (s.setReg k v).rel = s.rel := rfl
@[simp] theorem State.setReg_vault : (s.setReg k v).vault = s.vault := rfl
@[simp] theorem State.setReg_fab : (s.setReg k v).fab = s.fab := rfl
@[simp] theorem State.setReg_withdrawn : (s.setReg k v).withdrawn = s.withdrawn := rfl
@[simp] theorem State.setReg_mons : (s.setReg k v).mons = s.mons := rfl
@[simp] theorem State.setReg_sensors : (s.setReg k v).sensors = s.sensors := rfl
@[simp] theorem State.setReg_pwr : (s.setReg k v).pwr = s.pwr := rfl
@[simp] theorem State.setReg_boot : (s.setReg k v).boot = s.boot := rfl
@[simp] theorem State.setReg_mgmt : (s.setReg k v).mgmt = s.mgmt := rfl
@[simp] theorem State.setReg_bg : (s.setReg k v).bg = s.bg := rfl
@[simp] theorem State.setReg_pins : (s.setReg k v).pins = s.pins := rfl

end

section

variable {k : Nat} {n : Nat}

@[simp] theorem State.bump_pending : (s.bump k n).pending = s.pending := rfl
@[simp] theorem State.bump_shadows : (s.bump k n).shadows = s.shadows := rfl
@[simp] theorem State.bump_reply : (s.bump k n).reply = s.reply := rfl
@[simp] theorem State.bump_replyPoison : (s.bump k n).replyPoison = s.replyPoison := rfl
@[simp] theorem State.bump_free : (s.bump k n).free = s.free := rfl
@[simp] theorem State.bump_time : (s.bump k n).time = s.time := rfl
@[simp] theorem State.bump_tclk : (s.bump k n).tclk = s.tclk := rfl
@[simp] theorem State.bump_topo : (s.bump k n).topo = s.topo := rfl
@[simp] theorem State.bump_plan : (s.bump k n).plan = s.plan := rfl
@[simp] theorem State.bump_com : (s.bump k n).com = s.com := rfl
@[simp] theorem State.bump_nextSid : (s.bump k n).nextSid = s.nextSid := rfl
@[simp] theorem State.bump_grans : (s.bump k n).grans = s.grans := rfl
@[simp] theorem State.bump_olds : (s.bump k n).olds = s.olds := rfl
@[simp] theorem State.bump_replMem : (s.bump k n).replMem = s.replMem := rfl
@[simp] theorem State.bump_replPoison : (s.bump k n).replPoison = s.replPoison := rfl
@[simp] theorem State.bump_rings : (s.bump k n).rings = s.rings := rfl
@[simp] theorem State.bump_evc : (s.bump k n).evc = s.evc := rfl
@[simp] theorem State.bump_ctxs : (s.bump k n).ctxs = s.ctxs := rfl
@[simp] theorem State.bump_latches : (s.bump k n).latches = s.latches := rfl
@[simp] theorem State.bump_sched : (s.bump k n).sched = s.sched := rfl
@[simp] theorem State.bump_nodes : (s.bump k n).nodes = s.nodes := rfl
@[simp] theorem State.bump_driftKey : (s.bump k n).driftKey = s.driftKey := rfl
@[simp] theorem State.bump_usedSheaves : (s.bump k n).usedSheaves = s.usedSheaves := rfl
@[simp] theorem State.bump_recSheaves : (s.bump k n).recSheaves = s.recSheaves := rfl
@[simp] theorem State.bump_relQueue : (s.bump k n).relQueue = s.relQueue := rfl
@[simp] theorem State.bump_groupFree : (s.bump k n).groupFree = s.groupFree := rfl
@[simp] theorem State.bump_fns : (s.bump k n).fns = s.fns := rfl
@[simp] theorem State.bump_host : (s.bump k n).host = s.host := rfl
@[simp] theorem State.bump_trace : (s.bump k n).trace = s.trace := rfl
@[simp] theorem State.bump_elog : (s.bump k n).elog = s.elog := rfl
@[simp] theorem State.bump_silo : (s.bump k n).silo = s.silo := rfl
@[simp] theorem State.bump_aclk : (s.bump k n).aclk = s.aclk := rfl
@[simp] theorem State.bump_rel : (s.bump k n).rel = s.rel := rfl
@[simp] theorem State.bump_vault : (s.bump k n).vault = s.vault := rfl
@[simp] theorem State.bump_fab : (s.bump k n).fab = s.fab := rfl
@[simp] theorem State.bump_withdrawn : (s.bump k n).withdrawn = s.withdrawn := rfl
@[simp] theorem State.bump_mons : (s.bump k n).mons = s.mons := rfl
@[simp] theorem State.bump_sensors : (s.bump k n).sensors = s.sensors := rfl
@[simp] theorem State.bump_pwr : (s.bump k n).pwr = s.pwr := rfl
@[simp] theorem State.bump_boot : (s.bump k n).boot = s.boot := rfl
@[simp] theorem State.bump_mgmt : (s.bump k n).mgmt = s.mgmt := rfl
@[simp] theorem State.bump_bg : (s.bump k n).bg = s.bg := rfl
@[simp] theorem State.bump_pins : (s.bump k n).pins = s.pins := rfl

end

section

variable {k : Nat} {n : Nat}

@[simp] theorem State.bump16_pending : (s.bump16 k n).pending = s.pending := rfl
@[simp] theorem State.bump16_shadows : (s.bump16 k n).shadows = s.shadows := rfl
@[simp] theorem State.bump16_reply : (s.bump16 k n).reply = s.reply := rfl
@[simp] theorem State.bump16_replyPoison : (s.bump16 k n).replyPoison = s.replyPoison := rfl
@[simp] theorem State.bump16_free : (s.bump16 k n).free = s.free := rfl
@[simp] theorem State.bump16_time : (s.bump16 k n).time = s.time := rfl
@[simp] theorem State.bump16_tclk : (s.bump16 k n).tclk = s.tclk := rfl
@[simp] theorem State.bump16_topo : (s.bump16 k n).topo = s.topo := rfl
@[simp] theorem State.bump16_plan : (s.bump16 k n).plan = s.plan := rfl
@[simp] theorem State.bump16_com : (s.bump16 k n).com = s.com := rfl
@[simp] theorem State.bump16_nextSid : (s.bump16 k n).nextSid = s.nextSid := rfl
@[simp] theorem State.bump16_grans : (s.bump16 k n).grans = s.grans := rfl
@[simp] theorem State.bump16_olds : (s.bump16 k n).olds = s.olds := rfl
@[simp] theorem State.bump16_replMem : (s.bump16 k n).replMem = s.replMem := rfl
@[simp] theorem State.bump16_replPoison : (s.bump16 k n).replPoison = s.replPoison := rfl
@[simp] theorem State.bump16_rings : (s.bump16 k n).rings = s.rings := rfl
@[simp] theorem State.bump16_evc : (s.bump16 k n).evc = s.evc := rfl
@[simp] theorem State.bump16_ctxs : (s.bump16 k n).ctxs = s.ctxs := rfl
@[simp] theorem State.bump16_latches : (s.bump16 k n).latches = s.latches := rfl
@[simp] theorem State.bump16_sched : (s.bump16 k n).sched = s.sched := rfl
@[simp] theorem State.bump16_nodes : (s.bump16 k n).nodes = s.nodes := rfl
@[simp] theorem State.bump16_driftKey : (s.bump16 k n).driftKey = s.driftKey := rfl
@[simp] theorem State.bump16_usedSheaves : (s.bump16 k n).usedSheaves = s.usedSheaves := rfl
@[simp] theorem State.bump16_recSheaves : (s.bump16 k n).recSheaves = s.recSheaves := rfl
@[simp] theorem State.bump16_relQueue : (s.bump16 k n).relQueue = s.relQueue := rfl
@[simp] theorem State.bump16_groupFree : (s.bump16 k n).groupFree = s.groupFree := rfl
@[simp] theorem State.bump16_fns : (s.bump16 k n).fns = s.fns := rfl
@[simp] theorem State.bump16_host : (s.bump16 k n).host = s.host := rfl
@[simp] theorem State.bump16_trace : (s.bump16 k n).trace = s.trace := rfl
@[simp] theorem State.bump16_elog : (s.bump16 k n).elog = s.elog := rfl
@[simp] theorem State.bump16_silo : (s.bump16 k n).silo = s.silo := rfl
@[simp] theorem State.bump16_aclk : (s.bump16 k n).aclk = s.aclk := rfl
@[simp] theorem State.bump16_rel : (s.bump16 k n).rel = s.rel := rfl
@[simp] theorem State.bump16_vault : (s.bump16 k n).vault = s.vault := rfl
@[simp] theorem State.bump16_fab : (s.bump16 k n).fab = s.fab := rfl
@[simp] theorem State.bump16_withdrawn : (s.bump16 k n).withdrawn = s.withdrawn := rfl
@[simp] theorem State.bump16_mons : (s.bump16 k n).mons = s.mons := rfl
@[simp] theorem State.bump16_sensors : (s.bump16 k n).sensors = s.sensors := rfl
@[simp] theorem State.bump16_pwr : (s.bump16 k n).pwr = s.pwr := rfl
@[simp] theorem State.bump16_boot : (s.bump16 k n).boot = s.boot := rfl
@[simp] theorem State.bump16_mgmt : (s.bump16 k n).mgmt = s.mgmt := rfl
@[simp] theorem State.bump16_bg : (s.bump16 k n).bg = s.bg := rfl
@[simp] theorem State.bump16_pins : (s.bump16 k n).pins = s.pins := rfl

end

section

variable {k : Nat} {m : Nat}

@[simp] theorem State.setBits_pending : (s.setBits k m).pending = s.pending := rfl
@[simp] theorem State.setBits_shadows : (s.setBits k m).shadows = s.shadows := rfl
@[simp] theorem State.setBits_reply : (s.setBits k m).reply = s.reply := rfl
@[simp] theorem State.setBits_replyPoison : (s.setBits k m).replyPoison = s.replyPoison := rfl
@[simp] theorem State.setBits_free : (s.setBits k m).free = s.free := rfl
@[simp] theorem State.setBits_time : (s.setBits k m).time = s.time := rfl
@[simp] theorem State.setBits_tclk : (s.setBits k m).tclk = s.tclk := rfl
@[simp] theorem State.setBits_topo : (s.setBits k m).topo = s.topo := rfl
@[simp] theorem State.setBits_plan : (s.setBits k m).plan = s.plan := rfl
@[simp] theorem State.setBits_com : (s.setBits k m).com = s.com := rfl
@[simp] theorem State.setBits_nextSid : (s.setBits k m).nextSid = s.nextSid := rfl
@[simp] theorem State.setBits_grans : (s.setBits k m).grans = s.grans := rfl
@[simp] theorem State.setBits_olds : (s.setBits k m).olds = s.olds := rfl
@[simp] theorem State.setBits_replMem : (s.setBits k m).replMem = s.replMem := rfl
@[simp] theorem State.setBits_replPoison : (s.setBits k m).replPoison = s.replPoison := rfl
@[simp] theorem State.setBits_rings : (s.setBits k m).rings = s.rings := rfl
@[simp] theorem State.setBits_evc : (s.setBits k m).evc = s.evc := rfl
@[simp] theorem State.setBits_ctxs : (s.setBits k m).ctxs = s.ctxs := rfl
@[simp] theorem State.setBits_latches : (s.setBits k m).latches = s.latches := rfl
@[simp] theorem State.setBits_sched : (s.setBits k m).sched = s.sched := rfl
@[simp] theorem State.setBits_nodes : (s.setBits k m).nodes = s.nodes := rfl
@[simp] theorem State.setBits_driftKey : (s.setBits k m).driftKey = s.driftKey := rfl
@[simp] theorem State.setBits_usedSheaves : (s.setBits k m).usedSheaves = s.usedSheaves := rfl
@[simp] theorem State.setBits_recSheaves : (s.setBits k m).recSheaves = s.recSheaves := rfl
@[simp] theorem State.setBits_relQueue : (s.setBits k m).relQueue = s.relQueue := rfl
@[simp] theorem State.setBits_groupFree : (s.setBits k m).groupFree = s.groupFree := rfl
@[simp] theorem State.setBits_fns : (s.setBits k m).fns = s.fns := rfl
@[simp] theorem State.setBits_host : (s.setBits k m).host = s.host := rfl
@[simp] theorem State.setBits_trace : (s.setBits k m).trace = s.trace := rfl
@[simp] theorem State.setBits_elog : (s.setBits k m).elog = s.elog := rfl
@[simp] theorem State.setBits_silo : (s.setBits k m).silo = s.silo := rfl
@[simp] theorem State.setBits_aclk : (s.setBits k m).aclk = s.aclk := rfl
@[simp] theorem State.setBits_rel : (s.setBits k m).rel = s.rel := rfl
@[simp] theorem State.setBits_vault : (s.setBits k m).vault = s.vault := rfl
@[simp] theorem State.setBits_fab : (s.setBits k m).fab = s.fab := rfl
@[simp] theorem State.setBits_withdrawn : (s.setBits k m).withdrawn = s.withdrawn := rfl
@[simp] theorem State.setBits_mons : (s.setBits k m).mons = s.mons := rfl
@[simp] theorem State.setBits_sensors : (s.setBits k m).sensors = s.sensors := rfl
@[simp] theorem State.setBits_pwr : (s.setBits k m).pwr = s.pwr := rfl
@[simp] theorem State.setBits_boot : (s.setBits k m).boot = s.boot := rfl
@[simp] theorem State.setBits_mgmt : (s.setBits k m).mgmt = s.mgmt := rfl
@[simp] theorem State.setBits_bg : (s.setBits k m).bg = s.bg := rfl
@[simp] theorem State.setBits_pins : (s.setBits k m).pins = s.pins := rfl

end

section

variable {p : Nat} {x : SiloPort}

@[simp] theorem State.setSiloPort_silo : (s.setSiloPort p x).silo = tblSet SiloPort.reset s.silo p x := rfl
@[simp] theorem State.setSiloPort_pending : (s.setSiloPort p x).pending = s.pending := rfl
@[simp] theorem State.setSiloPort_regs : (s.setSiloPort p x).regs = s.regs := rfl
@[simp] theorem State.setSiloPort_shadows : (s.setSiloPort p x).shadows = s.shadows := rfl
@[simp] theorem State.setSiloPort_reply : (s.setSiloPort p x).reply = s.reply := rfl
@[simp] theorem State.setSiloPort_replyPoison : (s.setSiloPort p x).replyPoison = s.replyPoison := rfl
@[simp] theorem State.setSiloPort_free : (s.setSiloPort p x).free = s.free := rfl
@[simp] theorem State.setSiloPort_time : (s.setSiloPort p x).time = s.time := rfl
@[simp] theorem State.setSiloPort_tclk : (s.setSiloPort p x).tclk = s.tclk := rfl
@[simp] theorem State.setSiloPort_topo : (s.setSiloPort p x).topo = s.topo := rfl
@[simp] theorem State.setSiloPort_plan : (s.setSiloPort p x).plan = s.plan := rfl
@[simp] theorem State.setSiloPort_com : (s.setSiloPort p x).com = s.com := rfl
@[simp] theorem State.setSiloPort_nextSid : (s.setSiloPort p x).nextSid = s.nextSid := rfl
@[simp] theorem State.setSiloPort_grans : (s.setSiloPort p x).grans = s.grans := rfl
@[simp] theorem State.setSiloPort_olds : (s.setSiloPort p x).olds = s.olds := rfl
@[simp] theorem State.setSiloPort_replMem : (s.setSiloPort p x).replMem = s.replMem := rfl
@[simp] theorem State.setSiloPort_replPoison : (s.setSiloPort p x).replPoison = s.replPoison := rfl
@[simp] theorem State.setSiloPort_rings : (s.setSiloPort p x).rings = s.rings := rfl
@[simp] theorem State.setSiloPort_evc : (s.setSiloPort p x).evc = s.evc := rfl
@[simp] theorem State.setSiloPort_ctxs : (s.setSiloPort p x).ctxs = s.ctxs := rfl
@[simp] theorem State.setSiloPort_latches : (s.setSiloPort p x).latches = s.latches := rfl
@[simp] theorem State.setSiloPort_sched : (s.setSiloPort p x).sched = s.sched := rfl
@[simp] theorem State.setSiloPort_nodes : (s.setSiloPort p x).nodes = s.nodes := rfl
@[simp] theorem State.setSiloPort_driftKey : (s.setSiloPort p x).driftKey = s.driftKey := rfl
@[simp] theorem State.setSiloPort_usedSheaves : (s.setSiloPort p x).usedSheaves = s.usedSheaves := rfl
@[simp] theorem State.setSiloPort_recSheaves : (s.setSiloPort p x).recSheaves = s.recSheaves := rfl
@[simp] theorem State.setSiloPort_relQueue : (s.setSiloPort p x).relQueue = s.relQueue := rfl
@[simp] theorem State.setSiloPort_groupFree : (s.setSiloPort p x).groupFree = s.groupFree := rfl
@[simp] theorem State.setSiloPort_fns : (s.setSiloPort p x).fns = s.fns := rfl
@[simp] theorem State.setSiloPort_host : (s.setSiloPort p x).host = s.host := rfl
@[simp] theorem State.setSiloPort_trace : (s.setSiloPort p x).trace = s.trace := rfl
@[simp] theorem State.setSiloPort_elog : (s.setSiloPort p x).elog = s.elog := rfl
@[simp] theorem State.setSiloPort_aclk : (s.setSiloPort p x).aclk = s.aclk := rfl
@[simp] theorem State.setSiloPort_rel : (s.setSiloPort p x).rel = s.rel := rfl
@[simp] theorem State.setSiloPort_vault : (s.setSiloPort p x).vault = s.vault := rfl
@[simp] theorem State.setSiloPort_fab : (s.setSiloPort p x).fab = s.fab := rfl
@[simp] theorem State.setSiloPort_withdrawn : (s.setSiloPort p x).withdrawn = s.withdrawn := rfl
@[simp] theorem State.setSiloPort_mons : (s.setSiloPort p x).mons = s.mons := rfl
@[simp] theorem State.setSiloPort_sensors : (s.setSiloPort p x).sensors = s.sensors := rfl
@[simp] theorem State.setSiloPort_pwr : (s.setSiloPort p x).pwr = s.pwr := rfl
@[simp] theorem State.setSiloPort_boot : (s.setSiloPort p x).boot = s.boot := rfl
@[simp] theorem State.setSiloPort_mgmt : (s.setSiloPort p x).mgmt = s.mgmt := rfl
@[simp] theorem State.setSiloPort_bg : (s.setSiloPort p x).bg = s.bg := rfl
@[simp] theorem State.setSiloPort_pins : (s.setSiloPort p x).pins = s.pins := rfl

end

section

variable {k : Nat} {g : Gran}

@[simp] theorem State.setGran_grans : (s.setGran k g).grans = tblIns s.grans k g := rfl
@[simp] theorem State.setGran_pending : (s.setGran k g).pending = s.pending := rfl
@[simp] theorem State.setGran_regs : (s.setGran k g).regs = s.regs := rfl
@[simp] theorem State.setGran_shadows : (s.setGran k g).shadows = s.shadows := rfl
@[simp] theorem State.setGran_reply : (s.setGran k g).reply = s.reply := rfl
@[simp] theorem State.setGran_replyPoison : (s.setGran k g).replyPoison = s.replyPoison := rfl
@[simp] theorem State.setGran_free : (s.setGran k g).free = s.free := rfl
@[simp] theorem State.setGran_time : (s.setGran k g).time = s.time := rfl
@[simp] theorem State.setGran_tclk : (s.setGran k g).tclk = s.tclk := rfl
@[simp] theorem State.setGran_topo : (s.setGran k g).topo = s.topo := rfl
@[simp] theorem State.setGran_plan : (s.setGran k g).plan = s.plan := rfl
@[simp] theorem State.setGran_com : (s.setGran k g).com = s.com := rfl
@[simp] theorem State.setGran_nextSid : (s.setGran k g).nextSid = s.nextSid := rfl
@[simp] theorem State.setGran_olds : (s.setGran k g).olds = s.olds := rfl
@[simp] theorem State.setGran_replMem : (s.setGran k g).replMem = s.replMem := rfl
@[simp] theorem State.setGran_replPoison : (s.setGran k g).replPoison = s.replPoison := rfl
@[simp] theorem State.setGran_rings : (s.setGran k g).rings = s.rings := rfl
@[simp] theorem State.setGran_evc : (s.setGran k g).evc = s.evc := rfl
@[simp] theorem State.setGran_ctxs : (s.setGran k g).ctxs = s.ctxs := rfl
@[simp] theorem State.setGran_latches : (s.setGran k g).latches = s.latches := rfl
@[simp] theorem State.setGran_sched : (s.setGran k g).sched = s.sched := rfl
@[simp] theorem State.setGran_nodes : (s.setGran k g).nodes = s.nodes := rfl
@[simp] theorem State.setGran_driftKey : (s.setGran k g).driftKey = s.driftKey := rfl
@[simp] theorem State.setGran_usedSheaves : (s.setGran k g).usedSheaves = s.usedSheaves := rfl
@[simp] theorem State.setGran_recSheaves : (s.setGran k g).recSheaves = s.recSheaves := rfl
@[simp] theorem State.setGran_relQueue : (s.setGran k g).relQueue = s.relQueue := rfl
@[simp] theorem State.setGran_groupFree : (s.setGran k g).groupFree = s.groupFree := rfl
@[simp] theorem State.setGran_fns : (s.setGran k g).fns = s.fns := rfl
@[simp] theorem State.setGran_host : (s.setGran k g).host = s.host := rfl
@[simp] theorem State.setGran_trace : (s.setGran k g).trace = s.trace := rfl
@[simp] theorem State.setGran_elog : (s.setGran k g).elog = s.elog := rfl
@[simp] theorem State.setGran_silo : (s.setGran k g).silo = s.silo := rfl
@[simp] theorem State.setGran_aclk : (s.setGran k g).aclk = s.aclk := rfl
@[simp] theorem State.setGran_rel : (s.setGran k g).rel = s.rel := rfl
@[simp] theorem State.setGran_vault : (s.setGran k g).vault = s.vault := rfl
@[simp] theorem State.setGran_fab : (s.setGran k g).fab = s.fab := rfl
@[simp] theorem State.setGran_withdrawn : (s.setGran k g).withdrawn = s.withdrawn := rfl
@[simp] theorem State.setGran_mons : (s.setGran k g).mons = s.mons := rfl
@[simp] theorem State.setGran_sensors : (s.setGran k g).sensors = s.sensors := rfl
@[simp] theorem State.setGran_pwr : (s.setGran k g).pwr = s.pwr := rfl
@[simp] theorem State.setGran_boot : (s.setGran k g).boot = s.boot := rfl
@[simp] theorem State.setGran_mgmt : (s.setGran k g).mgmt = s.mgmt := rfl
@[simp] theorem State.setGran_bg : (s.setGran k g).bg = s.bg := rfl
@[simp] theorem State.setGran_pins : (s.setGran k g).pins = s.pins := rfl

end

section

variable {k : Nat} {x : DriftNode}

@[simp] theorem State.setNode_nodes : (s.setNode k x).nodes = tblSet DriftNode.reset s.nodes k x := rfl
@[simp] theorem State.setNode_pending : (s.setNode k x).pending = s.pending := rfl
@[simp] theorem State.setNode_regs : (s.setNode k x).regs = s.regs := rfl
@[simp] theorem State.setNode_shadows : (s.setNode k x).shadows = s.shadows := rfl
@[simp] theorem State.setNode_reply : (s.setNode k x).reply = s.reply := rfl
@[simp] theorem State.setNode_replyPoison : (s.setNode k x).replyPoison = s.replyPoison := rfl
@[simp] theorem State.setNode_free : (s.setNode k x).free = s.free := rfl
@[simp] theorem State.setNode_time : (s.setNode k x).time = s.time := rfl
@[simp] theorem State.setNode_tclk : (s.setNode k x).tclk = s.tclk := rfl
@[simp] theorem State.setNode_topo : (s.setNode k x).topo = s.topo := rfl
@[simp] theorem State.setNode_plan : (s.setNode k x).plan = s.plan := rfl
@[simp] theorem State.setNode_com : (s.setNode k x).com = s.com := rfl
@[simp] theorem State.setNode_nextSid : (s.setNode k x).nextSid = s.nextSid := rfl
@[simp] theorem State.setNode_grans : (s.setNode k x).grans = s.grans := rfl
@[simp] theorem State.setNode_olds : (s.setNode k x).olds = s.olds := rfl
@[simp] theorem State.setNode_replMem : (s.setNode k x).replMem = s.replMem := rfl
@[simp] theorem State.setNode_replPoison : (s.setNode k x).replPoison = s.replPoison := rfl
@[simp] theorem State.setNode_rings : (s.setNode k x).rings = s.rings := rfl
@[simp] theorem State.setNode_evc : (s.setNode k x).evc = s.evc := rfl
@[simp] theorem State.setNode_ctxs : (s.setNode k x).ctxs = s.ctxs := rfl
@[simp] theorem State.setNode_latches : (s.setNode k x).latches = s.latches := rfl
@[simp] theorem State.setNode_sched : (s.setNode k x).sched = s.sched := rfl
@[simp] theorem State.setNode_driftKey : (s.setNode k x).driftKey = s.driftKey := rfl
@[simp] theorem State.setNode_usedSheaves : (s.setNode k x).usedSheaves = s.usedSheaves := rfl
@[simp] theorem State.setNode_recSheaves : (s.setNode k x).recSheaves = s.recSheaves := rfl
@[simp] theorem State.setNode_relQueue : (s.setNode k x).relQueue = s.relQueue := rfl
@[simp] theorem State.setNode_groupFree : (s.setNode k x).groupFree = s.groupFree := rfl
@[simp] theorem State.setNode_fns : (s.setNode k x).fns = s.fns := rfl
@[simp] theorem State.setNode_host : (s.setNode k x).host = s.host := rfl
@[simp] theorem State.setNode_trace : (s.setNode k x).trace = s.trace := rfl
@[simp] theorem State.setNode_elog : (s.setNode k x).elog = s.elog := rfl
@[simp] theorem State.setNode_silo : (s.setNode k x).silo = s.silo := rfl
@[simp] theorem State.setNode_aclk : (s.setNode k x).aclk = s.aclk := rfl
@[simp] theorem State.setNode_rel : (s.setNode k x).rel = s.rel := rfl
@[simp] theorem State.setNode_vault : (s.setNode k x).vault = s.vault := rfl
@[simp] theorem State.setNode_fab : (s.setNode k x).fab = s.fab := rfl
@[simp] theorem State.setNode_withdrawn : (s.setNode k x).withdrawn = s.withdrawn := rfl
@[simp] theorem State.setNode_mons : (s.setNode k x).mons = s.mons := rfl
@[simp] theorem State.setNode_sensors : (s.setNode k x).sensors = s.sensors := rfl
@[simp] theorem State.setNode_pwr : (s.setNode k x).pwr = s.pwr := rfl
@[simp] theorem State.setNode_boot : (s.setNode k x).boot = s.boot := rfl
@[simp] theorem State.setNode_mgmt : (s.setNode k x).mgmt = s.mgmt := rfl
@[simp] theorem State.setNode_bg : (s.setNode k x).bg = s.bg := rfl
@[simp] theorem State.setNode_pins : (s.setNode k x).pins = s.pins := rfl

end

section

variable {f : Fabric}

@[simp] theorem State.setFab_fab : (s.setFab f).fab = f := rfl
@[simp] theorem State.setFab_pending : (s.setFab f).pending = s.pending := rfl
@[simp] theorem State.setFab_regs : (s.setFab f).regs = s.regs := rfl
@[simp] theorem State.setFab_shadows : (s.setFab f).shadows = s.shadows := rfl
@[simp] theorem State.setFab_reply : (s.setFab f).reply = s.reply := rfl
@[simp] theorem State.setFab_replyPoison : (s.setFab f).replyPoison = s.replyPoison := rfl
@[simp] theorem State.setFab_free : (s.setFab f).free = s.free := rfl
@[simp] theorem State.setFab_time : (s.setFab f).time = s.time := rfl
@[simp] theorem State.setFab_tclk : (s.setFab f).tclk = s.tclk := rfl
@[simp] theorem State.setFab_topo : (s.setFab f).topo = s.topo := rfl
@[simp] theorem State.setFab_plan : (s.setFab f).plan = s.plan := rfl
@[simp] theorem State.setFab_com : (s.setFab f).com = s.com := rfl
@[simp] theorem State.setFab_nextSid : (s.setFab f).nextSid = s.nextSid := rfl
@[simp] theorem State.setFab_grans : (s.setFab f).grans = s.grans := rfl
@[simp] theorem State.setFab_olds : (s.setFab f).olds = s.olds := rfl
@[simp] theorem State.setFab_replMem : (s.setFab f).replMem = s.replMem := rfl
@[simp] theorem State.setFab_replPoison : (s.setFab f).replPoison = s.replPoison := rfl
@[simp] theorem State.setFab_rings : (s.setFab f).rings = s.rings := rfl
@[simp] theorem State.setFab_evc : (s.setFab f).evc = s.evc := rfl
@[simp] theorem State.setFab_ctxs : (s.setFab f).ctxs = s.ctxs := rfl
@[simp] theorem State.setFab_latches : (s.setFab f).latches = s.latches := rfl
@[simp] theorem State.setFab_sched : (s.setFab f).sched = s.sched := rfl
@[simp] theorem State.setFab_nodes : (s.setFab f).nodes = s.nodes := rfl
@[simp] theorem State.setFab_driftKey : (s.setFab f).driftKey = s.driftKey := rfl
@[simp] theorem State.setFab_usedSheaves : (s.setFab f).usedSheaves = s.usedSheaves := rfl
@[simp] theorem State.setFab_recSheaves : (s.setFab f).recSheaves = s.recSheaves := rfl
@[simp] theorem State.setFab_relQueue : (s.setFab f).relQueue = s.relQueue := rfl
@[simp] theorem State.setFab_groupFree : (s.setFab f).groupFree = s.groupFree := rfl
@[simp] theorem State.setFab_fns : (s.setFab f).fns = s.fns := rfl
@[simp] theorem State.setFab_host : (s.setFab f).host = s.host := rfl
@[simp] theorem State.setFab_trace : (s.setFab f).trace = s.trace := rfl
@[simp] theorem State.setFab_elog : (s.setFab f).elog = s.elog := rfl
@[simp] theorem State.setFab_silo : (s.setFab f).silo = s.silo := rfl
@[simp] theorem State.setFab_aclk : (s.setFab f).aclk = s.aclk := rfl
@[simp] theorem State.setFab_rel : (s.setFab f).rel = s.rel := rfl
@[simp] theorem State.setFab_vault : (s.setFab f).vault = s.vault := rfl
@[simp] theorem State.setFab_withdrawn : (s.setFab f).withdrawn = s.withdrawn := rfl
@[simp] theorem State.setFab_mons : (s.setFab f).mons = s.mons := rfl
@[simp] theorem State.setFab_sensors : (s.setFab f).sensors = s.sensors := rfl
@[simp] theorem State.setFab_pwr : (s.setFab f).pwr = s.pwr := rfl
@[simp] theorem State.setFab_boot : (s.setFab f).boot = s.boot := rfl
@[simp] theorem State.setFab_mgmt : (s.setFab f).mgmt = s.mgmt := rfl
@[simp] theorem State.setFab_bg : (s.setFab f).bg = s.bg := rfl
@[simp] theorem State.setFab_pins : (s.setFab f).pins = s.pins := rfl

end

section

variable {p : Nat} {x : Port}

@[simp] theorem State.setPort_fab : (s.setPort p x).fab = { s.fab with ports := tblSet Port.reset s.fab.ports p x } := rfl
@[simp] theorem State.setPort_pending : (s.setPort p x).pending = s.pending := rfl
@[simp] theorem State.setPort_regs : (s.setPort p x).regs = s.regs := rfl
@[simp] theorem State.setPort_shadows : (s.setPort p x).shadows = s.shadows := rfl
@[simp] theorem State.setPort_reply : (s.setPort p x).reply = s.reply := rfl
@[simp] theorem State.setPort_replyPoison : (s.setPort p x).replyPoison = s.replyPoison := rfl
@[simp] theorem State.setPort_free : (s.setPort p x).free = s.free := rfl
@[simp] theorem State.setPort_time : (s.setPort p x).time = s.time := rfl
@[simp] theorem State.setPort_tclk : (s.setPort p x).tclk = s.tclk := rfl
@[simp] theorem State.setPort_topo : (s.setPort p x).topo = s.topo := rfl
@[simp] theorem State.setPort_plan : (s.setPort p x).plan = s.plan := rfl
@[simp] theorem State.setPort_com : (s.setPort p x).com = s.com := rfl
@[simp] theorem State.setPort_nextSid : (s.setPort p x).nextSid = s.nextSid := rfl
@[simp] theorem State.setPort_grans : (s.setPort p x).grans = s.grans := rfl
@[simp] theorem State.setPort_olds : (s.setPort p x).olds = s.olds := rfl
@[simp] theorem State.setPort_replMem : (s.setPort p x).replMem = s.replMem := rfl
@[simp] theorem State.setPort_replPoison : (s.setPort p x).replPoison = s.replPoison := rfl
@[simp] theorem State.setPort_rings : (s.setPort p x).rings = s.rings := rfl
@[simp] theorem State.setPort_evc : (s.setPort p x).evc = s.evc := rfl
@[simp] theorem State.setPort_ctxs : (s.setPort p x).ctxs = s.ctxs := rfl
@[simp] theorem State.setPort_latches : (s.setPort p x).latches = s.latches := rfl
@[simp] theorem State.setPort_sched : (s.setPort p x).sched = s.sched := rfl
@[simp] theorem State.setPort_nodes : (s.setPort p x).nodes = s.nodes := rfl
@[simp] theorem State.setPort_driftKey : (s.setPort p x).driftKey = s.driftKey := rfl
@[simp] theorem State.setPort_usedSheaves : (s.setPort p x).usedSheaves = s.usedSheaves := rfl
@[simp] theorem State.setPort_recSheaves : (s.setPort p x).recSheaves = s.recSheaves := rfl
@[simp] theorem State.setPort_relQueue : (s.setPort p x).relQueue = s.relQueue := rfl
@[simp] theorem State.setPort_groupFree : (s.setPort p x).groupFree = s.groupFree := rfl
@[simp] theorem State.setPort_fns : (s.setPort p x).fns = s.fns := rfl
@[simp] theorem State.setPort_host : (s.setPort p x).host = s.host := rfl
@[simp] theorem State.setPort_trace : (s.setPort p x).trace = s.trace := rfl
@[simp] theorem State.setPort_elog : (s.setPort p x).elog = s.elog := rfl
@[simp] theorem State.setPort_silo : (s.setPort p x).silo = s.silo := rfl
@[simp] theorem State.setPort_aclk : (s.setPort p x).aclk = s.aclk := rfl
@[simp] theorem State.setPort_rel : (s.setPort p x).rel = s.rel := rfl
@[simp] theorem State.setPort_vault : (s.setPort p x).vault = s.vault := rfl
@[simp] theorem State.setPort_withdrawn : (s.setPort p x).withdrawn = s.withdrawn := rfl
@[simp] theorem State.setPort_mons : (s.setPort p x).mons = s.mons := rfl
@[simp] theorem State.setPort_sensors : (s.setPort p x).sensors = s.sensors := rfl
@[simp] theorem State.setPort_pwr : (s.setPort p x).pwr = s.pwr := rfl
@[simp] theorem State.setPort_boot : (s.setPort p x).boot = s.boot := rfl
@[simp] theorem State.setPort_mgmt : (s.setPort p x).mgmt = s.mgmt := rfl
@[simp] theorem State.setPort_bg : (s.setPort p x).bg = s.bg := rfl
@[simp] theorem State.setPort_pins : (s.setPort p x).pins = s.pins := rfl

end

section

variable {c : Nat} {n : Nat} {x : Cmd}

@[simp] theorem State.setCmd_rings : (s.setCmd c n x).rings = tblSet Ring.reset s.rings (c * 64 + n) (putCmd (s.ring c n) x) := rfl
@[simp] theorem State.setCmd_pending : (s.setCmd c n x).pending = s.pending := rfl
@[simp] theorem State.setCmd_regs : (s.setCmd c n x).regs = s.regs := rfl
@[simp] theorem State.setCmd_shadows : (s.setCmd c n x).shadows = s.shadows := rfl
@[simp] theorem State.setCmd_reply : (s.setCmd c n x).reply = s.reply := rfl
@[simp] theorem State.setCmd_replyPoison : (s.setCmd c n x).replyPoison = s.replyPoison := rfl
@[simp] theorem State.setCmd_free : (s.setCmd c n x).free = s.free := rfl
@[simp] theorem State.setCmd_time : (s.setCmd c n x).time = s.time := rfl
@[simp] theorem State.setCmd_tclk : (s.setCmd c n x).tclk = s.tclk := rfl
@[simp] theorem State.setCmd_topo : (s.setCmd c n x).topo = s.topo := rfl
@[simp] theorem State.setCmd_plan : (s.setCmd c n x).plan = s.plan := rfl
@[simp] theorem State.setCmd_com : (s.setCmd c n x).com = s.com := rfl
@[simp] theorem State.setCmd_nextSid : (s.setCmd c n x).nextSid = s.nextSid := rfl
@[simp] theorem State.setCmd_grans : (s.setCmd c n x).grans = s.grans := rfl
@[simp] theorem State.setCmd_olds : (s.setCmd c n x).olds = s.olds := rfl
@[simp] theorem State.setCmd_replMem : (s.setCmd c n x).replMem = s.replMem := rfl
@[simp] theorem State.setCmd_replPoison : (s.setCmd c n x).replPoison = s.replPoison := rfl
@[simp] theorem State.setCmd_evc : (s.setCmd c n x).evc = s.evc := rfl
@[simp] theorem State.setCmd_ctxs : (s.setCmd c n x).ctxs = s.ctxs := rfl
@[simp] theorem State.setCmd_latches : (s.setCmd c n x).latches = s.latches := rfl
@[simp] theorem State.setCmd_sched : (s.setCmd c n x).sched = s.sched := rfl
@[simp] theorem State.setCmd_nodes : (s.setCmd c n x).nodes = s.nodes := rfl
@[simp] theorem State.setCmd_driftKey : (s.setCmd c n x).driftKey = s.driftKey := rfl
@[simp] theorem State.setCmd_usedSheaves : (s.setCmd c n x).usedSheaves = s.usedSheaves := rfl
@[simp] theorem State.setCmd_recSheaves : (s.setCmd c n x).recSheaves = s.recSheaves := rfl
@[simp] theorem State.setCmd_relQueue : (s.setCmd c n x).relQueue = s.relQueue := rfl
@[simp] theorem State.setCmd_groupFree : (s.setCmd c n x).groupFree = s.groupFree := rfl
@[simp] theorem State.setCmd_fns : (s.setCmd c n x).fns = s.fns := rfl
@[simp] theorem State.setCmd_host : (s.setCmd c n x).host = s.host := rfl
@[simp] theorem State.setCmd_trace : (s.setCmd c n x).trace = s.trace := rfl
@[simp] theorem State.setCmd_elog : (s.setCmd c n x).elog = s.elog := rfl
@[simp] theorem State.setCmd_silo : (s.setCmd c n x).silo = s.silo := rfl
@[simp] theorem State.setCmd_aclk : (s.setCmd c n x).aclk = s.aclk := rfl
@[simp] theorem State.setCmd_rel : (s.setCmd c n x).rel = s.rel := rfl
@[simp] theorem State.setCmd_vault : (s.setCmd c n x).vault = s.vault := rfl
@[simp] theorem State.setCmd_fab : (s.setCmd c n x).fab = s.fab := rfl
@[simp] theorem State.setCmd_withdrawn : (s.setCmd c n x).withdrawn = s.withdrawn := rfl
@[simp] theorem State.setCmd_mons : (s.setCmd c n x).mons = s.mons := rfl
@[simp] theorem State.setCmd_sensors : (s.setCmd c n x).sensors = s.sensors := rfl
@[simp] theorem State.setCmd_pwr : (s.setCmd c n x).pwr = s.pwr := rfl
@[simp] theorem State.setCmd_boot : (s.setCmd c n x).boot = s.boot := rfl
@[simp] theorem State.setCmd_mgmt : (s.setCmd c n x).mgmt = s.mgmt := rfl
@[simp] theorem State.setCmd_bg : (s.setCmd c n x).bg = s.bg := rfl
@[simp] theorem State.setCmd_pins : (s.setCmd c n x).pins = s.pins := rfl

end

section

variable {k : Nat} {x : Monitor}

@[simp] theorem State.setMon_mons : (s.setMon k x).mons = tblSet Monitor.reset s.mons k x := rfl
@[simp] theorem State.setMon_pending : (s.setMon k x).pending = s.pending := rfl
@[simp] theorem State.setMon_regs : (s.setMon k x).regs = s.regs := rfl
@[simp] theorem State.setMon_shadows : (s.setMon k x).shadows = s.shadows := rfl
@[simp] theorem State.setMon_reply : (s.setMon k x).reply = s.reply := rfl
@[simp] theorem State.setMon_replyPoison : (s.setMon k x).replyPoison = s.replyPoison := rfl
@[simp] theorem State.setMon_free : (s.setMon k x).free = s.free := rfl
@[simp] theorem State.setMon_time : (s.setMon k x).time = s.time := rfl
@[simp] theorem State.setMon_tclk : (s.setMon k x).tclk = s.tclk := rfl
@[simp] theorem State.setMon_topo : (s.setMon k x).topo = s.topo := rfl
@[simp] theorem State.setMon_plan : (s.setMon k x).plan = s.plan := rfl
@[simp] theorem State.setMon_com : (s.setMon k x).com = s.com := rfl
@[simp] theorem State.setMon_nextSid : (s.setMon k x).nextSid = s.nextSid := rfl
@[simp] theorem State.setMon_grans : (s.setMon k x).grans = s.grans := rfl
@[simp] theorem State.setMon_olds : (s.setMon k x).olds = s.olds := rfl
@[simp] theorem State.setMon_replMem : (s.setMon k x).replMem = s.replMem := rfl
@[simp] theorem State.setMon_replPoison : (s.setMon k x).replPoison = s.replPoison := rfl
@[simp] theorem State.setMon_rings : (s.setMon k x).rings = s.rings := rfl
@[simp] theorem State.setMon_evc : (s.setMon k x).evc = s.evc := rfl
@[simp] theorem State.setMon_ctxs : (s.setMon k x).ctxs = s.ctxs := rfl
@[simp] theorem State.setMon_latches : (s.setMon k x).latches = s.latches := rfl
@[simp] theorem State.setMon_sched : (s.setMon k x).sched = s.sched := rfl
@[simp] theorem State.setMon_nodes : (s.setMon k x).nodes = s.nodes := rfl
@[simp] theorem State.setMon_driftKey : (s.setMon k x).driftKey = s.driftKey := rfl
@[simp] theorem State.setMon_usedSheaves : (s.setMon k x).usedSheaves = s.usedSheaves := rfl
@[simp] theorem State.setMon_recSheaves : (s.setMon k x).recSheaves = s.recSheaves := rfl
@[simp] theorem State.setMon_relQueue : (s.setMon k x).relQueue = s.relQueue := rfl
@[simp] theorem State.setMon_groupFree : (s.setMon k x).groupFree = s.groupFree := rfl
@[simp] theorem State.setMon_fns : (s.setMon k x).fns = s.fns := rfl
@[simp] theorem State.setMon_host : (s.setMon k x).host = s.host := rfl
@[simp] theorem State.setMon_trace : (s.setMon k x).trace = s.trace := rfl
@[simp] theorem State.setMon_elog : (s.setMon k x).elog = s.elog := rfl
@[simp] theorem State.setMon_silo : (s.setMon k x).silo = s.silo := rfl
@[simp] theorem State.setMon_aclk : (s.setMon k x).aclk = s.aclk := rfl
@[simp] theorem State.setMon_rel : (s.setMon k x).rel = s.rel := rfl
@[simp] theorem State.setMon_vault : (s.setMon k x).vault = s.vault := rfl
@[simp] theorem State.setMon_fab : (s.setMon k x).fab = s.fab := rfl
@[simp] theorem State.setMon_withdrawn : (s.setMon k x).withdrawn = s.withdrawn := rfl
@[simp] theorem State.setMon_sensors : (s.setMon k x).sensors = s.sensors := rfl
@[simp] theorem State.setMon_pwr : (s.setMon k x).pwr = s.pwr := rfl
@[simp] theorem State.setMon_boot : (s.setMon k x).boot = s.boot := rfl
@[simp] theorem State.setMon_mgmt : (s.setMon k x).mgmt = s.mgmt := rfl
@[simp] theorem State.setMon_bg : (s.setMon k x).bg = s.bg := rfl
@[simp] theorem State.setMon_pins : (s.setMon k x).pins = s.pins := rfl

end

section

variable {i : Nat} {x : Sensor}

@[simp] theorem State.setSensor_sensors : (s.setSensor i x).sensors = tblSet Sensor.reset s.sensors i x := rfl
@[simp] theorem State.setSensor_pending : (s.setSensor i x).pending = s.pending := rfl
@[simp] theorem State.setSensor_regs : (s.setSensor i x).regs = s.regs := rfl
@[simp] theorem State.setSensor_shadows : (s.setSensor i x).shadows = s.shadows := rfl
@[simp] theorem State.setSensor_reply : (s.setSensor i x).reply = s.reply := rfl
@[simp] theorem State.setSensor_replyPoison : (s.setSensor i x).replyPoison = s.replyPoison := rfl
@[simp] theorem State.setSensor_free : (s.setSensor i x).free = s.free := rfl
@[simp] theorem State.setSensor_time : (s.setSensor i x).time = s.time := rfl
@[simp] theorem State.setSensor_tclk : (s.setSensor i x).tclk = s.tclk := rfl
@[simp] theorem State.setSensor_topo : (s.setSensor i x).topo = s.topo := rfl
@[simp] theorem State.setSensor_plan : (s.setSensor i x).plan = s.plan := rfl
@[simp] theorem State.setSensor_com : (s.setSensor i x).com = s.com := rfl
@[simp] theorem State.setSensor_nextSid : (s.setSensor i x).nextSid = s.nextSid := rfl
@[simp] theorem State.setSensor_grans : (s.setSensor i x).grans = s.grans := rfl
@[simp] theorem State.setSensor_olds : (s.setSensor i x).olds = s.olds := rfl
@[simp] theorem State.setSensor_replMem : (s.setSensor i x).replMem = s.replMem := rfl
@[simp] theorem State.setSensor_replPoison : (s.setSensor i x).replPoison = s.replPoison := rfl
@[simp] theorem State.setSensor_rings : (s.setSensor i x).rings = s.rings := rfl
@[simp] theorem State.setSensor_evc : (s.setSensor i x).evc = s.evc := rfl
@[simp] theorem State.setSensor_ctxs : (s.setSensor i x).ctxs = s.ctxs := rfl
@[simp] theorem State.setSensor_latches : (s.setSensor i x).latches = s.latches := rfl
@[simp] theorem State.setSensor_sched : (s.setSensor i x).sched = s.sched := rfl
@[simp] theorem State.setSensor_nodes : (s.setSensor i x).nodes = s.nodes := rfl
@[simp] theorem State.setSensor_driftKey : (s.setSensor i x).driftKey = s.driftKey := rfl
@[simp] theorem State.setSensor_usedSheaves : (s.setSensor i x).usedSheaves = s.usedSheaves := rfl
@[simp] theorem State.setSensor_recSheaves : (s.setSensor i x).recSheaves = s.recSheaves := rfl
@[simp] theorem State.setSensor_relQueue : (s.setSensor i x).relQueue = s.relQueue := rfl
@[simp] theorem State.setSensor_groupFree : (s.setSensor i x).groupFree = s.groupFree := rfl
@[simp] theorem State.setSensor_fns : (s.setSensor i x).fns = s.fns := rfl
@[simp] theorem State.setSensor_host : (s.setSensor i x).host = s.host := rfl
@[simp] theorem State.setSensor_trace : (s.setSensor i x).trace = s.trace := rfl
@[simp] theorem State.setSensor_elog : (s.setSensor i x).elog = s.elog := rfl
@[simp] theorem State.setSensor_silo : (s.setSensor i x).silo = s.silo := rfl
@[simp] theorem State.setSensor_aclk : (s.setSensor i x).aclk = s.aclk := rfl
@[simp] theorem State.setSensor_rel : (s.setSensor i x).rel = s.rel := rfl
@[simp] theorem State.setSensor_vault : (s.setSensor i x).vault = s.vault := rfl
@[simp] theorem State.setSensor_fab : (s.setSensor i x).fab = s.fab := rfl
@[simp] theorem State.setSensor_withdrawn : (s.setSensor i x).withdrawn = s.withdrawn := rfl
@[simp] theorem State.setSensor_mons : (s.setSensor i x).mons = s.mons := rfl
@[simp] theorem State.setSensor_pwr : (s.setSensor i x).pwr = s.pwr := rfl
@[simp] theorem State.setSensor_boot : (s.setSensor i x).boot = s.boot := rfl
@[simp] theorem State.setSensor_mgmt : (s.setSensor i x).mgmt = s.mgmt := rfl
@[simp] theorem State.setSensor_bg : (s.setSensor i x).bg = s.bg := rfl
@[simp] theorem State.setSensor_pins : (s.setSensor i x).pins = s.pins := rfl

end

section

variable {p : Power}

@[simp] theorem State.setPwr_pwr : (s.setPwr p).pwr = p := rfl
@[simp] theorem State.setPwr_pending : (s.setPwr p).pending = s.pending := rfl
@[simp] theorem State.setPwr_regs : (s.setPwr p).regs = s.regs := rfl
@[simp] theorem State.setPwr_shadows : (s.setPwr p).shadows = s.shadows := rfl
@[simp] theorem State.setPwr_reply : (s.setPwr p).reply = s.reply := rfl
@[simp] theorem State.setPwr_replyPoison : (s.setPwr p).replyPoison = s.replyPoison := rfl
@[simp] theorem State.setPwr_free : (s.setPwr p).free = s.free := rfl
@[simp] theorem State.setPwr_time : (s.setPwr p).time = s.time := rfl
@[simp] theorem State.setPwr_tclk : (s.setPwr p).tclk = s.tclk := rfl
@[simp] theorem State.setPwr_topo : (s.setPwr p).topo = s.topo := rfl
@[simp] theorem State.setPwr_plan : (s.setPwr p).plan = s.plan := rfl
@[simp] theorem State.setPwr_com : (s.setPwr p).com = s.com := rfl
@[simp] theorem State.setPwr_nextSid : (s.setPwr p).nextSid = s.nextSid := rfl
@[simp] theorem State.setPwr_grans : (s.setPwr p).grans = s.grans := rfl
@[simp] theorem State.setPwr_olds : (s.setPwr p).olds = s.olds := rfl
@[simp] theorem State.setPwr_replMem : (s.setPwr p).replMem = s.replMem := rfl
@[simp] theorem State.setPwr_replPoison : (s.setPwr p).replPoison = s.replPoison := rfl
@[simp] theorem State.setPwr_rings : (s.setPwr p).rings = s.rings := rfl
@[simp] theorem State.setPwr_evc : (s.setPwr p).evc = s.evc := rfl
@[simp] theorem State.setPwr_ctxs : (s.setPwr p).ctxs = s.ctxs := rfl
@[simp] theorem State.setPwr_latches : (s.setPwr p).latches = s.latches := rfl
@[simp] theorem State.setPwr_sched : (s.setPwr p).sched = s.sched := rfl
@[simp] theorem State.setPwr_nodes : (s.setPwr p).nodes = s.nodes := rfl
@[simp] theorem State.setPwr_driftKey : (s.setPwr p).driftKey = s.driftKey := rfl
@[simp] theorem State.setPwr_usedSheaves : (s.setPwr p).usedSheaves = s.usedSheaves := rfl
@[simp] theorem State.setPwr_recSheaves : (s.setPwr p).recSheaves = s.recSheaves := rfl
@[simp] theorem State.setPwr_relQueue : (s.setPwr p).relQueue = s.relQueue := rfl
@[simp] theorem State.setPwr_groupFree : (s.setPwr p).groupFree = s.groupFree := rfl
@[simp] theorem State.setPwr_fns : (s.setPwr p).fns = s.fns := rfl
@[simp] theorem State.setPwr_host : (s.setPwr p).host = s.host := rfl
@[simp] theorem State.setPwr_trace : (s.setPwr p).trace = s.trace := rfl
@[simp] theorem State.setPwr_elog : (s.setPwr p).elog = s.elog := rfl
@[simp] theorem State.setPwr_silo : (s.setPwr p).silo = s.silo := rfl
@[simp] theorem State.setPwr_aclk : (s.setPwr p).aclk = s.aclk := rfl
@[simp] theorem State.setPwr_rel : (s.setPwr p).rel = s.rel := rfl
@[simp] theorem State.setPwr_vault : (s.setPwr p).vault = s.vault := rfl
@[simp] theorem State.setPwr_fab : (s.setPwr p).fab = s.fab := rfl
@[simp] theorem State.setPwr_withdrawn : (s.setPwr p).withdrawn = s.withdrawn := rfl
@[simp] theorem State.setPwr_mons : (s.setPwr p).mons = s.mons := rfl
@[simp] theorem State.setPwr_sensors : (s.setPwr p).sensors = s.sensors := rfl
@[simp] theorem State.setPwr_boot : (s.setPwr p).boot = s.boot := rfl
@[simp] theorem State.setPwr_mgmt : (s.setPwr p).mgmt = s.mgmt := rfl
@[simp] theorem State.setPwr_bg : (s.setPwr p).bg = s.bg := rfl
@[simp] theorem State.setPwr_pins : (s.setPwr p).pins = s.pins := rfl

end

section

variable {f : Nat} {x : ArrayEnt}

@[simp] theorem State.setArray_topo : (s.setArray f x).topo = { s.topo with arrays := tblSet (ArrayEnt.reset f) s.topo.arrays f x } := rfl
@[simp] theorem State.setArray_pending : (s.setArray f x).pending = s.pending := rfl
@[simp] theorem State.setArray_regs : (s.setArray f x).regs = s.regs := rfl
@[simp] theorem State.setArray_shadows : (s.setArray f x).shadows = s.shadows := rfl
@[simp] theorem State.setArray_reply : (s.setArray f x).reply = s.reply := rfl
@[simp] theorem State.setArray_replyPoison : (s.setArray f x).replyPoison = s.replyPoison := rfl
@[simp] theorem State.setArray_free : (s.setArray f x).free = s.free := rfl
@[simp] theorem State.setArray_time : (s.setArray f x).time = s.time := rfl
@[simp] theorem State.setArray_tclk : (s.setArray f x).tclk = s.tclk := rfl
@[simp] theorem State.setArray_plan : (s.setArray f x).plan = s.plan := rfl
@[simp] theorem State.setArray_com : (s.setArray f x).com = s.com := rfl
@[simp] theorem State.setArray_nextSid : (s.setArray f x).nextSid = s.nextSid := rfl
@[simp] theorem State.setArray_grans : (s.setArray f x).grans = s.grans := rfl
@[simp] theorem State.setArray_olds : (s.setArray f x).olds = s.olds := rfl
@[simp] theorem State.setArray_replMem : (s.setArray f x).replMem = s.replMem := rfl
@[simp] theorem State.setArray_replPoison : (s.setArray f x).replPoison = s.replPoison := rfl
@[simp] theorem State.setArray_rings : (s.setArray f x).rings = s.rings := rfl
@[simp] theorem State.setArray_evc : (s.setArray f x).evc = s.evc := rfl
@[simp] theorem State.setArray_ctxs : (s.setArray f x).ctxs = s.ctxs := rfl
@[simp] theorem State.setArray_latches : (s.setArray f x).latches = s.latches := rfl
@[simp] theorem State.setArray_sched : (s.setArray f x).sched = s.sched := rfl
@[simp] theorem State.setArray_nodes : (s.setArray f x).nodes = s.nodes := rfl
@[simp] theorem State.setArray_driftKey : (s.setArray f x).driftKey = s.driftKey := rfl
@[simp] theorem State.setArray_usedSheaves : (s.setArray f x).usedSheaves = s.usedSheaves := rfl
@[simp] theorem State.setArray_recSheaves : (s.setArray f x).recSheaves = s.recSheaves := rfl
@[simp] theorem State.setArray_relQueue : (s.setArray f x).relQueue = s.relQueue := rfl
@[simp] theorem State.setArray_groupFree : (s.setArray f x).groupFree = s.groupFree := rfl
@[simp] theorem State.setArray_fns : (s.setArray f x).fns = s.fns := rfl
@[simp] theorem State.setArray_host : (s.setArray f x).host = s.host := rfl
@[simp] theorem State.setArray_trace : (s.setArray f x).trace = s.trace := rfl
@[simp] theorem State.setArray_elog : (s.setArray f x).elog = s.elog := rfl
@[simp] theorem State.setArray_silo : (s.setArray f x).silo = s.silo := rfl
@[simp] theorem State.setArray_aclk : (s.setArray f x).aclk = s.aclk := rfl
@[simp] theorem State.setArray_rel : (s.setArray f x).rel = s.rel := rfl
@[simp] theorem State.setArray_vault : (s.setArray f x).vault = s.vault := rfl
@[simp] theorem State.setArray_fab : (s.setArray f x).fab = s.fab := rfl
@[simp] theorem State.setArray_withdrawn : (s.setArray f x).withdrawn = s.withdrawn := rfl
@[simp] theorem State.setArray_mons : (s.setArray f x).mons = s.mons := rfl
@[simp] theorem State.setArray_sensors : (s.setArray f x).sensors = s.sensors := rfl
@[simp] theorem State.setArray_pwr : (s.setArray f x).pwr = s.pwr := rfl
@[simp] theorem State.setArray_boot : (s.setArray f x).boot = s.boot := rfl
@[simp] theorem State.setArray_mgmt : (s.setArray f x).mgmt = s.mgmt := rfl
@[simp] theorem State.setArray_bg : (s.setArray f x).bg = s.bg := rfl
@[simp] theorem State.setArray_pins : (s.setArray f x).pins = s.pins := rfl

end

section

variable {k : Nat} {x : PhysSlot}

@[simp] theorem State.setSlot_topo : (s.setSlot k x).topo = { s.topo with slots := tblSet (PhysSlot.reset k) s.topo.slots k x } := rfl
@[simp] theorem State.setSlot_pending : (s.setSlot k x).pending = s.pending := rfl
@[simp] theorem State.setSlot_regs : (s.setSlot k x).regs = s.regs := rfl
@[simp] theorem State.setSlot_shadows : (s.setSlot k x).shadows = s.shadows := rfl
@[simp] theorem State.setSlot_reply : (s.setSlot k x).reply = s.reply := rfl
@[simp] theorem State.setSlot_replyPoison : (s.setSlot k x).replyPoison = s.replyPoison := rfl
@[simp] theorem State.setSlot_free : (s.setSlot k x).free = s.free := rfl
@[simp] theorem State.setSlot_time : (s.setSlot k x).time = s.time := rfl
@[simp] theorem State.setSlot_tclk : (s.setSlot k x).tclk = s.tclk := rfl
@[simp] theorem State.setSlot_plan : (s.setSlot k x).plan = s.plan := rfl
@[simp] theorem State.setSlot_com : (s.setSlot k x).com = s.com := rfl
@[simp] theorem State.setSlot_nextSid : (s.setSlot k x).nextSid = s.nextSid := rfl
@[simp] theorem State.setSlot_grans : (s.setSlot k x).grans = s.grans := rfl
@[simp] theorem State.setSlot_olds : (s.setSlot k x).olds = s.olds := rfl
@[simp] theorem State.setSlot_replMem : (s.setSlot k x).replMem = s.replMem := rfl
@[simp] theorem State.setSlot_replPoison : (s.setSlot k x).replPoison = s.replPoison := rfl
@[simp] theorem State.setSlot_rings : (s.setSlot k x).rings = s.rings := rfl
@[simp] theorem State.setSlot_evc : (s.setSlot k x).evc = s.evc := rfl
@[simp] theorem State.setSlot_ctxs : (s.setSlot k x).ctxs = s.ctxs := rfl
@[simp] theorem State.setSlot_latches : (s.setSlot k x).latches = s.latches := rfl
@[simp] theorem State.setSlot_sched : (s.setSlot k x).sched = s.sched := rfl
@[simp] theorem State.setSlot_nodes : (s.setSlot k x).nodes = s.nodes := rfl
@[simp] theorem State.setSlot_driftKey : (s.setSlot k x).driftKey = s.driftKey := rfl
@[simp] theorem State.setSlot_usedSheaves : (s.setSlot k x).usedSheaves = s.usedSheaves := rfl
@[simp] theorem State.setSlot_recSheaves : (s.setSlot k x).recSheaves = s.recSheaves := rfl
@[simp] theorem State.setSlot_relQueue : (s.setSlot k x).relQueue = s.relQueue := rfl
@[simp] theorem State.setSlot_groupFree : (s.setSlot k x).groupFree = s.groupFree := rfl
@[simp] theorem State.setSlot_fns : (s.setSlot k x).fns = s.fns := rfl
@[simp] theorem State.setSlot_host : (s.setSlot k x).host = s.host := rfl
@[simp] theorem State.setSlot_trace : (s.setSlot k x).trace = s.trace := rfl
@[simp] theorem State.setSlot_elog : (s.setSlot k x).elog = s.elog := rfl
@[simp] theorem State.setSlot_silo : (s.setSlot k x).silo = s.silo := rfl
@[simp] theorem State.setSlot_aclk : (s.setSlot k x).aclk = s.aclk := rfl
@[simp] theorem State.setSlot_rel : (s.setSlot k x).rel = s.rel := rfl
@[simp] theorem State.setSlot_vault : (s.setSlot k x).vault = s.vault := rfl
@[simp] theorem State.setSlot_fab : (s.setSlot k x).fab = s.fab := rfl
@[simp] theorem State.setSlot_withdrawn : (s.setSlot k x).withdrawn = s.withdrawn := rfl
@[simp] theorem State.setSlot_mons : (s.setSlot k x).mons = s.mons := rfl
@[simp] theorem State.setSlot_sensors : (s.setSlot k x).sensors = s.sensors := rfl
@[simp] theorem State.setSlot_pwr : (s.setSlot k x).pwr = s.pwr := rfl
@[simp] theorem State.setSlot_boot : (s.setSlot k x).boot = s.boot := rfl
@[simp] theorem State.setSlot_mgmt : (s.setSlot k x).mgmt = s.mgmt := rfl
@[simp] theorem State.setSlot_bg : (s.setSlot k x).bg = s.bg := rfl
@[simp] theorem State.setSlot_pins : (s.setSlot k x).pins = s.pins := rfl

end

section

variable {n : Nat} {x : D2DLink}

@[simp] theorem State.setLink_topo : (s.setLink n x).topo = { s.topo with links := tblSet D2DLink.reset s.topo.links n x } := rfl
@[simp] theorem State.setLink_pending : (s.setLink n x).pending = s.pending := rfl
@[simp] theorem State.setLink_regs : (s.setLink n x).regs = s.regs := rfl
@[simp] theorem State.setLink_shadows : (s.setLink n x).shadows = s.shadows := rfl
@[simp] theorem State.setLink_reply : (s.setLink n x).reply = s.reply := rfl
@[simp] theorem State.setLink_replyPoison : (s.setLink n x).replyPoison = s.replyPoison := rfl
@[simp] theorem State.setLink_free : (s.setLink n x).free = s.free := rfl
@[simp] theorem State.setLink_time : (s.setLink n x).time = s.time := rfl
@[simp] theorem State.setLink_tclk : (s.setLink n x).tclk = s.tclk := rfl
@[simp] theorem State.setLink_plan : (s.setLink n x).plan = s.plan := rfl
@[simp] theorem State.setLink_com : (s.setLink n x).com = s.com := rfl
@[simp] theorem State.setLink_nextSid : (s.setLink n x).nextSid = s.nextSid := rfl
@[simp] theorem State.setLink_grans : (s.setLink n x).grans = s.grans := rfl
@[simp] theorem State.setLink_olds : (s.setLink n x).olds = s.olds := rfl
@[simp] theorem State.setLink_replMem : (s.setLink n x).replMem = s.replMem := rfl
@[simp] theorem State.setLink_replPoison : (s.setLink n x).replPoison = s.replPoison := rfl
@[simp] theorem State.setLink_rings : (s.setLink n x).rings = s.rings := rfl
@[simp] theorem State.setLink_evc : (s.setLink n x).evc = s.evc := rfl
@[simp] theorem State.setLink_ctxs : (s.setLink n x).ctxs = s.ctxs := rfl
@[simp] theorem State.setLink_latches : (s.setLink n x).latches = s.latches := rfl
@[simp] theorem State.setLink_sched : (s.setLink n x).sched = s.sched := rfl
@[simp] theorem State.setLink_nodes : (s.setLink n x).nodes = s.nodes := rfl
@[simp] theorem State.setLink_driftKey : (s.setLink n x).driftKey = s.driftKey := rfl
@[simp] theorem State.setLink_usedSheaves : (s.setLink n x).usedSheaves = s.usedSheaves := rfl
@[simp] theorem State.setLink_recSheaves : (s.setLink n x).recSheaves = s.recSheaves := rfl
@[simp] theorem State.setLink_relQueue : (s.setLink n x).relQueue = s.relQueue := rfl
@[simp] theorem State.setLink_groupFree : (s.setLink n x).groupFree = s.groupFree := rfl
@[simp] theorem State.setLink_fns : (s.setLink n x).fns = s.fns := rfl
@[simp] theorem State.setLink_host : (s.setLink n x).host = s.host := rfl
@[simp] theorem State.setLink_trace : (s.setLink n x).trace = s.trace := rfl
@[simp] theorem State.setLink_elog : (s.setLink n x).elog = s.elog := rfl
@[simp] theorem State.setLink_silo : (s.setLink n x).silo = s.silo := rfl
@[simp] theorem State.setLink_aclk : (s.setLink n x).aclk = s.aclk := rfl
@[simp] theorem State.setLink_rel : (s.setLink n x).rel = s.rel := rfl
@[simp] theorem State.setLink_vault : (s.setLink n x).vault = s.vault := rfl
@[simp] theorem State.setLink_fab : (s.setLink n x).fab = s.fab := rfl
@[simp] theorem State.setLink_withdrawn : (s.setLink n x).withdrawn = s.withdrawn := rfl
@[simp] theorem State.setLink_mons : (s.setLink n x).mons = s.mons := rfl
@[simp] theorem State.setLink_sensors : (s.setLink n x).sensors = s.sensors := rfl
@[simp] theorem State.setLink_pwr : (s.setLink n x).pwr = s.pwr := rfl
@[simp] theorem State.setLink_boot : (s.setLink n x).boot = s.boot := rfl
@[simp] theorem State.setLink_mgmt : (s.setLink n x).mgmt = s.mgmt := rfl
@[simp] theorem State.setLink_bg : (s.setLink n x).bg = s.bg := rfl
@[simp] theorem State.setLink_pins : (s.setLink n x).pins = s.pins := rfl

end

section

variable {d : Nat} {x : DiePower}

@[simp] theorem State.setDie_pwr : (s.setDie d x).pwr = { s.pwr with dies := tblSet DiePower.reset s.pwr.dies d x } := rfl
@[simp] theorem State.setDie_pending : (s.setDie d x).pending = s.pending := rfl
@[simp] theorem State.setDie_regs : (s.setDie d x).regs = s.regs := rfl
@[simp] theorem State.setDie_shadows : (s.setDie d x).shadows = s.shadows := rfl
@[simp] theorem State.setDie_reply : (s.setDie d x).reply = s.reply := rfl
@[simp] theorem State.setDie_replyPoison : (s.setDie d x).replyPoison = s.replyPoison := rfl
@[simp] theorem State.setDie_free : (s.setDie d x).free = s.free := rfl
@[simp] theorem State.setDie_time : (s.setDie d x).time = s.time := rfl
@[simp] theorem State.setDie_tclk : (s.setDie d x).tclk = s.tclk := rfl
@[simp] theorem State.setDie_topo : (s.setDie d x).topo = s.topo := rfl
@[simp] theorem State.setDie_plan : (s.setDie d x).plan = s.plan := rfl
@[simp] theorem State.setDie_com : (s.setDie d x).com = s.com := rfl
@[simp] theorem State.setDie_nextSid : (s.setDie d x).nextSid = s.nextSid := rfl
@[simp] theorem State.setDie_grans : (s.setDie d x).grans = s.grans := rfl
@[simp] theorem State.setDie_olds : (s.setDie d x).olds = s.olds := rfl
@[simp] theorem State.setDie_replMem : (s.setDie d x).replMem = s.replMem := rfl
@[simp] theorem State.setDie_replPoison : (s.setDie d x).replPoison = s.replPoison := rfl
@[simp] theorem State.setDie_rings : (s.setDie d x).rings = s.rings := rfl
@[simp] theorem State.setDie_evc : (s.setDie d x).evc = s.evc := rfl
@[simp] theorem State.setDie_ctxs : (s.setDie d x).ctxs = s.ctxs := rfl
@[simp] theorem State.setDie_latches : (s.setDie d x).latches = s.latches := rfl
@[simp] theorem State.setDie_sched : (s.setDie d x).sched = s.sched := rfl
@[simp] theorem State.setDie_nodes : (s.setDie d x).nodes = s.nodes := rfl
@[simp] theorem State.setDie_driftKey : (s.setDie d x).driftKey = s.driftKey := rfl
@[simp] theorem State.setDie_usedSheaves : (s.setDie d x).usedSheaves = s.usedSheaves := rfl
@[simp] theorem State.setDie_recSheaves : (s.setDie d x).recSheaves = s.recSheaves := rfl
@[simp] theorem State.setDie_relQueue : (s.setDie d x).relQueue = s.relQueue := rfl
@[simp] theorem State.setDie_groupFree : (s.setDie d x).groupFree = s.groupFree := rfl
@[simp] theorem State.setDie_fns : (s.setDie d x).fns = s.fns := rfl
@[simp] theorem State.setDie_host : (s.setDie d x).host = s.host := rfl
@[simp] theorem State.setDie_trace : (s.setDie d x).trace = s.trace := rfl
@[simp] theorem State.setDie_elog : (s.setDie d x).elog = s.elog := rfl
@[simp] theorem State.setDie_silo : (s.setDie d x).silo = s.silo := rfl
@[simp] theorem State.setDie_aclk : (s.setDie d x).aclk = s.aclk := rfl
@[simp] theorem State.setDie_rel : (s.setDie d x).rel = s.rel := rfl
@[simp] theorem State.setDie_vault : (s.setDie d x).vault = s.vault := rfl
@[simp] theorem State.setDie_fab : (s.setDie d x).fab = s.fab := rfl
@[simp] theorem State.setDie_withdrawn : (s.setDie d x).withdrawn = s.withdrawn := rfl
@[simp] theorem State.setDie_mons : (s.setDie d x).mons = s.mons := rfl
@[simp] theorem State.setDie_sensors : (s.setDie d x).sensors = s.sensors := rfl
@[simp] theorem State.setDie_boot : (s.setDie d x).boot = s.boot := rfl
@[simp] theorem State.setDie_mgmt : (s.setDie d x).mgmt = s.mgmt := rfl
@[simp] theorem State.setDie_bg : (s.setDie d x).bg = s.bg := rfl
@[simp] theorem State.setDie_pins : (s.setDie d x).pins = s.pins := rfl

end

section

variable {r : Nat} {x : RailSt}

@[simp] theorem State.setRail_pwr : (s.setRail r x).pwr = { s.pwr with rails := tblSet RailSt.reset s.pwr.rails r x } := rfl
@[simp] theorem State.setRail_pending : (s.setRail r x).pending = s.pending := rfl
@[simp] theorem State.setRail_regs : (s.setRail r x).regs = s.regs := rfl
@[simp] theorem State.setRail_shadows : (s.setRail r x).shadows = s.shadows := rfl
@[simp] theorem State.setRail_reply : (s.setRail r x).reply = s.reply := rfl
@[simp] theorem State.setRail_replyPoison : (s.setRail r x).replyPoison = s.replyPoison := rfl
@[simp] theorem State.setRail_free : (s.setRail r x).free = s.free := rfl
@[simp] theorem State.setRail_time : (s.setRail r x).time = s.time := rfl
@[simp] theorem State.setRail_tclk : (s.setRail r x).tclk = s.tclk := rfl
@[simp] theorem State.setRail_topo : (s.setRail r x).topo = s.topo := rfl
@[simp] theorem State.setRail_plan : (s.setRail r x).plan = s.plan := rfl
@[simp] theorem State.setRail_com : (s.setRail r x).com = s.com := rfl
@[simp] theorem State.setRail_nextSid : (s.setRail r x).nextSid = s.nextSid := rfl
@[simp] theorem State.setRail_grans : (s.setRail r x).grans = s.grans := rfl
@[simp] theorem State.setRail_olds : (s.setRail r x).olds = s.olds := rfl
@[simp] theorem State.setRail_replMem : (s.setRail r x).replMem = s.replMem := rfl
@[simp] theorem State.setRail_replPoison : (s.setRail r x).replPoison = s.replPoison := rfl
@[simp] theorem State.setRail_rings : (s.setRail r x).rings = s.rings := rfl
@[simp] theorem State.setRail_evc : (s.setRail r x).evc = s.evc := rfl
@[simp] theorem State.setRail_ctxs : (s.setRail r x).ctxs = s.ctxs := rfl
@[simp] theorem State.setRail_latches : (s.setRail r x).latches = s.latches := rfl
@[simp] theorem State.setRail_sched : (s.setRail r x).sched = s.sched := rfl
@[simp] theorem State.setRail_nodes : (s.setRail r x).nodes = s.nodes := rfl
@[simp] theorem State.setRail_driftKey : (s.setRail r x).driftKey = s.driftKey := rfl
@[simp] theorem State.setRail_usedSheaves : (s.setRail r x).usedSheaves = s.usedSheaves := rfl
@[simp] theorem State.setRail_recSheaves : (s.setRail r x).recSheaves = s.recSheaves := rfl
@[simp] theorem State.setRail_relQueue : (s.setRail r x).relQueue = s.relQueue := rfl
@[simp] theorem State.setRail_groupFree : (s.setRail r x).groupFree = s.groupFree := rfl
@[simp] theorem State.setRail_fns : (s.setRail r x).fns = s.fns := rfl
@[simp] theorem State.setRail_host : (s.setRail r x).host = s.host := rfl
@[simp] theorem State.setRail_trace : (s.setRail r x).trace = s.trace := rfl
@[simp] theorem State.setRail_elog : (s.setRail r x).elog = s.elog := rfl
@[simp] theorem State.setRail_silo : (s.setRail r x).silo = s.silo := rfl
@[simp] theorem State.setRail_aclk : (s.setRail r x).aclk = s.aclk := rfl
@[simp] theorem State.setRail_rel : (s.setRail r x).rel = s.rel := rfl
@[simp] theorem State.setRail_vault : (s.setRail r x).vault = s.vault := rfl
@[simp] theorem State.setRail_fab : (s.setRail r x).fab = s.fab := rfl
@[simp] theorem State.setRail_withdrawn : (s.setRail r x).withdrawn = s.withdrawn := rfl
@[simp] theorem State.setRail_mons : (s.setRail r x).mons = s.mons := rfl
@[simp] theorem State.setRail_sensors : (s.setRail r x).sensors = s.sensors := rfl
@[simp] theorem State.setRail_boot : (s.setRail r x).boot = s.boot := rfl
@[simp] theorem State.setRail_mgmt : (s.setRail r x).mgmt = s.mgmt := rfl
@[simp] theorem State.setRail_bg : (s.setRail r x).bg = s.bg := rfl
@[simp] theorem State.setRail_pins : (s.setRail r x).pins = s.pins := rfl

end

section

variable {i : Nat} {x : PhaseSt}

@[simp] theorem State.setPhase_pwr : (s.setPhase i x).pwr = { s.pwr with phases := tblSet (PhaseSt.reset i) s.pwr.phases i x } := rfl
@[simp] theorem State.setPhase_pending : (s.setPhase i x).pending = s.pending := rfl
@[simp] theorem State.setPhase_regs : (s.setPhase i x).regs = s.regs := rfl
@[simp] theorem State.setPhase_shadows : (s.setPhase i x).shadows = s.shadows := rfl
@[simp] theorem State.setPhase_reply : (s.setPhase i x).reply = s.reply := rfl
@[simp] theorem State.setPhase_replyPoison : (s.setPhase i x).replyPoison = s.replyPoison := rfl
@[simp] theorem State.setPhase_free : (s.setPhase i x).free = s.free := rfl
@[simp] theorem State.setPhase_time : (s.setPhase i x).time = s.time := rfl
@[simp] theorem State.setPhase_tclk : (s.setPhase i x).tclk = s.tclk := rfl
@[simp] theorem State.setPhase_topo : (s.setPhase i x).topo = s.topo := rfl
@[simp] theorem State.setPhase_plan : (s.setPhase i x).plan = s.plan := rfl
@[simp] theorem State.setPhase_com : (s.setPhase i x).com = s.com := rfl
@[simp] theorem State.setPhase_nextSid : (s.setPhase i x).nextSid = s.nextSid := rfl
@[simp] theorem State.setPhase_grans : (s.setPhase i x).grans = s.grans := rfl
@[simp] theorem State.setPhase_olds : (s.setPhase i x).olds = s.olds := rfl
@[simp] theorem State.setPhase_replMem : (s.setPhase i x).replMem = s.replMem := rfl
@[simp] theorem State.setPhase_replPoison : (s.setPhase i x).replPoison = s.replPoison := rfl
@[simp] theorem State.setPhase_rings : (s.setPhase i x).rings = s.rings := rfl
@[simp] theorem State.setPhase_evc : (s.setPhase i x).evc = s.evc := rfl
@[simp] theorem State.setPhase_ctxs : (s.setPhase i x).ctxs = s.ctxs := rfl
@[simp] theorem State.setPhase_latches : (s.setPhase i x).latches = s.latches := rfl
@[simp] theorem State.setPhase_sched : (s.setPhase i x).sched = s.sched := rfl
@[simp] theorem State.setPhase_nodes : (s.setPhase i x).nodes = s.nodes := rfl
@[simp] theorem State.setPhase_driftKey : (s.setPhase i x).driftKey = s.driftKey := rfl
@[simp] theorem State.setPhase_usedSheaves : (s.setPhase i x).usedSheaves = s.usedSheaves := rfl
@[simp] theorem State.setPhase_recSheaves : (s.setPhase i x).recSheaves = s.recSheaves := rfl
@[simp] theorem State.setPhase_relQueue : (s.setPhase i x).relQueue = s.relQueue := rfl
@[simp] theorem State.setPhase_groupFree : (s.setPhase i x).groupFree = s.groupFree := rfl
@[simp] theorem State.setPhase_fns : (s.setPhase i x).fns = s.fns := rfl
@[simp] theorem State.setPhase_host : (s.setPhase i x).host = s.host := rfl
@[simp] theorem State.setPhase_trace : (s.setPhase i x).trace = s.trace := rfl
@[simp] theorem State.setPhase_elog : (s.setPhase i x).elog = s.elog := rfl
@[simp] theorem State.setPhase_silo : (s.setPhase i x).silo = s.silo := rfl
@[simp] theorem State.setPhase_aclk : (s.setPhase i x).aclk = s.aclk := rfl
@[simp] theorem State.setPhase_rel : (s.setPhase i x).rel = s.rel := rfl
@[simp] theorem State.setPhase_vault : (s.setPhase i x).vault = s.vault := rfl
@[simp] theorem State.setPhase_fab : (s.setPhase i x).fab = s.fab := rfl
@[simp] theorem State.setPhase_withdrawn : (s.setPhase i x).withdrawn = s.withdrawn := rfl
@[simp] theorem State.setPhase_mons : (s.setPhase i x).mons = s.mons := rfl
@[simp] theorem State.setPhase_sensors : (s.setPhase i x).sensors = s.sensors := rfl
@[simp] theorem State.setPhase_boot : (s.setPhase i x).boot = s.boot := rfl
@[simp] theorem State.setPhase_mgmt : (s.setPhase i x).mgmt = s.mgmt := rfl
@[simp] theorem State.setPhase_bg : (s.setPhase i x).bg = s.bg := rfl
@[simp] theorem State.setPhase_pins : (s.setPhase i x).pins = s.pins := rfl

end

section

variable {sid : Nat} {b : Body}

@[simp] theorem State.setBody_com : (s.setBody sid b).com = { s.com with bodies := tblIns s.com.bodies sid b } := rfl
@[simp] theorem State.setBody_pending : (s.setBody sid b).pending = s.pending := rfl
@[simp] theorem State.setBody_regs : (s.setBody sid b).regs = s.regs := rfl
@[simp] theorem State.setBody_shadows : (s.setBody sid b).shadows = s.shadows := rfl
@[simp] theorem State.setBody_reply : (s.setBody sid b).reply = s.reply := rfl
@[simp] theorem State.setBody_replyPoison : (s.setBody sid b).replyPoison = s.replyPoison := rfl
@[simp] theorem State.setBody_free : (s.setBody sid b).free = s.free := rfl
@[simp] theorem State.setBody_time : (s.setBody sid b).time = s.time := rfl
@[simp] theorem State.setBody_tclk : (s.setBody sid b).tclk = s.tclk := rfl
@[simp] theorem State.setBody_topo : (s.setBody sid b).topo = s.topo := rfl
@[simp] theorem State.setBody_plan : (s.setBody sid b).plan = s.plan := rfl
@[simp] theorem State.setBody_nextSid : (s.setBody sid b).nextSid = s.nextSid := rfl
@[simp] theorem State.setBody_grans : (s.setBody sid b).grans = s.grans := rfl
@[simp] theorem State.setBody_olds : (s.setBody sid b).olds = s.olds := rfl
@[simp] theorem State.setBody_replMem : (s.setBody sid b).replMem = s.replMem := rfl
@[simp] theorem State.setBody_replPoison : (s.setBody sid b).replPoison = s.replPoison := rfl
@[simp] theorem State.setBody_rings : (s.setBody sid b).rings = s.rings := rfl
@[simp] theorem State.setBody_evc : (s.setBody sid b).evc = s.evc := rfl
@[simp] theorem State.setBody_ctxs : (s.setBody sid b).ctxs = s.ctxs := rfl
@[simp] theorem State.setBody_latches : (s.setBody sid b).latches = s.latches := rfl
@[simp] theorem State.setBody_sched : (s.setBody sid b).sched = s.sched := rfl
@[simp] theorem State.setBody_nodes : (s.setBody sid b).nodes = s.nodes := rfl
@[simp] theorem State.setBody_driftKey : (s.setBody sid b).driftKey = s.driftKey := rfl
@[simp] theorem State.setBody_usedSheaves : (s.setBody sid b).usedSheaves = s.usedSheaves := rfl
@[simp] theorem State.setBody_recSheaves : (s.setBody sid b).recSheaves = s.recSheaves := rfl
@[simp] theorem State.setBody_relQueue : (s.setBody sid b).relQueue = s.relQueue := rfl
@[simp] theorem State.setBody_groupFree : (s.setBody sid b).groupFree = s.groupFree := rfl
@[simp] theorem State.setBody_fns : (s.setBody sid b).fns = s.fns := rfl
@[simp] theorem State.setBody_host : (s.setBody sid b).host = s.host := rfl
@[simp] theorem State.setBody_trace : (s.setBody sid b).trace = s.trace := rfl
@[simp] theorem State.setBody_elog : (s.setBody sid b).elog = s.elog := rfl
@[simp] theorem State.setBody_silo : (s.setBody sid b).silo = s.silo := rfl
@[simp] theorem State.setBody_aclk : (s.setBody sid b).aclk = s.aclk := rfl
@[simp] theorem State.setBody_rel : (s.setBody sid b).rel = s.rel := rfl
@[simp] theorem State.setBody_vault : (s.setBody sid b).vault = s.vault := rfl
@[simp] theorem State.setBody_fab : (s.setBody sid b).fab = s.fab := rfl
@[simp] theorem State.setBody_withdrawn : (s.setBody sid b).withdrawn = s.withdrawn := rfl
@[simp] theorem State.setBody_mons : (s.setBody sid b).mons = s.mons := rfl
@[simp] theorem State.setBody_sensors : (s.setBody sid b).sensors = s.sensors := rfl
@[simp] theorem State.setBody_pwr : (s.setBody sid b).pwr = s.pwr := rfl
@[simp] theorem State.setBody_boot : (s.setBody sid b).boot = s.boot := rfl
@[simp] theorem State.setBody_mgmt : (s.setBody sid b).mgmt = s.mgmt := rfl
@[simp] theorem State.setBody_bg : (s.setBody sid b).bg = s.bg := rfl
@[simp] theorem State.setBody_pins : (s.setBody sid b).pins = s.pins := rfl

end

section

variable {n : Nat} {x : SeqSlot}

@[simp] theorem State.setSeq_com : (s.setSeq n x).com = { s.com with slots := tblSet SeqSlot.reset s.com.slots n x } := rfl
@[simp] theorem State.setSeq_pending : (s.setSeq n x).pending = s.pending := rfl
@[simp] theorem State.setSeq_regs : (s.setSeq n x).regs = s.regs := rfl
@[simp] theorem State.setSeq_shadows : (s.setSeq n x).shadows = s.shadows := rfl
@[simp] theorem State.setSeq_reply : (s.setSeq n x).reply = s.reply := rfl
@[simp] theorem State.setSeq_replyPoison : (s.setSeq n x).replyPoison = s.replyPoison := rfl
@[simp] theorem State.setSeq_free : (s.setSeq n x).free = s.free := rfl
@[simp] theorem State.setSeq_time : (s.setSeq n x).time = s.time := rfl
@[simp] theorem State.setSeq_tclk : (s.setSeq n x).tclk = s.tclk := rfl
@[simp] theorem State.setSeq_topo : (s.setSeq n x).topo = s.topo := rfl
@[simp] theorem State.setSeq_plan : (s.setSeq n x).plan = s.plan := rfl
@[simp] theorem State.setSeq_nextSid : (s.setSeq n x).nextSid = s.nextSid := rfl
@[simp] theorem State.setSeq_grans : (s.setSeq n x).grans = s.grans := rfl
@[simp] theorem State.setSeq_olds : (s.setSeq n x).olds = s.olds := rfl
@[simp] theorem State.setSeq_replMem : (s.setSeq n x).replMem = s.replMem := rfl
@[simp] theorem State.setSeq_replPoison : (s.setSeq n x).replPoison = s.replPoison := rfl
@[simp] theorem State.setSeq_rings : (s.setSeq n x).rings = s.rings := rfl
@[simp] theorem State.setSeq_evc : (s.setSeq n x).evc = s.evc := rfl
@[simp] theorem State.setSeq_ctxs : (s.setSeq n x).ctxs = s.ctxs := rfl
@[simp] theorem State.setSeq_latches : (s.setSeq n x).latches = s.latches := rfl
@[simp] theorem State.setSeq_sched : (s.setSeq n x).sched = s.sched := rfl
@[simp] theorem State.setSeq_nodes : (s.setSeq n x).nodes = s.nodes := rfl
@[simp] theorem State.setSeq_driftKey : (s.setSeq n x).driftKey = s.driftKey := rfl
@[simp] theorem State.setSeq_usedSheaves : (s.setSeq n x).usedSheaves = s.usedSheaves := rfl
@[simp] theorem State.setSeq_recSheaves : (s.setSeq n x).recSheaves = s.recSheaves := rfl
@[simp] theorem State.setSeq_relQueue : (s.setSeq n x).relQueue = s.relQueue := rfl
@[simp] theorem State.setSeq_groupFree : (s.setSeq n x).groupFree = s.groupFree := rfl
@[simp] theorem State.setSeq_fns : (s.setSeq n x).fns = s.fns := rfl
@[simp] theorem State.setSeq_host : (s.setSeq n x).host = s.host := rfl
@[simp] theorem State.setSeq_trace : (s.setSeq n x).trace = s.trace := rfl
@[simp] theorem State.setSeq_elog : (s.setSeq n x).elog = s.elog := rfl
@[simp] theorem State.setSeq_silo : (s.setSeq n x).silo = s.silo := rfl
@[simp] theorem State.setSeq_aclk : (s.setSeq n x).aclk = s.aclk := rfl
@[simp] theorem State.setSeq_rel : (s.setSeq n x).rel = s.rel := rfl
@[simp] theorem State.setSeq_vault : (s.setSeq n x).vault = s.vault := rfl
@[simp] theorem State.setSeq_fab : (s.setSeq n x).fab = s.fab := rfl
@[simp] theorem State.setSeq_withdrawn : (s.setSeq n x).withdrawn = s.withdrawn := rfl
@[simp] theorem State.setSeq_mons : (s.setSeq n x).mons = s.mons := rfl
@[simp] theorem State.setSeq_sensors : (s.setSeq n x).sensors = s.sensors := rfl
@[simp] theorem State.setSeq_pwr : (s.setSeq n x).pwr = s.pwr := rfl
@[simp] theorem State.setSeq_boot : (s.setSeq n x).boot = s.boot := rfl
@[simp] theorem State.setSeq_mgmt : (s.setSeq n x).mgmt = s.mgmt := rfl
@[simp] theorem State.setSeq_bg : (s.setSeq n x).bg = s.bg := rfl
@[simp] theorem State.setSeq_pins : (s.setSeq n x).pins = s.pins := rfl

end

section

variable {k : Nat} {x : Stook}

@[simp] theorem State.setStook_com : (s.setStook k x).com = { s.com with stooks := tblIns s.com.stooks k x } := rfl
@[simp] theorem State.setStook_pending : (s.setStook k x).pending = s.pending := rfl
@[simp] theorem State.setStook_regs : (s.setStook k x).regs = s.regs := rfl
@[simp] theorem State.setStook_shadows : (s.setStook k x).shadows = s.shadows := rfl
@[simp] theorem State.setStook_reply : (s.setStook k x).reply = s.reply := rfl
@[simp] theorem State.setStook_replyPoison : (s.setStook k x).replyPoison = s.replyPoison := rfl
@[simp] theorem State.setStook_free : (s.setStook k x).free = s.free := rfl
@[simp] theorem State.setStook_time : (s.setStook k x).time = s.time := rfl
@[simp] theorem State.setStook_tclk : (s.setStook k x).tclk = s.tclk := rfl
@[simp] theorem State.setStook_topo : (s.setStook k x).topo = s.topo := rfl
@[simp] theorem State.setStook_plan : (s.setStook k x).plan = s.plan := rfl
@[simp] theorem State.setStook_nextSid : (s.setStook k x).nextSid = s.nextSid := rfl
@[simp] theorem State.setStook_grans : (s.setStook k x).grans = s.grans := rfl
@[simp] theorem State.setStook_olds : (s.setStook k x).olds = s.olds := rfl
@[simp] theorem State.setStook_replMem : (s.setStook k x).replMem = s.replMem := rfl
@[simp] theorem State.setStook_replPoison : (s.setStook k x).replPoison = s.replPoison := rfl
@[simp] theorem State.setStook_rings : (s.setStook k x).rings = s.rings := rfl
@[simp] theorem State.setStook_evc : (s.setStook k x).evc = s.evc := rfl
@[simp] theorem State.setStook_ctxs : (s.setStook k x).ctxs = s.ctxs := rfl
@[simp] theorem State.setStook_latches : (s.setStook k x).latches = s.latches := rfl
@[simp] theorem State.setStook_sched : (s.setStook k x).sched = s.sched := rfl
@[simp] theorem State.setStook_nodes : (s.setStook k x).nodes = s.nodes := rfl
@[simp] theorem State.setStook_driftKey : (s.setStook k x).driftKey = s.driftKey := rfl
@[simp] theorem State.setStook_usedSheaves : (s.setStook k x).usedSheaves = s.usedSheaves := rfl
@[simp] theorem State.setStook_recSheaves : (s.setStook k x).recSheaves = s.recSheaves := rfl
@[simp] theorem State.setStook_relQueue : (s.setStook k x).relQueue = s.relQueue := rfl
@[simp] theorem State.setStook_groupFree : (s.setStook k x).groupFree = s.groupFree := rfl
@[simp] theorem State.setStook_fns : (s.setStook k x).fns = s.fns := rfl
@[simp] theorem State.setStook_host : (s.setStook k x).host = s.host := rfl
@[simp] theorem State.setStook_trace : (s.setStook k x).trace = s.trace := rfl
@[simp] theorem State.setStook_elog : (s.setStook k x).elog = s.elog := rfl
@[simp] theorem State.setStook_silo : (s.setStook k x).silo = s.silo := rfl
@[simp] theorem State.setStook_aclk : (s.setStook k x).aclk = s.aclk := rfl
@[simp] theorem State.setStook_rel : (s.setStook k x).rel = s.rel := rfl
@[simp] theorem State.setStook_vault : (s.setStook k x).vault = s.vault := rfl
@[simp] theorem State.setStook_fab : (s.setStook k x).fab = s.fab := rfl
@[simp] theorem State.setStook_withdrawn : (s.setStook k x).withdrawn = s.withdrawn := rfl
@[simp] theorem State.setStook_mons : (s.setStook k x).mons = s.mons := rfl
@[simp] theorem State.setStook_sensors : (s.setStook k x).sensors = s.sensors := rfl
@[simp] theorem State.setStook_pwr : (s.setStook k x).pwr = s.pwr := rfl
@[simp] theorem State.setStook_boot : (s.setStook k x).boot = s.boot := rfl
@[simp] theorem State.setStook_mgmt : (s.setStook k x).mgmt = s.mgmt := rfl
@[simp] theorem State.setStook_bg : (s.setStook k x).bg = s.bg := rfl
@[simp] theorem State.setStook_pins : (s.setStook k x).pins = s.pins := rfl

end

/-! ### Draws of free values -/

@[simp] theorem State.draw_fst : s.draw.1 = Config.freeValue s.free := rfl
@[simp] theorem State.draw_free : s.draw.2.free = s.free + 1 := rfl
@[simp] theorem State.draw_pending : s.draw.2.pending = s.pending := rfl
@[simp] theorem State.draw_regs : s.draw.2.regs = s.regs := rfl
@[simp] theorem State.draw_shadows : s.draw.2.shadows = s.shadows := rfl
@[simp] theorem State.draw_reply : s.draw.2.reply = s.reply := rfl
@[simp] theorem State.draw_replyPoison : s.draw.2.replyPoison = s.replyPoison := rfl
@[simp] theorem State.draw_time : s.draw.2.time = s.time := rfl
@[simp] theorem State.draw_tclk : s.draw.2.tclk = s.tclk := rfl
@[simp] theorem State.draw_topo : s.draw.2.topo = s.topo := rfl
@[simp] theorem State.draw_plan : s.draw.2.plan = s.plan := rfl
@[simp] theorem State.draw_com : s.draw.2.com = s.com := rfl
@[simp] theorem State.draw_nextSid : s.draw.2.nextSid = s.nextSid := rfl
@[simp] theorem State.draw_grans : s.draw.2.grans = s.grans := rfl
@[simp] theorem State.draw_olds : s.draw.2.olds = s.olds := rfl
@[simp] theorem State.draw_replMem : s.draw.2.replMem = s.replMem := rfl
@[simp] theorem State.draw_replPoison : s.draw.2.replPoison = s.replPoison := rfl
@[simp] theorem State.draw_rings : s.draw.2.rings = s.rings := rfl
@[simp] theorem State.draw_evc : s.draw.2.evc = s.evc := rfl
@[simp] theorem State.draw_ctxs : s.draw.2.ctxs = s.ctxs := rfl
@[simp] theorem State.draw_latches : s.draw.2.latches = s.latches := rfl
@[simp] theorem State.draw_sched : s.draw.2.sched = s.sched := rfl
@[simp] theorem State.draw_nodes : s.draw.2.nodes = s.nodes := rfl
@[simp] theorem State.draw_driftKey : s.draw.2.driftKey = s.driftKey := rfl
@[simp] theorem State.draw_usedSheaves : s.draw.2.usedSheaves = s.usedSheaves := rfl
@[simp] theorem State.draw_recSheaves : s.draw.2.recSheaves = s.recSheaves := rfl
@[simp] theorem State.draw_relQueue : s.draw.2.relQueue = s.relQueue := rfl
@[simp] theorem State.draw_groupFree : s.draw.2.groupFree = s.groupFree := rfl
@[simp] theorem State.draw_fns : s.draw.2.fns = s.fns := rfl
@[simp] theorem State.draw_host : s.draw.2.host = s.host := rfl
@[simp] theorem State.draw_trace : s.draw.2.trace = s.trace := rfl
@[simp] theorem State.draw_elog : s.draw.2.elog = s.elog := rfl
@[simp] theorem State.draw_silo : s.draw.2.silo = s.silo := rfl
@[simp] theorem State.draw_aclk : s.draw.2.aclk = s.aclk := rfl
@[simp] theorem State.draw_rel : s.draw.2.rel = s.rel := rfl
@[simp] theorem State.draw_vault : s.draw.2.vault = s.vault := rfl
@[simp] theorem State.draw_fab : s.draw.2.fab = s.fab := rfl
@[simp] theorem State.draw_withdrawn : s.draw.2.withdrawn = s.withdrawn := rfl
@[simp] theorem State.draw_mons : s.draw.2.mons = s.mons := rfl
@[simp] theorem State.draw_sensors : s.draw.2.sensors = s.sensors := rfl
@[simp] theorem State.draw_pwr : s.draw.2.pwr = s.pwr := rfl
@[simp] theorem State.draw_boot : s.draw.2.boot = s.boot := rfl
@[simp] theorem State.draw_mgmt : s.draw.2.mgmt = s.mgmt := rfl
@[simp] theorem State.draw_bg : s.draw.2.bg = s.bg := rfl
@[simp] theorem State.draw_pins : s.draw.2.pins = s.pins := rfl

/-! ### Reads after writes -/

variable {s}

theorem State.reg_setReg_self {k : Nat} {v : Word} (h : tblSorted s.regs = true) : (s.setReg k v).reg k = v :=
  tblGet_tblSet_self k v h

theorem State.reg_setReg_ne {j k : Nat} {v : Word} (h : tblSorted s.regs = true) (hj : j ≠ k) : (s.setReg k v).reg j = s.reg j := by
  unfold State.reg tblGet State.setReg
  rw [tblFind_tblSet_ne v h hj]

theorem State.ctx_setCtx_self {c : Nat} {x : Ctx} (h : tblSorted s.ctxs = true) : (s.setCtx c x).ctx c = x := tblGet_tblSet_self c x h

theorem State.ctx_setCtx_ne {c d : Nat} {x : Ctx} (h : tblSorted s.ctxs = true) (hd : d ≠ c) : (s.setCtx c x).ctx d = s.ctx d :=
  tblGet_tblSet_ne x h hd

theorem State.ring_setRing_self {c n : Nat} {r : Ring} (h : tblSorted s.rings = true) : (s.setRing c n r).ring c n = r :=
  tblGet_tblSet_self _ r h

theorem State.latch_setLatch_self {l : Nat} {x : Latch} (h : tblSorted s.latches = true) : (s.setLatch l x).latch l = x :=
  tblGet_tblSet_self l x h

theorem State.fn_setFn_self {f : Nat} {x : Fn} (h : tblSorted s.fns = true) : (s.setFn f x).fn f = x := tblGet_tblSet_self f x h

theorem State.evctr_setEvctr_self {c k : Nat} {v : DWord} (h : tblSorted s.evc = true) : (s.setEvctr c k v).evctr c k = v :=
  tblGet_tblSet_self _ v h

end Sys2Proof.Machine
end

