-- ==== Sys2Proof/Laws/Watch.lean ====
section
/-! SUPPORT. Sys2Proof/Laws/Watch.lean: what the evaluation of the monitors changes (the monitors, the functions' vectors and the
messages to the host, nothing else), what it leaves settled, and the two answers that a row can give. -/

namespace Sys2Proof.Machine

open Sys2Proof

variable {s t : State}

/-! ### Signals and evaluations change three fields -/

/-- `t` is `s` but for monitors, functions and what the host has received. -/
def OnlySignals (s t : State) : Prop := t = { s with mons := t.mons, fns := t.fns, host := t.host }

theorem OnlySignals.refl (s : State) : OnlySignals s s := rfl

theorem OnlySignals.trans {u : State} (h : OnlySignals s t) (h' : OnlySignals t u) : OnlySignals s u := by
  unfold OnlySignals at *
  rw [h'] ; rw [h]

theorem messageDue_only (s : State) (f v : Nat) : OnlySignals s (messageDue s f v) := by
  unfold messageDue
  dsimp only
  split <;> rfl

theorem signalVector_only (s : State) (f v : Nat) : OnlySignals s (signalVector s f v) := by
  unfold signalVector
  dsimp only
  split
  · rfl
  · have h : ∀ x : Fn, OnlySignals s (s.setFn f x) := fun _ => rfl
    repeat' split
    all_goals first
      | exact (h _).trans (messageDue_only _ f v)
      | exact h _

theorem signalModule_only (s : State) (k : Nat) : OnlySignals s (signalModule s k) := by
  unfold signalModule
  split
  · exact signalVector_only s 0 _
  · rfl

theorem evalMonitor_only (s : State) (k : Nat) : OnlySignals s (evalMonitor s k) := by
  unfold evalMonitor
  dsimp only
  split
  · rfl
  · have h : ∀ x : Monitor, OnlySignals s (s.setMon k x) := fun _ => rfl
    split
    · exact (h _).trans (signalModule_only _ _)
    · exact h _

theorem foldl_evalMonitor_only (l : List Nat) (s : State) : OnlySignals s (l.foldl evalMonitor s) := by
  induction l generalizing s with
  | nil => rfl
  | cons k l ih => exact (evalMonitor_only s k).trans (ih _)

/-- The evaluation of the monitors changes the monitors, the functions and what the host has received, nothing else. -/
theorem watch_only (s : State) : OnlySignals s (watch s) := foldl_evalMonitor_only _ s

@[simp] theorem watch_pending (s : State) : (watch s).pending = s.pending := by rw [watch_only s]
@[simp] theorem watch_regs (s : State) : (watch s).regs = s.regs := by rw [watch_only s]
@[simp] theorem watch_shadows (s : State) : (watch s).shadows = s.shadows := by rw [watch_only s]
@[simp] theorem watch_reply (s : State) : (watch s).reply = s.reply := by rw [watch_only s]
@[simp] theorem watch_replyPoison (s : State) : (watch s).replyPoison = s.replyPoison := by rw [watch_only s]
@[simp] theorem watch_free (s : State) : (watch s).free = s.free := by rw [watch_only s]
@[simp] theorem watch_time (s : State) : (watch s).time = s.time := by rw [watch_only s]
@[simp] theorem watch_tclk (s : State) : (watch s).tclk = s.tclk := by rw [watch_only s]
@[simp] theorem watch_topo (s : State) : (watch s).topo = s.topo := by rw [watch_only s]
@[simp] theorem watch_plan (s : State) : (watch s).plan = s.plan := by rw [watch_only s]
@[simp] theorem watch_com (s : State) : (watch s).com = s.com := by rw [watch_only s]
@[simp] theorem watch_nextSid (s : State) : (watch s).nextSid = s.nextSid := by rw [watch_only s]
@[simp] theorem watch_grans (s : State) : (watch s).grans = s.grans := by rw [watch_only s]
@[simp] theorem watch_olds (s : State) : (watch s).olds = s.olds := by rw [watch_only s]
@[simp] theorem watch_replMem (s : State) : (watch s).replMem = s.replMem := by rw [watch_only s]
@[simp] theorem watch_replPoison (s : State) : (watch s).replPoison = s.replPoison := by rw [watch_only s]
@[simp] theorem watch_rings (s : State) : (watch s).rings = s.rings := by rw [watch_only s]
@[simp] theorem watch_evc (s : State) : (watch s).evc = s.evc := by rw [watch_only s]
@[simp] theorem watch_ctxs (s : State) : (watch s).ctxs = s.ctxs := by rw [watch_only s]
@[simp] theorem watch_latches (s : State) : (watch s).latches = s.latches := by rw [watch_only s]
@[simp] theorem watch_sched (s : State) : (watch s).sched = s.sched := by rw [watch_only s]
@[simp] theorem watch_nodes (s : State) : (watch s).nodes = s.nodes := by rw [watch_only s]
@[simp] theorem watch_driftKey (s : State) : (watch s).driftKey = s.driftKey := by rw [watch_only s]
@[simp] theorem watch_usedSheaves (s : State) : (watch s).usedSheaves = s.usedSheaves := by rw [watch_only s]
@[simp] theorem watch_recSheaves (s : State) : (watch s).recSheaves = s.recSheaves := by rw [watch_only s]
@[simp] theorem watch_relQueue (s : State) : (watch s).relQueue = s.relQueue := by rw [watch_only s]
@[simp] theorem watch_groupFree (s : State) : (watch s).groupFree = s.groupFree := by rw [watch_only s]
@[simp] theorem watch_trace (s : State) : (watch s).trace = s.trace := by rw [watch_only s]
@[simp] theorem watch_elog (s : State) : (watch s).elog = s.elog := by rw [watch_only s]
@[simp] theorem watch_silo (s : State) : (watch s).silo = s.silo := by rw [watch_only s]
@[simp] theorem watch_aclk (s : State) : (watch s).aclk = s.aclk := by rw [watch_only s]
@[simp] theorem watch_rel (s : State) : (watch s).rel = s.rel := by rw [watch_only s]
@[simp] theorem watch_vault (s : State) : (watch s).vault = s.vault := by rw [watch_only s]
@[simp] theorem watch_fab (s : State) : (watch s).fab = s.fab := by rw [watch_only s]
@[simp] theorem watch_withdrawn (s : State) : (watch s).withdrawn = s.withdrawn := by rw [watch_only s]
@[simp] theorem watch_sensors (s : State) : (watch s).sensors = s.sensors := by rw [watch_only s]
@[simp] theorem watch_pwr (s : State) : (watch s).pwr = s.pwr := by rw [watch_only s]
@[simp] theorem watch_boot (s : State) : (watch s).boot = s.boot := by rw [watch_only s]
@[simp] theorem watch_mgmt (s : State) : (watch s).mgmt = s.mgmt := by rw [watch_only s]
@[simp] theorem watch_bg (s : State) : (watch s).bg = s.bg := by rw [watch_only s]
@[simp] theorem watch_pins (s : State) : (watch s).pins = s.pins := by rw [watch_only s]

@[simp] theorem watch_reg (s : State) (k : Nat) : (watch s).reg k = s.reg k := by rw [watch_only s]; rfl
@[simp] theorem watch_ctx (s : State) (c : Nat) : (watch s).ctx c = s.ctx c := by rw [watch_only s]; rfl
@[simp] theorem watch_ring (s : State) (c n : Nat) : (watch s).ring c n = s.ring c n := by rw [watch_only s]; rfl
@[simp] theorem watch_cmd (s : State) (c n k : Nat) : (watch s).cmd c n k = s.cmd c n k := by rw [watch_only s]; rfl

/-! ### Settled monitors -/

/-- No source is a monitor, a vector or a message. -/
theorem sourceValue_only (h : OnlySignals s t) (k i : Nat) : sourceValue t k i = sourceValue s k i := by
  rw [h]
  unfold sourceValue
  rfl

theorem signalModule_mons (s : State) (k : Nat) : (signalModule s k).mons = s.mons := by
  unfold signalModule signalVector messageDue
  dsimp only
  repeat' split
  all_goals rfl

theorem evalMonitor_mons (s : State) (k : Nat) :
    (evalMonitor s k).mons = if !(s.mon k).en || (s.mon k).kind == 0 then s.mons
      else (s.setMon k ((s.mon k).eval (sourceValue s (s.mon k).kind (s.mon k).index))).mons := by
  unfold evalMonitor
  dsimp only
  split
  · rfl
  · split
    · exact signalModule_mons _ _
    · rfl

/-- An evaluation keeps what a monitor watches. -/
theorem Monitor.eval_same (x : Monitor) (v : Int) : (x.eval v).en = x.en ∧ (x.eval v).kind = x.kind ∧ (x.eval v).index = x.index
    ∧ (x.eval v).hi = x.hi ∧ (x.eval v).lo = x.lo := by
  unfold Monitor.eval Monitor.enable
  repeat' split
  all_goals exact ⟨rfl, rfl, rfl, rfl, rfl⟩

/-- R498: a monitor that has been evaluated is settled. -/
theorem Monitor.eval_settled (x : Monitor) (v : Int) : (x.eval v).settled v := by
  intro _ _
  unfold Monitor.eval Monitor.enable
  by_cases ha : x.afresh = true
  · simp only [ha, if_true]
    refine ⟨trivial, fun h _ => decide_eq_true h, fun _ h => decide_eq_false (by omega)⟩
  · have ha' : x.afresh = false := by simpa using ha
    simp only [ha', Bool.false_eq_true, if_false]
    by_cases h1 : (!x.above && decide (threshold x.kind x.hi ≤ v)) = true
    · rw [if_pos h1]
      have h := (Bool.and_eq_true _ _ ▸ h1 : _ ∧ _).2
      have h := of_decide_eq_true h
      exact ⟨rfl, fun _ _ => rfl, fun _ h' => absurd h (by dsimp only at h'; omega)⟩
    · rw [if_neg h1]
      by_cases h2 : (x.above && decide (v ≤ threshold x.kind x.lo)) = true
      · rw [if_pos h2]
        have h := (Bool.and_eq_true _ _ ▸ h2 : _ ∧ _).2
        have h := of_decide_eq_true h
        exact ⟨rfl, fun _ h' => absurd h (by dsimp only at h'; omega), fun _ _ => rfl⟩
      · rw [if_neg h2]
        refine ⟨ha', fun h h' => ?_, fun h h' => ?_⟩
        · cases hx : x.above
          · exact absurd (by simp [hx, h]) h1
          · rfl
        · cases hx : x.above
          · rfl
          · exact absurd (by simp [hx, h]) h2

theorem mon_setMon_self {x : Monitor} {k : Nat} (h : x.en = true) : (s.setMon k x).mon k = x :=
  tblGet_tblSet_of_ne _ _ _ (fun e => by rw [e] at h; exact absurd h (by decide))

theorem mon_setMon_ne {x : Monitor} {k j : Nat} (h : x.en = true) (hj : j ≠ k) : (s.setMon k x).mon j = s.mon j :=
  tblGet_tblSet_ne_of_ne (fun e => by rw [e] at h; exact absurd h (by decide)) hj

/-- The monitor `k` is settled. -/
def settledAt (s : State) (k : Nat) : Prop := (s.mon k).settled (sourceValue s (s.mon k).kind (s.mon k).index)

theorem evalMonitor_mon_ne {k j : Nat} (h : j ≠ k) : (evalMonitor s k).mon j = s.mon j := by
  unfold State.mon
  rw [evalMonitor_mons]
  split
  · rfl
  · next he =>
    have he' : (s.mon k).en = true := by simp only [Bool.or_eq_true, Bool.not_eq_true', not_or, Bool.not_eq_false] at he; exact he.1
    exact mon_setMon_ne (by rw [(Monitor.eval_same _ _).1]; exact he') h

theorem evalMonitor_settledAt (s : State) (k : Nat) : settledAt (evalMonitor s k) k := by
  unfold settledAt
  rw [sourceValue_only (evalMonitor_only s k)]
  by_cases he : (!(s.mon k).en || (s.mon k).kind == 0) = true
  · have hm : (evalMonitor s k).mon k = s.mon k := by unfold State.mon; rw [evalMonitor_mons, if_pos he]
    rw [hm]
    intro h1 h2
    simp [h1, h2] at he
  · have hen : (s.mon k).en = true := by simp only [Bool.or_eq_true, Bool.not_eq_true', not_or, Bool.not_eq_false] at he; exact he.1
    have hm : (evalMonitor s k).mon k = (s.mon k).eval (sourceValue s (s.mon k).kind (s.mon k).index) := by
      unfold State.mon
      rw [evalMonitor_mons, if_neg he]
      exact mon_setMon_self (by rw [(Monitor.eval_same _ _).1]; exact hen)
    rw [hm, (Monitor.eval_same _ _).2.1, (Monitor.eval_same _ _).2.2.1]
    exact Monitor.eval_settled _ _

theorem evalMonitor_keeps_settledAt {k j : Nat} (h : settledAt s j) : settledAt (evalMonitor s k) j := by
  by_cases hj : j = k
  · subst hj; exact evalMonitor_settledAt s j
  · unfold settledAt at *
    rw [sourceValue_only (evalMonitor_only s k), evalMonitor_mon_ne hj]
    exact h

theorem foldl_evalMonitor_settled {l : List Nat} {s : State} {j : Nat} (h : j ∈ l ∨ settledAt s j) : settledAt (l.foldl evalMonitor s) j := by
  induction l generalizing s with
  | nil =>
    rcases h with h | h
    · cases h
    · exact h
  | cons k l ih =>
    refine ih ?_
    rcases h with h | h
    · rcases List.mem_cons.1 h with rfl | h
      · exact .inr (evalMonitor_settledAt s j)
      · exact .inl h
    · exact .inr (evalMonitor_keeps_settledAt h)

/-- R498: every monitor is settled after the evaluation. -/
theorem watch_settled (s : State) : (watch s).Settled := by
  intro j
  refine foldl_evalMonitor_settled ?_
  by_cases h : tblFind s.mons j = none
  · right
    intro he
    have : s.mon j = Monitor.reset := by unfold State.mon tblGet; rw [h]; rfl
    rw [this] at he
    exact absurd he (by decide)
  · obtain ⟨x, hx⟩ := Option.ne_none_iff_exists'.1 h
    exact .inl (List.mem_map_of_mem (f := (·.1)) (tblFind_mem hx))

/-! ### The answers of a row -/

/-- A row's answer: the state as it was, or a state whose monitors have been evaluated. -/
def Answers (s : State) (o : Out) : Prop := o = .next s ∨ ∃ u, o = .next (watch u)

theorem done_answers (s u : State) : Answers s (done u) := .inr ⟨u, rfl⟩

theorem hub_answers (s u : State) : Answers s (hub s u) := by
  unfold hub
  split
  · exact done_answers s u
  · exact .inl rfl

theorem aon_answers (s u : State) : Answers s (aon s u) := by
  unfold aon
  split
  · exact done_answers s u
  · exact .inl rfl

theorem hub_up {u : State} (h : s.up = true) : hub s u = .next (watch u) := if_pos h

theorem aon_on {u : State} (h : s.pins.aux = true) : aon s u = .next (watch u) := if_pos h

end Sys2Proof.Machine
end

