-- ==== Sys2Proof/Laws/Access.lean ====
section
/-! SUPPORT. Sys2Proof/Laws/Access.lean: what a wake event changes, and where an access that reaches its register lands. -/

namespace Sys2Proof.Machine

open Sys2Proof

variable {s t : State}

/-! ### Wake events -/

/-- `t` is `s` but for registers, the power state, pins, functions and what the host has received. -/
def OnlyWake (s t : State) : Prop := t = { s with regs := t.regs, pwr := t.pwr, pins := t.pins, fns := t.fns, host := t.host }

theorem OnlyWake.refl (s : State) : OnlyWake s s := rfl

theorem OnlyWake.trans {u : State} (h : OnlyWake s t) (h' : OnlyWake t u) : OnlyWake s u := by
  unfold OnlyWake at *
  rw [h'] ; rw [h]

theorem signalVector_wake (s : State) (f v : Nat) : OnlyWake s (signalVector s f v) := by
  unfold signalVector messageDue
  dsimp only
  repeat' split
  all_goals rfl

theorem signalModule_wake (s : State) (k : Nat) : OnlyWake s (signalModule s k) := by
  unfold signalModule
  split
  · exact signalVector_wake s 0 _
  · rfl

theorem pwrEvent_wake (s : State) (b : Nat) : OnlyWake s (pwrEvent s b) :=
  OnlyWake.trans (t := s.setBits kPwrIrq (2 ^ b)) rfl (signalModule_wake _ _)

theorem setPwr_wake (s : State) (p : Power) : OnlyWake s (s.setPwr p) := rfl

theorem wakeAny_wake (s : State) : OnlyWake s (wakeAny s) := by
  have h : ∀ t, OnlyWake s t → ∀ p b, OnlyWake s (pwrEvent (t.setPwr p) b) := fun t ht p b =>
    (ht.trans (setPwr_wake t p)).trans (pwrEvent_wake _ _)
  unfold wakeAny
  split
  · rfl
  · exact h s rfl _ _
  · have hb : OnlyWake s (if s.pwr.shake.isSome = true then abandonShake s 2 0 else s) := by split <;> rfl
    dsimp only
    generalize (if s.pwr.shake.isSome = true then abandonShake s 2 0 else s) = u at hb
    split
    · exact h u hb _ _
    · split
      · exact hb.trans (pwrEvent_wake _ _)
      · exact hb

/-- A wake event changes the registers (WAKE_CAUSE, PWR_IRQ), the power state, WAKE_N and the vectors, nothing else. -/
theorem wakeSource_wake (s : State) (k : Nat) : OnlyWake s (wakeSource s k) := by
  unfold wakeSource
  dsimp only
  split
  · rfl
  · split
    · rfl
    · exact OnlyWake.trans (t := s.setBits kWakeCause (2 ^ k)) rfl (wakeAny_wake _)

/-- R469: in Run, with no transition and no handshake, no source's event counts. -/
theorem wakeSource_awake (h : s.Awake) (k : Nat) : wakeSource s k = s := by
  unfold wakeSource
  rw [if_pos]
  right; left
  unfold wakeMatters
  rw [h.2.1]
  simp only [h.2.2, h.1]
  rfl

@[simp] theorem wakeSource_pending (s : State) (k : Nat) : (wakeSource s k).pending = s.pending := by rw [wakeSource_wake s k]
@[simp] theorem wakeSource_shadows (s : State) (k : Nat) : (wakeSource s k).shadows = s.shadows := by rw [wakeSource_wake s k]
@[simp] theorem wakeSource_reply (s : State) (k : Nat) : (wakeSource s k).reply = s.reply := by rw [wakeSource_wake s k]
@[simp] theorem wakeSource_replyPoison (s : State) (k : Nat) : (wakeSource s k).replyPoison = s.replyPoison := by rw [wakeSource_wake s k]
@[simp] theorem wakeSource_free (s : State) (k : Nat) : (wakeSource s k).free = s.free := by rw [wakeSource_wake s k]
@[simp] theorem wakeSource_time (s : State) (k : Nat) : (wakeSource s k).time = s.time := by rw [wakeSource_wake s k]
@[simp] theorem wakeSource_tclk (s : State) (k : Nat) : (wakeSource s k).tclk = s.tclk := by rw [wakeSource_wake s k]
@[simp] theorem wakeSource_topo (s : State) (k : Nat) : (wakeSource s k).topo = s.topo := by rw [wakeSource_wake s k]
@[simp] theorem wakeSource_plan (s : State) (k : Nat) : (wakeSource s k).plan = s.plan := by rw [wakeSource_wake s k]
@[simp] theorem wakeSource_com (s : State) (k : Nat) : (wakeSource s k).com = s.com := by rw [wakeSource_wake s k]
@[simp] theorem wakeSource_nextSid (s : State) (k : Nat) : (wakeSource s k).nextSid = s.nextSid := by rw [wakeSource_wake s k]
@[simp] theorem wakeSource_grans (s : State) (k : Nat) : (wakeSource s k).grans = s.grans := by rw [wakeSource_wake s k]
@[simp] theorem wakeSource_olds (s : State) (k : Nat) : (wakeSource s k).olds = s.olds := by rw [wakeSource_wake s k]
@[simp] theorem wakeSource_replMem (s : State) (k : Nat) : (wakeSource s k).replMem = s.replMem := by rw [wakeSource_wake s k]
@[simp] theorem wakeSource_replPoison (s : State) (k : Nat) : (wakeSource s k).replPoison = s.replPoison := by rw [wakeSource_wake s k]
@[simp] theorem wakeSource_rings (s : State) (k : Nat) : (wakeSource s k).rings = s.rings := by rw [wakeSource_wake s k]
@[simp] theorem wakeSource_evc (s : State) (k : Nat) : (wakeSource s k).evc = s.evc := by rw [wakeSource_wake s k]
@[simp] theorem wakeSource_ctxs (s : State) (k : Nat) : (wakeSource s k).ctxs = s.ctxs := by rw [wakeSource_wake s k]
@[simp] theorem wakeSource_latches (s : State) (k : Nat) : (wakeSource s k).latches = s.latches := by rw [wakeSource_wake s k]
@[simp] theorem wakeSource_sched (s : State) (k : Nat) : (wakeSource s k).sched = s.sched := by rw [wakeSource_wake s k]
@[simp] theorem wakeSource_nodes (s : State) (k : Nat) : (wakeSource s k).nodes = s.nodes := by rw [wakeSource_wake s k]
@[simp] theorem wakeSource_driftKey (s : State) (k : Nat) : (wakeSource s k).driftKey = s.driftKey := by rw [wakeSource_wake s k]
@[simp] theorem wakeSource_usedSheaves (s : State) (k : Nat) : (wakeSource s k).usedSheaves = s.usedSheaves := by rw [wakeSource_wake s k]
@[simp] theorem wakeSource_recSheaves (s : State) (k : Nat) : (wakeSource s k).recSheaves = s.recSheaves := by rw [wakeSource_wake s k]
@[simp] theorem wakeSource_relQueue (s : State) (k : Nat) : (wakeSource s k).relQueue = s.relQueue := by rw [wakeSource_wake s k]
@[simp] theorem wakeSource_groupFree (s : State) (k : Nat) : (wakeSource s k).groupFree = s.groupFree := by rw [wakeSource_wake s k]
@[simp] theorem wakeSource_trace (s : State) (k : Nat) : (wakeSource s k).trace = s.trace := by rw [wakeSource_wake s k]
@[simp] theorem wakeSource_elog (s : State) (k : Nat) : (wakeSource s k).elog = s.elog := by rw [wakeSource_wake s k]
@[simp] theorem wakeSource_silo (s : State) (k : Nat) : (wakeSource s k).silo = s.silo := by rw [wakeSource_wake s k]
@[simp] theorem wakeSource_aclk (s : State) (k : Nat) : (wakeSource s k).aclk = s.aclk := by rw [wakeSource_wake s k]
@[simp] theorem wakeSource_rel (s : State) (k : Nat) : (wakeSource s k).rel = s.rel := by rw [wakeSource_wake s k]
@[simp] theorem wakeSource_vault (s : State) (k : Nat) : (wakeSource s k).vault = s.vault := by rw [wakeSource_wake s k]
@[simp] theorem wakeSource_fab (s : State) (k : Nat) : (wakeSource s k).fab = s.fab := by rw [wakeSource_wake s k]
@[simp] theorem wakeSource_withdrawn (s : State) (k : Nat) : (wakeSource s k).withdrawn = s.withdrawn := by rw [wakeSource_wake s k]
@[simp] theorem wakeSource_mons (s : State) (k : Nat) : (wakeSource s k).mons = s.mons := by rw [wakeSource_wake s k]
@[simp] theorem wakeSource_sensors (s : State) (k : Nat) : (wakeSource s k).sensors = s.sensors := by rw [wakeSource_wake s k]
@[simp] theorem wakeSource_boot (s : State) (k : Nat) : (wakeSource s k).boot = s.boot := by rw [wakeSource_wake s k]
@[simp] theorem wakeSource_mgmt (s : State) (k : Nat) : (wakeSource s k).mgmt = s.mgmt := by rw [wakeSource_wake s k]
@[simp] theorem wakeSource_bg (s : State) (k : Nat) : (wakeSource s k).bg = s.bg := by rw [wakeSource_wake s k]
@[simp] theorem seenFrom_pending (s : State) (a : Agent) : (seenFrom s a).pending = s.pending := by cases a <;> simp [seenFrom]
@[simp] theorem seenFrom_shadows (s : State) (a : Agent) : (seenFrom s a).shadows = s.shadows := by cases a <;> simp [seenFrom]
@[simp] theorem seenFrom_reply (s : State) (a : Agent) : (seenFrom s a).reply = s.reply := by cases a <;> simp [seenFrom]
@[simp] theorem seenFrom_replyPoison (s : State) (a : Agent) : (seenFrom s a).replyPoison = s.replyPoison := by cases a <;> simp [seenFrom]
@[simp] theorem seenFrom_free (s : State) (a : Agent) : (seenFrom s a).free = s.free := by cases a <;> simp [seenFrom]
@[simp] theorem seenFrom_time (s : State) (a : Agent) : (seenFrom s a).time = s.time := by cases a <;> simp [seenFrom]
@[simp] theorem seenFrom_tclk (s : State) (a : Agent) : (seenFrom s a).tclk = s.tclk := by cases a <;> simp [seenFrom]
@[simp] theorem seenFrom_topo (s : State) (a : Agent) : (seenFrom s a).topo = s.topo := by cases a <;> simp [seenFrom]
@[simp] theorem seenFrom_plan (s : State) (a : Agent) : (seenFrom s a).plan = s.plan := by cases a <;> simp [seenFrom]
@[simp] theorem seenFrom_com (s : State) (a : Agent) : (seenFrom s a).com = s.com := by cases a <;> simp [seenFrom]
@[simp] theorem seenFrom_nextSid (s : State) (a : Agent) : (seenFrom s a).nextSid = s.nextSid := by cases a <;> simp [seenFrom]
@[simp] theorem seenFrom_grans (s : State) (a : Agent) : (seenFrom s a).grans = s.grans := by cases a <;> simp [seenFrom]
@[simp] theorem seenFrom_olds (s : State) (a : Agent) : (seenFrom s a).olds = s.olds := by cases a <;> simp [seenFrom]
@[simp] theorem seenFrom_replMem (s : State) (a : Agent) : (seenFrom s a).replMem = s.replMem := by cases a <;> simp [seenFrom]
@[simp] theorem seenFrom_replPoison (s : State) (a : Agent) : (seenFrom s a).replPoison = s.replPoison := by cases a <;> simp [seenFrom]
@[simp] theorem seenFrom_rings (s : State) (a : Agent) : (seenFrom s a).rings = s.rings := by cases a <;> simp [seenFrom]
@[simp] theorem seenFrom_evc (s : State) (a : Agent) : (seenFrom s a).evc = s.evc := by cases a <;> simp [seenFrom]
@[simp] theorem seenFrom_ctxs (s : State) (a : Agent) : (seenFrom s a).ctxs = s.ctxs := by cases a <;> simp [seenFrom]
@[simp] theorem seenFrom_latches (s : State) (a : Agent) : (seenFrom s a).latches = s.latches := by cases a <;> simp [seenFrom]
@[simp] theorem seenFrom_sched (s : State) (a : Agent) : (seenFrom s a).sched = s.sched := by cases a <;> simp [seenFrom]
@[simp] theorem seenFrom_nodes (s : State) (a : Agent) : (seenFrom s a).nodes = s.nodes := by cases a <;> simp [seenFrom]
@[simp] theorem seenFrom_driftKey (s : State) (a : Agent) : (seenFrom s a).driftKey = s.driftKey := by cases a <;> simp [seenFrom]
@[simp] theorem seenFrom_usedSheaves (s : State) (a : Agent) : (seenFrom s a).usedSheaves = s.usedSheaves := by cases a <;> simp [seenFrom]
@[simp] theorem seenFrom_recSheaves (s : State) (a : Agent) : (seenFrom s a).recSheaves = s.recSheaves := by cases a <;> simp [seenFrom]
@[simp] theorem seenFrom_relQueue (s : State) (a : Agent) : (seenFrom s a).relQueue = s.relQueue := by cases a <;> simp [seenFrom]
@[simp] theorem seenFrom_groupFree (s : State) (a : Agent) : (seenFrom s a).groupFree = s.groupFree := by cases a <;> simp [seenFrom]
@[simp] theorem seenFrom_trace (s : State) (a : Agent) : (seenFrom s a).trace = s.trace := by cases a <;> simp [seenFrom]
@[simp] theorem seenFrom_elog (s : State) (a : Agent) : (seenFrom s a).elog = s.elog := by cases a <;> simp [seenFrom]
@[simp] theorem seenFrom_silo (s : State) (a : Agent) : (seenFrom s a).silo = s.silo := by cases a <;> simp [seenFrom]
@[simp] theorem seenFrom_aclk (s : State) (a : Agent) : (seenFrom s a).aclk = s.aclk := by cases a <;> simp [seenFrom]
@[simp] theorem seenFrom_rel (s : State) (a : Agent) : (seenFrom s a).rel = s.rel := by cases a <;> simp [seenFrom]
@[simp] theorem seenFrom_vault (s : State) (a : Agent) : (seenFrom s a).vault = s.vault := by cases a <;> simp [seenFrom]
@[simp] theorem seenFrom_fab (s : State) (a : Agent) : (seenFrom s a).fab = s.fab := by cases a <;> simp [seenFrom]
@[simp] theorem seenFrom_withdrawn (s : State) (a : Agent) : (seenFrom s a).withdrawn = s.withdrawn := by cases a <;> simp [seenFrom]
@[simp] theorem seenFrom_mons (s : State) (a : Agent) : (seenFrom s a).mons = s.mons := by cases a <;> simp [seenFrom]
@[simp] theorem seenFrom_sensors (s : State) (a : Agent) : (seenFrom s a).sensors = s.sensors := by cases a <;> simp [seenFrom]
@[simp] theorem seenFrom_boot (s : State) (a : Agent) : (seenFrom s a).boot = s.boot := by cases a <;> simp [seenFrom]
@[simp] theorem seenFrom_mgmt (s : State) (a : Agent) : (seenFrom s a).mgmt = s.mgmt := by cases a <;> simp [seenFrom]
@[simp] theorem seenFrom_bg (s : State) (a : Agent) : (seenFrom s a).bg = s.bg := by cases a <;> simp [seenFrom]

@[simp] theorem wakeSource_ring (s : State) (k c n : Nat) : (wakeSource s k).ring c n = s.ring c n := by unfold State.ring; simp
@[simp] theorem wakeSource_ctx (s : State) (k c : Nat) : (wakeSource s k).ctx c = s.ctx c := by unfold State.ctx; simp
@[simp] theorem seenFrom_ring (s : State) (a : Agent) (c n : Nat) : (seenFrom s a).ring c n = s.ring c n := by unfold State.ring; simp
@[simp] theorem seenFrom_ctx (s : State) (a : Agent) (c : Nat) : (seenFrom s a).ctx c = s.ctx c := by unfold State.ctx; simp

/-! ### Saturating counts -/

/-- A field of the low half: it takes the value, the high half stays. -/
theorem setField_low (w : Word) (v : Nat) : (setField w 0 16 v).toNat % 65536 = v % 65536 ∧ (setField w 0 16 v).toNat / 65536 = w.toNat / 65536 := by
  have e : setField w 0 16 v = (w.extractLsb' 16 16 ++ BitVec.ofNat 16 v) := by
    apply BitVec.eq_of_getLsbD_eq
    intro i hi
    unfold setField
    simp only [BitVec.getLsbD_or, BitVec.getLsbD_and, BitVec.getLsbD_not, BitVec.getLsbD_ofNat, BitVec.getLsbD_append, BitVec.getLsbD_extractLsb']
    by_cases h : i < 16
    · have h1 : (65535 : Nat).testBit i = true := by rw [show 65535 = 2^16 - 1 from rfl, Nat.testBit_two_pow_sub_one]; simpa using h
      simp [h, hi, h1, show v % 65536 = v % 2 ^ 16 from rfl, Nat.testBit_mod_two_pow, -Nat.reducePow]
    · have h1 : (65535 : Nat).testBit i = false := by rw [show 65535 = 2^16 - 1 from rfl, Nat.testBit_two_pow_sub_one]; simpa using h
      have h2 : 16 + (i - 16) = i := by omega
      have h3 : i - 16 < 16 := by omega
      simp [h, hi, h1, h2, h3, show v % 65536 = v % 2 ^ 16 from rfl, Nat.testBit_mod_two_pow, -Nat.reducePow]
  rw [e, BitVec.toNat_append]
  have h1 : (BitVec.ofNat 16 v).toNat < 2 ^ 16 := (BitVec.ofNat 16 v).isLt
  rw [← Nat.shiftLeft_add_eq_or_of_lt h1, Nat.shiftLeft_eq, BitVec.toNat_ofNat, BitVec.extractLsb'_toNat, Nat.shiftRight_eq_div_pow]
  have := w.isLt
  omega
/-- A doorbell page's or a ring's saturating count, after one more. -/
theorem bump16_low (s : State) (k : Nat) : ∃ w, s.bump16 k 1 = s.setReg k w ∧ w.toNat % 65536 = min 65535 ((s.reg k).toNat % 65536 + 1)
    ∧ w.toNat / 65536 = (s.reg k).toNat / 65536 := by
  refine ⟨_, rfl, ?_, (setField_low _ _).2⟩
  rw [(setField_low _ _).1]
  simp only [State.regField, bits, Nat.shiftRight_zero]
  omega

/-! ### Accesses that reach their register -/

theorem viaBar0_reaches {a : Agent} {off : Nat} {go : State → State} (h : Reaches s a) : viaBar0 s a off go = go (seenFrom s a) := by
  unfold viaBar0
  rw [if_pos h.1]
  cases a with
  | host f =>
    dsimp only
    rw [if_neg (by rw [h.2 f rfl]; decide)]
    rfl
  | mctp => rfl
  | firmware => rfl

theorem viaWindow_shows {f c off : Nat} {go : Nat → State} (h : Shows s f c) : viaWindow s f off go = wakeSource (go c) 1 := by
  unfold viaWindow
  rw [if_neg (by rw [h.1]; decide), if_neg (by rw [h.2.1]; decide), h.2.2]

end Sys2Proof.Machine
end

