-- ==== Sys2Proof/Laws/Commands.lean ====
section
/-! SUPPORT. Sys2Proof/Laws/Commands.lean: a command put back in its ring is what the ring shows. -/

namespace Sys2Proof.Machine

open Sys2Proof

variable {s : State} {c n ser : Nat} {x y : Cmd}

theorem cmd_serial (h : s.cmd c n ser = some x) : x.serial = ser := by
  unfold State.cmd findCmd at h
  simpa using List.find?_some h

/-- The first command of a serial, after every command of that serial became `y`. -/
theorem find_map_put (y : Cmd) : ∀ (l : List Cmd) (x : Cmd), l.find? (fun z => z.serial == y.serial) = some x →
    (l.map (fun z => if z.serial == y.serial then y else z)).find? (fun z => z.serial == y.serial) = some y := by
  intro l
  induction l with
  | nil => intro x h; cases h
  | cons z l ih =>
    intro x h
    rw [List.map_cons, List.find?_cons]
    rw [List.find?_cons] at h
    cases hz : z.serial == y.serial with
    | true => simp
    | false =>
      rw [hz] at h
      simp only [Bool.false_eq_true, if_false, hz]
      exact ih x h

/-- A command changed in place is found changed. -/
theorem setCmd_cmd (h : s.cmd c n y.serial = some x) : (s.setCmd c n y).cmd c n y.serial = some y := by
  have h1 : (putCmd (s.ring c n) y).cmds.find? (fun z => z.serial == y.serial) = some y := find_map_put y _ x h
  have h2 : (s.setCmd c n y).ring c n = putCmd (s.ring c n) y := by
    refine tblGet_tblSet_of_ne _ _ _ ?_
    intro e
    rw [e] at h1
    cases h1
  unfold State.cmd findCmd
  rw [h2]
  exact h1

/-- R161, R167, R168: a charge changes the context's accounts and the scheduler's, nothing else. -/
theorem accountAttempt_frame (b : Bool) :
    ∃ cs sc, accountAttempt s c x b = { s with ctxs := cs, sched := sc } := by
  unfold accountAttempt
  split
  · cases b with
    | true => exact ⟨_, _, rfl⟩
    | false => exact ⟨_, _, rfl⟩
  · exact ⟨_, _, rfl⟩

/-- A charge leaves the rings as they were. -/
@[simp] theorem accountAttempt_rings (b : Bool) : (accountAttempt s c x b).rings = s.rings := by
  obtain ⟨cs, sc, h⟩ := accountAttempt_frame (s := s) (c := c) (x := x) b
  rw [h]

@[simp] theorem accountAttempt_time (b : Bool) : (accountAttempt s c x b).time = s.time := by
  obtain ⟨cs, sc, h⟩ := accountAttempt_frame (s := s) (c := c) (x := x) b
  rw [h]

@[simp] theorem accountAttempt_cmd (b : Bool) (d m k : Nat) : (accountAttempt s c x b).cmd d m k = s.cmd d m k := by
  unfold State.cmd State.ring
  rw [accountAttempt_rings]

/-- R161, R167, R168: what a charged attempt adds to its context, and that nothing else changes. -/
theorem accountAttempt_charged {cls ns : Nat} {a : Attempt} (hc : opClass (dOpcode x.desc) = some cls) (ha : x.att = some a)
    (hn : attemptNs s x = ns) (hst : (s.ctx c).st ≠ .free) :
    accountAttempt s c x true = { s with ctxs := (accountAttempt s c x true).ctxs }
    ∧ (∀ d, d ≠ c → (accountAttempt s c x true).ctx d = s.ctx d)
    ∧ (accountAttempt s c x true).ctx c = { s.ctx c with
        vt := tblSet 0 (s.ctx c).vt cls (tblGet 0 (s.ctx c).vt cls
          + BitVec.ofNat 64 ((ns * 65536 + tblGet 0 (s.ctx c).rem cls) / s.regField (kWin c 4) 0 16)),
        rem := tblSet 0 (s.ctx c).rem cls ((ns * 65536 + tblGet 0 (s.ctx c).rem cls) % s.regField (kWin c 4) 0 16),
        cyc := tblSet 0 (s.ctx c).cyc cls (tblGet 0 (s.ctx c).cyc cls + BitVec.ofNat 64 (ns * classMHz s cls a.inst / 1000)),
        model := (s.ctx c).model + Config.attemptEnergy x.desc ns } := by
  have hcc : chargeClass x = some cls := hc
  have key : accountAttempt s c x true = (chargeVt s c cls ns).setCtx c { (chargeVt s c cls ns).ctx c with
      cyc := tblSet 0 ((chargeVt s c cls ns).ctx c).cyc cls (tblGet 0 ((chargeVt s c cls ns).ctx c).cyc cls + BitVec.ofNat 64 (ns * classMHz s cls a.inst / 1000)),
      model := ((chargeVt s c cls ns).ctx c).model + Config.attemptEnergy x.desc ns } := by
    unfold accountAttempt
    rw [hcc, ha, hn]
    rfl
  have hvt : (chargeVt s c cls ns).ctx c = { s.ctx c with
      vt := tblSet 0 (s.ctx c).vt cls (tblGet 0 (s.ctx c).vt cls
        + BitVec.ofNat 64 ((ns * 65536 + tblGet 0 (s.ctx c).rem cls) / s.regField (kWin c 4) 0 16)),
      rem := tblSet 0 (s.ctx c).rem cls ((ns * 65536 + tblGet 0 (s.ctx c).rem cls) % s.regField (kWin c 4) 0 16) } :=
    tblGet_tblSet_of_ne _ _ _ (fun e => hst (congrArg Ctx.st e))
  rw [key]
  refine ⟨rfl, fun d hd => ?_, ?_⟩
  · refine (tblGet_tblSet_ne_of_ne (fun e => hst ?_) hd).trans (tblGet_tblSet_ne_of_ne (fun e => hst (congrArg Ctx.st e)) hd)
    rw [hvt] at e
    exact congrArg Ctx.st e
  · refine (tblGet_tblSet_of_ne _ _ _ (fun e => hst ?_)).trans ?_
    · rw [hvt] at e
      exact congrArg Ctx.st e
    · rw [hvt]

/-- An attempt that runs ends with its outcome, and is charged. -/
theorem endAttempt_running {a : Attempt} {o : Outcome_} (h : s.cmd c n x.serial = some x) (hp : x.phase = .running) (ha : x.att = some a) :
    endAttempt s (refOf c n x) o = (accountAttempt s c x true).setCmd c n { x with phase := .computed, out := some o, att := some { a with t1 := s.time } } := by
  unfold endAttempt
  dsimp only [refOf]
  rw [h]
  dsimp only
  rw [hp, if_pos (by decide), ha]
  rfl

/-- A command that runs no longer does not wait for its collective's peers. -/
theorem awaitPeers_ended {r : CmdRef} (h : s.cmd r.ctx r.ring r.serial = some y) (hp : y.phase ≠ .running) : awaitPeers s r = s := by
  unfold awaitPeers
  rw [h]
  dsimp only
  rw [if_neg (by simpa using hp)]

end Sys2Proof.Machine
end

