-- ==== Sys2Proof/Laws/Memory.lean ====
section
/-! SUPPORT. Sys2Proof/Laws/Memory.lean: reads after writes of bytes, and the canonical form of memory, which every operation keeps. -/

namespace Sys2Proof.Machine

/-! ### The canonical form -/

theorem tblCanon_iff {α : Type} [DecidableEq α] {d : α} {t : Tbl α} :
    tblCanon d t = true ↔ tblSorted t = true ∧ ∀ e ∈ t, e.2 ≠ d := by
  simp [tblCanon, List.all_eq_true]

theorem tblCanon_tblIns {α : Type} [DecidableEq α] {d : α} {t : Tbl α} {k : Nat} {v : α} (h : tblCanon d t = true) (hv : v ≠ d) :
    tblCanon d (tblIns t k v) = true := by
  rw [tblCanon_iff] at h ⊢
  refine ⟨tblSorted_tblIns h.1, fun e he => ?_⟩
  rcases mem_tblIns he with he | he
  · subst he; exact hv
  · exact h.2 e he

theorem tblCanon_sublist {α : Type} [DecidableEq α] {d : α} {t u : Tbl α} (hs : List.Sublist u t) (h : tblCanon d t = true) :
    tblCanon d u = true := by
  rw [tblCanon_iff] at h ⊢
  exact ⟨tblSorted_sublist hs h.1, fun e he => h.2 e (hs.subset he)⟩

/-- A write keeps the canonical form of a table. -/
theorem tblCanon_tblSet {α : Type} [DecidableEq α] {d : α} {t : Tbl α} {k : Nat} {v : α} (h : tblCanon d t = true) :
    tblCanon d (tblSet d t k v) = true := by
  unfold tblSet
  split
  · exact tblCanon_sublist (tblDel_sublist t k) h
  · next hv => exact tblCanon_tblIns h hv

@[simp] theorem Memory.wf_nil : Memory.wf [] = true := rfl

theorem Memory.wf_sorted {m : Memory} (h : m.wf = true) : tblSorted m = true := (tblCanon_iff.1 h).1

/-- One byte written keeps the form. -/
@[simp] theorem memPut_wf {m : Memory} {a : Nat} {b : Byte} (h : m.wf = true) : (memPut m a b).wf = true := tblCanon_tblSet h

/-- Bytes written keep the form. -/
@[simp] theorem memWrite_wf {m : Memory} {a : Nat} {bs : List Byte} (h : m.wf = true) : (memWrite m a bs).wf = true := by
  induction bs generalizing m a with
  | nil => exact h
  | cons b bs ih => exact ih (memPut_wf h)

/-- A cleared range keeps the form. -/
@[simp] theorem memClear_wf {m : Memory} {a n : Nat} (h : m.wf = true) : (memClear m a n).wf = true :=
  tblCanon_sublist List.filter_sublist h

theorem foldl_memPut_wf (l : List Host.Cell) {m : Memory} (h : m.wf = true) :
    (l.foldl (fun m c => memPut m c.1 c.2) m).wf = true := by
  induction l generalizing m with
  | nil => exact h
  | cons c l ih => exact ih (memPut_wf h)

/-- A copied range keeps the form. -/
@[simp] theorem memCopy_wf {m src : Memory} {a n : Nat} (h : m.wf = true) : (memCopy m src a n).wf = true :=
  foldl_memPut_wf _ (memClear_wf h)

/-! ### Reads after writes -/

theorem memGet_memPut_self {m : Memory} (h : m.wf = true) (a : Nat) (b : Byte) : memGet (memPut m a b) a = b :=
  tblGet_tblSet_self a b (Memory.wf_sorted h)

theorem memGet_memPut_ne {m : Memory} (h : m.wf = true) {a c : Nat} (b : Byte) (hc : c ≠ a) : memGet (memPut m a b) c = memGet m c :=
  tblGet_tblSet_ne b (Memory.wf_sorted h) hc

/-- Outside the bytes written, memory reads as before. -/
theorem memGet_memWrite_outside {m : Memory} (h : m.wf = true) {a c : Nat} {bs : List Byte} (hc : c < a ∨ a + bs.length ≤ c) :
    memGet (memWrite m a bs) c = memGet m c := by
  induction bs generalizing m a with
  | nil => rfl
  | cons b bs ih =>
    simp only [List.length_cons] at hc
    rw [memWrite, ih (memPut_wf h) (by omega), memGet_memPut_ne h b (by omega)]

/-- The bytes written are read back. -/
theorem memGet_memWrite_inside {m : Memory} (h : m.wf = true) {a i : Nat} {bs : List Byte} (hi : i < bs.length) :
    memGet (memWrite m a bs) (a + i) = bs[i] := by
  induction bs generalizing m a i with
  | nil => simp at hi
  | cons b bs ih =>
    rw [memWrite]
    cases i with
    | zero => rw [memGet_memWrite_outside (memPut_wf h) (by omega)]; exact memGet_memPut_self h a b
    | succ i =>
      have := ih (memPut_wf (b := b) (a := a) h) (a := a + 1) (i := i) (by simpa using hi)
      rw [show a + (i + 1) = a + 1 + i by omega, this]
      rfl

@[simp] theorem memRead_length (m : Memory) (a n : Nat) : (memRead m a n).length = n := by
  induction n generalizing a with
  | zero => rfl
  | succ n ih => simp [memRead, ih]

/-- What has been written is read. -/
theorem memRead_memWrite {m : Memory} (h : m.wf = true) (a : Nat) (bs : List Byte) :
    memRead (memWrite m a bs) a bs.length = bs := by
  have key : ∀ (n i : Nat), i + n = bs.length → memRead (memWrite m a bs) (a + i) n = bs.drop i := by
    intro n
    induction n with
    | zero => intro i hi; rw [List.drop_eq_nil_of_le (by omega)]; rfl
    | succ n ih =>
      intro i hi
      have hlt : i < bs.length := by omega
      rw [memRead, memGet_memWrite_inside h hlt, List.drop_eq_getElem_cons hlt, Nat.add_assoc, ih (i + 1) (by omega)]
  exact key bs.length 0 (by omega)

end Sys2Proof.Machine
end

