-- ==== Sys2Proof/Laws/Kept.lean ====
section
/-! SUPPORT. Sys2Proof/Laws/Kept.lean: what every operation of the machine keeps: the queue, and the canonical form. `Kept kq kb s` says
both of a state: its queue is `kq`, and (for `kb` true) it is canonical. The lemmas `<name>_kept` of Laws/Kept*.lean say that an
operation keeps both; with `kb` false they say that it leaves the queue alone in every state. -/

namespace Sys2Proof.Machine

open Sys2Proof

/-- The fields on which `Kept` rests. -/
def KeptOf (kq : List Instr) (kb : Bool) (p : List Instr) (com : Store) (repl : Memory) (regs : Tbl Word) (rings : Tbl Ring)
    (evc : Tbl DWord) (ctxs : Tbl Ctx) (latches : Tbl Latch) (fns : Tbl Fn) : Prop :=
  p = kq ∧ (kb = true → CanonOf com repl regs rings evc ctxs latches fns)

/-- The queue is `kq`; for `kb` true the state is canonical. -/
def Kept (kq : List Instr) (kb : Bool) (s : State) : Prop :=
  KeptOf kq kb s.pending s.com s.replMem s.regs s.rings s.evc s.ctxs s.latches s.fns

variable {kq : List Instr} {kb : Bool} {s t : State}

theorem Kept.of_canon (h : s.Canon) : Kept s.pending true s := ⟨rfl, fun _ => h⟩
theorem Kept.of_queue (s : State) : Kept s.pending false s := ⟨rfl, fun h => absurd h (by decide)⟩
theorem Kept.canon (h : Kept kq true s) : s.Canon := h.2 rfl
theorem Kept.queue (h : Kept kq kb s) : s.pending = kq := h.1

/-- A change of other fields. -/
theorem Kept.frame (h : Kept kq kb s) (hp : t.pending = s.pending) (hc : t.com = s.com) (hr : t.replMem = s.replMem)
    (h1 : t.regs = s.regs) (h2 : t.rings = s.rings) (h3 : t.evc = s.evc) (h4 : t.ctxs = s.ctxs) (h5 : t.latches = s.latches)
    (h6 : t.fns = s.fns) : Kept kq kb t := by
  unfold Kept at *
  rw [hp, hc, hr, h1, h2, h3, h4, h5, h6]
  exact h

theorem Kept.setCom {m : Store} (h : Kept kq kb s) (hm : StoreOk s.com → StoreOk m) : Kept kq kb (s.setCom m) :=
  ⟨h.1, fun hb => ⟨hm (h.2 hb).1, (h.2 hb).2⟩⟩

theorem Kept.com {m : Store} (h : Kept kq kb s) (hm : StoreOk s.com → StoreOk m) : Kept kq kb { s with com := m } :=
  ⟨h.1, fun hb => ⟨hm (h.2 hb).1, (h.2 hb).2⟩⟩

theorem Kept.regs {r : Tbl Word} (h : Kept kq kb s) (hr : tblSorted s.regs = true → tblSorted r = true) :
    Kept kq kb { s with regs := r } :=
  ⟨h.1, fun hb => ⟨(h.2 hb).1, (h.2 hb).2.1, hr (h.2 hb).2.2.1, (h.2 hb).2.2.2⟩⟩

theorem Kept.rings {r : Tbl Ring} (h : Kept kq kb s) (hr : tblSorted s.rings = true → tblSorted r = true) :
    Kept kq kb { s with rings := r } :=
  ⟨h.1, fun hb => ⟨(h.2 hb).1, (h.2 hb).2.1, (h.2 hb).2.2.1, hr (h.2 hb).2.2.2.1, (h.2 hb).2.2.2.2⟩⟩

theorem Kept.evc {r : Tbl DWord} (h : Kept kq kb s) (hr : tblSorted s.evc = true → tblSorted r = true) :
    Kept kq kb { s with evc := r } :=
  ⟨h.1, fun hb => ⟨(h.2 hb).1, (h.2 hb).2.1, (h.2 hb).2.2.1, (h.2 hb).2.2.2.1, hr (h.2 hb).2.2.2.2.1, (h.2 hb).2.2.2.2.2⟩⟩

theorem Kept.ctxs {r : Tbl Ctx} (h : Kept kq kb s) (hr : tblSorted s.ctxs = true → tblSorted r = true) :
    Kept kq kb { s with ctxs := r } :=
  ⟨h.1, fun hb => ⟨(h.2 hb).1, (h.2 hb).2.1, (h.2 hb).2.2.1, (h.2 hb).2.2.2.1, (h.2 hb).2.2.2.2.1, hr (h.2 hb).2.2.2.2.2.1,
    (h.2 hb).2.2.2.2.2.2⟩⟩

theorem Kept.latches {r : Tbl Latch} (h : Kept kq kb s) (hr : tblSorted s.latches = true → tblSorted r = true) :
    Kept kq kb { s with latches := r } :=
  ⟨h.1, fun hb => ⟨(h.2 hb).1, (h.2 hb).2.1, (h.2 hb).2.2.1, (h.2 hb).2.2.2.1, (h.2 hb).2.2.2.2.1, (h.2 hb).2.2.2.2.2.1,
    hr (h.2 hb).2.2.2.2.2.2.1, (h.2 hb).2.2.2.2.2.2.2⟩⟩

theorem Kept.fns {r : Tbl Fn} (h : Kept kq kb s) (hr : tblSorted s.fns = true → tblSorted r = true) :
    Kept kq kb { s with fns := r } :=
  ⟨h.1, fun hb => ⟨(h.2 hb).1, (h.2 hb).2.1, (h.2 hb).2.2.1, (h.2 hb).2.2.2.1, (h.2 hb).2.2.2.2.1, (h.2 hb).2.2.2.2.2.1,
    (h.2 hb).2.2.2.2.2.2.1, hr (h.2 hb).2.2.2.2.2.2.2⟩⟩

theorem kept_ite {c : Prop} [Decidable c] (h1 : c → Kept kq kb s) (h2 : ¬c → Kept kq kb t) : Kept kq kb (if c then s else t) := by
  split
  · exact h1 ‹_›
  · exact h2 ‹_›

theorem kept_ite_fst {α : Type} {c : Prop} [Decidable c] {x y : State × α} (h1 : c → Kept kq kb x.1) (h2 : ¬c → Kept kq kb y.1) :
    Kept kq kb (if c then x else y).1 := by
  split
  · exact h1 ‹_›
  · exact h2 ‹_›

theorem kept_foldl {α : Type} (l : List α) {f : State → α → State} (h : Kept kq kb s) (hf : ∀ t x, Kept kq kb t → Kept kq kb (f t x)) :
    Kept kq kb (l.foldl f s) := by
  induction l generalizing s with
  | nil => exact h
  | cons x l ih => exact ih (hf s x h)

/-- The state of an optional result. -/
def KeptO (kq : List Instr) (kb : Bool) (o : Option State) : Prop := ∀ t, o = some t → Kept kq kb t

theorem keptO_none : KeptO kq kb none := fun _ h => nomatch h
theorem keptO_some (h : Kept kq kb s) : KeptO kq kb (some s) := fun _ e => Option.some.inj e ▸ h
theorem keptO_ite {c : Prop} [Decidable c] {x y : Option State} (h1 : c → KeptO kq kb x) (h2 : ¬c → KeptO kq kb y) :
    KeptO kq kb (if c then x else y) := by
  split
  · exact h1 ‹_›
  · exact h2 ‹_›

theorem keptO_map {α : Type} {o : Option α} {f : α → State} (h : ∀ x, o = some x → Kept kq kb (f x)) : KeptO kq kb (o.map f) := by
  intro t ht
  obtain ⟨x, hx, rfl⟩ := Option.map_eq_some_iff.1 ht
  exact h x hx

theorem keptO_bind {o : Option State} {f : State → Option State} (h : KeptO kq kb o) (hf : ∀ t, Kept kq kb t → KeptO kq kb (f t)) :
    KeptO kq kb (o.bind f) := by
  intro t ht
  obtain ⟨x, hx, he⟩ := Option.bind_eq_some_iff.1 ht
  exact hf x (h x hx) t he

theorem kept_getD {o : Option State} (ho : KeptO kq kb o) (h : Kept kq kb s) : Kept kq kb (o.getD s) := by
  cases o with
  | none => exact h
  | some t => exact ho t rfl

/-- The state of a result that may be a refusal. -/
def KeptS {α : Type} (kq : List Instr) (kb : Bool) (o : State ⊕ α) : Prop := ∀ t, o = .inl t → Kept kq kb t

theorem keptS_inr {α : Type} {a : α} : KeptS kq kb (.inr a) := fun _ h => nomatch h
theorem keptS_inl {α : Type} (h : Kept kq kb s) : KeptS (α := α) kq kb (.inl s) := fun _ e => Sum.inl.inj e ▸ h
theorem keptS_ite {α : Type} {c : Prop} [Decidable c] {x y : State ⊕ α} (h1 : c → KeptS kq kb x) (h2 : ¬c → KeptS kq kb y) :
    KeptS kq kb (if c then x else y) := by
  split
  · exact h1 ‹_›
  · exact h2 ‹_›

/-- A row's answer. -/
def KeptOut (kq : List Instr) (kb : Bool) (o : Out) : Prop := ∀ t, o = .next t → Kept kq kb t

theorem keptOut_next (h : Kept kq kb s) : KeptOut kq kb (.next s) := fun _ e => Host.Outcome.next.inj e ▸ h

/-! ### Changes of a state written out -/

theorem storeOk_mk {m : Store} {x2 : List Nat} {x4 : Tbl ObjEnt} {x5 : Tbl FarObj} {x6 : Tbl Body} {x7 : Tbl SeqSlot} {x8 : Tbl Stook}
    {x10 : Tbl SteerSet} (h : StoreOk m) : StoreOk ⟨m.mem, x2, m.host, x4, x5, x6, x7, x8, m.kv, x10⟩ := h

variable {x_shadows : Tbl Word} {x_reply : List Byte} {x_replyPoison : Bool} {x_free : Nat} {x_time : DWord} {x_tclk : Nat} {x_topo : Topo} {x_plan : PlanSt} {x_nextSid : Nat} {x_grans : Tbl Gran} {x_olds : List OldCopy} {x_replPoison : List Nat} {x_sched : Sched} {x_nodes : Tbl DriftNode} {x_driftKey : Nat} {x_usedSheaves : List Nat} {x_recSheaves : List Nat} {x_relQueue : List DetMap} {x_groupFree : List Nat} {x_host : HostSt} {x_trace : List TraceRec} {x_elog : Elog} {x_silo : Tbl SiloPort} {x_aclk : Tbl Nat} {x_rel : Rel} {x_vault : Vault} {x_fab : Fabric} {x_withdrawn : Tbl Nat} {x_mons : Tbl Monitor} {x_sensors : Tbl Sensor} {x_pwr : Power} {x_boot : Boot} {x_mgmt : Mgmt} {x_bg : Tbl Bg} {x_pins : Pins}
theorem kept_mk : Kept kq kb ⟨s.pending, s.regs, x_shadows, x_reply, x_replyPoison, x_free, x_time, x_tclk, x_topo, x_plan, s.com, x_nextSid, x_grans, x_olds, s.replMem, x_replPoison, s.rings, s.evc, s.ctxs, s.latches, x_sched, x_nodes, x_driftKey, x_usedSheaves, x_recSheaves, x_relQueue, x_groupFree, s.fns, x_host, x_trace, x_elog, x_silo, x_aclk, x_rel, x_vault, x_fab, x_withdrawn, x_mons, x_sensors, x_pwr, x_boot, x_mgmt, x_bg, x_pins⟩ ↔ Kept kq kb s := Iff.rfl
/-- The state with other bytes and objects. -/
def KeptCom (kq : List Instr) (kb : Bool) (s : State) (m : Store) : Prop := Kept kq kb { s with com := m }
theorem kept_mk_com {m : Store} : Kept kq kb ⟨s.pending, s.regs, x_shadows, x_reply, x_replyPoison, x_free, x_time, x_tclk, x_topo, x_plan, m, x_nextSid, x_grans, x_olds, s.replMem, x_replPoison, s.rings, s.evc, s.ctxs, s.latches, x_sched, x_nodes, x_driftKey, x_usedSheaves, x_recSheaves, x_relQueue, x_groupFree, s.fns, x_host, x_trace, x_elog, x_silo, x_aclk, x_rel, x_vault, x_fab, x_withdrawn, x_mons, x_sensors, x_pwr, x_boot, x_mgmt, x_bg, x_pins⟩ ↔ KeptCom kq kb s m := Iff.rfl
theorem keptCom {m : Store} (h : Kept kq kb s) (hm : StoreOk s.com → StoreOk m) : KeptCom kq kb s m := h.com hm
/-- The state with another table of regs. -/
def KeptRegs (kq : List Instr) (kb : Bool) (s : State) (r : Tbl Word) : Prop := Kept kq kb { s with regs := r }
theorem kept_mk_regs {r : Tbl Word} : Kept kq kb ⟨s.pending, r, x_shadows, x_reply, x_replyPoison, x_free, x_time, x_tclk, x_topo, x_plan, s.com, x_nextSid, x_grans, x_olds, s.replMem, x_replPoison, s.rings, s.evc, s.ctxs, s.latches, x_sched, x_nodes, x_driftKey, x_usedSheaves, x_recSheaves, x_relQueue, x_groupFree, s.fns, x_host, x_trace, x_elog, x_silo, x_aclk, x_rel, x_vault, x_fab, x_withdrawn, x_mons, x_sensors, x_pwr, x_boot, x_mgmt, x_bg, x_pins⟩ ↔ KeptRegs kq kb s r := Iff.rfl
theorem keptRegs {r : Tbl Word} (h : Kept kq kb s) (hr : tblSorted s.regs = true → tblSorted r = true) : KeptRegs kq kb s r := h.regs hr
/-- The state with another table of rings. -/
def KeptRings (kq : List Instr) (kb : Bool) (s : State) (r : Tbl Ring) : Prop := Kept kq kb { s with rings := r }
theorem kept_mk_rings {r : Tbl Ring} : Kept kq kb ⟨s.pending, s.regs, x_shadows, x_reply, x_replyPoison, x_free, x_time, x_tclk, x_topo, x_plan, s.com, x_nextSid, x_grans, x_olds, s.replMem, x_replPoison, r, s.evc, s.ctxs, s.latches, x_sched, x_nodes, x_driftKey, x_usedSheaves, x_recSheaves, x_relQueue, x_groupFree, s.fns, x_host, x_trace, x_elog, x_silo, x_aclk, x_rel, x_vault, x_fab, x_withdrawn, x_mons, x_sensors, x_pwr, x_boot, x_mgmt, x_bg, x_pins⟩ ↔ KeptRings kq kb s r := Iff.rfl
theorem keptRings {r : Tbl Ring} (h : Kept kq kb s) (hr : tblSorted s.rings = true → tblSorted r = true) : KeptRings kq kb s r := h.rings hr
/-- The state with another table of evc. -/
def KeptEvc (kq : List Instr) (kb : Bool) (s : State) (r : Tbl DWord) : Prop := Kept kq kb { s with evc := r }
theorem kept_mk_evc {r : Tbl DWord} : Kept kq kb ⟨s.pending, s.regs, x_shadows, x_reply, x_replyPoison, x_free, x_time, x_tclk, x_topo, x_plan, s.com, x_nextSid, x_grans, x_olds, s.replMem, x_replPoison, s.rings, r, s.ctxs, s.latches, x_sched, x_nodes, x_driftKey, x_usedSheaves, x_recSheaves, x_relQueue, x_groupFree, s.fns, x_host, x_trace, x_elog, x_silo, x_aclk, x_rel, x_vault, x_fab, x_withdrawn, x_mons, x_sensors, x_pwr, x_boot, x_mgmt, x_bg, x_pins⟩ ↔ KeptEvc kq kb s r := Iff.rfl
theorem keptEvc {r : Tbl DWord} (h : Kept kq kb s) (hr : tblSorted s.evc = true → tblSorted r = true) : KeptEvc kq kb s r := h.evc hr
/-- The state with another table of ctxs. -/
def KeptCtxs (kq : List Instr) (kb : Bool) (s : State) (r : Tbl Ctx) : Prop := Kept kq kb { s with ctxs := r }
theorem kept_mk_ctxs {r : Tbl Ctx} : Kept kq kb ⟨s.pending, s.regs, x_shadows, x_reply, x_replyPoison, x_free, x_time, x_tclk, x_topo, x_plan, s.com, x_nextSid, x_grans, x_olds, s.replMem, x_replPoison, s.rings, s.evc, r, s.latches, x_sched, x_nodes, x_driftKey, x_usedSheaves, x_recSheaves, x_relQueue, x_groupFree, s.fns, x_host, x_trace, x_elog, x_silo, x_aclk, x_rel, x_vault, x_fab, x_withdrawn, x_mons, x_sensors, x_pwr, x_boot, x_mgmt, x_bg, x_pins⟩ ↔ KeptCtxs kq kb s r := Iff.rfl
theorem keptCtxs {r : Tbl Ctx} (h : Kept kq kb s) (hr : tblSorted s.ctxs = true → tblSorted r = true) : KeptCtxs kq kb s r := h.ctxs hr
/-- The state with another table of latches. -/
def KeptLatches (kq : List Instr) (kb : Bool) (s : State) (r : Tbl Latch) : Prop := Kept kq kb { s with latches := r }
theorem kept_mk_latches {r : Tbl Latch} : Kept kq kb ⟨s.pending, s.regs, x_shadows, x_reply, x_replyPoison, x_free, x_time, x_tclk, x_topo, x_plan, s.com, x_nextSid, x_grans, x_olds, s.replMem, x_replPoison, s.rings, s.evc, s.ctxs, r, x_sched, x_nodes, x_driftKey, x_usedSheaves, x_recSheaves, x_relQueue, x_groupFree, s.fns, x_host, x_trace, x_elog, x_silo, x_aclk, x_rel, x_vault, x_fab, x_withdrawn, x_mons, x_sensors, x_pwr, x_boot, x_mgmt, x_bg, x_pins⟩ ↔ KeptLatches kq kb s r := Iff.rfl
theorem keptLatches {r : Tbl Latch} (h : Kept kq kb s) (hr : tblSorted s.latches = true → tblSorted r = true) : KeptLatches kq kb s r := h.latches hr
/-- The state with another table of fns. -/
def KeptFns (kq : List Instr) (kb : Bool) (s : State) (r : Tbl Fn) : Prop := Kept kq kb { s with fns := r }
theorem kept_mk_fns {r : Tbl Fn} : Kept kq kb ⟨s.pending, s.regs, x_shadows, x_reply, x_replyPoison, x_free, x_time, x_tclk, x_topo, x_plan, s.com, x_nextSid, x_grans, x_olds, s.replMem, x_replPoison, s.rings, s.evc, s.ctxs, s.latches, x_sched, x_nodes, x_driftKey, x_usedSheaves, x_recSheaves, x_relQueue, x_groupFree, r, x_host, x_trace, x_elog, x_silo, x_aclk, x_rel, x_vault, x_fab, x_withdrawn, x_mons, x_sensors, x_pwr, x_boot, x_mgmt, x_bg, x_pins⟩ ↔ KeptFns kq kb s r := Iff.rfl
theorem keptFns {r : Tbl Fn} (h : Kept kq kb s) (hr : tblSorted s.fns = true → tblSorted r = true) : KeptFns kq kb s r := h.fns hr

end Sys2Proof.Machine
end

