-- ==== Sys2Proof/Laws/Kept/Ops.lean ====
section
/-! SUPPORT. Sys2Proof/Laws/Kept/Ops.lean: the operations of Machine/Ops.lean keep the queue and the canonical form. -/

namespace Sys2Proof.Machine

open Sys2Proof

variable {kq : List Instr} {kb : Bool}

theorem state_setCtx_kept {s : State} {c : Nat} {x : Ctx} (hs : Kept kq kb s) :
    Kept kq kb (State.setCtx s c x) := by
  unfold State.setCtx
  try dsimp only
  repeat' first
    | with_reducible assumption
    | with_reducible apply state_reset_kept
    | (with_reducible refine kept_ite ?_ ?_ <;> intro _)
    | simp only [kept_mk]
    | simp only [kept_mk_ctxs]
    | with_reducible apply keptCtxs
    | exact fun x => tblSorted_tblSet x
    | exact fun x => tblSorted_tblIns x
    | exact fun x => tblSorted_filter x

theorem state_setRing_kept {s : State} {c : Nat} {n : Nat} {r : Ring} (hs : Kept kq kb s) :
    Kept kq kb (State.setRing s c n r) := by
  unfold State.setRing
  try dsimp only
  repeat' first
    | with_reducible assumption
    | with_reducible apply state_reset_kept
    | (with_reducible refine kept_ite ?_ ?_ <;> intro _)
    | simp only [kept_mk]
    | simp only [kept_mk_rings]
    | with_reducible apply keptRings
    | exact fun x => tblSorted_tblSet x
    | exact fun x => tblSorted_tblIns x
    | exact fun x => tblSorted_filter x

theorem state_setLatch_kept {s : State} {l : Nat} {x : Latch} (hs : Kept kq kb s) :
    Kept kq kb (State.setLatch s l x) := by
  unfold State.setLatch
  try dsimp only
  repeat' first
    | with_reducible assumption
    | with_reducible apply state_reset_kept
    | (with_reducible refine kept_ite ?_ ?_ <;> intro _)
    | simp only [kept_mk]
    | simp only [kept_mk_latches]
    | with_reducible apply keptLatches
    | exact fun x => tblSorted_tblSet x
    | exact fun x => tblSorted_tblIns x
    | exact fun x => tblSorted_filter x

theorem state_setFn_kept {s : State} {f : Nat} {x : Fn} (hs : Kept kq kb s) :
    Kept kq kb (State.setFn s f x) := by
  unfold State.setFn
  try dsimp only
  repeat' first
    | with_reducible assumption
    | with_reducible apply state_reset_kept
    | (with_reducible refine kept_ite ?_ ?_ <;> intro _)
    | simp only [kept_mk]
    | simp only [kept_mk_fns]
    | with_reducible apply keptFns
    | exact fun x => tblSorted_tblSet x
    | exact fun x => tblSorted_tblIns x
    | exact fun x => tblSorted_filter x

theorem state_setEvctr_kept {s : State} {c : Nat} {k : Nat} {v : DWord} (hs : Kept kq kb s) :
    Kept kq kb (State.setEvctr s c k v) := by
  unfold State.setEvctr
  try dsimp only
  repeat' first
    | with_reducible assumption
    | (with_reducible refine kept_ite ?_ ?_ <;> intro _)
    | simp only [kept_mk]
    | simp only [kept_mk_evc]
    | with_reducible apply keptEvc
    | exact fun x => tblSorted_tblSet x
    | exact fun x => tblSorted_tblIns x
    | exact fun x => tblSorted_filter x

theorem state_draw_kept {s : State} (hs : Kept kq kb s) : Kept kq kb s.draw.2 := hs

theorem state_setReg_kept {s : State} {k : Nat} {v : Word} (hs : Kept kq kb s) :
    Kept kq kb (State.setReg s k v) := by
  unfold State.setReg
  try dsimp only
  repeat' first
    | with_reducible assumption
    | (with_reducible refine kept_ite ?_ ?_ <;> intro _)
    | simp only [kept_mk]
    | simp only [kept_mk_regs]
    | with_reducible apply keptRegs
    | exact fun x => tblSorted_tblSet x
    | exact fun x => tblSorted_tblIns x
    | exact fun x => tblSorted_filter x

theorem state_bump_kept {s : State} {k : Nat} {n : Nat} (hs : Kept kq kb s) :
    Kept kq kb (State.bump s k n) := by
  unfold State.bump
  try dsimp only
  repeat' first
    | with_reducible assumption
    | with_reducible apply state_setReg_kept
    | (with_reducible refine kept_ite ?_ ?_ <;> intro _)

theorem state_bump16_kept {s : State} {k : Nat} {n : Nat} (hs : Kept kq kb s) :
    Kept kq kb (State.bump16 s k n) := by
  unfold State.bump16
  try dsimp only
  repeat' first
    | with_reducible assumption
    | with_reducible apply state_setReg_kept
    | (with_reducible refine kept_ite ?_ ?_ <;> intro _)

theorem state_setBits_kept {s : State} {k : Nat} {m : Nat} (hs : Kept kq kb s) :
    Kept kq kb (State.setBits s k m) := by
  unfold State.setBits
  try dsimp only
  repeat' first
    | with_reducible assumption
    | with_reducible apply state_setReg_kept
    | (with_reducible refine kept_ite ?_ ?_ <;> intro _)

theorem messageDue_kept {s : State} {f : Nat} {v : Nat} (hs : Kept kq kb s) :
    Kept kq kb (messageDue s f v) := by
  unfold messageDue
  try dsimp only
  repeat' first
    | with_reducible assumption
    | with_reducible apply state_reset_kept
    | with_reducible apply state_setFn_kept
    | (with_reducible refine kept_ite ?_ ?_ <;> intro _)
    | simp only [kept_mk]
    | exact fun x => tblSorted_tblSet x
    | exact fun x => tblSorted_tblIns x
    | exact fun x => tblSorted_filter x
    | split

theorem signalVector_kept {s : State} {f : Nat} {v : Nat} (hs : Kept kq kb s) :
    Kept kq kb (signalVector s f v) := by
  unfold signalVector
  try dsimp only
  repeat' first
    | with_reducible assumption
    | with_reducible apply state_setFn_kept
    | with_reducible apply messageDue_kept
    | (with_reducible refine kept_ite ?_ ?_ <;> intro _)
    | simp only [kept_mk]
    | exact fun x => tblSorted_tblSet x
    | exact fun x => tblSorted_tblIns x
    | exact fun x => tblSorted_filter x
    | split

theorem signalModule_kept {s : State} {k : Nat} (hs : Kept kq kb s) :
    Kept kq kb (signalModule s k) := by
  unfold signalModule
  try dsimp only
  repeat' first
    | with_reducible assumption
    | with_reducible apply signalVector_kept
    | (with_reducible refine kept_ite ?_ ?_ <;> intro _)
    | split

theorem notice_kept {s : State} {b : Nat} (hs : Kept kq kb s) :
    Kept kq kb (notice s b) := by
  unfold notice
  try dsimp only
  repeat' first
    | with_reducible assumption
    | with_reducible apply state_setBits_kept
    | with_reducible apply signalModule_kept
    | (with_reducible refine kept_ite ?_ ?_ <;> intro _)

theorem logEntry_kept {s : State} {cls : Nat} {unit : Nat} {st : Nat} {ctx : Nat} {loc : Nat} (hs : Kept kq kb s) :
    Kept kq kb (logEntry s cls unit st ctx loc) := by
  unfold logEntry
  try dsimp only
  repeat' first
    | with_reducible assumption
    | with_reducible apply notice_kept
    | (with_reducible refine kept_ite ?_ ?_ <;> intro _)
    | simp only [kept_mk]
    | exact fun x => tblSorted_tblSet x
    | exact fun x => tblSorted_tblIns x
    | exact fun x => tblSorted_filter x
    | split

theorem signalCtxVector_kept {s : State} {c : Nat} {v : Nat} (hs : Kept kq kb s) :
    Kept kq kb (signalCtxVector s c v) := by
  unfold signalCtxVector
  try dsimp only
  repeat' first
    | with_reducible assumption
    | with_reducible apply signalVector_kept
    | (with_reducible refine kept_ite ?_ ?_ <;> intro _)
    | split

theorem badAccess_kept {s : State} {f : Nat} {bar : Nat} {off : Nat} {write : Bool} (hs : Kept kq kb s) :
    Kept kq kb (badAccess s f bar off write) := by
  unfold badAccess
  try dsimp only
  repeat' first
    | with_reducible assumption
    | with_reducible apply state_bump_kept
    | (with_reducible refine kept_ite ?_ ?_ <;> intro _)
    | simp only [kept_mk]
    | exact fun x => tblSorted_tblSet x
    | exact fun x => tblSorted_tblIns x
    | exact fun x => tblSorted_filter x

end Sys2Proof.Machine
end

