-- ==== Sys2Proof/Laws/Kept/Mem.lean ====
section
/-! SUPPORT. Sys2Proof/Laws/Kept/Mem.lean: the operations of Machine/Mem.lean keep the queue and the canonical form. -/

namespace Sys2Proof.Machine

open Sys2Proof

variable {kq : List Instr} {kb : Bool}

theorem putBytes_ok {m : Store} {cell : Nat} {bs : List Byte} (h : StoreOk m) : StoreOk (putBytes m cell bs) :=
  ⟨memWrite_wf h.1, h.2⟩

theorem foldl_putBytes_ok {ws : List (Nat × List Byte)} {m : Store} (h : StoreOk m) :
    StoreOk (ws.foldl (fun m w => putBytes m w.1 w.2) m) := by
  induction ws generalizing m with
  | nil => exact h
  | cons w ws ih => exact ih (putBytes_ok h)

theorem state_setSiloPort_kept {s : State} {p : Nat} {x : SiloPort} (hs : Kept kq kb s) :
    Kept kq kb (State.setSiloPort s p x) := by
  unfold State.setSiloPort
  try dsimp only
  repeat' first
    | with_reducible assumption
    | with_reducible apply state_reset_kept
    | (with_reducible refine kept_ite ?_ ?_ <;> intro _)
    | simp only [kept_mk]
    | exact fun x => tblSorted_tblSet x
    | exact fun x => tblSorted_tblIns x
    | exact fun x => tblSorted_filter x

theorem state_setGran_kept {s : State} {k : Nat} {g : Gran} (hs : Kept kq kb s) :
    Kept kq kb (State.setGran s k g) := by
  unfold State.setGran
  try dsimp only
  repeat' first
    | with_reducible assumption
    | (with_reducible refine kept_ite ?_ ?_ <;> intro _)
    | simp only [kept_mk]
    | exact fun x => tblSorted_tblSet x
    | exact fun x => tblSorted_tblIns x
    | exact fun x => tblSorted_filter x

theorem allocGran_kept {s t : State} {sid g : Nat} {bd : Body} (hs : Kept kq kb s) (he : allocGran s sid g bd = .done t) :
    Kept kq kb t := by
  unfold allocGran at he
  dsimp only at he
  generalize (if bd.reserved = true then 32 else 1) = sec at he
  by_cases hq : (!quotaAllows s bd.ctx (placeTier bd.place) sec) = true
  · rw [if_pos hq] at he; cases he
  · rw [if_neg hq] at he
    generalize (if (placeTier bd.place == Tier.silo) = true then siloPlace s bd sec none
      else loftPlace s bd (placeTier bd.place) g) = o at he
    cases o with
    | none => cases he
    | some l => exact Alloc.done.inj he ▸ state_setGran_kept hs

theorem allocGrans_kept {s t : State} {sid : Nat} {bd : Body} {l : List Nat} (hs : Kept kq kb s)
    (he : allocGrans s sid bd l = .done t) : Kept kq kb t := by
  induction l generalizing s with
  | nil => cases he; exact hs
  | cons g l ih =>
    unfold allocGrans at he
    split at he
    · next s' h => exact ih (allocGran_kept hs h) he
    · next h => exact absurd he (h t)

theorem startPromotion_kept {s : State} {k : Nat} {cause : MigCause} {tries : Nat} (hs : Kept kq kb s) :
    Kept kq kb (startPromotion s k cause tries) := by
  unfold startPromotion
  try dsimp only
  repeat' first
    | with_reducible assumption
    | with_reducible apply state_bump_kept
    | with_reducible apply state_setGran_kept
    | (with_reducible refine kept_ite ?_ ?_ <;> intro _)
    | simp only [kept_mk]
    | exact fun x => tblSorted_tblSet x
    | exact fun x => tblSorted_tblIns x
    | exact fun x => tblSorted_filter x
    | with_reducible exact fun x => storeOk_mk x
    | split

theorem startEviction_kept {s : State} {k : Nat} {cause : MigCause} {tries : Nat} (hs : Kept kq kb s) :
    KeptO kq kb (startEviction s k cause tries) := by
  unfold startEviction
  try dsimp only
  repeat' first
    | with_reducible assumption
    | with_reducible apply state_setGran_kept
    | (with_reducible refine keptO_ite ?_ ?_ <;> intro _)
    | with_reducible exact keptO_none
    | with_reducible apply keptO_some
    | (with_reducible refine kept_ite ?_ ?_ <;> intro _)
    | simp only [kept_mk]
    | exact fun x => tblSorted_tblSet x
    | exact fun x => tblSorted_tblIns x
    | exact fun x => tblSorted_filter x
    | split

theorem pressureEvict_kept {n high : Nat} {fuel : Nat} {s : State} (hs : Kept kq kb s) : Kept kq kb (pressureEvict n high fuel s) := by
  induction fuel generalizing s with
  | zero => exact hs
  | succ fuel ih =>
    unfold pressureEvict
    try dsimp only
    split
    · exact hs
    · split
      · split
        · next t h => exact ih (startEviction_kept hs t h)
        · exact hs
      · exact hs

theorem abandonMigration_kept {s : State} {k : Nat} (hs : Kept kq kb s) :
    Kept kq kb (abandonMigration s k) := by
  unfold abandonMigration
  try dsimp only
  repeat' first
    | with_reducible assumption
    | with_reducible apply state_bump_kept
    | with_reducible apply state_setGran_kept
    | (with_reducible refine kept_ite ?_ ?_ <;> intro _)
    | simp only [kept_mk]
    | exact fun x => tblSorted_tblSet x
    | exact fun x => tblSorted_tblIns x
    | exact fun x => tblSorted_filter x
    | split

theorem restartMigration_kept {s : State} {k : Nat} {m : Migration} (hs : Kept kq kb s) :
    Kept kq kb (restartMigration s k m) := by
  unfold restartMigration
  try dsimp only
  repeat' first
    | with_reducible assumption
    | with_reducible apply startPromotion_kept
    | with_reducible apply startEviction_kept
    | (refine startEviction_kept ?_ _ (by with_reducible assumption))
    | (refine startEviction_kept ?_ _ (by with_reducible assumption))
    | (with_reducible refine kept_ite ?_ ?_ <;> intro _)
    | with_reducible apply kept_getD
    | split

theorem readGran_kept {s : State} {k : Nat} (hs : Kept kq kb s) :
    Kept kq kb (readGran s k) := by
  unfold readGran
  try dsimp only
  repeat' first
    | with_reducible assumption
    | with_reducible apply state_setGran_kept
    | with_reducible apply startPromotion_kept
    | (with_reducible refine kept_ite ?_ ?_ <;> intro _)
    | simp only [kept_mk]
    | exact fun x => tblSorted_tblSet x
    | exact fun x => tblSorted_tblIns x
    | exact fun x => tblSorted_filter x
    | with_reducible exact fun x => storeOk_mk x
    | split

theorem freeGransFrom_kept {s : State} {sid g : Nat} (hs : Kept kq kb s) : Kept kq kb (freeGransFrom s sid g) :=
  ⟨hs.1, fun h => ⟨⟨memClear_wf (hs.2 h).1.1, (hs.2 h).1.2⟩, memClear_wf (hs.2 h).2.1, (hs.2 h).2.2⟩⟩

theorem dropObject_kept {s : State} {c : Nat} {o : Nat} (hs : Kept kq kb s) :
    Kept kq kb (dropObject s c o) := by
  unfold dropObject
  try dsimp only
  repeat' first
    | with_reducible assumption
    | with_reducible apply freeGransFrom_kept
    | (with_reducible refine kept_ite ?_ ?_ <;> intro _)
    | simp only [kept_mk]
    | exact fun x => tblSorted_tblSet x
    | exact fun x => tblSorted_tblIns x
    | exact fun x => tblSorted_filter x
    | simp only [kept_mk_com]
    | with_reducible apply keptCom
    | with_reducible exact fun x => storeOk_mk x
    | intro _
    | split

end Sys2Proof.Machine
end

