-- ==== Sys2Proof/Laws/Kept/Kv.lean ====
section
/-! SUPPORT. Sys2Proof/Laws/Kept/Kv.lean: the operations of Machine/Kv.lean keep the queue and the canonical form. -/

namespace Sys2Proof.Machine

open Sys2Proof

variable {kq : List Instr} {kb : Bool}

theorem state_setSeq_kept {s : State} {n : Nat} {x : SeqSlot} (hs : Kept kq kb s) :
    Kept kq kb (State.setSeq s n x) := by
  unfold State.setSeq
  try dsimp only
  repeat' first
    | with_reducible assumption
    | with_reducible apply state_reset_kept
    | (with_reducible refine kept_ite ?_ ?_ <;> intro _)
    | simp only [kept_mk]
    | exact fun x => tblSorted_tblSet x
    | exact fun x => tblSorted_tblIns x
    | exact fun x => tblSorted_filter x
    | simp only [kept_mk_com]
    | with_reducible apply keptCom
    | with_reducible exact fun x => storeOk_mk x

theorem state_setStook_kept {s : State} {k : Nat} {x : Stook} (hs : Kept kq kb s) :
    Kept kq kb (State.setStook s k x) := by
  unfold State.setStook
  try dsimp only
  repeat' first
    | with_reducible assumption
    | (with_reducible refine kept_ite ?_ ?_ <;> intro _)
    | simp only [kept_mk]
    | exact fun x => tblSorted_tblSet x
    | exact fun x => tblSorted_tblIns x
    | exact fun x => tblSorted_filter x
    | simp only [kept_mk_com]
    | with_reducible apply keptCom
    | with_reducible exact fun x => storeOk_mk x

theorem state_setNode_kept {s : State} {k : Nat} {x : DriftNode} (hs : Kept kq kb s) :
    Kept kq kb (State.setNode s k x) := by
  unfold State.setNode
  try dsimp only
  repeat' first
    | with_reducible assumption
    | with_reducible apply state_reset_kept
    | (with_reducible refine kept_ite ?_ ?_ <;> intro _)
    | simp only [kept_mk]
    | exact fun x => tblSorted_tblSet x
    | exact fun x => tblSorted_tblIns x
    | exact fun x => tblSorted_filter x

theorem freeSheaf_kept {s : State} {n : Nat} (hs : Kept kq kb s) :
    Kept kq kb (freeSheaf s n) := by
  unfold freeSheaf
  try dsimp only
  repeat' first
    | with_reducible assumption
    | (with_reducible refine kept_ite ?_ ?_ <;> intro _)
    | simp only [kept_mk]
    | exact fun h => ⟨h.1, h.2.1, memClear_wf h.2.2⟩
    | exact fun h => ⟨h.1, h.2.1, memWrite_wf (memWrite_wf h.2.2)⟩
    | exact fun h => ⟨h.1, memWrite_wf h.2.1, h.2.2⟩
    | exact fun h => ⟨memWrite_wf h.1, h.2⟩
    | exact fun h => putBytes_ok h
    | exact fun x => tblSorted_tblSet x
    | exact fun x => tblSorted_tblIns x
    | exact fun x => tblSorted_filter x
    | simp only [kept_mk_com]
    | with_reducible apply keptCom
    | with_reducible exact fun x => storeOk_mk x

theorem takeSheaf_kept {s t : State} {n : Nat} (hs : Kept kq kb s) (he : takeSheaf s = some (n, t)) : Kept kq kb t := by
  unfold takeSheaf at he
  obtain ⟨m, _, h⟩ := Option.map_eq_some_iff.1 he
  cases h
  exact hs

theorem freeRecord_kept {s : State} {k : Nat} (hs : Kept kq kb s) :
    Kept kq kb (freeRecord s k) := by
  unfold freeRecord
  try dsimp only
  repeat' first
    | with_reducible assumption
    | with_reducible apply freeSheaf_kept
    | (with_reducible refine kept_ite ?_ ?_ <;> intro _)
    | simp only [kept_mk]
    | exact fun x => tblSorted_tblSet x
    | exact fun x => tblSorted_tblIns x
    | exact fun x => tblSorted_filter x
    | with_reducible exact fun x => storeOk_mk x
    | intro _
    | split

theorem freeStook_kept {s : State} {k : Nat} (hs : Kept kq kb s) :
    Kept kq kb (freeStook s k) := by
  unfold freeStook
  try dsimp only
  repeat' first
    | with_reducible assumption
    | with_reducible apply freeSheaf_kept
    | with_reducible apply freeRecord_kept
    | with_reducible apply kept_foldl
    | (with_reducible refine kept_ite ?_ ?_ <;> intro _)
    | simp only [kept_mk]
    | exact fun x => tblSorted_tblSet x
    | exact fun x => tblSorted_tblIns x
    | exact fun x => tblSorted_filter x
    | simp only [kept_mk_com]
    | with_reducible apply keptCom
    | with_reducible exact fun x => storeOk_mk x
    | intro _
    | split

theorem dropRef_kept {s : State} {k : Nat} (hs : Kept kq kb s) :
    Kept kq kb (dropRef s k) := by
  unfold dropRef
  try dsimp only
  repeat' first
    | with_reducible assumption
    | with_reducible apply state_setStook_kept
    | with_reducible apply freeStook_kept
    | (with_reducible refine kept_ite ?_ ?_ <;> intro _)
    | simp only [kept_mk]
    | exact fun x => tblSorted_tblSet x
    | exact fun x => tblSorted_tblIns x
    | exact fun x => tblSorted_filter x
    | with_reducible exact fun x => storeOk_mk x
    | split

theorem addRef_kept {s : State} {k : Nat} (hs : Kept kq kb s) :
    Kept kq kb (addRef s k) := by
  unfold addRef
  try dsimp only
  repeat' first
    | with_reducible assumption
    | with_reducible apply state_setStook_kept
    | (with_reducible refine kept_ite ?_ ?_ <;> intro _)
    | simp only [kept_mk]
    | exact fun x => tblSorted_tblSet x
    | exact fun x => tblSorted_tblIns x
    | exact fun x => tblSorted_filter x
    | with_reducible exact fun x => storeOk_mk x
    | split

theorem refreshHusks_kept {s : State} {k : Nat} (hs : Kept kq kb s) :
    Kept kq kb (refreshHusks s k) := by
  unfold refreshHusks
  try dsimp only
  repeat' first
    | with_reducible assumption
    | (with_reducible refine kept_ite ?_ ?_ <;> intro _)
    | simp only [kept_mk]
    | exact fun x => tblSorted_tblSet x
    | exact fun x => tblSorted_tblIns x
    | exact fun x => tblSorted_filter x
    | simp only [kept_mk_com]
    | with_reducible apply keptCom
    | with_reducible exact fun x => storeOk_mk x
    | intro _
    | split

theorem dropStook_kept {s : State} {k : Nat} (hs : Kept kq kb s) :
    Kept kq kb (dropStook s k) := by
  unfold dropStook
  try dsimp only
  repeat' first
    | with_reducible assumption
    | with_reducible apply state_bump_kept
    | with_reducible apply state_setStook_kept
    | with_reducible apply freeSheaf_kept
    | with_reducible apply refreshHusks_kept
    | with_reducible apply kept_foldl
    | (with_reducible refine kept_ite ?_ ?_ <;> intro _)
    | simp only [kept_mk]
    | exact fun x => tblSorted_tblSet x
    | exact fun x => tblSorted_tblIns x
    | exact fun x => tblSorted_filter x
    | with_reducible exact fun x => storeOk_mk x
    | intro _
    | split

/-- The state that an allocation leaves. -/
def KeptR (kq : List Instr) (kb : Bool) (r : KvRes) : Prop := ∀ t l, r = .done t l → Kept kq kb t

theorem kvNoVictim_kept {s : State} {own : CmdRef} {ch : Option Nat} : KeptR kq kb (kvNoVictim s own ch) := by
  intro t l h
  unfold kvNoVictim at h
  split at h <;> cases h

theorem kvTake_kept {own : CmdRef} {ch : Option Nat} {k : Nat} {s : State} (hs : Kept kq kb s) :
    KeptR kq kb (kvTake own ch k s).1 ∧ ∀ n t, (kvTake own ch k s).2 = some (n, t) → Kept kq kb t := by
  induction k generalizing s with
  | zero => exact ⟨fun _ _ h => (nomatch h), fun _ _ h => (nomatch h)⟩
  | succ k ih =>
    unfold kvTake
    by_cases hc : (ch.any fun c => decide (kvMax s c < kvUse s c + 1)) = true
    · rw [if_pos hc]
      cases kvVictim s ch with
      | some k => exact ih (dropStook_kept hs)
      | none => exact ⟨kvNoVictim_kept, fun _ _ h => nomatch h⟩
    · rw [if_neg hc]
      cases hx : takeSheaf s with
      | some x =>
        refine ⟨fun _ _ h => ?_, fun n t h => ?_⟩
        · rw [← (KvRes.done.inj h).1]; exact hs
        · exact takeSheaf_kept hs (hx.trans h)
      | none =>
        cases kvVictim s none with
        | some k => exact ih (dropStook_kept hs)
        | none => exact ⟨kvNoVictim_kept, fun _ _ h => nomatch h⟩

theorem kvTake_kept_some {own : CmdRef} {ch : Option Nat} {k n : Nat} {s t : State} {r : KvRes} (hs : Kept kq kb s)
    (he : kvTake own ch k s = (r, some (n, t))) : Kept kq kb t := (kvTake_kept hs).2 n t (by rw [he])

theorem kvTake_kept_none {own : CmdRef} {ch : Option Nat} {k : Nat} {s : State} {r : KvRes} {o : Option (Nat × State)}
    (hs : Kept kq kb s) (he : kvTake own ch k s = (r, o)) : KeptR kq kb r := by
  have h := (kvTake_kept (own := own) (ch := ch) (k := k) hs).1
  rwa [he] at h

theorem needMapSheaf_kept {own : CmdRef} {slot bn : Nat} {s : State} (hs : Kept kq kb s) : KeptR kq kb (needMapSheaf own slot bn s) := by
  intro t l h
  unfold needMapSheaf at h
  try dsimp only at h
  repeat' split at h
  all_goals first
    | exact kvTake_kept_none hs ‹_› t l h
    | exact (KvRes.done.inj h).1 ▸ newStook_kept (n := _) (Kept.frame (kvTake_kept_some hs (by with_reducible assumption)) rfl rfl rfl rfl rfl rfl rfl rfl rfl)
    | (cases h; first
        | exact hs
        | exact state_setSeq_kept (kvTake_kept_some hs ‹_›)
        | exact newStook_kept hs
        | exact state_setStook_kept (kvTake_kept_some hs ‹_›)
        | exact kvTake_kept_some hs ‹_›)

theorem newStook_kept {s : State} {c : Nat} {slot : Nat} {b : Nat} {k : Nat} (hs : Kept kq kb s) :
    Kept kq kb (newStook s c slot b k) := by
  unfold newStook
  try dsimp only
  repeat' first
    | with_reducible assumption
    | with_reducible apply state_setSeq_kept
    | with_reducible apply state_setStook_kept
    | (with_reducible refine kept_ite ?_ ?_ <;> intro _)
    | simp only [kept_mk]
    | exact fun x => tblSorted_tblSet x
    | exact fun x => tblSorted_tblIns x
    | exact fun x => tblSorted_filter x

theorem needStook_kept {own : CmdRef} {slot bn : Nat} {s : State} (hs : Kept kq kb s) : KeptR kq kb (needStook own slot bn s) := by
  intro t l h
  unfold needStook at h
  split at h
  · exact (KvRes.done.inj h).1 ▸ hs
  · split at h
    · exact (KvRes.done.inj h).1 ▸ newStook_kept hs
    · split at h
      · next n u hu =>
        have hk : Kept kq kb u := kvTake_kept_some hs hu
        exact (KvRes.done.inj h).1 ▸ newStook_kept hk
      · exact kvTake_kept_none hs ‹_› t l h

theorem needSheaf_kept {own : CmdRef} {slot layer bn : Nat} {s : State} (hs : Kept kq kb s) : KeptR kq kb (needSheaf own slot layer bn s) := by
  intro t l h
  unfold needSheaf at h
  try dsimp only at h
  repeat' split at h
  all_goals first
    | exact kvTake_kept_none hs ‹_› t l h
    | exact (KvRes.done.inj h).1 ▸ newStook_kept (n := _) (Kept.frame (kvTake_kept_some hs (by with_reducible assumption)) rfl rfl rfl rfl rfl rfl rfl rfl rfl)
    | (cases h; first
        | exact hs
        | exact state_setSeq_kept (kvTake_kept_some hs ‹_›)
        | exact newStook_kept hs
        | exact state_setStook_kept (kvTake_kept_some hs ‹_›)
        | exact kvTake_kept_some hs ‹_›)

theorem kvSteps_kept {l : List (State → KvRes)} {s : State} {got : List KvHold} (hl : ∀ f ∈ l, ∀ s, Kept kq kb s → KeptR kq kb (f s))
    (hs : Kept kq kb s) : KeptR kq kb (kvSteps l s got) := by
  induction l generalizing s got with
  | nil => intro t g h; cases h; exact hs
  | cons f l ih =>
    unfold kvSteps
    split
    · next t g h => exact ih (fun f hf => hl f (List.mem_cons_of_mem _ hf)) (hl f List.mem_cons_self s hs t g h)
    · exact hl f List.mem_cons_self s hs

theorem kvAllocate_kept {own : CmdRef} {slot layer : Nat} {bl : List Nat} {s : State} (hs : Kept kq kb s) :
    KeptR kq kb (kvAllocate own slot layer bl s) := by
  refine kvSteps_kept (fun f hf s hs => ?_) hs
  obtain ⟨n, _, hf⟩ := List.mem_flatMap.1 hf
  simp only [List.mem_cons, List.not_mem_nil, or_false] at hf
  rcases hf with rfl | rfl | rfl
  · exact needMapSheaf_kept hs
  · exact needStook_kept hs
  · exact needSheaf_kept hs

theorem kvRelease1_kept {s : State} {h : KvHold} (hs : Kept kq kb s) :
    Kept kq kb (kvRelease1 s h) := by
  unfold kvRelease1
  try dsimp only
  repeat' first
    | with_reducible assumption
    | with_reducible apply state_setSeq_kept
    | with_reducible apply state_setStook_kept
    | with_reducible apply freeSheaf_kept
    | with_reducible apply dropRef_kept
    | (with_reducible refine kept_ite ?_ ?_ <;> intro _)
    | simp only [kept_mk]
    | exact fun x => tblSorted_tblSet x
    | exact fun x => tblSorted_tblIns x
    | exact fun x => tblSorted_filter x
    | with_reducible exact fun x => storeOk_mk x
    | intro _
    | split

theorem kvRelease_kept {s : State} {l : List KvHold} (hs : Kept kq kb s) :
    Kept kq kb (kvRelease s l) := by
  unfold kvRelease
  try dsimp only
  repeat' first
    | with_reducible assumption
    | with_reducible apply kvRelease1_kept
    | with_reducible apply kept_foldl
    | (with_reducible refine kept_ite ?_ ?_ <;> intro _)
    | intro _

theorem kvWrite_kept {s : State} {slot : Nat} {layer : Nat} {p : Nat} {refill : Bool} {k : List Byte} {v : List Byte} (hs : Kept kq kb s) :
    Kept kq kb (kvWrite s slot layer p refill k v) := by
  unfold kvWrite
  try dsimp only
  repeat' first
    | with_reducible assumption
    | with_reducible apply state_setStook_kept
    | (with_reducible refine kept_ite ?_ ?_ <;> intro _)
    | simp only [kept_mk]
    | exact fun h => ⟨h.1, h.2.1, memClear_wf h.2.2⟩
    | exact fun h => ⟨h.1, h.2.1, memWrite_wf (memWrite_wf h.2.2)⟩
    | exact fun h => ⟨h.1, memWrite_wf h.2.1, h.2.2⟩
    | exact fun h => ⟨memWrite_wf h.1, h.2⟩
    | exact fun h => putBytes_ok h
    | exact fun x => tblSorted_tblSet x
    | exact fun x => tblSorted_tblIns x
    | exact fun x => tblSorted_filter x
    | simp only [kept_mk_com]
    | with_reducible apply keptCom
    | with_reducible exact fun x => storeOk_mk x
    | intro _
    | split

theorem refillBlock_kept {s : State} {slot : Nat} {layer : Nat} {b : Nat} (hs : Kept kq kb s) :
    Kept kq kb (refillBlock s slot layer b) := by
  unfold refillBlock
  try dsimp only
  repeat' first
    | with_reducible assumption
    | with_reducible apply state_bump_kept
    | with_reducible apply state_setStook_kept
    | with_reducible apply refreshHusks_kept
    | (with_reducible refine kept_ite ?_ ?_ <;> intro _)
    | simp only [kept_mk]
    | exact fun x => tblSorted_tblSet x
    | exact fun x => tblSorted_tblIns x
    | exact fun x => tblSorted_filter x
    | with_reducible exact fun x => storeOk_mk x
    | intro _
    | split

theorem detachMap_kept {s : State} {slot : Nat} (hs : Kept kq kb s) :
    Kept kq kb (detachMap s slot) := by
  unfold detachMap
  try dsimp only
  repeat' first
    | with_reducible assumption
    | with_reducible apply state_setSeq_kept
    | (with_reducible refine kept_ite ?_ ?_ <;> intro _)
    | simp only [kept_mk]
    | exact fun x => tblSorted_tblSet x
    | exact fun x => tblSorted_tblIns x
    | exact fun x => tblSorted_filter x
    | split

theorem releaseOldest_kept {s : State} (hs : Kept kq kb s) :
    Kept kq kb (releaseOldest s) := by
  unfold releaseOldest
  try dsimp only
  repeat' first
    | with_reducible assumption
    | with_reducible apply freeSheaf_kept
    | with_reducible apply dropRef_kept
    | with_reducible apply kept_foldl
    | (with_reducible refine kept_ite ?_ ?_ <;> intro _)
    | simp only [kept_mk]
    | exact fun x => tblSorted_tblSet x
    | exact fun x => tblSorted_tblIns x
    | exact fun x => tblSorted_filter x
    | intro _
    | split

theorem seqOpenFx_kept {s : State} {c : Nat} {slot : Nat} {blk : List Byte} (hs : Kept kq kb s) :
    Kept kq kb (seqOpenFx s c slot blk) := by
  unfold seqOpenFx
  try dsimp only
  repeat' first
    | with_reducible assumption
    | with_reducible apply state_reset_kept
    | with_reducible apply state_setSeq_kept
    | (with_reducible refine kept_ite ?_ ?_ <;> intro _)
    | simp only [kept_mk]
    | exact fun x => tblSorted_tblSet x
    | exact fun x => tblSorted_tblIns x
    | exact fun x => tblSorted_filter x
    | intro _
    | split

theorem seqCloseFx_kept {s : State} {slot : Nat} (hs : Kept kq kb s) :
    Kept kq kb (seqCloseFx s slot) := by
  unfold seqCloseFx
  try dsimp only
  repeat' first
    | with_reducible assumption
    | with_reducible apply state_reset_kept
    | with_reducible apply state_setSeq_kept
    | with_reducible apply detachMap_kept
    | (with_reducible refine kept_ite ?_ ?_ <;> intro _)

theorem refreshTent_kept {s : State} {slot : Nat} (hs : Kept kq kb s) :
    Kept kq kb (refreshTent s slot) := by
  unfold refreshTent
  try dsimp only
  repeat' first
    | with_reducible assumption
    | with_reducible apply state_setStook_kept
    | with_reducible apply kept_foldl
    | (with_reducible refine kept_ite ?_ ?_ <;> intro _)
    | simp only [kept_mk]
    | exact fun x => tblSorted_tblSet x
    | exact fun x => tblSorted_tblIns x
    | exact fun x => tblSorted_filter x
    | with_reducible exact fun x => storeOk_mk x
    | intro _
    | split

theorem seqRollBackFx_kept {s : State} {slot : Nat} (hs : Kept kq kb s) :
    Kept kq kb (seqRollBackFx s slot) := by
  unfold seqRollBackFx
  try dsimp only
  repeat' first
    | with_reducible assumption
    | with_reducible apply state_setSeq_kept
    | with_reducible apply dropRef_kept
    | with_reducible apply refreshTent_kept
    | with_reducible apply kept_foldl
    | (with_reducible refine kept_ite ?_ ?_ <;> intro _)
    | simp only [kept_mk]
    | exact fun x => tblSorted_tblSet x
    | exact fun x => tblSorted_tblIns x
    | exact fun x => tblSorted_filter x
    | with_reducible exact fun x => storeOk_mk x
    | intro _

theorem unlinkNode_kept {s : State} {k : Nat} (hs : Kept kq kb s) :
    Kept kq kb (unlinkNode s k) := by
  unfold unlinkNode
  try dsimp only
  repeat' first
    | with_reducible assumption
    | with_reducible apply state_setNode_kept
    | (with_reducible refine kept_ite ?_ ?_ <;> intro _)
    | simp only [kept_mk]
    | exact fun x => tblSorted_tblSet x
    | exact fun x => tblSorted_tblIns x
    | exact fun x => tblSorted_filter x
    | intro _
    | split

theorem freeNode_kept {s : State} {k : Nat} (hs : Kept kq kb s) :
    Kept kq kb (freeNode s k) := by
  unfold freeNode
  try dsimp only
  repeat' first
    | with_reducible assumption
    | with_reducible apply state_reset_kept
    | with_reducible apply state_bump_kept
    | with_reducible apply state_setNode_kept
    | with_reducible apply dropRef_kept
    | with_reducible apply unlinkNode_kept
    | (with_reducible refine kept_ite ?_ ?_ <;> intro _)
    | simp only [kept_mk]
    | exact fun x => tblSorted_tblSet x
    | exact fun x => tblSorted_tblIns x
    | exact fun x => tblSorted_filter x
    | split

theorem takeNode_kept {s t : State} {keep : Option Nat} {n : Nat} (hs : Kept kq kb s) (he : takeNode s keep = some (n, t)) :
    Kept kq kb t := by
  unfold takeNode at he
  split at he
  · cases he; exact hs
  · obtain ⟨m, _, h⟩ := Option.map_eq_some_iff.1 he
    cases h
    exact freeNode_kept hs

theorem driftInsert_kept {s : State} {c : Nat} {slot : Nat} {b : Nat} (hs : Kept kq kb s) :
    Kept kq kb (driftInsert s c slot b) := by
  unfold driftInsert
  try dsimp only
  repeat' first
    | with_reducible assumption
    | with_reducible apply state_bump_kept
    | with_reducible apply state_setSeq_kept
    | with_reducible apply state_setNode_kept
    | with_reducible apply addRef_kept
    | (refine takeNode_kept ?_ (by with_reducible assumption))
    | (with_reducible refine kept_ite ?_ ?_ <;> intro _)
    | simp only [kept_mk]
    | exact fun x => tblSorted_tblSet x
    | exact fun x => tblSorted_tblIns x
    | exact fun x => tblSorted_filter x
    | with_reducible exact fun x => storeOk_mk x
    | intro _
    | split

theorem recordToken_kept {s : State} {slot : Nat} {p : Nat} {tok : Nat} (hs : Kept kq kb s) :
    Kept kq kb (recordToken s slot p tok) := by
  unfold recordToken
  try dsimp only
  repeat' first
    | with_reducible assumption
    | with_reducible apply state_setStook_kept
    | (with_reducible refine kept_ite ?_ ?_ <;> intro _)
    | simp only [kept_mk]
    | exact fun x => tblSorted_tblSet x
    | exact fun x => tblSorted_tblIns x
    | exact fun x => tblSorted_filter x
    | with_reducible exact fun x => storeOk_mk x
    | intro _
    | split

theorem seqAcceptFx_kept {s : State} {c : Nat} {slot : Nat} {toks : List Nat} (hs : Kept kq kb s) :
    Kept kq kb (seqAcceptFx s c slot toks) := by
  unfold seqAcceptFx
  try dsimp only
  repeat' first
    | with_reducible assumption
    | with_reducible apply state_setSeq_kept
    | with_reducible apply refreshTent_kept
    | with_reducible apply driftInsert_kept
    | with_reducible apply recordToken_kept
    | with_reducible apply kept_foldl
    | (with_reducible refine kept_ite ?_ ?_ <;> intro _)
    | simp only [kept_mk]
    | exact fun x => tblSorted_tblSet x
    | exact fun x => tblSorted_tblIns x
    | exact fun x => tblSorted_filter x
    | with_reducible exact fun x => storeOk_mk x
    | intro _

theorem matchHit_kept {s : State} {slot : Nat} {b : Nat} {n : Nat} (hs : Kept kq kb s) :
    Kept kq kb (matchHit s slot b n) := by
  unfold matchHit
  try dsimp only
  repeat' first
    | with_reducible assumption
    | with_reducible apply state_bump_kept
    | with_reducible apply state_setSeq_kept
    | with_reducible apply state_setNode_kept
    | with_reducible apply addRef_kept
    | (with_reducible refine kept_ite ?_ ?_ <;> intro _)
    | simp only [kept_mk]
    | exact fun x => tblSorted_tblSet x
    | exact fun x => tblSorted_tblIns x
    | exact fun x => tblSorted_filter x

theorem matchWalk_kept {c slot : Nat} {l : List (List Nat)} {bn : Nat} {s : State} (hs : Kept kq kb s) :
    Kept kq kb (matchWalk c slot l bn s).1 := by
  induction l generalizing bn s with
  | nil => exact hs
  | cons toks l ih =>
    unfold matchWalk
    dsimp only
    split
    · exact hs
    · split
      · next s' g h => exact ih (matchHit_kept (needMapSheaf_kept hs s' g h))
      · exact hs

theorem seqMatchFx_kept {s : State} {c slot : Nat} {toks : List Nat} (hs : Kept kq kb s) :
    Kept kq kb (seqMatchFx s c slot toks).1 := by
  have key : ∀ (r : State × Nat × Nat) (d : Nat), Kept kq kb r.1 →
      Kept kq kb (match r with
        | (s, n, h) =>
          let s := if n = 0 then s else s.setSeq slot { s.seq slot with committed := 64 * (d + n), tentative := 64 * (d + n) }
          (s.setSeq slot (refreshHusk s.com (s.seq slot)), bytesLE (64 * n) 4 ++ bytesLE n 4 ++ bytesLE h 4 ++ bytesLE 0 4)).1 := by
    rintro ⟨s, n, h⟩ d hr
    dsimp only
    split
    · exact state_setSeq_kept hr
    · exact state_setSeq_kept (state_setSeq_kept hr)
  unfold seqMatchFx
  dsimp only
  refine key _ _ ?_
  by_cases hp : prefixValid s (s.seq slot) = true
  · rw [if_pos hp]; exact matchWalk_kept hs
  · rw [if_neg hp]; exact hs

theorem freeGroup_kept {eg : Nat} {fuel : Nat} {s : State} (hs : Kept kq kb s) : Kept kq kb (freeGroup eg fuel s) := by
  induction fuel generalizing s with
  | zero => exact hs
  | succ fuel ih =>
    unfold freeGroup
    try dsimp only
    split
    · exact ih (freeNode_kept hs)
    · exact hs

end Sys2Proof.Machine
end

