-- ==== Sys2Proof/Laws/Kept/Clock.lean ====
section
/-! SUPPORT. Sys2Proof/Laws/Kept/Clock.lean: the operations of Machine/Clock.lean keep the queue and the canonical form. -/

namespace Sys2Proof.Machine

open Sys2Proof

variable {kq : List Instr} {kb : Bool}

theorem idleTick_kept {s : State} (hs : Kept kq kb s) :
    Kept kq kb (idleTick s) := by
  unfold idleTick
  try dsimp only
  repeat' first
    | with_reducible assumption
    | (with_reducible refine kept_ite ?_ ?_ <;> intro _)
    | simp only [kept_mk]
    | exact fun x => tblSorted_tblSet x
    | exact fun x => tblSorted_tblIns x
    | exact fun x => tblSorted_filter x
    | split

end Sys2Proof.Machine
end

