-- ==== Sys2Proof/Laws/Kept/Packets.lean ====
section
/-! SUPPORT. Sys2Proof/Laws/Kept/Packets.lean: the operations of Machine/Packets.lean keep the queue and the canonical form. -/

namespace Sys2Proof.Machine

open Sys2Proof

variable {kq : List Instr} {kb : Bool}

theorem state_setFab_kept {s : State} {f : Fabric} (hs : Kept kq kb s) :
    Kept kq kb (State.setFab s f) := by
  unfold State.setFab
  try dsimp only
  repeat' first
    | with_reducible assumption
    | (with_reducible refine kept_ite ?_ ?_ <;> intro _)
    | simp only [kept_mk]
    | exact fun x => tblSorted_tblSet x
    | exact fun x => tblSorted_tblIns x
    | exact fun x => tblSorted_filter x

theorem state_setPort_kept {s : State} {p : Nat} {x : Port} (hs : Kept kq kb s) :
    Kept kq kb (State.setPort s p x) := by
  unfold State.setPort
  try dsimp only
  repeat' first
    | with_reducible assumption
    | with_reducible apply state_reset_kept
    | with_reducible apply state_setFab_kept
    | (with_reducible refine kept_ite ?_ ?_ <;> intro _)
    | simp only [kept_mk]
    | exact fun x => tblSorted_tblSet x
    | exact fun x => tblSorted_tblIns x
    | exact fun x => tblSorted_filter x

theorem packetBad_kept {s : State} {p : Nat} (hs : Kept kq kb s) :
    Kept kq kb (packetBad s p) := by
  unfold packetBad
  try dsimp only
  repeat' first
    | with_reducible assumption
    | with_reducible apply state_setReg_kept
    | (with_reducible refine kept_ite ?_ ?_ <;> intro _)

theorem portsAfterPlan_kept {s : State} (hs : Kept kq kb s) :
    Kept kq kb (portsAfterPlan s) := by
  unfold portsAfterPlan
  try dsimp only
  repeat' first
    | with_reducible assumption
    | with_reducible apply state_setPort_kept
    | with_reducible apply kept_foldl
    | (with_reducible refine kept_ite ?_ ?_ <;> intro _)
    | simp only [kept_mk]
    | exact fun x => tblSorted_tblSet x
    | exact fun x => tblSorted_tblIns x
    | exact fun x => tblSorted_filter x
    | intro _
    | split

theorem queueFlits_kept {s : State} {p : Nat} {fs : List Flit} (hs : Kept kq kb s) :
    Kept kq kb (queueFlits s p fs) := by
  unfold queueFlits
  try dsimp only
  repeat' first
    | with_reducible assumption
    | with_reducible apply state_setPort_kept
    | (with_reducible refine kept_ite ?_ ?_ <;> intro _)
    | simp only [kept_mk]
    | exact fun x => tblSorted_tblSet x
    | exact fun x => tblSorted_tblIns x
    | exact fun x => tblSorted_filter x

theorem sendFar_kept {s : State} {ty : Nat} {k : FarPacket} {own : Option Nat} (hs : Kept kq kb s) :
    KeptO kq kb (sendFar s ty k own) := keptO_map (fun _ _ => queueFlits_kept hs)

theorem sendOrDrop_kept {s : State} {t : Nat} {k : FarPacket} {own : Option Nat} (hs : Kept kq kb s) :
    Kept kq kb (sendOrDrop s t k own) := by
  unfold sendOrDrop
  try dsimp only
  repeat' first
    | with_reducible assumption
    | with_reducible apply state_bump_kept
    | with_reducible apply sendFar_kept
    | (refine sendFar_kept ?_ _ (by with_reducible assumption))
    | (refine sendFar_kept ?_ _ (by with_reducible assumption))
    | (with_reducible refine kept_ite ?_ ?_ <;> intro _)
    | with_reducible apply kept_getD

theorem issueReq_kept {s : State} {kind : FarKind} {k : FarPacket} {cmd : Option CmdRef} {ctx : Nat} (hs : Kept kq kb s) :
    KeptO kq kb (issueReq s kind k cmd ctx) := by
  unfold issueReq
  dsimp only
  split
  · exact keptO_map (fun _ _ => state_setFab_kept (state_setFab_kept hs))
  · exact keptO_map (fun t h => state_setFab_kept (sendFar_kept hs t h))

theorem dropReqs_kept {s : State} {r : CmdRef} (hs : Kept kq kb s) :
    Kept kq kb (dropReqs s r) := by
  unfold dropReqs
  try dsimp only
  repeat' first
    | with_reducible assumption
    | with_reducible apply state_setFab_kept
    | (with_reducible refine kept_ite ?_ ?_ <;> intro _)
    | simp only [kept_mk]
    | exact fun x => tblSorted_tblSet x
    | exact fun x => tblSorted_tblIns x
    | exact fun x => tblSorted_filter x
    | with_reducible exact fun x => storeOk_mk x
    | intro _

theorem abortFar_kept {s : State} {r : CmdRef} (hs : Kept kq kb s) :
    Kept kq kb (abortFar s r) := by
  unfold abortFar
  try dsimp only
  repeat' first
    | with_reducible assumption
    | with_reducible apply sendOrDrop_kept
    | with_reducible apply dropReqs_kept
    | (with_reducible refine kept_ite ?_ ?_ <;> intro _)
    | simp only [kept_mk]
    | exact fun x => tblSorted_tblSet x
    | exact fun x => tblSorted_tblIns x
    | exact fun x => tblSorted_filter x
    | intro _
    | split

end Sys2Proof.Machine
end

