-- ==== Sys2Proof/Laws/Kept/Life.lean ====
section
/-! SUPPORT. Sys2Proof/Laws/Kept/Life.lean: the operations of Machine/Life.lean keep the queue and the canonical form. -/

namespace Sys2Proof.Machine

open Sys2Proof

variable {kq : List Instr} {kb : Bool}

theorem state_setCmd_kept {s : State} {c : Nat} {n : Nat} {x : Cmd} (hs : Kept kq kb s) :
    Kept kq kb (State.setCmd s c n x) := by
  unfold State.setCmd
  try dsimp only
  repeat' first
    | with_reducible assumption
    | with_reducible apply state_setRing_kept
    | (with_reducible refine kept_ite ?_ ?_ <;> intro _)

theorem chargeVt_kept {s : State} {c : Nat} {cls : Nat} {ns : Nat} (hs : Kept kq kb s) :
    Kept kq kb (chargeVt s c cls ns) := by
  unfold chargeVt
  try dsimp only
  repeat' first
    | with_reducible assumption
    | with_reducible apply state_setCtx_kept
    | (with_reducible refine kept_ite ?_ ?_ <;> intro _)
    | simp only [kept_mk]
    | exact fun x => tblSorted_tblSet x
    | exact fun x => tblSorted_tblIns x
    | exact fun x => tblSorted_filter x

theorem accountAttempt_kept {s : State} {c : Nat} {x : Cmd} {charged : Bool} (hs : Kept kq kb s) :
    Kept kq kb (accountAttempt s c x charged) := by
  unfold accountAttempt
  try dsimp only
  repeat' first
    | with_reducible assumption
    | with_reducible apply state_setCtx_kept
    | with_reducible apply chargeVt_kept
    | (with_reducible refine kept_ite ?_ ?_ <;> intro _)
    | simp only [kept_mk]
    | exact fun x => tblSorted_tblSet x
    | exact fun x => tblSorted_tblIns x
    | exact fun x => tblSorted_filter x
    | split

theorem releaseReader_kept {s : State} {r : CmdRef} (hs : Kept kq kb s) :
    Kept kq kb (releaseReader s r) := by
  unfold releaseReader
  try dsimp only
  repeat' first
    | with_reducible assumption
    | (with_reducible refine kept_ite ?_ ?_ <;> intro _)
    | simp only [kept_mk]
    | exact fun x => tblSorted_tblSet x
    | exact fun x => tblSorted_tblIns x
    | exact fun x => tblSorted_filter x
    | intro _

theorem unpin_kept {s : State} {r : CmdRef} (hs : Kept kq kb s) :
    Kept kq kb (unpin s r) := by
  unfold unpin
  try dsimp only
  repeat' first
    | with_reducible assumption
    | (with_reducible refine kept_ite ?_ ?_ <;> intro _)
    | simp only [kept_mk]
    | exact fun x => tblSorted_tblSet x
    | exact fun x => tblSorted_tblIns x
    | exact fun x => tblSorted_filter x
    | simp only [kept_mk_com]
    | with_reducible apply keptCom
    | with_reducible exact fun x => storeOk_mk x
    | intro _

theorem releaseAttempt_kept {s : State} {a : Attempt} (hs : Kept kq kb s) :
    Kept kq kb (releaseAttempt s a) := by
  unfold releaseAttempt
  try dsimp only
  repeat' first
    | with_reducible assumption
    | with_reducible apply kvRelease_kept
    | (with_reducible refine kept_ite ?_ ?_ <;> intro _)
    | simp only [kept_mk]
    | exact fun x => tblSorted_tblSet x
    | exact fun x => tblSorted_tblIns x
    | exact fun x => tblSorted_filter x
    | intro _

theorem leaveLatch_kept {s : State} {r : CmdRef} {x : Cmd} (hs : Kept kq kb s) :
    Kept kq kb (leaveLatch s r x) := by
  unfold leaveLatch
  try dsimp only
  repeat' first
    | with_reducible assumption
    | with_reducible apply state_setLatch_kept
    | (with_reducible refine kept_ite ?_ ?_ <;> intro _)
    | simp only [kept_mk]
    | exact fun x => tblSorted_tblSet x
    | exact fun x => tblSorted_tblIns x
    | exact fun x => tblSorted_filter x
    | intro _
    | split

theorem killCmd_kept {s : State} {c : Nat} {n : Nat} {x : Cmd} {k : KillCause} (hs : Kept kq kb s) :
    Kept kq kb (killCmd s c n x k) := by
  unfold killCmd
  try dsimp only
  repeat' first
    | with_reducible assumption
    | with_reducible apply state_bump_kept
    | with_reducible apply abortFar_kept
    | with_reducible apply state_setCmd_kept
    | with_reducible apply accountAttempt_kept
    | with_reducible apply releaseReader_kept
    | with_reducible apply releaseAttempt_kept
    | with_reducible apply leaveLatch_kept
    | (with_reducible refine kept_ite ?_ ?_ <;> intro _)
    | simp only [kept_mk]
    | exact fun x => tblSorted_tblSet x
    | exact fun x => tblSorted_tblIns x
    | exact fun x => tblSorted_filter x
    | split

theorem killRing_kept {s : State} {c : Nat} {n : Nat} {k : KillCause} (hs : Kept kq kb s) :
    Kept kq kb (killRing s c n k) := by
  unfold killRing
  try dsimp only
  repeat' first
    | with_reducible assumption
    | with_reducible apply killCmd_kept
    | with_reducible apply kept_foldl
    | (with_reducible refine kept_ite ?_ ?_ <;> intro _)
    | intro _

theorem killCtx_kept {s : State} {c : Nat} {k : KillCause} (hs : Kept kq kb s) :
    Kept kq kb (killCtx s c k) := by
  unfold killCtx
  try dsimp only
  repeat' first
    | with_reducible assumption
    | with_reducible apply killRing_kept
    | with_reducible apply kept_foldl
    | (with_reducible refine kept_ite ?_ ?_ <;> intro _)
    | intro _

theorem killWhere_kept {s : State} {p : Cmd → Bool} {k : KillCause} (hs : Kept kq kb s) :
    Kept kq kb (killWhere s p k) := by
  unfold killWhere
  try dsimp only
  repeat' first
    | with_reducible assumption
    | with_reducible apply killCmd_kept
    | with_reducible apply kept_foldl
    | (with_reducible refine kept_ite ?_ ?_ <;> intro _)
    | intro _

theorem freezeRing_kept {s : State} {c : Nat} {n : Nat} (hs : Kept kq kb s) :
    Kept kq kb (freezeRing s c n) := by
  unfold freezeRing
  try dsimp only
  repeat' first
    | with_reducible assumption
    | with_reducible apply state_setRing_kept
    | (with_reducible refine kept_ite ?_ ?_ <;> intro _)
    | simp only [kept_mk]
    | exact fun x => tblSorted_tblSet x
    | exact fun x => tblSorted_tblIns x
    | exact fun x => tblSorted_filter x
    | split

theorem beginFreeze_kept {s : State} {c : Nat} {f : Freeze} (hs : Kept kq kb s) :
    Kept kq kb (beginFreeze s c f) := by
  unfold beginFreeze
  try dsimp only
  repeat' first
    | with_reducible assumption
    | with_reducible apply state_setCtx_kept
    | with_reducible apply killCtx_kept
    | with_reducible apply freezeRing_kept
    | with_reducible apply kept_foldl
    | (with_reducible refine kept_ite ?_ ?_ <;> intro _)
    | simp only [kept_mk]
    | exact fun x => tblSorted_tblSet x
    | exact fun x => tblSorted_tblIns x
    | exact fun x => tblSorted_filter x
    | intro _
    | split

theorem areaBreach_kept {s : State} {c : Nat} {n : Nat} {addr : Nat} {write : Bool} (hs : Kept kq kb s) :
    Kept kq kb (areaBreach s c n addr write) := by
  unfold areaBreach
  try dsimp only
  repeat' first
    | with_reducible assumption
    | with_reducible apply beginFreeze_kept
    | (with_reducible refine kept_ite ?_ ?_ <;> intro _)
    | simp only [kept_mk]
    | exact fun x => tblSorted_tblSet x
    | exact fun x => tblSorted_tblIns x
    | exact fun x => tblSorted_filter x

theorem dropAttempt_kept {s : State} {c : Nat} {n : Nat} {x : Cmd} (hs : Kept kq kb s) :
    Kept kq kb (dropAttempt s c n x) := by
  unfold dropAttempt
  try dsimp only
  repeat' first
    | with_reducible assumption
    | with_reducible apply state_setCmd_kept
    | with_reducible apply accountAttempt_kept
    | with_reducible apply releaseReader_kept
    | with_reducible apply releaseAttempt_kept
    | (with_reducible refine kept_ite ?_ ?_ <;> intro _)
    | simp only [kept_mk]
    | exact fun x => tblSorted_tblSet x
    | exact fun x => tblSorted_tblIns x
    | exact fun x => tblSorted_filter x
    | split

theorem cmdBreach_kept {s : State} {c : Nat} {n : Nat} {x : Cmd} {addr : Nat} {write : Bool} (hs : Kept kq kb s) :
    Kept kq kb (cmdBreach s c n x addr write) := by
  unfold cmdBreach
  try dsimp only
  repeat' first
    | with_reducible assumption
    | with_reducible apply beginFreeze_kept
    | with_reducible apply dropAttempt_kept
    | (with_reducible refine kept_ite ?_ ?_ <;> intro _)
    | simp only [kept_mk]
    | exact fun x => tblSorted_tblSet x
    | exact fun x => tblSorted_tblIns x
    | exact fun x => tblSorted_filter x

theorem ringArea_kept {s : State} {c : Nat} {n : Nat} {write : Bool} {addr : Nat} {len : Nat} (hs : Kept kq kb s) :
    KeptO kq kb (ringArea s c n write addr len) := by
  unfold ringArea
  try dsimp only
  repeat' first
    | with_reducible assumption
    | (refine allocGrans_kept ?_ (by with_reducible assumption))
    | (with_reducible refine keptO_ite ?_ ?_ <;> intro _)
    | with_reducible exact keptO_none
    | with_reducible apply keptO_some
    | (with_reducible refine kept_ite ?_ ?_ <;> intro _)
    | with_reducible exact fun x => storeOk_mk x
    | split

theorem areaWrite_kept {s : State} {c n addr : Nat} {bs : List Byte} (hs : Kept kq kb s) : Kept kq kb (areaWrite s c n addr bs) := by
  unfold areaWrite
  split
  · exact hs.com fun h => ⟨h.1, memWrite_wf h.2.1, h.2.2⟩
  · split
    · exact hs.com putBytes_ok
    · exact hs

theorem writeFinal_kept {s : State} {c n : Nat} {x : Cmd} (hs : Kept kq kb s) : Kept kq kb (writeFinal s c n x) := by
  unfold writeFinal
  split
  · exact areaBreach_kept hs
  · next t h =>
    have ht := state_setCmd_kept (c := c) (n := n) (x := { x with recDue := false })
      (areaWrite_kept (c := c) (n := n) (addr := recordAddr t c n x.slot) (bs := finalRecord x) (ringArea_kept hs t h))
    dsimp only
    refine state_setRing_kept (kept_ite (fun _ => signalCtxVector_kept ht) (fun _ => ht))

theorem haltRule_kept {s : State} {c : Nat} {n : Nat} {st : Status} (hs : Kept kq kb s) :
    Kept kq kb (haltRule s c n st) := by
  unfold haltRule
  try dsimp only
  repeat' first
    | with_reducible assumption
    | with_reducible apply state_setRing_kept
    | (with_reducible refine kept_ite ?_ ?_ <;> intro _)
    | simp only [kept_mk]
    | exact fun x => tblSorted_tblSet x
    | exact fun x => tblSorted_tblIns x
    | exact fun x => tblSorted_filter x
    | split

theorem finishRecord_kept {s : State} {c : Nat} {n : Nat} {x : Cmd} {st : Status} {nonfin : Bool} {det : Nat} (hs : Kept kq kb s) :
    Kept kq kb (finishRecord s c n x st nonfin det) := by
  unfold finishRecord
  try dsimp only
  repeat' first
    | with_reducible assumption
    | with_reducible apply state_bump_kept
    | with_reducible apply notice_kept
    | with_reducible apply state_setCmd_kept
    | with_reducible apply releaseReader_kept
    | with_reducible apply unpin_kept
    | with_reducible apply writeFinal_kept
    | (with_reducible refine kept_ite ?_ ?_ <;> intro _)
    | simp only [kept_mk]
    | exact fun x => tblSorted_tblSet x
    | exact fun x => tblSorted_tblIns x
    | exact fun x => tblSorted_filter x
    | split

theorem finishCmd_kept {s : State} {c : Nat} {n : Nat} {x : Cmd} {st : Status} {nonfin : Bool} {det : Nat} (hs : Kept kq kb s) :
    Kept kq kb (finishCmd s c n x st nonfin det) := by
  unfold finishCmd
  try dsimp only
  repeat' first
    | with_reducible assumption
    | with_reducible apply haltRule_kept
    | with_reducible apply finishRecord_kept
    | (with_reducible refine kept_ite ?_ ?_ <;> intro _)

theorem failCmd_kept {s : State} {c : Nat} {n : Nat} {x : Cmd} {st : Status} {det : Nat} (hs : Kept kq kb s) :
    Kept kq kb (failCmd s c n x st det) := by
  unfold failCmd
  try dsimp only
  repeat' first
    | with_reducible assumption
    | with_reducible apply finishCmd_kept
    | (with_reducible refine kept_ite ?_ ?_ <;> intro _)

theorem evcInc_kept {s : State} {c : Nat} {k : Nat} {n : Nat} (hs : Kept kq kb s) :
    Kept kq kb (evcInc s c k n) := by
  unfold evcInc
  try dsimp only
  repeat' first
    | with_reducible assumption
    | with_reducible apply state_setEvctr_kept
    | with_reducible apply logEntry_kept
    | (with_reducible refine kept_ite ?_ ?_ <;> intro _)
    | split

theorem sigEffect_kept {s : State} {c : Nat} {d : List Byte} (hs : Kept kq kb s) :
    Kept kq kb (sigEffect s c d) := by
  unfold sigEffect
  try dsimp only
  repeat' first
    | with_reducible assumption
    | with_reducible apply evcInc_kept
    | (with_reducible refine kept_ite ?_ ?_ <;> intro _)
    | split

theorem commitFence_kept {s : State} {c : Nat} {n : Nat} {x : Cmd} {st : Status} (hs : Kept kq kb s) :
    Kept kq kb (commitFence s c n x st) := by
  unfold commitFence
  try dsimp only
  repeat' first
    | with_reducible assumption
    | with_reducible apply finishCmd_kept
    | with_reducible apply sigEffect_kept
    | (with_reducible refine kept_ite ?_ ?_ <;> intro _)
    | with_reducible exact fun x => storeOk_mk x

theorem passLatch_kept {s : State} {l : Nat} {st : Status} {free : LatchSt} (hs : Kept kq kb s) :
    Kept kq kb (passLatch s l st free) := by
  unfold passLatch
  try dsimp only
  repeat' first
    | with_reducible assumption
    | with_reducible apply state_setLatch_kept
    | with_reducible apply commitFence_kept
    | (with_reducible refine kept_ite ?_ ?_ <;> intro _)
    | simp only [kept_mk]
    | exact fun x => tblSorted_tblSet x
    | exact fun x => tblSorted_tblIns x
    | exact fun x => tblSorted_filter x
    | with_reducible exact fun x => storeOk_mk x
    | split

theorem breakLatch_kept {s : State} {l : Nat} (hs : Kept kq kb s) :
    Kept kq kb (breakLatch s l) := by
  unfold breakLatch
  try dsimp only
  repeat' first
    | with_reducible assumption
    | with_reducible apply state_setLatch_kept
    | with_reducible apply passLatch_kept
    | (with_reducible refine kept_ite ?_ ?_ <;> intro _)
    | simp only [kept_mk]
    | exact fun x => tblSorted_tblSet x
    | exact fun x => tblSorted_tblIns x
    | exact fun x => tblSorted_filter x

theorem breakLatches_kept {s : State} {c : Nat} (hs : Kept kq kb s) :
    Kept kq kb (breakLatches s c) := by
  unfold breakLatches
  try dsimp only
  repeat' first
    | with_reducible assumption
    | with_reducible apply breakLatch_kept
    | with_reducible apply kept_foldl
    | (with_reducible refine kept_ite ?_ ?_ <;> intro _)
    | intro _

theorem takeItem_kept {s : State} {c n : Nat} (hs : Kept kq kb s) : Kept kq kb (takeItem s c n).1 := state_setRing_kept hs

theorem takeItems_kept {c n : Nat} {fuel : Nat} {s : State} (hs : Kept kq kb s) : Kept kq kb (takeItems c n fuel s) := by
  induction fuel generalizing s with
  | zero => exact hs
  | succ fuel ih =>
    unfold takeItems
    try dsimp only
    split
    · exact ih (takeItem_kept hs)
    · exact hs

theorem cancelOpen_kept {s : State} {c : Nat} {n : Nat} (hs : Kept kq kb s) :
    Kept kq kb (cancelOpen s c n) := by
  unfold cancelOpen
  try dsimp only
  repeat' first
    | with_reducible assumption
    | with_reducible apply finishCmd_kept
    | with_reducible apply kept_foldl
    | (with_reducible refine kept_ite ?_ ?_ <;> intro _)
    | intro _

theorem flushEnd_kept {s : State} {c : Nat} {n : Nat} {to_ : RingSt} (hs : Kept kq kb s) :
    Kept kq kb (flushEnd s c n to_) := by
  unfold flushEnd
  try dsimp only
  repeat' first
    | with_reducible assumption
    | with_reducible apply state_setRing_kept
    | with_reducible apply takeItems_kept
    | with_reducible apply cancelOpen_kept
    | (with_reducible refine kept_ite ?_ ?_ <;> intro _)
    | simp only [kept_mk]
    | exact fun x => tblSorted_tblSet x
    | exact fun x => tblSorted_tblIns x
    | exact fun x => tblSorted_filter x
    | intro _

end Sys2Proof.Machine
end

