-- ==== Sys2Proof/Laws/Kept/Watch.lean ====
section
/-! SUPPORT. Sys2Proof/Laws/Kept/Watch.lean: the operations of Machine/Watch.lean keep the queue and the canonical form. -/

namespace Sys2Proof.Machine

open Sys2Proof

variable {kq : List Instr} {kb : Bool}

theorem state_setMon_kept {s : State} {k : Nat} {x : Monitor} (hs : Kept kq kb s) :
    Kept kq kb (State.setMon s k x) := by
  unfold State.setMon
  try dsimp only
  repeat' first
    | with_reducible assumption
    | with_reducible apply state_reset_kept
    | (with_reducible refine kept_ite ?_ ?_ <;> intro _)
    | simp only [kept_mk]
    | exact fun x => tblSorted_tblSet x
    | exact fun x => tblSorted_tblIns x
    | exact fun x => tblSorted_filter x

theorem state_setSensor_kept {s : State} {i : Nat} {x : Sensor} (hs : Kept kq kb s) :
    Kept kq kb (State.setSensor s i x) := by
  unfold State.setSensor
  try dsimp only
  repeat' first
    | with_reducible assumption
    | with_reducible apply state_reset_kept
    | (with_reducible refine kept_ite ?_ ?_ <;> intro _)
    | simp only [kept_mk]
    | exact fun x => tblSorted_tblSet x
    | exact fun x => tblSorted_tblIns x
    | exact fun x => tblSorted_filter x

theorem evalMonitor_kept {s : State} {k : Nat} (hs : Kept kq kb s) :
    Kept kq kb (evalMonitor s k) := by
  unfold evalMonitor
  try dsimp only
  repeat' first
    | with_reducible assumption
    | with_reducible apply signalModule_kept
    | with_reducible apply state_setMon_kept
    | (with_reducible refine kept_ite ?_ ?_ <;> intro _)
    | split

theorem watch_kept {s : State} (hs : Kept kq kb s) :
    Kept kq kb (watch s) := by
  unfold watch
  try dsimp only
  repeat' first
    | with_reducible assumption
    | with_reducible apply evalMonitor_kept
    | with_reducible apply kept_foldl
    | (with_reducible refine kept_ite ?_ ?_ <;> intro _)
    | intro _

theorem bgPassEnds_kept {s : State} {a : Nat} (hs : Kept kq kb s) :
    Kept kq kb (bgPassEnds s a) := by
  unfold bgPassEnds
  try dsimp only
  repeat' first
    | with_reducible assumption
    | with_reducible apply state_setReg_kept
    | with_reducible apply state_setBits_kept
    | with_reducible apply notice_kept
    | with_reducible apply logEntry_kept
    | (with_reducible refine kept_ite ?_ ?_ <;> intro _)
    | simp only [kept_mk]
    | exact fun x => tblSorted_tblSet x
    | exact fun x => tblSorted_tblIns x
    | exact fun x => tblSorted_filter x
    | split

theorem bgUnit_kept {s : State} {a : Nat} (hs : Kept kq kb s) :
    Kept kq kb (bgUnit s a) := by
  unfold bgUnit
  try dsimp only
  repeat' first
    | with_reducible assumption
    | with_reducible apply state_setReg_kept
    | with_reducible apply bgPassEnds_kept
    | (with_reducible refine kept_ite ?_ ?_ <;> intro _)
    | simp only [kept_mk]
    | exact fun x => tblSorted_tblSet x
    | exact fun x => tblSorted_tblIns x
    | exact fun x => tblSorted_filter x
    | split

theorem pwrEvent_kept {s : State} {b : Nat} (hs : Kept kq kb s) :
    Kept kq kb (pwrEvent s b) := by
  unfold pwrEvent
  try dsimp only
  repeat' first
    | with_reducible assumption
    | with_reducible apply state_setBits_kept
    | with_reducible apply signalModule_kept
    | (with_reducible refine kept_ite ?_ ?_ <;> intro _)

theorem state_setPwr_kept {s : State} {p : Power} (hs : Kept kq kb s) :
    Kept kq kb (State.setPwr s p) := by
  unfold State.setPwr
  try dsimp only
  repeat' first
    | with_reducible assumption
    | (with_reducible refine kept_ite ?_ ?_ <;> intro _)
    | simp only [kept_mk]
    | exact fun x => tblSorted_tblSet x
    | exact fun x => tblSorted_tblIns x
    | exact fun x => tblSorted_filter x

theorem abandonShake_kept {s : State} {reason : Nat} {refuser : Nat} (hs : Kept kq kb s) :
    Kept kq kb (abandonShake s reason refuser) := by
  unfold abandonShake
  try dsimp only
  repeat' first
    | with_reducible assumption
    | with_reducible apply state_setPwr_kept
    | (with_reducible refine kept_ite ?_ ?_ <;> intro _)
    | simp only [kept_mk]
    | exact fun x => tblSorted_tblSet x
    | exact fun x => tblSorted_tblIns x
    | exact fun x => tblSorted_filter x

theorem wakeAny_kept {s : State} (hs : Kept kq kb s) :
    Kept kq kb (wakeAny s) := by
  unfold wakeAny
  try dsimp only
  repeat' first
    | with_reducible assumption
    | with_reducible apply pwrEvent_kept
    | with_reducible apply state_setPwr_kept
    | with_reducible apply abandonShake_kept
    | (with_reducible refine kept_ite ?_ ?_ <;> intro _)
    | simp only [kept_mk]
    | exact fun x => tblSorted_tblSet x
    | exact fun x => tblSorted_tblIns x
    | exact fun x => tblSorted_filter x
    | split

theorem wakeSource_kept {s : State} {src : Nat} (hs : Kept kq kb s) :
    Kept kq kb (wakeSource s src) := by
  unfold wakeSource
  try dsimp only
  repeat' first
    | with_reducible assumption
    | with_reducible apply state_setBits_kept
    | with_reducible apply wakeAny_kept
    | (with_reducible refine kept_ite ?_ ?_ <;> intro _)
    | simp only [kept_mk]
    | exact fun x => tblSorted_tblSet x
    | exact fun x => tblSorted_tblIns x
    | exact fun x => tblSorted_filter x
    | split

end Sys2Proof.Machine
end

