-- ==== Sys2Proof/Laws/Kept/Topology.lean ====
section
/-! SUPPORT. Sys2Proof/Laws/Kept/Topology.lean: the operations of Machine/Topology.lean keep the queue and the canonical form. -/

namespace Sys2Proof.Machine

open Sys2Proof

variable {kq : List Instr} {kb : Bool}

theorem state_setArray_kept {s : State} {f : Nat} {x : ArrayEnt} (hs : Kept kq kb s) :
    Kept kq kb (State.setArray s f x) := by
  unfold State.setArray
  try dsimp only
  repeat' first
    | with_reducible assumption
    | with_reducible apply state_reset_kept
    | (with_reducible refine kept_ite ?_ ?_ <;> intro _)
    | simp only [kept_mk]
    | exact fun x => tblSorted_tblSet x
    | exact fun x => tblSorted_tblIns x
    | exact fun x => tblSorted_filter x

theorem state_setSlot_kept {s : State} {k : Nat} {x : PhysSlot} (hs : Kept kq kb s) :
    Kept kq kb (State.setSlot s k x) := by
  unfold State.setSlot
  try dsimp only
  repeat' first
    | with_reducible assumption
    | with_reducible apply state_reset_kept
    | (with_reducible refine kept_ite ?_ ?_ <;> intro _)
    | simp only [kept_mk]
    | exact fun x => tblSorted_tblSet x
    | exact fun x => tblSorted_tblIns x
    | exact fun x => tblSorted_filter x

theorem mapEvent_kept {s : State} (hs : Kept kq kb s) :
    Kept kq kb (mapEvent s) := by
  unfold mapEvent
  try dsimp only
  repeat' first
    | with_reducible assumption
    | (with_reducible refine kept_ite ?_ ?_ <;> intro _)
    | simp only [kept_mk]
    | exact fun x => tblSorted_tblSet x
    | exact fun x => tblSorted_tblIns x
    | exact fun x => tblSorted_filter x

theorem placeDoubled_kept {s : State} {f : Nat} (hs : Kept kq kb s) :
    Kept kq kb (placeDoubled s f) := by
  unfold placeDoubled
  try dsimp only
  repeat' first
    | with_reducible assumption
    | with_reducible apply state_setArray_kept
    | with_reducible apply state_setSlot_kept
    | (with_reducible refine kept_ite ?_ ?_ <;> intro _)
    | simp only [kept_mk]
    | exact fun x => tblSorted_tblSet x
    | exact fun x => tblSorted_tblIns x
    | exact fun x => tblSorted_filter x
    | intro _
    | split

theorem placeDoubledAll_kept {s : State} (hs : Kept kq kb s) :
    Kept kq kb (placeDoubledAll s) := by
  unfold placeDoubledAll
  try dsimp only
  repeat' first
    | with_reducible assumption
    | with_reducible apply placeDoubled_kept
    | with_reducible apply kept_foldl
    | (with_reducible refine kept_ite ?_ ?_ <;> intro _)
    | intro _

theorem killField_kept {s : State} {f : Nat} (hs : Kept kq kb s) :
    Kept kq kb (killField s f) := by
  unfold killField
  try dsimp only
  repeat' first
    | with_reducible assumption
    | with_reducible apply killWhere_kept
    | (with_reducible refine kept_ite ?_ ?_ <;> intro _)
    | intro _

theorem takeOver_kept {s : State} {f : Nat} {from_ : Nat} {to_ : Nat} {old : SlotSt} (hs : Kept kq kb s) :
    Kept kq kb (takeOver s f from_ to_ old) := by
  unfold takeOver
  try dsimp only
  repeat' first
    | with_reducible assumption
    | with_reducible apply state_setArray_kept
    | with_reducible apply state_setSlot_kept
    | (with_reducible refine kept_ite ?_ ?_ <;> intro _)
    | simp only [kept_mk]
    | exact fun x => tblSorted_tblSet x
    | exact fun x => tblSorted_tblIns x
    | exact fun x => tblSorted_filter x
    | split

theorem abandonRotation_kept {s : State} {d : Nat} (hs : Kept kq kb s) :
    Kept kq kb (abandonRotation s d) := by
  unfold abandonRotation
  try dsimp only
  repeat' first
    | with_reducible assumption
    | with_reducible apply state_setArray_kept
    | with_reducible apply state_setSlot_kept
    | with_reducible apply mapEvent_kept
    | (with_reducible refine kept_ite ?_ ?_ <;> intro _)
    | simp only [kept_mk]
    | exact fun x => tblSorted_tblSet x
    | exact fun x => tblSorted_tblIns x
    | exact fun x => tblSorted_filter x
    | split

theorem markRetired_kept {s : State} {k : Nat} {unit : Nat} (hs : Kept kq kb s) :
    Kept kq kb (markRetired s k unit) := by
  unfold markRetired
  try dsimp only
  repeat' first
    | with_reducible assumption
    | with_reducible apply notice_kept
    | with_reducible apply logEntry_kept
    | (with_reducible refine kept_ite ?_ ?_ <;> intro _)
    | simp only [kept_mk]
    | exact fun x => tblSorted_tblSet x
    | exact fun x => tblSorted_tblIns x
    | exact fun x => tblSorted_filter x

theorem spareNotice_kept {s : State} {left : Nat} (hs : Kept kq kb s) :
    Kept kq kb (spareNotice s left) := by
  unfold spareNotice
  try dsimp only
  repeat' first
    | with_reducible assumption
    | with_reducible apply notice_kept
    | (with_reducible refine kept_ite ?_ ?_ <;> intro _)
    | split

theorem retireSlot_kept {s : State} {k : Nat} (hs : Kept kq kb s) :
    Kept kq kb (retireSlot s k) := by
  unfold retireSlot
  try dsimp only
  repeat' first
    | with_reducible assumption
    | with_reducible apply state_setSlot_kept
    | with_reducible apply mapEvent_kept
    | with_reducible apply placeDoubled_kept
    | with_reducible apply killField_kept
    | with_reducible apply takeOver_kept
    | with_reducible apply abandonRotation_kept
    | with_reducible apply markRetired_kept
    | with_reducible apply spareNotice_kept
    | (with_reducible refine kept_ite ?_ ?_ <;> intro _)
    | simp only [kept_mk]
    | exact fun x => tblSorted_tblSet x
    | exact fun x => tblSorted_tblIns x
    | exact fun x => tblSorted_filter x
    | intro _
    | split

theorem faultEvent_kept {s : State} {k w : Nat} (hs : Kept kq kb s) : Kept kq kb (faultEvent s k w).1 := hs

theorem engineEvent_kept {s : State} {cls : Nat} {inst : Nat} (hs : Kept kq kb s) :
    Kept kq kb (engineEvent s cls inst) := by
  unfold engineEvent
  try dsimp only
  repeat' first
    | with_reducible assumption
    | with_reducible apply logEntry_kept
    | with_reducible apply markRetired_kept
    | with_reducible apply retireSlot_kept
    | with_reducible apply faultEvent_kept
    | (with_reducible refine kept_ite ?_ ?_ <;> intro _)
    | split

theorem state_setLink_kept {s : State} {n : Nat} {x : D2DLink} (hs : Kept kq kb s) :
    Kept kq kb (State.setLink s n x) := by
  unfold State.setLink
  try dsimp only
  repeat' first
    | with_reducible assumption
    | with_reducible apply state_reset_kept
    | (with_reducible refine kept_ite ?_ ?_ <;> intro _)
    | simp only [kept_mk]
    | exact fun x => tblSorted_tblSet x
    | exact fun x => tblSorted_tblIns x
    | exact fun x => tblSorted_filter x

theorem rotationStart_kept {s : State} {d : Nat} (hs : Kept kq kb s) :
    Kept kq kb (rotationStart s d) := by
  unfold rotationStart
  try dsimp only
  repeat' first
    | with_reducible assumption
    | with_reducible apply bgUnit_kept
    | with_reducible apply state_setArray_kept
    | with_reducible apply state_setSlot_kept
    | with_reducible apply mapEvent_kept
    | (with_reducible refine kept_ite ?_ ?_ <;> intro _)
    | simp only [kept_mk]
    | exact fun x => tblSorted_tblSet x
    | exact fun x => tblSorted_tblIns x
    | exact fun x => tblSorted_filter x
    | intro _
    | split

theorem rotationCopy_kept {s : State} {d : Nat} (hs : Kept kq kb s) :
    Kept kq kb (rotationCopy s d) := by
  unfold rotationCopy
  try dsimp only
  repeat' first
    | with_reducible assumption
    | with_reducible apply state_setSlot_kept
    | (with_reducible refine kept_ite ?_ ?_ <;> intro _)
    | simp only [kept_mk]
    | exact fun x => tblSorted_tblSet x
    | exact fun x => tblSorted_tblIns x
    | exact fun x => tblSorted_filter x
    | split

theorem rotationEnd_kept {s : State} {d : Nat} (hs : Kept kq kb s) :
    Kept kq kb (rotationEnd s d) := by
  unfold rotationEnd
  try dsimp only
  repeat' first
    | with_reducible assumption
    | with_reducible apply mapEvent_kept
    | with_reducible apply takeOver_kept
    | (with_reducible refine kept_ite ?_ ?_ <;> intro _)
    | simp only [kept_mk]
    | exact fun x => tblSorted_tblSet x
    | exact fun x => tblSorted_tblIns x
    | exact fun x => tblSorted_filter x
    | split

theorem ageingTick_kept {s : State} (hs : Kept kq kb s) :
    Kept kq kb (ageingTick s) := by
  unfold ageingTick
  try dsimp only
  repeat' first
    | with_reducible assumption
    | with_reducible apply kept_foldl
    | (with_reducible refine kept_ite ?_ ?_ <;> intro _)
    | simp only [kept_mk]
    | exact fun x => tblSorted_tblSet x
    | exact fun x => tblSorted_tblIns x
    | exact fun x => tblSorted_filter x
    | intro _

theorem dieLinkCrcRetry_kept {s : State} {n : Nat} {repaired : Bool} {retrained : Bool} (hs : Kept kq kb s) :
    Kept kq kb (dieLinkCrcRetry s n repaired retrained) := by
  unfold dieLinkCrcRetry
  try dsimp only
  repeat' first
    | with_reducible assumption
    | with_reducible apply state_setReg_kept
    | with_reducible apply state_setLink_kept
    | (with_reducible refine kept_ite ?_ ?_ <;> intro _)
    | simp only [kept_mk]
    | exact fun x => tblSorted_tblSet x
    | exact fun x => tblSorted_tblIns x
    | exact fun x => tblSorted_filter x
    | split

theorem dieLinkDown_kept {s : State} {n : Nat} {up : Nat} (hs : Kept kq kb s) :
    Kept kq kb (dieLinkDown s n up) := by
  unfold dieLinkDown
  try dsimp only
  repeat' first
    | with_reducible assumption
    | with_reducible apply logEntry_kept
    | with_reducible apply killWhere_kept
    | with_reducible apply state_setLink_kept
    | (with_reducible refine kept_ite ?_ ?_ <;> intro _)
    | simp only [kept_mk]
    | exact fun x => tblSorted_tblSet x
    | exact fun x => tblSorted_tblIns x
    | exact fun x => tblSorted_filter x
    | intro _
    | split

theorem d2dLinkRestored_kept {s : State} {n : Nat} (hs : Kept kq kb s) :
    Kept kq kb (d2dLinkRestored s n) := by
  unfold d2dLinkRestored
  try dsimp only
  repeat' first
    | with_reducible assumption
    | with_reducible apply state_setLink_kept
    | (with_reducible refine kept_ite ?_ ?_ <;> intro _)
    | simp only [kept_mk]
    | exact fun x => tblSorted_tblSet x
    | exact fun x => tblSorted_tblIns x
    | exact fun x => tblSorted_filter x
    | split

end Sys2Proof.Machine
end

