-- ==== Sys2Proof/Laws/Kept/FieldPlan.lean ====
section
/-! SUPPORT. Sys2Proof/Laws/Kept/FieldPlan.lean: the operations of Machine/FieldPlan.lean keep the queue and the canonical form. -/

namespace Sys2Proof.Machine

open Sys2Proof

variable {kq : List Instr} {kb : Bool}

theorem viaBar0_kept {s : State} {a : Agent} {off : Nat} {go : State → State} (hs : Kept kq kb s) (hgo : ∀ y0, Kept kq kb y0 → Kept kq kb (go y0)) :
    Kept kq kb (viaBar0 s a off go) := by
  unfold viaBar0
  try dsimp only
  repeat' first
    | with_reducible assumption
    | with_reducible apply badAccess_kept
    | with_reducible apply wakeSource_kept
    | with_reducible apply hgo
    | (with_reducible refine kept_ite ?_ ?_ <;> intro _)
    | intro _
    | split

theorem fpEnd_kept {s : State} {st : Status} {at_ : Option (Nat × Nat)} (hs : Kept kq kb s) :
    Kept kq kb (fpEnd s st at_) := by
  unfold fpEnd
  try dsimp only
  repeat' first
    | with_reducible assumption
    | with_reducible apply state_setBits_kept
    | with_reducible apply signalModule_kept
    | (with_reducible refine kept_ite ?_ ?_ <;> intro _)
    | simp only [kept_mk]
    | exact fun x => tblSorted_tblSet x
    | exact fun x => tblSorted_tblIns x
    | exact fun x => tblSorted_filter x

theorem fpBegin_kept {s : State} {op : Nat} {slot : Nat} {go : State → State} (hs : Kept kq kb s) (hgo : ∀ y0, Kept kq kb y0 → Kept kq kb (go y0)) :
    Kept kq kb (fpBegin s op slot go) := by
  unfold fpBegin
  try dsimp only
  repeat' first
    | with_reducible assumption
    | with_reducible apply state_setBits_kept
    | with_reducible apply fpEnd_kept
    | with_reducible apply hgo
    | (with_reducible refine kept_ite ?_ ?_ <;> intro _)
    | simp only [kept_mk]
    | exact fun x => tblSorted_tblSet x
    | exact fun x => tblSorted_tblIns x
    | exact fun x => tblSorted_filter x
    | intro _
    | split

theorem fpRead_kept {op : Nat} {slot : Nat} {s : State} (hs : Kept kq kb s) :
    Kept kq kb (fpRead op slot s) := by
  unfold fpRead
  try dsimp only
  repeat' first
    | with_reducible assumption
    | (with_reducible refine kept_ite ?_ ?_ <;> intro _)
    | simp only [kept_mk]
    | exact fun x => tblSorted_tblSet x
    | exact fun x => tblSorted_tblIns x
    | exact fun x => tblSorted_filter x

theorem fpLoad_kept {s : State} {slot : Nat} (hs : Kept kq kb s) :
    Kept kq kb (fpLoad s slot) := by
  unfold fpLoad
  try dsimp only
  repeat' first
    | with_reducible assumption
    | with_reducible apply fpEnd_kept
    | with_reducible apply fpBegin_kept
    | with_reducible apply fpRead_kept
    | (with_reducible refine kept_ite ?_ ?_ <;> intro _)
    | intro _
    | split

theorem fpPrepare_kept {s : State} {slot : Nat} (hs : Kept kq kb s) :
    Kept kq kb (fpPrepare s slot) := by
  unfold fpPrepare
  try dsimp only
  repeat' first
    | with_reducible assumption
    | with_reducible apply fpEnd_kept
    | with_reducible apply fpBegin_kept
    | with_reducible apply fpRead_kept
    | (with_reducible refine kept_ite ?_ ?_ <;> intro _)
    | intro _
    | split

theorem fpApply_kept {s : State} {slot : Nat} (hs : Kept kq kb s) :
    Kept kq kb (fpApply s slot) := by
  unfold fpApply
  try dsimp only
  repeat' first
    | with_reducible assumption
    | with_reducible apply fpEnd_kept
    | with_reducible apply fpBegin_kept
    | (with_reducible refine kept_ite ?_ ?_ <;> intro _)
    | simp only [kept_mk]
    | exact fun x => tblSorted_tblSet x
    | exact fun x => tblSorted_tblIns x
    | exact fun x => tblSorted_filter x
    | intro _
    | split

theorem applyTimed_kept {s : State} {t : DWord} (hs : Kept kq kb s) :
    Kept kq kb (applyTimed s t) := by
  unfold applyTimed
  try dsimp only
  repeat' first
    | with_reducible assumption
    | (with_reducible refine kept_ite ?_ ?_ <;> intro _)
    | simp only [kept_mk]
    | exact fun x => tblSorted_tblSet x
    | exact fun x => tblSorted_tblIns x
    | exact fun x => tblSorted_filter x

theorem keepClocks_kept {s : State} {old : Option Sections} (hs : Kept kq kb s) :
    Kept kq kb (keepClocks s old) := by
  unfold keepClocks
  try dsimp only
  repeat' first
    | with_reducible assumption
    | (with_reducible refine kept_ite ?_ ?_ <;> intro _)
    | simp only [kept_mk]
    | exact fun x => tblSorted_tblSet x
    | exact fun x => tblSorted_tblIns x
    | exact fun x => tblSorted_filter x
    | with_reducible apply kept_getD
    | intro _
    | split

theorem capAclk_kept {s : State} (hs : Kept kq kb s) :
    Kept kq kb (capAclk s) := by
  unfold capAclk
  try dsimp only
  repeat' first
    | with_reducible assumption
    | with_reducible apply state_reset_kept
    | with_reducible apply kept_foldl
    | (with_reducible refine kept_ite ?_ ?_ <;> intro _)
    | simp only [kept_mk]
    | exact fun x => tblSorted_tblSet x
    | exact fun x => tblSorted_tblIns x
    | exact fun x => tblSorted_filter x
    | intro _
    | split

theorem configSwitched_kept {s : State} {old : Option Sections} (hs : Kept kq kb s) :
    Kept kq kb (configSwitched s old) := by
  unfold configSwitched
  try dsimp only
  repeat' first
    | with_reducible assumption
    | with_reducible apply portsAfterPlan_kept
    | with_reducible apply placeDoubledAll_kept
    | with_reducible apply keepClocks_kept
    | with_reducible apply capAclk_kept
    | (with_reducible refine kept_ite ?_ ?_ <;> intro _)
    | simp only [kept_mk]
    | exact fun x => tblSorted_tblSet x
    | exact fun x => tblSorted_tblIns x
    | exact fun x => tblSorted_filter x
    | split

theorem applyBankSwitch_kept {s : State} (hs : Kept kq kb s) :
    Kept kq kb (applyBankSwitch s) := by
  unfold applyBankSwitch
  try dsimp only
  repeat' first
    | with_reducible assumption
    | with_reducible apply fpEnd_kept
    | with_reducible apply applyTimed_kept
    | with_reducible apply configSwitched_kept
    | (with_reducible refine kept_ite ?_ ?_ <;> intro _)
    | simp only [kept_mk]
    | exact fun x => tblSorted_tblSet x
    | exact fun x => tblSorted_tblIns x
    | exact fun x => tblSorted_filter x
    | split

theorem applyWaitTimeout_kept {s : State} (hs : Kept kq kb s) :
    Kept kq kb (applyWaitTimeout s) := by
  unfold applyWaitTimeout
  try dsimp only
  repeat' first
    | with_reducible assumption
    | with_reducible apply fpEnd_kept
    | with_reducible apply applyTimed_kept
    | (with_reducible refine kept_ite ?_ ?_ <;> intro _)
    | split

theorem applyAckTimeout_kept {s : State} {die : Nat} (hs : Kept kq kb s) :
    Kept kq kb (applyAckTimeout s die) := by
  unfold applyAckTimeout
  try dsimp only
  repeat' first
    | with_reducible assumption
    | with_reducible apply logEntry_kept
    | with_reducible apply fpEnd_kept
    | with_reducible apply applyTimed_kept
    | (with_reducible refine kept_ite ?_ ?_ <;> intro _)
    | split

theorem fpDiscard_kept {s : State} {slot : Nat} (hs : Kept kq kb s) :
    Kept kq kb (fpDiscard s slot) := by
  unfold fpDiscard
  try dsimp only
  repeat' first
    | with_reducible assumption
    | with_reducible apply fpEnd_kept
    | with_reducible apply fpBegin_kept
    | (with_reducible refine kept_ite ?_ ?_ <;> intro _)
    | simp only [kept_mk]
    | exact fun x => tblSorted_tblSet x
    | exact fun x => tblSorted_tblIns x
    | exact fun x => tblSorted_filter x
    | intro _
    | split

theorem fpUnload_kept {s : State} {slot : Nat} (hs : Kept kq kb s) :
    Kept kq kb (fpUnload s slot) := by
  unfold fpUnload
  try dsimp only
  repeat' first
    | with_reducible assumption
    | with_reducible apply fpEnd_kept
    | with_reducible apply fpBegin_kept
    | with_reducible apply configSwitched_kept
    | (with_reducible refine kept_ite ?_ ?_ <;> intro _)
    | simp only [kept_mk]
    | exact fun x => tblSorted_tblSet x
    | exact fun x => tblSorted_tblIns x
    | exact fun x => tblSorted_filter x
    | intro _
    | split

theorem initCarves_kept {s : State} (hs : Kept kq kb s) : Kept kq kb (initCarves s) :=
  ⟨hs.1, fun h => ⟨⟨(hs.2 h).1.1, (hs.2 h).1.2.1, rfl⟩, (hs.2 h).2⟩⟩

theorem loadDone_kept {s : State} {img : PlanImage} (hs : Kept kq kb s) :
    Kept kq kb (loadDone s img) := by
  unfold loadDone
  try dsimp only
  repeat' first
    | with_reducible assumption
    | with_reducible apply configSwitched_kept
    | with_reducible apply initCarves_kept
    | (with_reducible refine kept_ite ?_ ?_ <;> intro _)
    | simp only [kept_mk]
    | exact fun x => tblSorted_tblSet x
    | exact fun x => tblSorted_tblIns x
    | exact fun x => tblSorted_filter x

theorem bootPlanEnds_kept {s : State} {st : Status} (hs : Kept kq kb s) :
    Kept kq kb (bootPlanEnds s st) := by
  unfold bootPlanEnds
  try dsimp only
  repeat' first
    | with_reducible assumption
    | with_reducible apply logEntry_kept
    | (with_reducible refine kept_ite ?_ ?_ <;> intro _)
    | simp only [kept_mk]
    | exact fun x => tblSorted_tblSet x
    | exact fun x => tblSorted_tblIns x
    | exact fun x => tblSorted_filter x
    | split

theorem loadEnded_kept {s : State} {o : FpOp} {st : Status} (hs : Kept kq kb s) :
    Kept kq kb (loadEnded s o st) := by
  unfold loadEnded
  try dsimp only
  repeat' first
    | with_reducible assumption
    | with_reducible apply bootPlanEnds_kept
    | (with_reducible refine kept_ite ?_ ?_ <;> intro _)
    | simp only [kept_mk]
    | exact fun x => tblSorted_tblSet x
    | exact fun x => tblSorted_tblIns x
    | exact fun x => tblSorted_filter x
    | split

theorem fpOperationDone_kept {s : State} (hs : Kept kq kb s) :
    Kept kq kb (fpOperationDone s) := by
  unfold fpOperationDone
  try dsimp only
  repeat' first
    | with_reducible assumption
    | with_reducible apply state_bump_kept
    | with_reducible apply fpEnd_kept
    | with_reducible apply loadDone_kept
    | with_reducible apply loadEnded_kept
    | (with_reducible refine kept_ite ?_ ?_ <;> intro _)
    | simp only [kept_mk]
    | exact fun x => tblSorted_tblSet x
    | exact fun x => tblSorted_tblIns x
    | exact fun x => tblSorted_filter x
    | with_reducible exact fun x => storeOk_mk x
    | split

theorem fpReserved_kept {s : State} {op : Nat} {slot : Nat} (hs : Kept kq kb s) :
    Kept kq kb (fpReserved s op slot) := by
  unfold fpReserved
  try dsimp only
  repeat' first
    | with_reducible assumption
    | with_reducible apply state_setBits_kept
    | with_reducible apply fpEnd_kept
    | (with_reducible refine kept_ite ?_ ?_ <;> intro _)
    | simp only [kept_mk]
    | exact fun x => tblSorted_tblSet x
    | exact fun x => tblSorted_tblIns x
    | exact fun x => tblSorted_filter x
    | split

theorem fpCtrl_kept {s : State} {v : Word} (hs : Kept kq kb s) :
    Kept kq kb (fpCtrl s v) := by
  unfold fpCtrl
  try dsimp only
  repeat' first
    | with_reducible assumption
    | with_reducible apply state_setBits_kept
    | with_reducible apply fpLoad_kept
    | with_reducible apply fpPrepare_kept
    | with_reducible apply fpApply_kept
    | with_reducible apply fpDiscard_kept
    | with_reducible apply fpUnload_kept
    | with_reducible apply fpReserved_kept
    | (with_reducible refine kept_ite ?_ ?_ <;> intro _)
    | split

end Sys2Proof.Machine
end

