-- ==== Sys2Proof/Laws/Kept/Rings.lean ====
section
/-! SUPPORT. Sys2Proof/Laws/Kept/Rings.lean: the operations of Machine/Rings.lean keep the queue and the canonical form. -/

namespace Sys2Proof.Machine

open Sys2Proof

variable {kq : List Instr} {kb : Bool}

theorem viaWindow_kept {s : State} {f : Nat} {off : Nat} {go : Nat → State} (hs : Kept kq kb s) (hgo : ∀ y0, Kept kq kb (go y0)) :
    Kept kq kb (viaWindow s f off go) := by
  unfold viaWindow
  try dsimp only
  repeat' first
    | with_reducible assumption
    | with_reducible apply badAccess_kept
    | with_reducible apply wakeSource_kept
    | with_reducible apply hgo
    | (with_reducible refine kept_ite ?_ ?_ <;> intro _)
    | intro _
    | split

theorem ringErr_kept {s : State} {c : Nat} {n : Nat} {st : Status} (hs : Kept kq kb s) :
    Kept kq kb (ringErr s c n st) := by
  unfold ringErr
  try dsimp only
  repeat' first
    | with_reducible assumption
    | with_reducible apply state_setRing_kept
    | (with_reducible refine kept_ite ?_ ?_ <;> intro _)
    | simp only [kept_mk]
    | exact fun x => tblSorted_tblSet x
    | exact fun x => tblSorted_tblIns x
    | exact fun x => tblSorted_filter x

theorem allocArea_kept {s : State} {c addr len : Nat} (hs : Kept kq kb s) : KeptO kq kb (allocArea s c addr len) := by
  unfold allocArea
  split
  · split
    · next h => exact keptO_some (allocGrans_kept hs h)
    · exact keptO_none
  · exact keptO_none

theorem enableChecks_kept {s : State} {c n : Nat} (hs : Kept kq kb s) : KeptS kq kb (enableChecks s c n) := by
  unfold enableChecks
  repeat' split
  all_goals first
    | exact keptS_inr
    | exact keptS_inl hs
    | (next h =>
        obtain ⟨u, hu, h⟩ := Option.bind_eq_some_iff.1 h
        exact keptS_inl (allocArea_kept (allocArea_kept hs u hu) _ h))

theorem ringEnable_kept {s : State} {c : Nat} {n : Nat} (hs : Kept kq kb s) :
    Kept kq kb (ringEnable s c n) := by
  unfold ringEnable
  try dsimp only
  repeat' first
    | with_reducible assumption
    | with_reducible apply state_setRing_kept
    | with_reducible apply ringErr_kept
    | with_reducible apply enableChecks_kept
    | (refine enableChecks_kept ?_ _ (by with_reducible assumption))
    | (refine enableChecks_kept ?_ _ (by with_reducible assumption))
    | (with_reducible refine kept_ite ?_ ?_ <;> intro _)
    | simp only [kept_mk]
    | exact fun x => tblSorted_tblSet x
    | exact fun x => tblSorted_tblIns x
    | exact fun x => tblSorted_filter x
    | split

theorem ringResume_kept {s : State} {c : Nat} {n : Nat} (hs : Kept kq kb s) :
    Kept kq kb (ringResume s c n) := by
  unfold ringResume
  try dsimp only
  repeat' first
    | with_reducible assumption
    | with_reducible apply state_setRing_kept
    | with_reducible apply ringErr_kept
    | (with_reducible refine kept_ite ?_ ?_ <;> intro _)
    | simp only [kept_mk]
    | exact fun x => tblSorted_tblSet x
    | exact fun x => tblSorted_tblIns x
    | exact fun x => tblSorted_filter x
    | split

theorem ringFlush_kept {s : State} {c : Nat} {n : Nat} (hs : Kept kq kb s) :
    Kept kq kb (ringFlush s c n) := by
  unfold ringFlush
  try dsimp only
  repeat' first
    | with_reducible assumption
    | with_reducible apply state_setRing_kept
    | with_reducible apply killRing_kept
    | with_reducible apply flushEnd_kept
    | with_reducible apply ringErr_kept
    | (with_reducible refine kept_ite ?_ ?_ <;> intro _)
    | simp only [kept_mk]
    | exact fun x => tblSorted_tblSet x
    | exact fun x => tblSorted_tblIns x
    | exact fun x => tblSorted_filter x
    | split

theorem ringDisable_kept {s : State} {c : Nat} {n : Nat} (hs : Kept kq kb s) :
    Kept kq kb (ringDisable s c n) := by
  unfold ringDisable
  try dsimp only
  repeat' first
    | with_reducible assumption
    | with_reducible apply state_setRing_kept
    | with_reducible apply killRing_kept
    | with_reducible apply ringErr_kept
    | (with_reducible refine kept_ite ?_ ?_ <;> intro _)
    | simp only [kept_mk]
    | exact fun x => tblSorted_tblSet x
    | exact fun x => tblSorted_tblIns x
    | exact fun x => tblSorted_filter x
    | split

theorem flushComplete_kept {s : State} {c : Nat} {n : Nat} (hs : Kept kq kb s) :
    Kept kq kb (flushComplete s c n) := by
  unfold flushComplete
  try dsimp only
  repeat' first
    | with_reducible assumption
    | with_reducible apply flushEnd_kept
    | (with_reducible refine kept_ite ?_ ?_ <;> intro _)
    | split

theorem ringCtrl_kept {s : State} {c : Nat} {n : Nat} {v : Word} (hs : Kept kq kb s) :
    Kept kq kb (ringCtrl s c n v) := by
  unfold ringCtrl
  try dsimp only
  repeat' first
    | with_reducible assumption
    | with_reducible apply ringErr_kept
    | with_reducible apply ringEnable_kept
    | with_reducible apply ringResume_kept
    | with_reducible apply ringFlush_kept
    | with_reducible apply ringDisable_kept
    | (with_reducible refine kept_ite ?_ ?_ <;> intro _)
    | split

theorem ringCfgWrite_kept {s : State} {c : Nat} {n : Nat} {off : Nat} {v : Word} (hs : Kept kq kb s) :
    Kept kq kb (ringCfgWrite s c n off v) := by
  unfold ringCfgWrite
  try dsimp only
  repeat' first
    | with_reducible assumption
    | with_reducible apply state_setReg_kept
    | with_reducible apply ringErr_kept
    | (with_reducible refine kept_ite ?_ ?_ <;> intro _)
    | split

theorem ringDoorbell_kept {s : State} {c : Nat} {n : Nat} {v : Word} (hs : Kept kq kb s) :
    Kept kq kb (ringDoorbell s c n v) := by
  unfold ringDoorbell
  try dsimp only
  repeat' first
    | with_reducible assumption
    | with_reducible apply state_setRing_kept
    | with_reducible apply state_bump16_kept
    | with_reducible apply wakeSource_kept
    | (with_reducible refine kept_ite ?_ ?_ <;> intro _)
    | simp only [kept_mk]
    | exact fun x => tblSorted_tblSet x
    | exact fun x => tblSorted_tblIns x
    | exact fun x => tblSorted_filter x
    | split

theorem doorbellUnit_kept {s : State} {f : Nat} {page : Nat} {off : Nat} {v : Word} (hs : Kept kq kb s) :
    Kept kq kb (doorbellUnit s f page off v) := by
  unfold doorbellUnit
  try dsimp only
  repeat' first
    | with_reducible assumption
    | with_reducible apply state_bump16_kept
    | with_reducible apply ringDoorbell_kept
    | (with_reducible refine kept_ite ?_ ?_ <;> intro _)
    | split

theorem viaBar4_kept {s : State} {f : Nat} {off : Nat} {go : State} (hs : Kept kq kb s) (hgo : Kept kq kb go) :
    Kept kq kb (viaBar4 s f off go) := by
  unfold viaBar4
  try dsimp only
  repeat' first
    | with_reducible assumption
    | with_reducible apply badAccess_kept
    | with_reducible apply wakeSource_kept
    | (with_reducible refine kept_ite ?_ ?_ <;> intro _)
    | split

theorem doorbell_kept {s : State} {f : Nat} {page : Nat} {ring : Nat} {v : Word} (hs : Kept kq kb s) :
    Kept kq kb (doorbell s f page ring v) := by
  unfold doorbell
  try dsimp only
  repeat' first
    | with_reducible assumption
    | with_reducible apply doorbellUnit_kept
    | with_reducible apply viaBar4_kept
    | (with_reducible refine kept_ite ?_ ?_ <;> intro _)

theorem bar4Unit_kept {s : State} {f : Nat} {u : Nat × Option Word} (hs : Kept kq kb s) :
    Kept kq kb (bar4Unit s f u) := by
  unfold bar4Unit
  try dsimp only
  repeat' first
    | with_reducible assumption
    | with_reducible apply state_bump16_kept
    | with_reducible apply doorbellUnit_kept
    | (with_reducible refine kept_ite ?_ ?_ <;> intro _)
    | split

theorem doorbellPageWrite_kept {s : State} {f : Nat} {off : Nat} {data : List Byte} (hs : Kept kq kb s) :
    Kept kq kb (doorbellPageWrite s f off data) := by
  unfold doorbellPageWrite
  try dsimp only
  repeat' first
    | with_reducible assumption
    | with_reducible apply viaBar4_kept
    | with_reducible apply bar4Unit_kept
    | with_reducible apply kept_foldl
    | (with_reducible refine kept_ite ?_ ?_ <;> intro _)
    | intro _

theorem evcAdd_kept {s : State} {c : Nat} {k : Nat} {inc : Nat} (hs : Kept kq kb s) :
    Kept kq kb (evcAdd s c k inc) := by
  unfold evcAdd
  try dsimp only
  repeat' first
    | with_reducible assumption
    | with_reducible apply evcInc_kept
    | (with_reducible refine kept_ite ?_ ?_ <;> intro _)
    | split

end Sys2Proof.Machine
end

