-- ==== Sys2Proof/Laws/Kept/Contexts.lean ====
section
/-! SUPPORT. Sys2Proof/Laws/Kept/Contexts.lean: the operations of Machine/Contexts.lean keep the queue and the canonical form. -/

namespace Sys2Proof.Machine

open Sys2Proof

variable {kq : List Instr} {kb : Bool}

theorem ctxErr_kept {s : State} {c : Nat} {st : Status} (hs : Kept kq kb s) :
    Kept kq kb (ctxErr s c st) := by
  unfold ctxErr
  try dsimp only
  repeat' first
    | with_reducible assumption
    | with_reducible apply state_setCtx_kept
    | (with_reducible refine kept_ite ?_ ?_ <;> intro _)
    | simp only [kept_mk]
    | exact fun x => tblSorted_tblSet x
    | exact fun x => tblSorted_tblIns x
    | exact fun x => tblSorted_filter x

theorem zeroCounters_kept {s : State} {c : Nat} (hs : Kept kq kb s) :
    Kept kq kb (zeroCounters s c) := by
  unfold zeroCounters
  try dsimp only
  repeat' first
    | with_reducible assumption
    | (with_reducible refine kept_ite ?_ ?_ <;> intro _)
    | simp only [kept_mk]
    | simp only [kept_mk_evc]
    | with_reducible apply keptEvc
    | exact fun x => tblSorted_tblSet x
    | exact fun x => tblSorted_tblIns x
    | exact fun x => tblSorted_filter x
    | intro _

theorem zeroRings_kept {s : State} {c : Nat} (hs : Kept kq kb s) :
    Kept kq kb (zeroRings s c) := by
  unfold zeroRings
  try dsimp only
  repeat' first
    | with_reducible assumption
    | (with_reducible refine kept_ite ?_ ?_ <;> intro _)
    | simp only [kept_mk]
    | simp only [kept_mk_rings]
    | with_reducible apply keptRings
    | exact fun x => tblSorted_tblSet x
    | exact fun x => tblSorted_tblIns x
    | exact fun x => tblSorted_filter x
    | intro _

theorem ctxCreate_kept {s : State} {f : Nat} {c : Nat} (hs : Kept kq kb s) :
    Kept kq kb (ctxCreate s f c) := by
  unfold ctxCreate
  try dsimp only
  repeat' first
    | with_reducible assumption
    | with_reducible apply state_reset_kept
    | with_reducible apply state_setCtx_kept
    | with_reducible apply state_draw_kept
    | with_reducible apply state_setReg_kept
    | with_reducible apply ctxErr_kept
    | with_reducible apply zeroCounters_kept
    | with_reducible apply zeroRings_kept
    | (with_reducible refine kept_ite ?_ ?_ <;> intro _)
    | simp only [kept_mk]
    | exact fun x => tblSorted_tblSet x
    | exact fun x => tblSorted_tblIns x
    | exact fun x => tblSorted_filter x
    | split

theorem cancelRing_kept {s : State} {c : Nat} {n : Nat} (hs : Kept kq kb s) :
    Kept kq kb (cancelRing s c n) := by
  unfold cancelRing
  try dsimp only
  repeat' first
    | with_reducible assumption
    | with_reducible apply state_setRing_kept
    | with_reducible apply takeItems_kept
    | with_reducible apply cancelOpen_kept
    | (with_reducible refine kept_ite ?_ ?_ <;> intro _)
    | simp only [kept_mk]
    | exact fun x => tblSorted_tblSet x
    | exact fun x => tblSorted_tblIns x
    | exact fun x => tblSorted_filter x

theorem cancelRings_kept {s : State} {c : Nat} (hs : Kept kq kb s) :
    Kept kq kb (cancelRings s c) := by
  unfold cancelRings
  try dsimp only
  repeat' first
    | with_reducible assumption
    | with_reducible apply cancelRing_kept
    | with_reducible apply kept_foldl
    | (with_reducible refine kept_ite ?_ ?_ <;> intro _)
    | intro _

theorem dropSets_kept {s : State} {c : Nat} (hs : Kept kq kb s) :
    Kept kq kb (dropSets s c) := by
  unfold dropSets
  try dsimp only
  repeat' first
    | with_reducible assumption
    | (with_reducible refine kept_ite ?_ ?_ <;> intro _)
    | simp only [kept_mk]
    | exact fun x => tblSorted_tblSet x
    | exact fun x => tblSorted_tblIns x
    | exact fun x => tblSorted_filter x
    | (with_reducible refine Kept.setCom ?_ ?_)
    | with_reducible exact fun x => storeOk_mk x
    | intro _

theorem ctxDestroy_kept {s : State} {c : Nat} (hs : Kept kq kb s) :
    Kept kq kb (ctxDestroy s c) := by
  unfold ctxDestroy
  try dsimp only
  repeat' first
    | with_reducible assumption
    | with_reducible apply state_setCtx_kept
    | with_reducible apply killCtx_kept
    | with_reducible apply breakLatches_kept
    | with_reducible apply ctxErr_kept
    | with_reducible apply cancelRings_kept
    | with_reducible apply dropSets_kept
    | (with_reducible refine kept_ite ?_ ?_ <;> intro _)
    | simp only [kept_mk]
    | exact fun x => tblSorted_tblSet x
    | exact fun x => tblSorted_tblIns x
    | exact fun x => tblSorted_filter x
    | split

theorem ctxReset_kept {s : State} {c : Nat} (hs : Kept kq kb s) :
    Kept kq kb (ctxReset s c) := by
  unfold ctxReset
  try dsimp only
  repeat' first
    | with_reducible assumption
    | with_reducible apply state_setCtx_kept
    | with_reducible apply killCtx_kept
    | with_reducible apply ctxErr_kept
    | (with_reducible refine kept_ite ?_ ?_ <;> intro _)
    | simp only [kept_mk]
    | exact fun x => tblSorted_tblSet x
    | exact fun x => tblSorted_tblIns x
    | exact fun x => tblSorted_filter x
    | split

theorem advanceEpochs_kept {s : State} {c : Nat} (hs : Kept kq kb s) :
    Kept kq kb (advanceEpochs s c) := by
  unfold advanceEpochs
  try dsimp only
  repeat' first
    | with_reducible assumption
    | with_reducible apply state_setRing_kept
    | with_reducible apply kept_foldl
    | (with_reducible refine kept_ite ?_ ?_ <;> intro _)
    | simp only [kept_mk]
    | exact fun x => tblSorted_tblSet x
    | exact fun x => tblSorted_tblIns x
    | exact fun x => tblSorted_filter x
    | intro _

theorem resetComplete_kept {s : State} {c : Nat} (hs : Kept kq kb s) :
    Kept kq kb (resetComplete s c) := by
  unfold resetComplete
  try dsimp only
  repeat' first
    | with_reducible assumption
    | with_reducible apply state_setCtx_kept
    | with_reducible apply state_setReg_kept
    | with_reducible apply breakLatches_kept
    | with_reducible apply zeroCounters_kept
    | with_reducible apply cancelRings_kept
    | with_reducible apply advanceEpochs_kept
    | (with_reducible refine kept_ite ?_ ?_ <;> intro _)
    | simp only [kept_mk]
    | exact fun x => tblSorted_tblSet x
    | exact fun x => tblSorted_tblIns x
    | exact fun x => tblSorted_filter x
    | (with_reducible refine Kept.setCom ?_ ?_)
    | split

theorem redoRecords_kept {s : State} {c : Nat} {n : Nat} (hs : Kept kq kb s) :
    Kept kq kb (redoRecords s c n) := by
  unfold redoRecords
  try dsimp only
  repeat' first
    | with_reducible assumption
    | with_reducible apply state_setCmd_kept
    | with_reducible apply areaBreach_kept
    | with_reducible apply ringArea_kept
    | with_reducible apply areaWrite_kept
    | with_reducible apply writeFinal_kept
    | (refine ringArea_kept ?_ _ (by with_reducible assumption))
    | (refine ringArea_kept ?_ _ (by with_reducible assumption))
    | with_reducible apply kept_foldl
    | (with_reducible refine kept_ite ?_ ?_ <;> intro _)
    | simp only [kept_mk]
    | exact fun x => tblSorted_tblSet x
    | exact fun x => tblSorted_tblIns x
    | exact fun x => tblSorted_filter x
    | intro _
    | split

theorem thawRing_kept {s : State} {c : Nat} {n : Nat} (hs : Kept kq kb s) :
    Kept kq kb (thawRing s c n) := by
  unfold thawRing
  try dsimp only
  repeat' first
    | with_reducible assumption
    | with_reducible apply state_setRing_kept
    | (with_reducible refine kept_ite ?_ ?_ <;> intro _)
    | simp only [kept_mk]
    | exact fun x => tblSorted_tblSet x
    | exact fun x => tblSorted_tblIns x
    | exact fun x => tblSorted_filter x
    | split

theorem ctxThaw_kept {s : State} {c : Nat} (hs : Kept kq kb s) :
    Kept kq kb (ctxThaw s c) := by
  unfold ctxThaw
  try dsimp only
  repeat' first
    | with_reducible assumption
    | with_reducible apply state_setCtx_kept
    | with_reducible apply haltRule_kept
    | with_reducible apply ctxErr_kept
    | with_reducible apply redoRecords_kept
    | with_reducible apply thawRing_kept
    | with_reducible apply kept_foldl
    | (with_reducible refine kept_ite ?_ ?_ <;> intro _)
    | simp only [kept_mk]
    | exact fun x => tblSorted_tblSet x
    | exact fun x => tblSorted_tblIns x
    | exact fun x => tblSorted_filter x
    | intro _
    | split

theorem freezeComplete_kept {s : State} {c : Nat} (hs : Kept kq kb s) :
    Kept kq kb (freezeComplete s c) := by
  unfold freezeComplete
  try dsimp only
  repeat' first
    | with_reducible assumption
    | with_reducible apply state_setCtx_kept
    | with_reducible apply signalCtxVector_kept
    | with_reducible apply finishRecord_kept
    | (with_reducible refine kept_ite ?_ ?_ <;> intro _)
    | simp only [kept_mk]
    | exact fun x => tblSorted_tblSet x
    | exact fun x => tblSorted_tblIns x
    | exact fun x => tblSorted_filter x
    | split

theorem ctxCtrl_kept {s : State} {f : Nat} {c : Nat} {v : Word} (hs : Kept kq kb s) :
    Kept kq kb (ctxCtrl s f c v) := by
  unfold ctxCtrl
  try dsimp only
  repeat' first
    | with_reducible assumption
    | with_reducible apply ctxErr_kept
    | with_reducible apply ctxCreate_kept
    | with_reducible apply ctxDestroy_kept
    | with_reducible apply ctxReset_kept
    | with_reducible apply ctxThaw_kept
    | (with_reducible refine kept_ite ?_ ?_ <;> intro _)
    | split

theorem ctxCfgWrite_kept {s : State} {c : Nat} {off : Nat} {mask : Nat} {v : Word} (hs : Kept kq kb s) :
    Kept kq kb (ctxCfgWrite s c off mask v) := by
  unfold ctxCfgWrite
  try dsimp only
  repeat' first
    | with_reducible assumption
    | with_reducible apply state_setReg_kept
    | with_reducible apply ctxErr_kept
    | (with_reducible refine kept_ite ?_ ?_ <;> intro _)
    | split

theorem ctxWeightWrite_kept {s : State} {c : Nat} {v : Word} (hs : Kept kq kb s) :
    Kept kq kb (ctxWeightWrite s c v) := by
  unfold ctxWeightWrite
  try dsimp only
  repeat' first
    | with_reducible assumption
    | with_reducible apply state_setReg_kept
    | with_reducible apply ctxErr_kept
    | (with_reducible refine kept_ite ?_ ?_ <;> intro _)
    | split

theorem fnRangeWrite_kept {s : State} {f : Nat} {latches : Bool} {v : Word} (hs : Kept kq kb s) :
    Kept kq kb (fnRangeWrite s f latches v) := by
  unfold fnRangeWrite
  try dsimp only
  repeat' first
    | with_reducible assumption
    | with_reducible apply state_setReg_kept
    | with_reducible apply state_setBits_kept
    | (with_reducible refine kept_ite ?_ ?_ <;> intro _)
    | intro _
    | split

theorem idleAdjust_kept {s : State} {c : Nat} {cls : Nat} (hs : Kept kq kb s) :
    Kept kq kb (idleAdjust s c cls) := by
  unfold idleAdjust
  try dsimp only
  repeat' first
    | with_reducible assumption
    | with_reducible apply state_setCtx_kept
    | (with_reducible refine kept_ite ?_ ?_ <;> intro _)
    | simp only [kept_mk]
    | exact fun x => tblSorted_tblSet x
    | exact fun x => tblSorted_tblIns x
    | exact fun x => tblSorted_filter x
    | split

theorem vtIdleAdjust_kept {s : State} (hs : Kept kq kb s) :
    Kept kq kb (vtIdleAdjust s) := by
  unfold vtIdleAdjust
  try dsimp only
  repeat' first
    | with_reducible assumption
    | with_reducible apply idleAdjust_kept
    | with_reducible apply kept_foldl
    | (with_reducible refine kept_ite ?_ ?_ <;> intro _)
    | intro _

theorem preemptionCheck_kept {s : State} (hs : Kept kq kb s) :
    Kept kq kb (preemptionCheck s) := by
  unfold preemptionCheck
  try dsimp only
  repeat' first
    | with_reducible assumption
    | with_reducible apply killCmd_kept
    | with_reducible apply kept_foldl
    | (with_reducible refine kept_ite ?_ ?_ <;> intro _)
    | intro _
    | split

theorem energyReconcile_kept {s : State} {rails : List Nat} (hs : Kept kq kb s) :
    Kept kq kb (energyReconcile s rails) := by
  unfold energyReconcile
  try dsimp only
  repeat' first
    | with_reducible assumption
    | with_reducible apply state_setCtx_kept
    | with_reducible apply state_bump_kept
    | with_reducible apply kept_foldl
    | (with_reducible refine kept_ite ?_ ?_ <;> intro _)
    | simp only [kept_mk]
    | exact fun x => tblSorted_tblSet x
    | exact fun x => tblSorted_tblIns x
    | exact fun x => tblSorted_filter x
    | intro _
    | split

end Sys2Proof.Machine
end

