-- ==== Sys2Proof/Laws/Kept/Move.lean ====
section
/-! SUPPORT. Sys2Proof/Laws/Kept/Move.lean: the operations of Machine/Move.lean keep the queue and the canonical form. -/

namespace Sys2Proof.Machine

open Sys2Proof

variable {kq : List Instr} {kb : Bool}

theorem issueAll_kept {kind : FarKind} {r : CmdRef} {l : List FarPacket} {s : State} (hs : Kept kq kb s) :
    KeptO kq kb (issueAll kind r l s) := by
  induction l generalizing s with
  | nil => exact keptO_some hs
  | cons k l ih => exact keptO_bind (issueReq_kept hs) fun _ h => ih h

end Sys2Proof.Machine
end

