-- ==== Sys2Proof/Laws/Kept/Sample.lean ====
section
/-! SUPPORT. Sys2Proof/Laws/Kept/Sample.lean: the operations of Machine/Sample.lean keep the queue and the canonical form. -/

namespace Sys2Proof.Machine

open Sys2Proof

variable {kq : List Instr} {kb : Bool}

theorem copyPosition_kept {s : State} {slot : Nat} {from_ : Nat} {to_ : Nat} (hs : Kept kq kb s) :
    Kept kq kb (copyPosition s slot from_ to_) := by
  unfold copyPosition
  try dsimp only
  repeat' first
    | with_reducible assumption
    | with_reducible apply kept_foldl
    | (with_reducible refine kept_ite ?_ ?_ <;> intro _)
    | simp only [kept_mk]
    | exact fun h => ⟨h.1, h.2.1, memClear_wf h.2.2⟩
    | exact fun h => ⟨h.1, h.2.1, memWrite_wf (memWrite_wf h.2.2)⟩
    | exact fun h => ⟨h.1, memWrite_wf h.2.1, h.2.2⟩
    | exact fun h => ⟨memWrite_wf h.1, h.2⟩
    | exact fun h => putBytes_ok h
    | exact fun x => tblSorted_tblSet x
    | exact fun x => tblSorted_tblIns x
    | exact fun x => tblSorted_filter x
    | simp only [kept_mk_com]
    | with_reducible apply keptCom
    | with_reducible exact fun x => storeOk_mk x
    | intro _
    | split

theorem applyDraft_kept {s : State} {c : Nat} {x : VerifyFx} (hs : Kept kq kb s) :
    Kept kq kb (applyDraft s c x) := by
  unfold applyDraft
  try dsimp only
  repeat' first
    | with_reducible assumption
    | with_reducible apply seqRollBackFx_kept
    | with_reducible apply seqAcceptFx_kept
    | (with_reducible refine kept_ite ?_ ?_ <;> intro _)
    | with_reducible exact fun x => storeOk_mk x
    | split

theorem verifyFx_kept {s : State} {c : Nat} {x : VerifyFx} (hs : Kept kq kb s) :
    Kept kq kb (verifyFx s c x) := by
  unfold verifyFx
  try dsimp only
  repeat' first
    | with_reducible assumption
    | with_reducible apply state_bump_kept
    | with_reducible apply putBytes_kept
    | with_reducible apply state_setSeq_kept
    | with_reducible apply seqRollBackFx_kept
    | with_reducible apply seqAcceptFx_kept
    | with_reducible apply copyPosition_kept
    | with_reducible apply applyDraft_kept
    | with_reducible apply kept_foldl
    | (with_reducible refine kept_ite ?_ ?_ <;> intro _)
    | simp only [kept_mk]
    | exact fun h => ⟨h.1, h.2.1, memClear_wf h.2.2⟩
    | exact fun h => ⟨h.1, h.2.1, memWrite_wf (memWrite_wf h.2.2)⟩
    | exact fun h => ⟨h.1, memWrite_wf h.2.1, h.2.2⟩
    | exact fun h => ⟨memWrite_wf h.1, h.2⟩
    | exact fun h => putBytes_ok h
    | exact fun x => tblSorted_tblSet x
    | exact fun x => tblSorted_tblIns x
    | exact fun x => tblSorted_filter x
    | simp only [kept_mk_com]
    | with_reducible apply keptCom
    | with_reducible exact fun x => storeOk_mk x
    | intro _
    | split

end Sys2Proof.Machine
end

