-- ==== Sys2Proof/Laws/Kept/Staging.lean ====
section
/-! SUPPORT. Sys2Proof/Laws/Kept/Staging.lean: the operations of Machine/Staging.lean keep the queue and the canonical form. -/

namespace Sys2Proof.Machine

open Sys2Proof

variable {kq : List Instr} {kb : Bool}

theorem repackGran_kept {s : State} {k : Nat} (hs : Kept kq kb s) :
    Kept kq kb (repackGran s k) := by
  unfold repackGran
  try dsimp only
  repeat' first
    | with_reducible assumption
    | with_reducible apply state_setGran_kept
    | (with_reducible refine kept_ite ?_ ?_ <;> intro _)
    | simp only [kept_mk]
    | exact fun x => tblSorted_tblSet x
    | exact fun x => tblSorted_tblIns x
    | exact fun x => tblSorted_filter x
    | with_reducible exact fun x => storeOk_mk x
    | split

theorem copyToReplica_kept {s : State} {k : Nat} {whole : List Nat} (hs : Kept kq kb s) : Kept kq kb (copyToReplica s k whole) :=
  ⟨hs.1, fun h => ⟨(hs.2 h).1, memCopy_wf (hs.2 h).2.1, (hs.2 h).2.2⟩⟩

theorem renewReplica_kept {whole : List Nat} {k : Nat} {s : State} (hs : Kept kq kb s) : KeptO kq kb (renewReplica whole k s) := by
  unfold renewReplica
  dsimp only
  repeat' split
  all_goals first
    | exact keptO_none
    | exact keptO_some hs
    | exact keptO_some (copyToReplica_kept hs)
    | exact keptO_some (state_setGran_kept (copyToReplica_kept hs))

theorem renewReplicas_kept {whole : List Nat} {l : List Nat} {s : State} (hs : Kept kq kb s) :
    KeptO kq kb (renewReplicas whole l s) := by
  induction l generalizing s with
  | nil => exact keptO_some hs
  | cons k l ih => exact keptO_bind (renewReplica_kept hs) fun _ h => ih h

theorem digestUnits_kept {s : State} {c : Nat} {us : List Nat} (hs : Kept kq kb s) :
    Kept kq kb (digestUnits s c us) := by
  unfold digestUnits
  try dsimp only
  repeat' first
    | with_reducible assumption
    | with_reducible apply state_setCtx_kept
    | with_reducible apply kept_foldl
    | (with_reducible refine kept_ite ?_ ?_ <;> intro _)
    | simp only [kept_mk]
    | exact fun x => tblSorted_tblSet x
    | exact fun x => tblSorted_tblIns x
    | exact fun x => tblSorted_filter x
    | with_reducible exact fun x => storeOk_mk x
    | intro _
    | split

theorem putObjects_kept {s : State} {ws : List (Nat × List Byte)} (hs : Kept kq kb s) : Kept kq kb (putObjects s ws) :=
  kept_foldl _ ((kept_foldl _ hs fun _ _ h => abandonMigration_kept h).com foldl_putBytes_ok) fun _ _ h => repackGran_kept h

theorem restartMigrations_kept {s : State} {ms : List (Nat × Migration)} (hs : Kept kq kb s) :
    Kept kq kb (restartMigrations s ms) := by
  unfold restartMigrations
  try dsimp only
  repeat' first
    | with_reducible assumption
    | with_reducible apply restartMigration_kept
    | with_reducible apply kept_foldl
    | (with_reducible refine kept_ite ?_ ?_ <;> intro _)
    | intro _

theorem commitObjects_kept {s : State} {ws : List (Nat × List Byte)} (hs : Kept kq kb s) : KeptO kq kb (commitObjects s ws) :=
  keptO_map fun t h => restartMigrations_kept (renewReplicas_kept (putObjects_kept hs) t h)

theorem startRepair_kept {s : State} {k : Nat} {u : Nat} (hs : Kept kq kb s) :
    Kept kq kb (startRepair s k u) := by
  unfold startRepair
  try dsimp only
  repeat' first
    | with_reducible assumption
    | with_reducible apply logEntry_kept
    | with_reducible apply state_setGran_kept
    | with_reducible apply abandonMigration_kept
    | (with_reducible refine kept_ite ?_ ?_ <;> intro _)
    | simp only [kept_mk]
    | exact fun x => tblSorted_tblSet x
    | exact fun x => tblSorted_tblIns x
    | exact fun x => tblSorted_filter x
    | split

theorem consumePoison_kept {s : State} {us : List Nat} {clean : Bool} (hs : Kept kq kb s) : Kept kq kb (consumePoison s us clean).1 := by
  unfold consumePoison
  split
  · exact (state_bump_kept hs).com storeOk_mk
  · split
    · exact kept_foldl _ hs fun _ _ h => startRepair_kept h
    · exact hs

end Sys2Proof.Machine
end

