-- ==== Sys2Proof/Laws/Kept/Far.lean ====
section
/-! SUPPORT. Sys2Proof/Laws/Kept/Far.lean: the operations of Machine/Far.lean keep the queue and the canonical form. -/

namespace Sys2Proof.Machine

open Sys2Proof

variable {kq : List Instr} {kb : Bool}

theorem farErr_kept {s : State} {c : Nat} {st : Status} (hs : Kept kq kb s) :
    Kept kq kb (farErr s c st) := by
  unfold farErr
  try dsimp only
  repeat' first
    | with_reducible assumption
    | with_reducible apply state_setCtx_kept
    | (with_reducible refine kept_ite ?_ ?_ <;> intro _)
    | simp only [kept_mk]
    | exact fun x => tblSorted_tblSet x
    | exact fun x => tblSorted_tblIns x
    | exact fun x => tblSorted_filter x

theorem farOp_kept {s : State} {c : Nat} {go : State → State} (hs : Kept kq kb s) (hgo : ∀ y0, Kept kq kb y0 → Kept kq kb (go y0)) :
    Kept kq kb (farOp s c go) := by
  unfold farOp
  try dsimp only
  repeat' first
    | with_reducible assumption
    | with_reducible apply farErr_kept
    | with_reducible apply hgo
    | (with_reducible refine kept_ite ?_ ?_ <;> intro _)
    | intro _
    | split

theorem farExport_kept {s : State} {c : Nat} (hs : Kept kq kb s) :
    Kept kq kb (farExport s c) := by
  unfold farExport
  try dsimp only
  repeat' first
    | with_reducible assumption
    | with_reducible apply state_setFab_kept
    | with_reducible apply farErr_kept
    | with_reducible apply farOp_kept
    | (with_reducible refine kept_ite ?_ ?_ <;> intro _)
    | simp only [kept_mk]
    | exact fun x => tblSorted_tblSet x
    | exact fun x => tblSorted_tblIns x
    | exact fun x => tblSorted_filter x
    | intro _
    | split

theorem dropExports_kept {s : State} {p : Export → Bool} (hs : Kept kq kb s) :
    Kept kq kb (dropExports s p) := by
  unfold dropExports
  try dsimp only
  repeat' first
    | with_reducible assumption
    | with_reducible apply state_setFab_kept
    | (with_reducible refine kept_ite ?_ ?_ <;> intro _)
    | simp only [kept_mk]
    | exact fun x => tblSorted_tblSet x
    | exact fun x => tblSorted_tblIns x
    | exact fun x => tblSorted_filter x
    | intro _

theorem farUnexport_kept {s : State} {c : Nat} (hs : Kept kq kb s) :
    Kept kq kb (farUnexport s c) := by
  unfold farUnexport
  try dsimp only
  repeat' first
    | with_reducible assumption
    | with_reducible apply state_setFab_kept
    | with_reducible apply farErr_kept
    | with_reducible apply farOp_kept
    | (with_reducible refine kept_ite ?_ ?_ <;> intro _)
    | simp only [kept_mk]
    | exact fun x => tblSorted_tblSet x
    | exact fun x => tblSorted_tblIns x
    | exact fun x => tblSorted_filter x
    | intro _
    | split

theorem farBind_kept {s : State} {c : Nat} (hs : Kept kq kb s) :
    Kept kq kb (farBind s c) := by
  unfold farBind
  try dsimp only
  repeat' first
    | with_reducible assumption
    | with_reducible apply state_setCtx_kept
    | with_reducible apply state_bump_kept
    | with_reducible apply issueReq_kept
    | with_reducible apply farErr_kept
    | with_reducible apply farOp_kept
    | (refine issueReq_kept ?_ _ (by with_reducible assumption))
    | (refine issueReq_kept ?_ _ (by with_reducible assumption))
    | (with_reducible refine kept_ite ?_ ?_ <;> intro _)
    | simp only [kept_mk]
    | exact fun x => tblSorted_tblSet x
    | exact fun x => tblSorted_tblIns x
    | exact fun x => tblSorted_filter x
    | with_reducible exact fun x => storeOk_mk x
    | intro _
    | split

theorem ifMine_kept {s : State} {k : FarPacket} {t : Nat} {go : State} (hs : Kept kq kb s) (hgo : Kept kq kb go) :
    Kept kq kb (ifMine s k t go) := by
  unfold ifMine
  try dsimp only
  repeat' first
    | with_reducible assumption
    | with_reducible apply sendOrDrop_kept
    | with_reducible apply wakeSource_kept
    | (with_reducible refine kept_ite ?_ ?_ <;> intro _)
    | split

theorem bindQuery_kept {s : State} {k : FarPacket} (hs : Kept kq kb s) :
    Kept kq kb (bindQuery s k) := by
  unfold bindQuery
  try dsimp only
  repeat' first
    | with_reducible assumption
    | with_reducible apply state_bump_kept
    | with_reducible apply state_setFab_kept
    | with_reducible apply ifMine_kept
    | (with_reducible refine kept_ite ?_ ?_ <;> intro _)
    | simp only [kept_mk]
    | exact fun x => tblSorted_tblSet x
    | exact fun x => tblSorted_tblIns x
    | exact fun x => tblSorted_filter x
    | split

theorem dropReq_kept {s : State} {xid : Nat} (hs : Kept kq kb s) :
    Kept kq kb (dropReq s xid) := by
  unfold dropReq
  try dsimp only
  repeat' first
    | with_reducible assumption
    | with_reducible apply state_setFab_kept
    | (with_reducible refine kept_ite ?_ ?_ <;> intro _)
    | simp only [kept_mk]
    | exact fun x => tblSorted_tblSet x
    | exact fun x => tblSorted_tblIns x
    | exact fun x => tblSorted_filter x

theorem bindEnds_kept {s : State} {c : Nat} {st : Status} (hs : Kept kq kb s) :
    Kept kq kb (bindEnds s c st) := by
  unfold bindEnds
  try dsimp only
  repeat' first
    | with_reducible assumption
    | with_reducible apply state_setCtx_kept
    | with_reducible apply farErr_kept
    | with_reducible apply farOp_kept
    | (with_reducible refine kept_ite ?_ ?_ <;> intro _)
    | simp only [kept_mk]
    | exact fun x => tblSorted_tblSet x
    | exact fun x => tblSorted_tblIns x
    | exact fun x => tblSorted_filter x

theorem bindAnswer_kept {s : State} {k : FarPacket} (hs : Kept kq kb s) :
    Kept kq kb (bindAnswer s k) := by
  unfold bindAnswer
  try dsimp only
  repeat' first
    | with_reducible assumption
    | with_reducible apply farOp_kept
    | with_reducible apply dropReq_kept
    | with_reducible apply bindEnds_kept
    | (with_reducible refine kept_ite ?_ ?_ <;> intro _)
    | simp only [kept_mk]
    | exact fun x => tblSorted_tblSet x
    | exact fun x => tblSorted_tblIns x
    | exact fun x => tblSorted_filter x
    | (with_reducible refine Kept.setCom ?_ ?_)
    | with_reducible exact fun x => storeOk_mk x
    | split

theorem answer_kept {s : State} {t : Nat} {k : FarPacket} {st : Status} {data : List Byte} {marks : List Nat} (hs : Kept kq kb s) :
    Kept kq kb (answer s t k st data marks) := by
  unfold answer
  try dsimp only
  repeat' first
    | with_reducible assumption
    | with_reducible apply sendOrDrop_kept
    | (with_reducible refine kept_ite ?_ ?_ <;> intro _)
    | simp only [kept_mk]
    | exact fun x => tblSorted_tblSet x
    | exact fun x => tblSorted_tblIns x
    | exact fun x => tblSorted_filter x

theorem stageFar_kept {s : State} {k : FarPacket} (hs : Kept kq kb s) :
    Kept kq kb (stageFar s k) := by
  unfold stageFar
  try dsimp only
  repeat' first
    | with_reducible assumption
    | with_reducible apply state_setFab_kept
    | (with_reducible refine kept_ite ?_ ?_ <;> intro _)
    | simp only [kept_mk]
    | exact fun x => tblSorted_tblSet x
    | exact fun x => tblSorted_tblIns x
    | exact fun x => tblSorted_filter x
    | split

theorem writePacket_kept {s : State} {k : FarPacket} (hs : Kept kq kb s) :
    Kept kq kb (writePacket s k) := by
  unfold writePacket
  try dsimp only
  repeat' first
    | with_reducible assumption
    | with_reducible apply state_bump_kept
    | with_reducible apply ifMine_kept
    | with_reducible apply answer_kept
    | with_reducible apply stageFar_kept
    | (refine allocGrans_kept ?_ (by with_reducible assumption))
    | (with_reducible refine kept_ite ?_ ?_ <;> intro _)
    | split

theorem commitFar_kept {s : State} {e : Export} {sid : Nat} {st : FarStage} (hs : Kept kq kb s) :
    Kept kq kb (commitFar s e sid st) := by
  unfold commitFar
  try dsimp only
  repeat' first
    | with_reducible assumption
    | with_reducible apply evcInc_kept
    | with_reducible apply digestUnits_kept
    | with_reducible apply putObjects_kept
    | with_reducible apply restartMigrations_kept
    | with_reducible apply commitObjects_kept
    | (refine commitObjects_kept ?_ _ (by with_reducible assumption))
    | with_reducible apply kept_foldl
    | (with_reducible refine kept_ite ?_ ?_ <;> intro _)
    | simp only [kept_mk]
    | exact fun x => tblSorted_tblSet x
    | exact fun x => tblSorted_tblIns x
    | exact fun x => tblSorted_filter x
    | (with_reducible refine Kept.setCom ?_ ?_)
    | with_reducible exact fun x => storeOk_mk x
    | with_reducible apply kept_getD
    | intro _
    | split

theorem dropStage_kept {s : State} {epoch : Nat} (hs : Kept kq kb s) :
    Kept kq kb (dropStage s epoch) := by
  unfold dropStage
  try dsimp only
  repeat' first
    | with_reducible assumption
    | with_reducible apply state_setFab_kept
    | (with_reducible refine kept_ite ?_ ?_ <;> intro _)
    | simp only [kept_mk]
    | exact fun x => tblSorted_tblSet x
    | exact fun x => tblSorted_tblIns x
    | exact fun x => tblSorted_filter x

theorem commitPacket_kept {s : State} {k : FarPacket} (hs : Kept kq kb s) :
    Kept kq kb (commitPacket s k) := by
  unfold commitPacket
  try dsimp only
  repeat' first
    | with_reducible assumption
    | with_reducible apply state_setFab_kept
    | with_reducible apply ifMine_kept
    | with_reducible apply answer_kept
    | with_reducible apply commitFar_kept
    | with_reducible apply dropStage_kept
    | (with_reducible refine kept_ite ?_ ?_ <;> intro _)
    | simp only [kept_mk]
    | exact fun x => tblSorted_tblSet x
    | exact fun x => tblSorted_tblIns x
    | exact fun x => tblSorted_filter x
    | with_reducible exact fun x => storeOk_mk x
    | split

theorem abortPacket_kept {s : State} {k : FarPacket} (hs : Kept kq kb s) :
    Kept kq kb (abortPacket s k) := by
  unfold abortPacket
  try dsimp only
  repeat' first
    | with_reducible assumption
    | with_reducible apply ifMine_kept
    | with_reducible apply dropStage_kept
    | (with_reducible refine kept_ite ?_ ?_ <;> intro _)
    | intro _
    | split

theorem farStageExpire_kept {s : State} {epoch : Nat} (hs : Kept kq kb s) :
    Kept kq kb (farStageExpire s epoch) := by
  unfold farStageExpire
  try dsimp only
  repeat' first
    | with_reducible assumption
    | with_reducible apply dropStage_kept
    | (with_reducible refine kept_ite ?_ ?_ <;> intro _)

theorem readReqPacket_kept {s : State} {k : FarPacket} {clean : Bool} (hs : Kept kq kb s) :
    Kept kq kb (readReqPacket s k clean) := by
  unfold readReqPacket
  try dsimp only
  repeat' first
    | with_reducible assumption
    | with_reducible apply consumePoison_kept
    | with_reducible apply ifMine_kept
    | with_reducible apply answer_kept
    | (with_reducible refine kept_ite ?_ ?_ <;> intro _)
    | with_reducible exact fun x => storeOk_mk x
    | split

theorem endAttempt_kept {s : State} {r : CmdRef} {o : Outcome_} (hs : Kept kq kb s) :
    Kept kq kb (endAttempt s r o) := by
  unfold endAttempt
  try dsimp only
  repeat' first
    | with_reducible assumption
    | with_reducible apply accountAttempt_kept
    | with_reducible apply state_setCmd_kept
    | (with_reducible refine kept_ite ?_ ?_ <;> intro _)
    | simp only [kept_mk]
    | exact fun x => tblSorted_tblSet x
    | exact fun x => tblSorted_tblIns x
    | exact fun x => tblSorted_filter x
    | with_reducible exact fun x => storeOk_mk x
    | intro _
    | split

theorem poisonEnds_kept {s : State} {r : CmdRef} {e : PsnEnd} (hs : Kept kq kb s) :
    Kept kq kb (poisonEnds s r e) := by
  unfold poisonEnds
  try dsimp only
  repeat' first
    | with_reducible assumption
    | with_reducible apply state_setCmd_kept
    | with_reducible apply killCmd_kept
    | with_reducible apply finishCmd_kept
    | (with_reducible refine kept_ite ?_ ?_ <;> intro _)
    | simp only [kept_mk]
    | exact fun x => tblSorted_tblSet x
    | exact fun x => tblSorted_tblIns x
    | exact fun x => tblSorted_filter x
    | split

theorem farFails_kept {s : State} {r : CmdRef} {st : Status} (hs : Kept kq kb s) :
    Kept kq kb (farFails s r st) := by
  unfold farFails
  try dsimp only
  repeat' first
    | with_reducible assumption
    | with_reducible apply dropReqs_kept
    | with_reducible apply endAttempt_kept
    | (with_reducible refine kept_ite ?_ ?_ <;> intro _)

theorem noteAnswer_kept {s : State} {xid : Nat} {r : FarReq} {data : List Byte} {marks : List Nat} (hs : Kept kq kb s) :
    Kept kq kb (noteAnswer s xid r data marks) := by
  unfold noteAnswer
  try dsimp only
  repeat' first
    | with_reducible assumption
    | with_reducible apply state_setFab_kept
    | (with_reducible refine kept_ite ?_ ?_ <;> intro _)
    | simp only [kept_mk]
    | exact fun x => tblSorted_tblSet x
    | exact fun x => tblSorted_tblIns x
    | exact fun x => tblSorted_filter x

theorem readDataPacket_kept {s : State} {k : FarPacket} (hs : Kept kq kb s) :
    Kept kq kb (readDataPacket s k) := by
  unfold readDataPacket
  try dsimp only
  repeat' first
    | with_reducible assumption
    | with_reducible apply ifMine_kept
    | with_reducible apply poisonEnds_kept
    | with_reducible apply farFails_kept
    | with_reducible apply noteAnswer_kept
    | (with_reducible refine kept_ite ?_ ?_ <;> intro _)
    | split

theorem donePacket_kept {s : State} {k : FarPacket} (hs : Kept kq kb s) :
    Kept kq kb (donePacket s k) := by
  unfold donePacket
  try dsimp only
  repeat' first
    | with_reducible assumption
    | with_reducible apply ifMine_kept
    | with_reducible apply dropReq_kept
    | with_reducible apply farFails_kept
    | with_reducible apply noteAnswer_kept
    | (with_reducible refine kept_ite ?_ ?_ <;> intro _)
    | with_reducible exact fun x => storeOk_mk x
    | split

theorem resendReq_kept {s : State} {xid : Nat} {r : FarReq} (hs : Kept kq kb s) :
    Kept kq kb (resendReq s xid r) := by
  unfold resendReq
  try dsimp only
  repeat' first
    | with_reducible assumption
    | with_reducible apply state_bump_kept
    | with_reducible apply state_setFab_kept
    | with_reducible apply sendOrDrop_kept
    | (with_reducible refine kept_ite ?_ ?_ <;> intro _)
    | simp only [kept_mk]
    | exact fun x => tblSorted_tblSet x
    | exact fun x => tblSorted_tblIns x
    | exact fun x => tblSorted_filter x
    | split

theorem commitTimeout_kept {s : State} {xid : Nat} {r : FarReq} (hs : Kept kq kb s) :
    Kept kq kb (commitTimeout s xid r) := by
  unfold commitTimeout
  try dsimp only
  repeat' first
    | with_reducible assumption
    | with_reducible apply state_setFab_kept
    | with_reducible apply dropReq_kept
    | with_reducible apply resendReq_kept
    | (with_reducible refine kept_ite ?_ ?_ <;> intro _)
    | simp only [kept_mk]
    | exact fun x => tblSorted_tblSet x
    | exact fun x => tblSorted_tblIns x
    | exact fun x => tblSorted_filter x
    | with_reducible exact fun x => storeOk_mk x
    | split

theorem reqTimeout_kept {s : State} {xid : Nat} {r : FarReq} (hs : Kept kq kb s) :
    Kept kq kb (reqTimeout s xid r) := by
  unfold reqTimeout
  try dsimp only
  repeat' first
    | with_reducible assumption
    | with_reducible apply dropReq_kept
    | with_reducible apply bindEnds_kept
    | with_reducible apply farFails_kept
    | with_reducible apply resendReq_kept
    | with_reducible apply commitTimeout_kept
    | (with_reducible refine kept_ite ?_ ?_ <;> intro _)
    | with_reducible exact fun x => storeOk_mk x
    | split

end Sys2Proof.Machine
end

