-- ==== Sys2Proof/Laws/Kept/Tally.lean ====
section
/-! SUPPORT. Sys2Proof/Laws/Kept/Tally.lean: the operations of Machine/Tally.lean keep the queue and the canonical form. -/

namespace Sys2Proof.Machine

open Sys2Proof

variable {kq : List Instr} {kb : Bool}

theorem putColl_kept {s : State} {k : Coll} (hs : Kept kq kb s) :
    Kept kq kb (putColl s k) := by
  unfold putColl
  try dsimp only
  repeat' first
    | with_reducible assumption
    | with_reducible apply state_setFab_kept
    | (with_reducible refine kept_ite ?_ ?_ <;> intro _)
    | simp only [kept_mk]
    | exact fun x => tblSorted_tblSet x
    | exact fun x => tblSorted_tblIns x
    | exact fun x => tblSorted_filter x
    | intro _

theorem countEnded_kept {s : State} {k : Coll} (hs : Kept kq kb s) :
    Kept kq kb (countEnded s k) := by
  unfold countEnded
  try dsimp only
  repeat' first
    | with_reducible assumption
    | with_reducible apply state_setFab_kept
    | (with_reducible refine kept_ite ?_ ?_ <;> intro _)
    | simp only [kept_mk]
    | exact fun x => tblSorted_tblSet x
    | exact fun x => tblSorted_tblIns x
    | exact fun x => tblSorted_filter x
    | intro _
    | split

theorem sendTally_kept {s : State} {up : Bool} {p : Nat} {k : TallyPacket} (hs : Kept kq kb s) :
    Kept kq kb (sendTally s up p k) := by
  unfold sendTally
  try dsimp only
  repeat' first
    | with_reducible assumption
    | with_reducible apply queueFlits_kept
    | (with_reducible refine kept_ite ?_ ?_ <;> intro _)
    | split

theorem freshTally_kept {s : State} {up : Bool} {p : Nat} {k : TallyPacket} (hs : Kept kq kb s) : Kept kq kb (freshTally s up p k).1 :=
  sendTally_kept (state_setFab_kept hs)

theorem sendDown_kept {s : State} {ps : List Nat} {k : TallyPacket} (hs : Kept kq kb s) :
    Kept kq kb (sendDown s ps k) := by
  unfold sendDown
  try dsimp only
  repeat' first
    | with_reducible assumption
    | with_reducible apply freshTally_kept
    | with_reducible apply kept_foldl
    | (with_reducible refine kept_ite ?_ ?_ <;> intro _)
    | intro _

theorem endMember_kept {s : State} {k : Coll} {r : CmdRef} (hs : Kept kq kb s) :
    Kept kq kb (endMember s k r) := by
  unfold endMember
  try dsimp only
  repeat' first
    | with_reducible assumption
    | with_reducible apply state_setCmd_kept
    | with_reducible apply endAttempt_kept
    | (with_reducible refine kept_ite ?_ ?_ <;> intro _)
    | split

theorem awaitPeers_kept {s : State} {r : CmdRef} (hs : Kept kq kb s) :
    Kept kq kb (awaitPeers s r) := by
  unfold awaitPeers
  try dsimp only
  repeat' first
    | with_reducible assumption
    | with_reducible apply accountAttempt_kept
    | with_reducible apply state_setCmd_kept
    | (with_reducible refine kept_ite ?_ ?_ <;> intro _)
    | simp only [kept_mk]
    | exact fun x => tblSorted_tblSet x
    | exact fun x => tblSorted_tblIns x
    | exact fun x => tblSorted_filter x
    | intro _
    | split

theorem closeColl_kept {s : State} {k : Coll} (hs : Kept kq kb s) :
    Kept kq kb (closeColl s k) := by
  unfold closeColl
  try dsimp only
  repeat' first
    | with_reducible assumption
    | with_reducible apply putColl_kept
    | with_reducible apply countEnded_kept
    | with_reducible apply endMember_kept
    | with_reducible apply kept_foldl
    | (with_reducible refine kept_ite ?_ ?_ <;> intro _)
    | intro _

theorem failColl_kept {s : State} {k : Coll} {st : Status} {from_ : Option Nat} (hs : Kept kq kb s) :
    Kept kq kb (failColl s k st from_) := by
  unfold failColl
  try dsimp only
  repeat' first
    | with_reducible assumption
    | with_reducible apply state_bump_kept
    | with_reducible apply freshTally_kept
    | with_reducible apply sendDown_kept
    | with_reducible apply closeColl_kept
    | (with_reducible refine kept_ite ?_ ?_ <;> intro _)
    | simp only [kept_mk]
    | exact fun x => tblSorted_tblSet x
    | exact fun x => tblSorted_tblIns x
    | exact fun x => tblSorted_filter x
    | intro _
    | split

theorem passStep_kept {e : TreeEnt} {pass j : Nat} {s : State} {k : Coll} (hs : Kept kq kb s) : Kept kq kb (passStep e pass j s k).1 := by
  unfold passStep
  dsimp only
  repeat' split
  all_goals first
    | exact hs
    | exact sendDown_kept hs
    | exact freshTally_kept hs

theorem segStep_kept {e : TreeEnt} {s : State} {k : Coll} {j : Nat} (hs : Kept kq kb s) : Kept kq kb (segStep e s k j).1 := by
  unfold segStep
  dsimp only
  split
  · split
    · exact passStep_kept (passStep_kept hs)
    · exact passStep_kept hs
  · exact passStep_kept hs

theorem advanceColl_kept {s : State} {k : Coll} (hs : Kept kq kb s) : Kept kq kb (advanceColl s k) := by
  have key : ∀ (e : TreeEnt) (l : List Nat) (x : State × Coll), Kept kq kb x.1 →
      Kept kq kb (l.foldl (fun (x : State × Coll) j => segStep e x.1 x.2 j) x).1 := by
    intro e l
    induction l with
    | nil => exact fun _ h => h
    | cons j l ih => exact fun x h => ih _ (segStep_kept h)
  unfold advanceColl
  dsimp only
  split
  · exact putColl_kept hs
  · next e he =>
    split
    · exact failColl_kept hs
    · have h := key e (List.range k.segs) (s, k) hs
      split
      · exact closeColl_kept (state_bump_kept h)
      · exact putColl_kept h

theorem enterTerm_kept {s : State} {k : Coll} {e : TreeEnt} {r : CmdRef} {x : Cmd} {m : Store} (hs : Kept kq kb s) :
    Kept kq kb (enterTerm s k e r x m) := by
  unfold enterTerm
  try dsimp only
  repeat' first
    | with_reducible assumption
    | with_reducible apply failColl_kept
    | with_reducible apply advanceColl_kept
    | (with_reducible refine kept_ite ?_ ?_ <;> intro _)
    | simp only [kept_mk]
    | exact fun x => tblSorted_tblSet x
    | exact fun x => tblSorted_tblIns x
    | exact fun x => tblSorted_filter x
    | split

theorem againTerm_kept {s : State} {k : Coll} {r : CmdRef} {x : Cmd} (hs : Kept kq kb s) :
    Kept kq kb (againTerm s k r x) := by
  unfold againTerm
  try dsimp only
  repeat' first
    | with_reducible assumption
    | with_reducible apply state_bump_kept
    | with_reducible apply putColl_kept
    | with_reducible apply endMember_kept
    | (with_reducible refine kept_ite ?_ ?_ <;> intro _)
    | simp only [kept_mk]
    | exact fun x => tblSorted_tblSet x
    | exact fun x => tblSorted_tblIns x
    | exact fun x => tblSorted_filter x
    | intro _
    | split

theorem reduceRun_kept {s : State} {r : CmdRef} {x : Cmd} {m : Store} (hs : Kept kq kb s) :
    Kept kq kb (reduceRun s r x m) := by
  unfold reduceRun
  try dsimp only
  repeat' first
    | with_reducible assumption
    | with_reducible apply endAttempt_kept
    | with_reducible apply enterTerm_kept
    | with_reducible apply againTerm_kept
    | (with_reducible refine kept_ite ?_ ?_ <;> intro _)
    | with_reducible apply kept_getD
    | intro _
    | split

theorem tallyUp_kept {s : State} {p : Nat} {k : TallyPacket} (hs : Kept kq kb s) :
    Kept kq kb (tallyUp s p k) := by
  unfold tallyUp
  try dsimp only
  repeat' first
    | with_reducible assumption
    | with_reducible apply state_bump_kept
    | with_reducible apply packetBad_kept
    | with_reducible apply wakeSource_kept
    | with_reducible apply failColl_kept
    | with_reducible apply advanceColl_kept
    | (with_reducible refine kept_ite ?_ ?_ <;> intro _)
    | simp only [kept_mk]
    | exact fun x => tblSorted_tblSet x
    | exact fun x => tblSorted_tblIns x
    | exact fun x => tblSorted_filter x
    | intro _
    | split

theorem tallyResult_kept {s : State} {e : TreeEnt} {c : Coll} {k : TallyPacket} (hs : Kept kq kb s) :
    Kept kq kb (tallyResult s e c k) := by
  unfold tallyResult
  try dsimp only
  repeat' first
    | with_reducible assumption
    | with_reducible apply state_bump_kept
    | with_reducible apply sendDown_kept
    | with_reducible apply advanceColl_kept
    | (with_reducible refine kept_ite ?_ ?_ <;> intro _)
    | simp only [kept_mk]
    | exact fun x => tblSorted_tblSet x
    | exact fun x => tblSorted_tblIns x
    | exact fun x => tblSorted_filter x
    | split

theorem tallyDown_kept {s : State} {p : Nat} {k : TallyPacket} (hs : Kept kq kb s) :
    Kept kq kb (tallyDown s p k) := by
  unfold tallyDown
  try dsimp only
  repeat' first
    | with_reducible assumption
    | with_reducible apply state_bump_kept
    | with_reducible apply packetBad_kept
    | with_reducible apply wakeSource_kept
    | with_reducible apply failColl_kept
    | with_reducible apply tallyResult_kept
    | (with_reducible refine kept_ite ?_ ?_ <;> intro _)
    | split

theorem collTimeout_kept {s : State} {t : Nat} {q : Nat} {g : Nat} (hs : Kept kq kb s) :
    Kept kq kb (collTimeout s t q g) := by
  unfold collTimeout
  try dsimp only
  repeat' first
    | with_reducible assumption
    | with_reducible apply failColl_kept
    | (with_reducible refine kept_ite ?_ ?_ <;> intro _)
    | split

theorem resendTally_kept {s : State} {xid : Nat} {marked : Bool} (hs : Kept kq kb s) :
    Kept kq kb (resendTally s xid marked) := by
  unfold resendTally
  try dsimp only
  repeat' first
    | with_reducible assumption
    | with_reducible apply state_bump_kept
    | with_reducible apply sendTally_kept
    | with_reducible apply failColl_kept
    | (with_reducible refine kept_ite ?_ ?_ <;> intro _)
    | intro _
    | split

theorem e2eTimeout_kept {s : State} {xid : Nat} {marked : Bool} (hs : Kept kq kb s) :
    Kept kq kb (e2eTimeout s xid marked) := by
  unfold e2eTimeout
  try dsimp only
  repeat' first
    | with_reducible assumption
    | with_reducible apply reqTimeout_kept
    | with_reducible apply resendTally_kept
    | (with_reducible refine kept_ite ?_ ?_ <;> intro _)
    | split

end Sys2Proof.Machine
end

