-- ==== Sys2Proof/Laws/Kept/Issue.lean ====
section
/-! SUPPORT. Sys2Proof/Laws/Kept/Issue.lean: the operations of Machine/Issue.lean keep the queue and the canonical form. -/

namespace Sys2Proof.Machine

open Sys2Proof

variable {kq : List Instr} {kb : Bool}

theorem slotsRead_kept {c n : Nat} {l : List Nat} {s : State} (hs : Kept kq kb s) : KeptS kq kb (slotsRead c n l s) := by
  induction l generalizing s with
  | nil => exact keptS_inl hs
  | cons a l ih =>
    unfold slotsRead
    split
    · next t h => exact ih (ringArea_kept hs t h)
    · exact keptS_inr

theorem writePending_kept {s : State} {c : Nat} {n : Nat} {x : Cmd} (hs : Kept kq kb s) :
    Kept kq kb (writePending s c n x) := by
  unfold writePending
  try dsimp only
  repeat' first
    | with_reducible assumption
    | with_reducible apply state_setCmd_kept
    | with_reducible apply areaBreach_kept
    | with_reducible apply ringArea_kept
    | with_reducible apply areaWrite_kept
    | (refine ringArea_kept ?_ _ (by with_reducible assumption))
    | (refine ringArea_kept ?_ _ (by with_reducible assumption))
    | (with_reducible refine kept_ite ?_ ?_ <;> intro _)
    | simp only [kept_mk]
    | exact fun x => tblSorted_tblSet x
    | exact fun x => tblSorted_tblIns x
    | exact fun x => tblSorted_filter x
    | split

theorem checkFetched_kept {s : State} {c : Nat} {n : Nat} {x : Cmd} (hs : Kept kq kb s) :
    Kept kq kb (checkFetched s c n x) := by
  unfold checkFetched
  try dsimp only
  repeat' first
    | with_reducible assumption
    | with_reducible apply beginFreeze_kept
    | with_reducible apply failCmd_kept
    | (with_reducible refine kept_ite ?_ ?_ <;> intro _)
    | simp only [kept_mk]
    | exact fun x => tblSorted_tblSet x
    | exact fun x => tblSorted_tblIns x
    | exact fun x => tblSorted_filter x
    | split

theorem fetchItem_kept {s : State} {c : Nat} {n : Nat} (hs : Kept kq kb s) :
    Kept kq kb (fetchItem s c n) := by
  unfold fetchItem
  try dsimp only
  repeat' first
    | with_reducible assumption
    | with_reducible apply takeItem_kept
    | with_reducible apply writePending_kept
    | with_reducible apply checkFetched_kept
    | (with_reducible refine kept_ite ?_ ?_ <;> intro _)

theorem commandFetch_kept {s : State} {c : Nat} {n : Nat} (hs : Kept kq kb s) :
    Kept kq kb (commandFetch s c n) := by
  unfold commandFetch
  try dsimp only
  repeat' first
    | with_reducible assumption
    | with_reducible apply areaBreach_kept
    | with_reducible apply slotsRead_kept
    | with_reducible apply fetchItem_kept
    | (refine slotsRead_kept ?_ _ (by with_reducible assumption))
    | (refine slotsRead_kept ?_ _ (by with_reducible assumption))
    | (with_reducible refine kept_ite ?_ ?_ <;> intro _)
    | with_reducible exact fun x => storeOk_mk x
    | split

theorem adjustNew_kept {s : State} {k : Nat} (hs : Kept kq kb s) :
    Kept kq kb (adjustNew s k) := by
  unfold adjustNew
  try dsimp only
  repeat' first
    | with_reducible assumption
    | with_reducible apply state_setCtx_kept
    | (with_reducible refine kept_ite ?_ ?_ <;> intro _)
    | simp only [kept_mk]
    | exact fun x => tblSorted_tblSet x
    | exact fun x => tblSorted_tblIns x
    | exact fun x => tblSorted_filter x
    | split

theorem noteEligible_kept {s : State} (hs : Kept kq kb s) :
    Kept kq kb (noteEligible s) := by
  unfold noteEligible
  try dsimp only
  repeat' first
    | with_reducible assumption
    | with_reducible apply adjustNew_kept
    | with_reducible apply kept_foldl
    | (with_reducible refine kept_ite ?_ ?_ <;> intro _)
    | simp only [kept_mk]
    | exact fun x => tblSorted_tblSet x
    | exact fun x => tblSorted_tblIns x
    | exact fun x => tblSorted_filter x
    | intro _
    | split

theorem recordGrant_kept {s : State} {c : Nat} {n : Nat} {op : Nat} {inst : Nat} (hs : Kept kq kb s) :
    Kept kq kb (recordGrant s c n op inst) := by
  unfold recordGrant
  try dsimp only
  repeat' first
    | with_reducible assumption
    | (with_reducible refine kept_ite ?_ ?_ <;> intro _)
    | simp only [kept_mk]
    | exact fun x => tblSorted_tblSet x
    | exact fun x => tblSorted_tblIns x
    | exact fun x => tblSorted_filter x
    | intro _

theorem allocWrites_kept {c : Nat} {l : List Access} {s t : State} {got got' : List Nat} (hs : Kept kq kb s)
    (he : allocWrites c l s got = (.done t, got')) : Kept kq kb t := by
  induction l generalizing s got with
  | nil => rw [← Alloc.done.inj (Prod.mk.inj he).1]; exact hs
  | cons a l ih =>
    unfold allocWrites at he
    dsimp only at he
    split at he
    · exact ih hs he
    · split at he
      · exact ih hs he
      · split at he
        · next h => exact ih (allocGrans_kept hs h) he
        · next h => exact absurd (Prod.mk.inj he).1 (h t)

theorem pinRange_kept {s : State} {r : CmdRef} {d : List Byte} {p : List Byte} (hs : Kept kq kb s) :
    Kept kq kb (pinRange s r d p) := by
  unfold pinRange
  try dsimp only
  repeat' first
    | with_reducible assumption
    | with_reducible apply state_setStook_kept
    | with_reducible apply kept_foldl
    | (with_reducible refine kept_ite ?_ ?_ <;> intro _)
    | simp only [kept_mk]
    | exact fun x => tblSorted_tblSet x
    | exact fun x => tblSorted_tblIns x
    | exact fun x => tblSorted_filter x
    | with_reducible exact fun x => storeOk_mk x
    | intro _
    | split

theorem takeKv_kept {s : State} {r : CmdRef} {d p : List Byte} (hs : Kept kq kb s) : KeptR kq kb (takeKv s r d p) := by
  intro t l h
  unfold takeKv at h
  split at h
  · split at h
    · next u g hu =>
      rw [← (KvRes.done.inj h).1]
      exact pinRange_kept (kvAllocate_kept (pinRange_kept hs) u g hu)
    · next hn => exact absurd h (hn t l)
  · rw [← (KvRes.done.inj h).1]; exact hs

theorem startAttempt_kept {s : State} {c : Nat} {n : Nat} {x : Cmd} {inst : Nat} {grans : List Nat} {kv : List KvHold} (hs : Kept kq kb s) :
    Kept kq kb (startAttempt s c n x inst grans kv) := by
  unfold startAttempt
  try dsimp only
  repeat' first
    | with_reducible assumption
    | with_reducible apply readGran_kept
    | with_reducible apply state_setCmd_kept
    | with_reducible apply recordGrant_kept
    | with_reducible apply kept_foldl
    | (with_reducible refine kept_ite ?_ ?_ <;> intro _)
    | simp only [kept_mk]
    | exact fun x => tblSorted_tblSet x
    | exact fun x => tblSorted_tblIns x
    | exact fun x => tblSorted_filter x
    | with_reducible exact fun x => storeOk_mk x
    | intro _
    | split

theorem evictForSpace_kept {s : State} {c : Nat} (hs : Kept kq kb s) : KeptO kq kb (evictForSpace s c) := by
  unfold evictForSpace
  split
  · exact keptO_some hs
  · intro t h
    obtain ⟨k, _, h⟩ := Option.bind_eq_some_iff.1 h
    exact startEviction_kept hs t h

theorem tierFull_kept {s : State} {c n : Nat} {x : Cmd} {ti : Tier} (hs : Kept kq kb s) : Kept kq kb (tierFull s c n x ti) := by
  unfold tierFull
  split
  · next u h =>
    split at h
    · exact evictForSpace_kept hs u h
    · cases h
  · exact failCmd_kept (state_bump_kept hs)

theorem enterEngine_kept {s : State} {c n : Nat} {x : Cmd} {inst : Nat} (hs : Kept kq kb s) : Kept kq kb (enterEngine s c n x inst) := by
  unfold enterEngine
  dsimp only
  split
  · exact cmdBreach_kept (state_setCmd_kept hs)
  · split
    · exact failCmd_kept hs
    · exact tierFull_kept hs
    · next h1 =>
      split
      · exact hs
      · exact failCmd_kept hs
      · next h2 => exact startAttempt_kept (takeKv_kept (allocWrites_kept hs h1) _ _ h2)

theorem reachable_kept {s : State} {c : Nat} {n : Nat} {x : Cmd} {inst : Nat} (hs : Kept kq kb s) :
    Kept kq kb (reachable s c n x inst) := by
  unfold reachable
  try dsimp only
  repeat' first
    | with_reducible assumption
    | with_reducible apply state_setCmd_kept
    | with_reducible apply failCmd_kept
    | with_reducible apply enterEngine_kept
    | (with_reducible refine kept_ite ?_ ?_ <;> intro _)
    | simp only [kept_mk]
    | exact fun x => tblSorted_tblSet x
    | exact fun x => tblSorted_tblIns x
    | exact fun x => tblSorted_filter x
    | split

theorem dispatchTo_kept {s : State} {c : Nat} {n : Nat} {x : Cmd} {inst : Nat} (hs : Kept kq kb s) :
    Kept kq kb (dispatchTo s c n x inst) := by
  unfold dispatchTo
  try dsimp only
  repeat' first
    | with_reducible assumption
    | with_reducible apply failCmd_kept
    | with_reducible apply reachable_kept
    | (with_reducible refine kept_ite ?_ ?_ <;> intro _)
    | split

theorem startFence_kept {s : State} {c : Nat} {n : Nat} {x : Cmd} (hs : Kept kq kb s) :
    Kept kq kb (startFence s c n x) := by
  unfold startFence
  try dsimp only
  repeat' first
    | with_reducible assumption
    | with_reducible apply state_setCmd_kept
    | (with_reducible refine kept_ite ?_ ?_ <;> intro _)
    | simp only [kept_mk]
    | exact fun x => tblSorted_tblSet x
    | exact fun x => tblSorted_tblIns x
    | exact fun x => tblSorted_filter x

theorem arbitrate_kept {s : State} {c : Nat} {n : Nat} {x : Cmd} {inst : Nat} (hs : Kept kq kb s) :
    Kept kq kb (arbitrate s c n x inst) := by
  unfold arbitrate
  try dsimp only
  repeat' first
    | with_reducible assumption
    | with_reducible apply noteEligible_kept
    | with_reducible apply dispatchTo_kept
    | (with_reducible refine kept_ite ?_ ?_ <;> intro _)
    | split

theorem issue_kept {s : State} {c : Nat} {n : Nat} {x : Cmd} {inst : Nat} (hs : Kept kq kb s) :
    Kept kq kb (issue s c n x inst) := by
  unfold issue
  try dsimp only
  repeat' first
    | with_reducible assumption
    | with_reducible apply wakeAny_kept
    | with_reducible apply startFence_kept
    | with_reducible apply arbitrate_kept
    | (with_reducible refine kept_ite ?_ ?_ <;> intro _)
    | split

theorem commandDispatch_kept {s : State} {c : Nat} {n : Nat} {inst : Nat} (hs : Kept kq kb s) :
    Kept kq kb (commandDispatch s c n inst) := by
  unfold commandDispatch
  try dsimp only
  repeat' first
    | with_reducible assumption
    | with_reducible apply finishCmd_kept
    | with_reducible apply failCmd_kept
    | with_reducible apply checkFetched_kept
    | with_reducible apply issue_kept
    | (with_reducible refine kept_ite ?_ ?_ <;> intro _)
    | with_reducible exact fun x => storeOk_mk x
    | intro _
    | split

end Sys2Proof.Machine
end

