-- ==== Sys2Proof/Laws/Kept/Runs.lean ====
section
/-! SUPPORT. Sys2Proof/Laws/Kept/Runs.lean: the operations of Machine/Runs.lean keep the queue and the canonical form. -/

namespace Sys2Proof.Machine

open Sys2Proof

variable {kq : List Instr} {kb : Bool}

theorem consumed_kept {s : State} {c : Nat} {n : Nat} {x : Cmd} {a : Attempt} {us : List Nat} {clean : Bool} (hs : Kept kq kb s) :
    Kept kq kb (consumed s c n x a us clean) := by
  unfold consumed
  try dsimp only
  repeat' first
    | with_reducible assumption
    | with_reducible apply state_setCmd_kept
    | with_reducible apply consumePoison_kept
    | with_reducible apply poisonEnds_kept
    | (with_reducible refine kept_ite ?_ ?_ <;> intro _)
    | simp only [kept_mk]
    | exact fun x => tblSorted_tblSet x
    | exact fun x => tblSorted_tblIns x
    | exact fun x => tblSorted_filter x
    | split

theorem attempt_kept {s : State} {c : Nat} {n : Nat} {ser : Nat} {env : RunEnv} {is : List Byte → Bool} {go : Cmd → Attempt → State} (hs : Kept kq kb s) (hgo : ∀ y0 y1, Kept kq kb (go y0 y1)) :
    Kept kq kb (attempt s c n ser env is go) := by
  unfold attempt
  try dsimp only
  repeat' first
    | with_reducible assumption
    | with_reducible apply consumed_kept
    | with_reducible apply hgo
    | (with_reducible refine kept_ite ?_ ?_ <;> intro _)
    | intro _
    | split

theorem engineRow_kept {s : State} {c : Nat} {n : Nat} {ser : Nat} {env : RunEnv} {is : List Byte → Bool} {run : Job → Outcome_} (hs : Kept kq kb s) :
    Kept kq kb (engineRow s c n ser env is run) := by
  unfold engineRow
  try dsimp only
  repeat' first
    | with_reducible assumption
    | with_reducible apply endAttempt_kept
    | with_reducible apply attempt_kept
    | (with_reducible refine kept_ite ?_ ?_ <;> intro _)
    | with_reducible exact fun x => storeOk_mk x
    | intro _

theorem beginDecision_kept {s : State} {r : CmdRef} (hs : Kept kq kb s) :
    Kept kq kb (beginDecision s r) := by
  unfold beginDecision
  try dsimp only
  repeat' first
    | with_reducible assumption
    | with_reducible apply state_setCmd_kept
    | (with_reducible refine kept_ite ?_ ?_ <;> intro _)
    | simp only [kept_mk]
    | exact fun x => tblSorted_tblSet x
    | exact fun x => tblSorted_tblIns x
    | exact fun x => tblSorted_filter x
    | with_reducible exact fun x => storeOk_mk x
    | intro _
    | split

theorem updateRow_kept {s : State} {c : Nat} {n : Nat} {ser : Nat} {env : RunEnv} {rule : Nat} (hs : Kept kq kb s) :
    Kept kq kb (updateRow s c n ser env rule) := by
  unfold updateRow
  try dsimp only
  repeat' first
    | with_reducible assumption
    | with_reducible apply endAttempt_kept
    | with_reducible apply attempt_kept
    | with_reducible apply beginDecision_kept
    | (with_reducible refine kept_ite ?_ ?_ <;> intro _)
    | with_reducible apply kept_getD
    | intro _
    | split

theorem countHostFault_kept {s : State} (hs : Kept kq kb s) :
    Kept kq kb (countHostFault s) := by
  unfold countHostFault
  try dsimp only
  repeat' first
    | with_reducible assumption
    | with_reducible apply state_draw_kept
    | with_reducible apply state_bump_kept
    | (with_reducible refine kept_ite ?_ ?_ <;> intro _)
    | split

theorem hostFault_kept {s : State} {c : Nat} {n : Nat} {x : Cmd} {page : Nat} (hs : Kept kq kb s) :
    Kept kq kb (hostFault s c n x page) := by
  unfold hostFault
  try dsimp only
  repeat' first
    | with_reducible assumption
    | with_reducible apply state_setCmd_kept
    | with_reducible apply killCmd_kept
    | with_reducible apply endAttempt_kept
    | (with_reducible refine kept_ite ?_ ?_ <;> intro _)
    | simp only [kept_mk]
    | exact fun x => tblSorted_tblSet x
    | exact fun x => tblSorted_tblIns x
    | exact fun x => tblSorted_filter x
    | split

theorem farRun_kept {s : State} {c : Nat} {n : Nat} {x : Cmd} {ks : FarKind × List FarPacket} {run : Store → Outcome_} {m : Store} (hs : Kept kq kb s) :
    Kept kq kb (farRun s c n x ks run m) := by
  unfold farRun
  try dsimp only
  repeat' first
    | with_reducible assumption
    | with_reducible apply state_bump_kept
    | with_reducible apply issueAll_kept
    | with_reducible apply endAttempt_kept
    | with_reducible apply farFails_kept
    | (refine issueAll_kept ?_ _ (by with_reducible assumption))
    | (refine issueAll_kept ?_ _ (by with_reducible assumption))
    | (with_reducible refine kept_ite ?_ ?_ <;> intro _)
    | with_reducible exact fun x => storeOk_mk x
    | intro _
    | split

theorem moveRow_kept {s : State} {c : Nat} {n : Nat} {ser : Nat} {env : RunEnv} (hs : Kept kq kb s) :
    Kept kq kb (moveRow s c n ser env) := by
  unfold moveRow
  try dsimp only
  repeat' first
    | with_reducible assumption
    | with_reducible apply endAttempt_kept
    | with_reducible apply attempt_kept
    | with_reducible apply countHostFault_kept
    | with_reducible apply hostFault_kept
    | with_reducible apply farRun_kept
    | (with_reducible refine kept_ite ?_ ?_ <;> intro _)
    | simp only [kept_mk]
    | exact fun x => tblSorted_tblSet x
    | exact fun x => tblSorted_tblIns x
    | exact fun x => tblSorted_filter x
    | intro _
    | split

theorem reshardRow_kept {s : State} {c : Nat} {n : Nat} {ser : Nat} {env : RunEnv} (hs : Kept kq kb s) :
    Kept kq kb (reshardRow s c n ser env) := by
  unfold reshardRow
  try dsimp only
  repeat' first
    | with_reducible assumption
    | with_reducible apply endAttempt_kept
    | with_reducible apply attempt_kept
    | with_reducible apply farRun_kept
    | (with_reducible refine kept_ite ?_ ?_ <;> intro _)
    | simp only [kept_mk]
    | exact fun x => tblSorted_tblSet x
    | exact fun x => tblSorted_tblIns x
    | exact fun x => tblSorted_filter x
    | intro _
    | split

theorem reduceRow_kept {s : State} {c : Nat} {n : Nat} {ser : Nat} {env : RunEnv} (hs : Kept kq kb s) :
    Kept kq kb (reduceRow s c n ser env) := by
  unfold reduceRow
  try dsimp only
  repeat' first
    | with_reducible assumption
    | with_reducible apply awaitPeers_kept
    | with_reducible apply reduceRun_kept
    | with_reducible apply attempt_kept
    | (with_reducible refine kept_ite ?_ ?_ <;> intro _)
    | intro _

end Sys2Proof.Machine
end

