-- ==== Sys2Proof/Laws/Kept/Commit.lean ====
section
/-! SUPPORT. Sys2Proof/Laws/Kept/Commit.lean: the operations of Machine/Commit.lean keep the queue and the canonical form. -/

namespace Sys2Proof.Machine

open Sys2Proof

variable {kq : List Instr} {kb : Bool}

theorem runMatches_kept {c : Nat} {l : List Eff} {s : State} (hs : Kept kq kb s) : Kept kq kb (runMatches c l s).1 := by
  induction l generalizing s with
  | nil => exact hs
  | cons e l ih =>
    unfold runMatches
    split
    · next h => cases h
    · next h =>
      cases h
      split
      · exact ih (seqMatchFx_kept hs)
      · exact ih hs
    · next h => cases h; exact ih hs

theorem sendCommit_kept {s : State} {r : CmdRef} {f : FarObj} {epoch : Nat} {attempt : Nat} {bytes : Nat} (hs : Kept kq kb s) :
    Kept kq kb (sendCommit s r f epoch attempt bytes) := by
  unfold sendCommit
  try dsimp only
  repeat' first
    | with_reducible assumption
    | with_reducible apply state_setFab_kept
    | with_reducible apply issueReq_kept
    | with_reducible apply attempt_kept
    | (refine issueReq_kept ?_ _ (by with_reducible assumption))
    | (refine issueReq_kept ?_ _ (by with_reducible assumption))
    | (with_reducible refine kept_ite ?_ ?_ <;> intro _)
    | simp only [kept_mk]
    | exact fun x => tblSorted_tblSet x
    | exact fun x => tblSorted_tblIns x
    | exact fun x => tblSorted_filter x
    | with_reducible exact fun x => storeOk_mk x
    | split

theorem lastDecision_kept {s : State} {skip : Nat} {clipped : Nat} {norm : Nat} {stepNo : Nat} (hs : Kept kq kb s) :
    Kept kq kb (lastDecision s skip clipped norm stepNo) := by
  unfold lastDecision
  try dsimp only
  repeat' first
    | with_reducible assumption
    | with_reducible apply state_setReg_kept
    | (with_reducible refine kept_ite ?_ ?_ <;> intro _)

theorem applyEff_kept {r : CmdRef} {s : State} {e : Eff} (hs : Kept kq kb s) : Kept kq kb (applyEff r s e) := by
  unfold applyEff
  split
  · exact hs.setCom fun h => ⟨h.1, memWrite_wf h.2.1, h.2.2⟩
  · exact sendCommit_kept hs
  · exact state_bump_kept hs
  · exact kept_ite (fun _ => kvWrite_kept hs) (fun _ => hs)
  · exact kept_ite (fun _ => refreshTent_kept (state_setSeq_kept hs)) (fun _ => hs)
  · exact kept_ite (fun _ => kept_foldl _ hs fun _ _ h => refillBlock_kept h) (fun _ => hs)
  · exact seqOpenFx_kept hs
  · exact kept_ite (fun _ => seqCloseFx_kept hs) (fun _ => hs)
  · exact kept_ite (fun _ => seqAcceptFx_kept hs) (fun _ => hs)
  · exact kept_ite (fun _ => seqRollBackFx_kept hs) (fun _ => hs)
  · exact kept_ite (fun _ => state_setSeq_kept hs) (fun _ => hs)
  · exact verifyFx_kept hs
  · exact lastDecision_kept hs
  · exact state_bump_kept (state_bump_kept (state_bump_kept hs))
  · exact hs
  · exact hs
  · exact hs

theorem applyEffs_kept {s t : State} {r : CmdRef} {l : List Eff} {ws : List (Nat × List Byte)} (hs : Kept kq kb s)
    (he : applyEffs s r l = some (t, ws)) : Kept kq kb t := by
  unfold applyEffs at he
  dsimp only at he
  obtain ⟨u, hu, h⟩ := Option.map_eq_some_iff.1 he
  cases h
  exact digestUnits_kept (kept_foldl _ (commitObjects_kept (runMatches_kept hs) u hu) fun _ _ h => applyEff_kept h)

theorem sealSid_kept {farOk : Bool} {s : State} {sid : Nat} (hs : Kept kq kb s) :
    Kept kq kb (sealSid farOk s sid) := by
  unfold sealSid
  try dsimp only
  repeat' first
    | with_reducible assumption
    | with_reducible apply dropExports_kept
    | (with_reducible refine kept_ite ?_ ?_ <;> intro _)
    | simp only [kept_mk]
    | exact fun x => tblSorted_tblSet x
    | exact fun x => tblSorted_tblIns x
    | exact fun x => tblSorted_filter x
    | (with_reducible refine Kept.setCom ?_ ?_)
    | with_reducible exact fun x => storeOk_mk x
    | intro _
    | split

theorem sealCommit_kept {s : State} {c : Nat} {x : Cmd} {a : Attempt} {ws : List (Nat × List Byte)} (hs : Kept kq kb s) :
    Kept kq kb (sealCommit s c x a ws) := by
  unfold sealCommit
  try dsimp only
  repeat' first
    | with_reducible assumption
    | with_reducible apply sealSid_kept
    | with_reducible apply kept_foldl
    | (with_reducible refine kept_ite ?_ ?_ <;> intro _)
    | (with_reducible refine Kept.setCom ?_ ?_)
    | with_reducible apply kept_getD
    | intro _
    | split

theorem endWithout_kept {s : State} {c : Nat} {n : Nat} {x : Cmd} {a : Attempt} {st : Status} {nonfin : Bool} {det : Nat} (hs : Kept kq kb s) :
    Kept kq kb (endWithout s c n x a st nonfin det) := by
  unfold endWithout
  try dsimp only
  repeat' first
    | with_reducible assumption
    | with_reducible apply state_bump_kept
    | with_reducible apply dropReqs_kept
    | with_reducible apply releaseAttempt_kept
    | with_reducible apply finishCmd_kept
    | (with_reducible refine kept_ite ?_ ?_ <;> intro _)
    | split

theorem injectDrop_kept {s : State} (hs : Kept kq kb s) :
    Kept kq kb (injectDrop s) := by
  unfold injectDrop
  try dsimp only
  repeat' first
    | with_reducible assumption
    | with_reducible apply state_draw_kept
    | with_reducible apply state_bump_kept
    | with_reducible apply dropStook_kept
    | (with_reducible refine kept_ite ?_ ?_ <;> intro _)
    | split

theorem commitOk_kept {s : State} {c : Nat} {n : Nat} {x : Cmd} {a : Attempt} {o : Outcome_} (hs : Kept kq kb s) :
    Kept kq kb (commitOk s c n x a o) := by
  unfold commitOk
  try dsimp only
  repeat' first
    | with_reducible assumption
    | with_reducible apply dropReqs_kept
    | with_reducible apply finishCmd_kept
    | with_reducible apply sigEffect_kept
    | with_reducible apply sealCommit_kept
    | with_reducible apply endWithout_kept
    | with_reducible apply injectDrop_kept
    | (refine applyEffs_kept ?_ (by with_reducible assumption))
    | (with_reducible refine kept_ite ?_ ?_ <;> intro _)
    | with_reducible exact fun x => storeOk_mk x
    | split

theorem commitCmd_kept {s : State} {c : Nat} {n : Nat} {x : Cmd} (hs : Kept kq kb s) :
    Kept kq kb (commitCmd s c n x) := by
  unfold commitCmd
  try dsimp only
  repeat' first
    | with_reducible assumption
    | with_reducible apply endWithout_kept
    | with_reducible apply commitOk_kept
    | (with_reducible refine kept_ite ?_ ?_ <;> intro _)
    | with_reducible exact fun x => storeOk_mk x
    | split

theorem commandCommit_kept {s : State} {c : Nat} {n : Nat} {ser : Nat} (hs : Kept kq kb s) :
    Kept kq kb (commandCommit s c n ser) := by
  unfold commandCommit
  try dsimp only
  repeat' first
    | with_reducible assumption
    | with_reducible apply commitCmd_kept
    | (with_reducible refine kept_ite ?_ ?_ <;> intro _)
    | with_reducible exact fun x => storeOk_mk x
    | split

theorem redoUpdate_kept {s : State} {c : Nat} {n : Nat} {x : Cmd} {a : Attempt} (hs : Kept kq kb s) :
    Kept kq kb (redoUpdate s c n x a) := by
  unfold redoUpdate
  try dsimp only
  repeat' first
    | with_reducible assumption
    | with_reducible apply state_bump_kept
    | with_reducible apply state_setCmd_kept
    | with_reducible apply releaseReader_kept
    | with_reducible apply releaseAttempt_kept
    | (with_reducible refine kept_ite ?_ ?_ <;> intro _)
    | simp only [kept_mk]
    | exact fun x => tblSorted_tblSet x
    | exact fun x => tblSorted_tblIns x
    | exact fun x => tblSorted_filter x

theorem decideUpdate_kept {s : State} {c : Nat} {n : Nat} {x : Cmd} {a : Attempt} (hs : Kept kq kb s) :
    Kept kq kb (decideUpdate s c n x a) := by
  unfold decideUpdate
  try dsimp only
  repeat' first
    | with_reducible assumption
    | with_reducible apply state_draw_kept
    | with_reducible apply cmdBreach_kept
    | with_reducible apply consumePoison_kept
    | with_reducible apply poisonEnds_kept
    | with_reducible apply endWithout_kept
    | with_reducible apply commitCmd_kept
    | with_reducible apply redoUpdate_kept
    | (with_reducible refine kept_ite ?_ ?_ <;> intro _)
    | with_reducible exact fun x => storeOk_mk x
    | with_reducible apply kept_getD
    | split

theorem provisionalDecision_kept {s : State} {c : Nat} {n : Nat} {ser : Nat} (hs : Kept kq kb s) :
    Kept kq kb (provisionalDecision s c n ser) := by
  unfold provisionalDecision
  try dsimp only
  repeat' first
    | with_reducible assumption
    | with_reducible apply decideUpdate_kept
    | (with_reducible refine kept_ite ?_ ?_ <;> intro _)
    | with_reducible apply kept_getD
    | split

theorem provisionalTimeout_kept {s : State} {c : Nat} {n : Nat} {ser : Nat} (hs : Kept kq kb s) :
    Kept kq kb (provisionalTimeout s c n ser) := by
  unfold provisionalTimeout
  try dsimp only
  repeat' first
    | with_reducible assumption
    | with_reducible apply endWithout_kept
    | (with_reducible refine kept_ite ?_ ?_ <;> intro _)
    | split

theorem expire_kept {s : State} {c : Nat} {n : Nat} {x : Cmd} {a : Attempt} (hs : Kept kq kb s) :
    Kept kq kb (expire s c n x a) := by
  unfold expire
  try dsimp only
  repeat' first
    | with_reducible assumption
    | with_reducible apply state_setCmd_kept
    | with_reducible apply killCmd_kept
    | with_reducible apply finishCmd_kept
    | with_reducible apply engineEvent_kept
    | (with_reducible refine kept_ite ?_ ?_ <;> intro _)
    | simp only [kept_mk]
    | exact fun x => tblSorted_tblSet x
    | exact fun x => tblSorted_tblIns x
    | exact fun x => tblSorted_filter x
    | split

theorem watchdogExpiry_kept {s : State} {c : Nat} {n : Nat} {ser : Nat} (hs : Kept kq kb s) :
    Kept kq kb (watchdogExpiry s c n ser) := by
  unfold watchdogExpiry
  try dsimp only
  repeat' first
    | with_reducible assumption
    | with_reducible apply expire_kept
    | (with_reducible refine kept_ite ?_ ?_ <;> intro _)
    | split

theorem injectedKill_kept {s : State} {c : Nat} {n : Nat} {ser : Nat} (hs : Kept kq kb s) :
    Kept kq kb (injectedKill s c n ser) := by
  unfold injectedKill
  try dsimp only
  repeat' first
    | with_reducible assumption
    | with_reducible apply state_bump_kept
    | with_reducible apply state_setCmd_kept
    | with_reducible apply killCmd_kept
    | (with_reducible refine kept_ite ?_ ?_ <;> intro _)
    | simp only [kept_mk]
    | exact fun x => tblSorted_tblSet x
    | exact fun x => tblSorted_tblIns x
    | exact fun x => tblSorted_filter x
    | split

end Sys2Proof.Machine
end

