-- ==== Sys2Proof/Laws/Kept/Fences.lean ====
section
/-! SUPPORT. Sys2Proof/Laws/Kept/Fences.lean: the operations of Machine/Fences.lean keep the queue and the canonical form. -/

namespace Sys2Proof.Machine

open Sys2Proof

variable {kq : List Instr} {kb : Bool}

theorem fence_kept {s : State} {c : Nat} {n : Nat} {ser : Nat} {is : List Byte → Bool} {go : Cmd → State} (hs : Kept kq kb s) (hgo : ∀ y0, Kept kq kb (go y0)) :
    Kept kq kb (fence s c n ser is go) := by
  unfold fence
  try dsimp only
  repeat' first
    | with_reducible assumption
    | with_reducible apply hgo
    | (with_reducible refine kept_ite ?_ ?_ <;> intro _)
    | intro _
    | split

theorem waitRow_kept {s : State} {c : Nat} {n : Nat} {ser : Nat} (hs : Kept kq kb s) :
    Kept kq kb (waitRow s c n ser) := by
  unfold waitRow
  try dsimp only
  repeat' first
    | with_reducible assumption
    | with_reducible apply commitFence_kept
    | with_reducible apply fence_kept
    | (with_reducible refine kept_ite ?_ ?_ <;> intro _)
    | with_reducible exact fun x => storeOk_mk x
    | intro _
    | split

theorem signalRow_kept {s : State} {c : Nat} {n : Nat} {ser : Nat} (hs : Kept kq kb s) :
    Kept kq kb (signalRow s c n ser) := by
  unfold signalRow
  try dsimp only
  repeat' first
    | with_reducible assumption
    | with_reducible apply evcInc_kept
    | with_reducible apply commitFence_kept
    | with_reducible apply fence_kept
    | (with_reducible refine kept_ite ?_ ?_ <;> intro _)
    | with_reducible exact fun x => storeOk_mk x
    | intro _

theorem takeLatch_kept {s : State} {c : Nat} {n : Nat} {x : Cmd} {st : Status} (hs : Kept kq kb s) :
    Kept kq kb (takeLatch s c n x st) := by
  unfold takeLatch
  try dsimp only
  repeat' first
    | with_reducible assumption
    | with_reducible apply state_setLatch_kept
    | with_reducible apply commitFence_kept
    | (with_reducible refine kept_ite ?_ ?_ <;> intro _)
    | simp only [kept_mk]
    | exact fun x => tblSorted_tblSet x
    | exact fun x => tblSorted_tblIns x
    | exact fun x => tblSorted_filter x
    | with_reducible exact fun x => storeOk_mk x

theorem joinLatch_kept {s : State} {c : Nat} {n : Nat} {x : Cmd} (hs : Kept kq kb s) :
    Kept kq kb (joinLatch s c n x) := by
  unfold joinLatch
  try dsimp only
  repeat' first
    | with_reducible assumption
    | with_reducible apply state_setLatch_kept
    | with_reducible apply state_setCmd_kept
    | (with_reducible refine kept_ite ?_ ?_ <;> intro _)
    | simp only [kept_mk]
    | exact fun x => tblSorted_tblSet x
    | exact fun x => tblSorted_tblIns x
    | exact fun x => tblSorted_filter x

theorem latchAcquireRow_kept {s : State} {c : Nat} {n : Nat} {ser : Nat} (hs : Kept kq kb s) :
    Kept kq kb (latchAcquireRow s c n ser) := by
  unfold latchAcquireRow
  try dsimp only
  repeat' first
    | with_reducible assumption
    | with_reducible apply failCmd_kept
    | with_reducible apply fence_kept
    | with_reducible apply takeLatch_kept
    | with_reducible apply joinLatch_kept
    | (with_reducible refine kept_ite ?_ ?_ <;> intro _)
    | intro _
    | split

theorem latchTryRow_kept {s : State} {c : Nat} {n : Nat} {ser : Nat} (hs : Kept kq kb s) :
    Kept kq kb (latchTryRow s c n ser) := by
  unfold latchTryRow
  try dsimp only
  repeat' first
    | with_reducible assumption
    | with_reducible apply failCmd_kept
    | with_reducible apply fence_kept
    | with_reducible apply takeLatch_kept
    | (with_reducible refine kept_ite ?_ ?_ <;> intro _)
    | intro _
    | split

theorem latchReleaseRow_kept {s : State} {c : Nat} {n : Nat} {ser : Nat} (hs : Kept kq kb s) :
    Kept kq kb (latchReleaseRow s c n ser) := by
  unfold latchReleaseRow
  try dsimp only
  repeat' first
    | with_reducible assumption
    | with_reducible apply failCmd_kept
    | with_reducible apply commitFence_kept
    | with_reducible apply passLatch_kept
    | with_reducible apply fence_kept
    | (with_reducible refine kept_ite ?_ ?_ <;> intro _)
    | with_reducible exact fun x => storeOk_mk x
    | intro _
    | split

theorem waitLatchTimeout_kept {s : State} {c : Nat} {n : Nat} {ser : Nat} (hs : Kept kq kb s) :
    Kept kq kb (waitLatchTimeout s c n ser) := by
  unfold waitLatchTimeout
  try dsimp only
  repeat' first
    | with_reducible assumption
    | with_reducible apply leaveLatch_kept
    | with_reducible apply failCmd_kept
    | (with_reducible refine kept_ite ?_ ?_ <;> intro _)
    | split

end Sys2Proof.Machine
end

