-- ==== Sys2Proof/Laws/Kept/Ports.lean ====
section
/-! SUPPORT. Sys2Proof/Laws/Kept/Ports.lean: the operations of Machine/Ports.lean keep the queue and the canonical form. -/

namespace Sys2Proof.Machine

open Sys2Proof

variable {kq : List Instr} {kb : Bool}

theorem killRef_kept {s : State} {r : CmdRef} {k : KillCause} (hs : Kept kq kb s) :
    Kept kq kb (killRef s r k) := by
  unfold killRef
  try dsimp only
  repeat' first
    | with_reducible assumption
    | with_reducible apply killCmd_kept
    | (with_reducible refine kept_ite ?_ ?_ <;> intro _)
    | split

theorem loseFlits_kept {s : State} {p : Nat} (hs : Kept kq kb s) :
    Kept kq kb (loseFlits s p) := by
  unfold loseFlits
  try dsimp only
  repeat' first
    | with_reducible assumption
    | with_reducible apply state_setPort_kept
    | with_reducible apply killRef_kept
    | with_reducible apply kept_foldl
    | (with_reducible refine kept_ite ?_ ?_ <;> intro _)
    | simp only [kept_mk]
    | exact fun x => tblSorted_tblSet x
    | exact fun x => tblSorted_tblIns x
    | exact fun x => tblSorted_filter x
    | intro _

theorem endSession_kept {s : State} {p : Nat} {to_ : PortSt} (hs : Kept kq kb s) :
    Kept kq kb (endSession s p to_) := by
  unfold endSession
  try dsimp only
  repeat' first
    | with_reducible assumption
    | with_reducible apply state_setPort_kept
    | with_reducible apply loseFlits_kept
    | (with_reducible refine kept_ite ?_ ?_ <;> intro _)
    | simp only [kept_mk]
    | exact fun x => tblSorted_tblSet x
    | exact fun x => tblSorted_tblIns x
    | exact fun x => tblSorted_filter x

theorem countRetrain_kept {s : State} {p : Nat} (hs : Kept kq kb s) :
    Kept kq kb (countRetrain s p) := by
  unfold countRetrain
  try dsimp only
  repeat' first
    | with_reducible assumption
    | with_reducible apply state_bump16_kept
    | (with_reducible refine kept_ite ?_ ?_ <;> intro _)

theorem startRetrain_kept {s : State} {p : Nat} (hs : Kept kq kb s) :
    Kept kq kb (startRetrain s p) := by
  unfold startRetrain
  try dsimp only
  repeat' first
    | with_reducible assumption
    | with_reducible apply state_setPort_kept
    | with_reducible apply countRetrain_kept
    | (with_reducible refine kept_ite ?_ ?_ <;> intro _)
    | simp only [kept_mk]
    | exact fun x => tblSorted_tblSet x
    | exact fun x => tblSorted_tblIns x
    | exact fun x => tblSorted_filter x

theorem portCtrlWrite_kept {s : State} {p : Nat} {v : Word} (hs : Kept kq kb s) :
    Kept kq kb (portCtrlWrite s p v) := by
  unfold portCtrlWrite
  try dsimp only
  repeat' first
    | with_reducible assumption
    | with_reducible apply state_setReg_kept
    | with_reducible apply state_setPort_kept
    | with_reducible apply endSession_kept
    | (with_reducible refine kept_ite ?_ ?_ <;> intro _)
    | simp only [kept_mk]
    | exact fun x => tblSorted_tblSet x
    | exact fun x => tblSorted_tblIns x
    | exact fun x => tblSorted_filter x
    | split

theorem makeHello_kept {s : State} {p : Nat} (hs : Kept kq kb s) : Kept kq kb (makeHello s p).1 := hs

theorem sendLink_kept {s : State} {p : Nat} {m : LinkMsg} (hs : Kept kq kb s) :
    Kept kq kb (sendLink s p m) := by
  unfold sendLink
  try dsimp only
  repeat' first
    | with_reducible assumption
    | with_reducible apply state_setPort_kept
    | (with_reducible refine kept_ite ?_ ?_ <;> intro _)
    | simp only [kept_mk]
    | exact fun x => tblSorted_tblSet x
    | exact fun x => tblSorted_tblIns x
    | exact fun x => tblSorted_filter x

theorem enterIdent_kept {s : State} {p : Nat} (hs : Kept kq kb s) :
    Kept kq kb (enterIdent s p) := by
  unfold enterIdent
  try dsimp only
  repeat' first
    | with_reducible assumption
    | with_reducible apply state_setPort_kept
    | with_reducible apply makeHello_kept
    | with_reducible apply sendLink_kept
    | (with_reducible refine kept_ite ?_ ?_ <;> intro _)
    | simp only [kept_mk]
    | exact fun x => tblSorted_tblSet x
    | exact fun x => tblSorted_tblIns x
    | exact fun x => tblSorted_filter x
    | split

theorem trainingComplete_kept {s : State} {p : Nat} (hs : Kept kq kb s) :
    Kept kq kb (trainingComplete s p) := by
  unfold trainingComplete
  try dsimp only
  repeat' first
    | with_reducible assumption
    | with_reducible apply enterIdent_kept
    | (with_reducible refine kept_ite ?_ ?_ <;> intro _)
    | split

theorem trainingTimeout_kept {s : State} {p : Nat} (hs : Kept kq kb s) :
    Kept kq kb (trainingTimeout s p) := by
  unfold trainingTimeout
  try dsimp only
  repeat' first
    | with_reducible assumption
    | with_reducible apply endSession_kept
    | with_reducible apply countRetrain_kept
    | (with_reducible refine kept_ite ?_ ?_ <;> intro _)
    | split

theorem downRetry_kept {s : State} {p : Nat} (hs : Kept kq kb s) :
    Kept kq kb (downRetry s p) := by
  unfold downRetry
  try dsimp only
  repeat' first
    | with_reducible assumption
    | with_reducible apply state_setPort_kept
    | (with_reducible refine kept_ite ?_ ?_ <;> intro _)
    | simp only [kept_mk]
    | exact fun x => tblSorted_tblSet x
    | exact fun x => tblSorted_tblIns x
    | exact fun x => tblSorted_filter x
    | split

theorem enterUp_kept {s : State} {p : Nat} (hs : Kept kq kb s) :
    Kept kq kb (enterUp s p) := by
  unfold enterUp
  try dsimp only
  repeat' first
    | with_reducible assumption
    | with_reducible apply state_setPort_kept
    | with_reducible apply sendLink_kept
    | (with_reducible refine kept_ite ?_ ?_ <;> intro _)
    | simp only [kept_mk]
    | exact fun x => tblSorted_tblSet x
    | exact fun x => tblSorted_tblIns x
    | exact fun x => tblSorted_filter x

theorem setPeer_kept {s : State} {p : Nat} {node : Nat} {port : Nat} {group : Nat} (hs : Kept kq kb s) :
    Kept kq kb (setPeer s p node port group) := by
  unfold setPeer
  try dsimp only
  repeat' first
    | with_reducible assumption
    | with_reducible apply state_setPort_kept
    | (with_reducible refine kept_ite ?_ ?_ <;> intro _)
    | simp only [kept_mk]
    | exact fun x => tblSorted_tblSet x
    | exact fun x => tblSorted_tblIns x
    | exact fun x => tblSorted_filter x
    | split

theorem sendFinish_kept {s : State} {p : Nat} {a : Agreement} (hs : Kept kq kb s) :
    Kept kq kb (sendFinish s p a) := by
  unfold sendFinish
  try dsimp only
  repeat' first
    | with_reducible assumption
    | with_reducible apply state_draw_kept
    | with_reducible apply sendLink_kept
    | (with_reducible refine kept_ite ?_ ?_ <;> intro _)

theorem takeHello_kept {s : State} {p node port group nonce : Nat} {key chain : List Byte} (hs : Kept kq kb s) :
    Kept kq kb (takeHello s p node port group nonce key chain) := by
  have h0 : Kept kq kb (setPeer s p node port group) := setPeer_kept hs
  unfold takeHello
  generalize setPeer s p node port group = u at h0
  dsimp only
  cases ha : (u.port p).agree with
  | some a => exact sendFinish_kept (state_setPort_kept h0)
  | none => exact sendFinish_kept (state_setPort_kept (sendLink_kept (makeHello_kept h0)))

theorem identFails_kept {s : State} {p : Nat} (hs : Kept kq kb s) :
    Kept kq kb (identFails s p) := by
  unfold identFails
  try dsimp only
  repeat' first
    | with_reducible assumption
    | with_reducible apply state_bump_kept
    | with_reducible apply logEntry_kept
    | with_reducible apply endSession_kept
    | (with_reducible refine kept_ite ?_ ?_ <;> intro _)

theorem takeFinish_kept {s : State} {p : Nat} {sig : List Byte} (hs : Kept kq kb s) :
    Kept kq kb (takeFinish s p sig) := by
  unfold takeFinish
  try dsimp only
  repeat' first
    | with_reducible assumption
    | with_reducible apply state_setPort_kept
    | with_reducible apply enterUp_kept
    | with_reducible apply identFails_kept
    | (with_reducible refine kept_ite ?_ ?_ <;> intro _)
    | simp only [kept_mk]
    | exact fun x => tblSorted_tblSet x
    | exact fun x => tblSorted_tblIns x
    | exact fun x => tblSorted_filter x
    | split

theorem linkPacket_kept {s : State} {p : Nat} {m : LinkMsg} (hs : Kept kq kb s) :
    Kept kq kb (linkPacket s p m) := by
  unfold linkPacket
  try dsimp only
  repeat' first
    | with_reducible assumption
    | with_reducible apply state_setPort_kept
    | with_reducible apply enterUp_kept
    | with_reducible apply setPeer_kept
    | with_reducible apply takeHello_kept
    | with_reducible apply takeFinish_kept
    | (with_reducible refine kept_ite ?_ ?_ <;> intro _)
    | simp only [kept_mk]
    | exact fun x => tblSorted_tblSet x
    | exact fun x => tblSorted_tblIns x
    | exact fun x => tblSorted_filter x
    | split

theorem portActivate_kept {s : State} {p : Nat} (hs : Kept kq kb s) :
    Kept kq kb (portActivate s p) := by
  unfold portActivate
  try dsimp only
  repeat' first
    | with_reducible assumption
    | with_reducible apply state_draw_kept
    | with_reducible apply state_bump16_kept
    | with_reducible apply state_setPort_kept
    | (with_reducible refine kept_ite ?_ ?_ <;> intro _)
    | simp only [kept_mk]
    | exact fun x => tblSorted_tblSet x
    | exact fun x => tblSorted_tblIns x
    | exact fun x => tblSorted_filter x
    | split

theorem retrainLock_kept {s : State} {p : Nat} (hs : Kept kq kb s) :
    Kept kq kb (retrainLock s p) := by
  unfold retrainLock
  try dsimp only
  repeat' first
    | with_reducible assumption
    | with_reducible apply state_setPort_kept
    | (with_reducible refine kept_ite ?_ ?_ <;> intro _)
    | simp only [kept_mk]
    | exact fun x => tblSorted_tblSet x
    | exact fun x => tblSorted_tblIns x
    | exact fun x => tblSorted_filter x
    | split

theorem retrainTimeout_kept {s : State} {p : Nat} (hs : Kept kq kb s) :
    Kept kq kb (retrainTimeout s p) := by
  unfold retrainTimeout
  try dsimp only
  repeat' first
    | with_reducible assumption
    | with_reducible apply endSession_kept
    | (with_reducible refine kept_ite ?_ ?_ <;> intro _)
    | split

theorem requestRotation_kept {s : State} {p : Nat} {l : Nat} (hs : Kept kq kb s) :
    Kept kq kb (requestRotation s p l) := by
  unfold requestRotation
  try dsimp only
  repeat' first
    | with_reducible assumption
    | with_reducible apply state_setPort_kept
    | (with_reducible refine kept_ite ?_ ?_ <;> intro _)
    | simp only [kept_mk]
    | exact fun x => tblSorted_tblSet x
    | exact fun x => tblSorted_tblIns x
    | exact fun x => tblSorted_filter x

theorem laneRotationStart_kept {s : State} {p : Nat} (hs : Kept kq kb s) :
    Kept kq kb (laneRotationStart s p) := by
  unfold laneRotationStart
  try dsimp only
  repeat' first
    | with_reducible assumption
    | with_reducible apply requestRotation_kept
    | (with_reducible refine kept_ite ?_ ?_ <;> intro _)
    | split

theorem laneRotationSwitch_kept {s : State} {p : Nat} (hs : Kept kq kb s) :
    Kept kq kb (laneRotationSwitch s p) := by
  unfold laneRotationSwitch
  try dsimp only
  repeat' first
    | with_reducible assumption
    | with_reducible apply state_setPort_kept
    | (with_reducible refine kept_ite ?_ ?_ <;> intro _)
    | simp only [kept_mk]
    | exact fun x => tblSorted_tblSet x
    | exact fun x => tblSorted_tblIns x
    | exact fun x => tblSorted_filter x
    | with_reducible apply kept_getD
    | split

theorem laneRotateRetry_kept {s : State} {p : Nat} (hs : Kept kq kb s) :
    Kept kq kb (laneRotateRetry s p) := by
  unfold laneRotateRetry
  try dsimp only
  repeat' first
    | with_reducible assumption
    | with_reducible apply laneRotationStart_kept
    | (with_reducible refine kept_ite ?_ ?_ <;> intro _)

theorem laneCalibrationDone_kept {s : State} {p : Nat} (hs : Kept kq kb s) :
    Kept kq kb (laneCalibrationDone s p) := by
  unfold laneCalibrationDone
  try dsimp only
  repeat' first
    | with_reducible assumption
    | with_reducible apply state_setPort_kept
    | with_reducible apply bgUnit_kept
    | (with_reducible refine kept_ite ?_ ?_ <;> intro _)
    | simp only [kept_mk]
    | exact fun x => tblSorted_tblSet x
    | exact fun x => tblSorted_tblIns x
    | exact fun x => tblSorted_filter x
    | split

theorem laneRetire_kept {s : State} {p : Nat} {lane : Nat} (hs : Kept kq kb s) :
    Kept kq kb (laneRetire s p lane) := by
  unfold laneRetire
  try dsimp only
  repeat' first
    | with_reducible assumption
    | with_reducible apply notice_kept
    | with_reducible apply state_setPort_kept
    | with_reducible apply endSession_kept
    | with_reducible apply startRetrain_kept
    | (with_reducible refine kept_ite ?_ ?_ <;> intro _)
    | simp only [kept_mk]
    | exact fun x => tblSorted_tblSet x
    | exact fun x => tblSorted_tblIns x
    | exact fun x => tblSorted_filter x
    | split

theorem linkRekey_kept {s : State} {p : Nat} (hs : Kept kq kb s) :
    Kept kq kb (linkRekey s p) := by
  unfold linkRekey
  try dsimp only
  repeat' first
    | with_reducible assumption
    | with_reducible apply state_setPort_kept
    | with_reducible apply endSession_kept
    | (with_reducible refine kept_ite ?_ ?_ <;> intro _)
    | simp only [kept_mk]
    | exact fun x => tblSorted_tblSet x
    | exact fun x => tblSorted_tblIns x
    | exact fun x => tblSorted_filter x
    | split

theorem creditStallTick_kept {s : State} {p : Nat} {v : Nat} (hs : Kept kq kb s) :
    Kept kq kb (creditStallTick s p v) := by
  unfold creditStallTick
  try dsimp only
  repeat' first
    | with_reducible assumption
    | with_reducible apply state_bump16_kept
    | (with_reducible refine kept_ite ?_ ?_ <;> intro _)
    | intro _
    | split

theorem crvClkLoss_kept {s : State} (hs : Kept kq kb s) :
    Kept kq kb (crvClkLoss s) := by
  unfold crvClkLoss
  try dsimp only
  repeat' first
    | with_reducible assumption
    | with_reducible apply endSession_kept
    | with_reducible apply kept_foldl
    | (with_reducible refine kept_ite ?_ ?_ <;> intro _)
    | simp only [kept_mk]
    | exact fun x => tblSorted_tblSet x
    | exact fun x => tblSorted_tblIns x
    | exact fun x => tblSorted_filter x
    | intro _
    | split

theorem crvClkReturn_kept {s : State} (hs : Kept kq kb s) :
    Kept kq kb (crvClkReturn s) := by
  unfold crvClkReturn
  try dsimp only
  repeat' first
    | with_reducible assumption
    | with_reducible apply downRetry_kept
    | with_reducible apply kept_foldl
    | (with_reducible refine kept_ite ?_ ?_ <;> intro _)
    | simp only [kept_mk]
    | exact fun x => tblSorted_tblSet x
    | exact fun x => tblSorted_tblIns x
    | exact fun x => tblSorted_filter x
    | intro _

end Sys2Proof.Machine
end

