-- ==== Sys2Proof/Laws/Kept/Frames.lean ====
section
/-! SUPPORT. Sys2Proof/Laws/Kept/Frames.lean: the operations of Machine/Frames.lean keep the queue and the canonical form. -/

namespace Sys2Proof.Machine

open Sys2Proof

variable {kq : List Instr} {kb : Bool}

theorem frameTransmit_kept {s : State} {p : Nat} (hs : Kept kq kb s) :
    Kept kq kb (frameTransmit s p) := by
  unfold frameTransmit
  try dsimp only
  repeat' first
    | with_reducible assumption
    | with_reducible apply state_setPort_kept
    | with_reducible apply startRetrain_kept
    | (with_reducible refine kept_ite ?_ ?_ <;> intro _)
    | simp only [kept_mk]
    | exact fun x => tblSorted_tblSet x
    | exact fun x => tblSorted_tblIns x
    | exact fun x => tblSorted_filter x
    | intro _
    | split

theorem badFrame_kept {s : State} {p : Nat} (hs : Kept kq kb s) :
    Kept kq kb (badFrame s p) := by
  unfold badFrame
  try dsimp only
  repeat' first
    | with_reducible assumption
    | with_reducible apply state_bump_kept
    | with_reducible apply state_setPort_kept
    | (with_reducible refine kept_ite ?_ ?_ <;> intro _)
    | simp only [kept_mk]
    | exact fun x => tblSorted_tblSet x
    | exact fun x => tblSorted_tblIns x
    | exact fun x => tblSorted_filter x

theorem tagFailure_kept {s : State} {p : Nat} (hs : Kept kq kb s) :
    Kept kq kb (tagFailure s p) := by
  unfold tagFailure
  try dsimp only
  repeat' first
    | with_reducible assumption
    | with_reducible apply state_setReg_kept
    | with_reducible apply state_setPort_kept
    | with_reducible apply endSession_kept
    | with_reducible apply countRetrain_kept
    | with_reducible apply badFrame_kept
    | (with_reducible refine kept_ite ?_ ?_ <;> intro _)
    | simp only [kept_mk]
    | exact fun x => tblSorted_tblSet x
    | exact fun x => tblSorted_tblIns x
    | exact fun x => tblSorted_filter x
    | split

theorem takeAck_kept {s : State} {p a : Nat} (hs : Kept kq kb s) : Kept kq kb (takeAck s p a).1 :=
  kept_ite_fst (fun _ => state_bump16_kept hs) (fun _ => state_setPort_kept hs)

theorem takeNak_kept {s : State} {p : Nat} {a : Nat} (hs : Kept kq kb s) :
    Kept kq kb (takeNak s p a) := by
  unfold takeNak
  try dsimp only
  repeat' first
    | with_reducible assumption
    | with_reducible apply state_bump_kept
    | with_reducible apply state_setPort_kept
    | (with_reducible refine kept_ite ?_ ?_ <;> intro _)
    | simp only [kept_mk]
    | exact fun x => tblSorted_tblSet x
    | exact fun x => tblSorted_tblIns x
    | exact fun x => tblSorted_filter x
    | intro _
    | split

theorem takeRotateReq_kept {s : State} {p : Nat} {larg : Nat} (hs : Kept kq kb s) :
    Kept kq kb (takeRotateReq s p larg) := by
  unfold takeRotateReq
  try dsimp only
  repeat' first
    | with_reducible assumption
    | with_reducible apply state_setPort_kept
    | (with_reducible refine kept_ite ?_ ?_ <;> intro _)
    | simp only [kept_mk]
    | exact fun x => tblSorted_tblSet x
    | exact fun x => tblSorted_tblIns x
    | exact fun x => tblSorted_filter x
    | split

theorem takeRetire_kept {s : State} {p : Nat} {l : Nat} (hs : Kept kq kb s) :
    Kept kq kb (takeRetire s p l) := by
  unfold takeRetire
  try dsimp only
  repeat' first
    | with_reducible assumption
    | with_reducible apply notice_kept
    | with_reducible apply state_setPort_kept
    | (with_reducible refine kept_ite ?_ ?_ <;> intro _)
    | simp only [kept_mk]
    | exact fun x => tblSorted_tblSet x
    | exact fun x => tblSorted_tblIns x
    | exact fun x => tblSorted_filter x
    | split

theorem takeLane_kept {s : State} {p : Nat} {c : Control} (hs : Kept kq kb s) :
    Kept kq kb (takeLane s p c) := by
  unfold takeLane
  try dsimp only
  repeat' first
    | with_reducible assumption
    | with_reducible apply state_setPort_kept
    | with_reducible apply takeRotateReq_kept
    | with_reducible apply takeRetire_kept
    | (with_reducible refine kept_ite ?_ ?_ <;> intro _)
    | simp only [kept_mk]
    | exact fun x => tblSorted_tblSet x
    | exact fun x => tblSorted_tblIns x
    | exact fun x => tblSorted_filter x
    | split

theorem forward_kept {s : State} {fs : List Flit} (hs : Kept kq kb s) :
    Kept kq kb (forward s fs) := by
  unfold forward
  try dsimp only
  repeat' first
    | with_reducible assumption
    | with_reducible apply state_bump_kept
    | with_reducible apply queueFlits_kept
    | (with_reducible refine kept_ite ?_ ?_ <;> intro _)
    | simp only [kept_mk]
    | exact fun x => tblSorted_tblSet x
    | exact fun x => tblSorted_tblIns x
    | exact fun x => tblSorted_filter x
    | split

theorem deliver_kept {s : State} {p : Nat} {t : Nat} {fs : List Flit} (hs : Kept kq kb s) :
    Kept kq kb (deliver s p t fs) := by
  unfold deliver
  try dsimp only
  repeat' first
    | with_reducible assumption
    | with_reducible apply writePacket_kept
    | with_reducible apply commitPacket_kept
    | with_reducible apply abortPacket_kept
    | with_reducible apply readReqPacket_kept
    | with_reducible apply readDataPacket_kept
    | with_reducible apply donePacket_kept
    | with_reducible apply tallyUp_kept
    | with_reducible apply tallyDown_kept
    | (with_reducible refine kept_ite ?_ ?_ <;> intro _)
    | with_reducible exact fun x => storeOk_mk x
    | split

theorem takePacket_kept {s : State} {p : Nat} {v : Nat} {fs : List Flit} (hs : Kept kq kb s) :
    Kept kq kb (takePacket s p v fs) := by
  unfold takePacket
  try dsimp only
  repeat' first
    | with_reducible assumption
    | with_reducible apply packetBad_kept
    | with_reducible apply forward_kept
    | with_reducible apply deliver_kept
    | (with_reducible refine kept_ite ?_ ?_ <;> intro _)
    | split

theorem returnCredits_kept {s : State} {p : Nat} {v : Nat} {n : Nat} (hs : Kept kq kb s) :
    Kept kq kb (returnCredits s p v n) := by
  unfold returnCredits
  try dsimp only
  repeat' first
    | with_reducible assumption
    | with_reducible apply state_setPort_kept
    | (with_reducible refine kept_ite ?_ ?_ <;> intro _)
    | simp only [kept_mk]
    | exact fun x => tblSorted_tblSet x
    | exact fun x => tblSorted_tblIns x
    | exact fun x => tblSorted_filter x
    | with_reducible apply kept_getD

theorem takePackets_kept {p v k : Nat} {s : State} {fs : List Flit} (hs : Kept kq kb s) : Kept kq kb (takePackets p v k s fs).1 := by
  induction k generalizing s fs with
  | zero => exact hs
  | succ k ih =>
    cases fs with
    | nil => exact hs
    | cons h l =>
      unfold takePackets
      dsimp only
      split
      · exact ih (packetBad_kept (returnCredits_kept hs))
      · split
        · exact hs
        · exact ih (takePacket_kept (returnCredits_kept hs))

theorem drainLane_kept {p : Nat} {s : State} {v : Nat} (hs : Kept kq kb s) : Kept kq kb (drainLane p s v) :=
  state_setPort_kept (takePackets_kept (state_setPort_kept hs))

theorem takeFlits_kept {s : State} {p : Nat} {c : Control} {m : List Byte} (hs : Kept kq kb s) :
    Kept kq kb (takeFlits s p c m) := by
  unfold takeFlits
  try dsimp only
  repeat' first
    | with_reducible assumption
    | with_reducible apply state_setPort_kept
    | with_reducible apply drainLane_kept
    | with_reducible apply kept_foldl
    | (with_reducible refine kept_ite ?_ ?_ <;> intro _)
    | simp only [kept_mk]
    | exact fun x => tblSorted_tblSet x
    | exact fun x => tblSorted_tblIns x
    | exact fun x => tblSorted_filter x
    | intro _
    | split

theorem goodFrame_kept {s : State} {p : Nat} {c : Control} {m : List Byte} (hs : Kept kq kb s) : Kept kq kb (goodFrame s p c m) :=
  takeFlits_kept (takeLane_kept (state_setPort_kept
    (kept_ite (fun _ => takeNak_kept (takeAck_kept hs)) (fun _ => takeAck_kept hs))))

theorem frameReceive_kept {s : State} {p : Nat} {f : RxFrame} (hs : Kept kq kb s) :
    Kept kq kb (frameReceive s p f) := by
  unfold frameReceive
  try dsimp only
  repeat' first
    | with_reducible assumption
    | with_reducible apply state_bump_kept
    | with_reducible apply state_setPort_kept
    | with_reducible apply badFrame_kept
    | with_reducible apply tagFailure_kept
    | with_reducible apply goodFrame_kept
    | (with_reducible refine kept_ite ?_ ?_ <;> intro _)
    | simp only [kept_mk]
    | exact fun x => tblSorted_tblSet x
    | exact fun x => tblSorted_tblIns x
    | exact fun x => tblSorted_filter x
    | split

end Sys2Proof.Machine
end

