-- ==== Sys2Proof/Laws/Kept/Reset.lean ====
section
/-! SUPPORT. Sys2Proof/Laws/Kept/Reset.lean: the operations of Machine/Reset.lean keep the queue and the canonical form. -/

namespace Sys2Proof.Machine

open Sys2Proof

variable {kq : List Instr} {kb : Bool}

theorem warmRegs_sorted {s : State} (h : tblSorted s.regs = true) : tblSorted (warmRegs s) = true := by
  refine tblSorted_filterMap (fun e y he => ?_) h
  split at he
  · split at he
    · cases he
    · cases he; rfl
  · split at he
    · cases he; rfl
    · cases he

theorem warmReset_kept {s : State} {kind : Nat} (hs : Kept kq kb s) : Kept kq kb (warmReset s kind) :=
  state_bump_kept ⟨hs.1, fun h => ⟨⟨rfl, (hs.2 h).1.2.1, rfl⟩, rfl, warmRegs_sorted (hs.2 h).2.2.1, rfl, rfl, rfl, rfl, rfl⟩⟩

theorem coldReset_kept {s : State} (hs : Kept kq kb s) : Kept kq kb (coldReset s) :=
  ⟨hs.1, fun h => ⟨⟨rfl, (hs.2 h).1.2.1, rfl⟩, rfl, tblSorted_filter (hs.2 h).2.2.1, rfl, rfl, rfl, rfl, rfl⟩⟩

theorem portsOff_kept {s : State} (hs : Kept kq kb s) :
    Kept kq kb (portsOff s) := by
  unfold portsOff
  try dsimp only
  repeat' first
    | with_reducible assumption
    | with_reducible apply state_reset_kept
    | with_reducible apply state_setFab_kept
    | (with_reducible refine kept_ite ?_ ?_ <;> intro _)
    | simp only [kept_mk]
    | exact fun x => tblSorted_tblSet x
    | exact fun x => tblSorted_tblIns x
    | exact fun x => tblSorted_filter x
    | intro _

theorem retiredLanes_kept {s : State} {p : Nat} (hs : Kept kq kb s) :
    Kept kq kb (retiredLanes s p) := by
  unfold retiredLanes
  try dsimp only
  repeat' first
    | with_reducible assumption
    | with_reducible apply state_setPort_kept
    | with_reducible apply kept_foldl
    | (with_reducible refine kept_ite ?_ ?_ <;> intro _)
    | simp only [kept_mk]
    | exact fun x => tblSorted_tblSet x
    | exact fun x => tblSorted_tblIns x
    | exact fun x => tblSorted_filter x
    | intro _
    | split

theorem portsTrain_kept {s : State} (hs : Kept kq kb s) :
    Kept kq kb (portsTrain s) := by
  unfold portsTrain
  try dsimp only
  repeat' first
    | with_reducible assumption
    | with_reducible apply state_reset_kept
    | with_reducible apply state_setPort_kept
    | with_reducible apply retiredLanes_kept
    | with_reducible apply kept_foldl
    | (with_reducible refine kept_ite ?_ ?_ <;> intro _)
    | simp only [kept_mk]
    | exact fun x => tblSorted_tblSet x
    | exact fun x => tblSorted_tblIns x
    | exact fun x => tblSorted_filter x
    | intro _
    | split

theorem sensorsOff_kept {s : State} {p : Nat → Bool} (hs : Kept kq kb s) :
    Kept kq kb (sensorsOff s p) := by
  unfold sensorsOff
  try dsimp only
  repeat' first
    | with_reducible assumption
    | (with_reducible refine kept_ite ?_ ?_ <;> intro _)
    | simp only [kept_mk]
    | exact fun x => tblSorted_tblSet x
    | exact fun x => tblSorted_tblIns x
    | exact fun x => tblSorted_filter x
    | intro _
    | split

theorem dropLoft_kept {s : State} (hs : Kept kq kb s) : Kept kq kb (dropLoft s) :=
  ⟨hs.1, fun h => ⟨⟨rfl, (hs.2 h).1.2.1, rfl⟩, rfl, (hs.2 h).2.2.1, rfl, rfl, rfl, rfl, (hs.2 h).2.2.2.2.2.2.2⟩⟩

theorem fallowEntered_kept {s : State} {keep : Bool} (hs : Kept kq kb s) :
    Kept kq kb (fallowEntered s keep) := by
  unfold fallowEntered
  try dsimp only
  repeat' first
    | with_reducible assumption
    | with_reducible apply state_draw_kept
    | with_reducible apply state_setPwr_kept
    | with_reducible apply portsOff_kept
    | with_reducible apply sensorsOff_kept
    | with_reducible apply dropLoft_kept
    | (with_reducible refine kept_ite ?_ ?_ <;> intro _)
    | simp only [kept_mk]
    | exact fun x => tblSorted_tblSet x
    | exact fun x => tblSorted_tblIns x
    | exact fun x => tblSorted_filter x
    | intro _
    | split

end Sys2Proof.Machine
end

