-- ==== Sys2Proof/Laws/Kept/Power.lean ====
section
/-! SUPPORT. Sys2Proof/Laws/Kept/Power.lean: the operations of Machine/Power.lean keep the queue and the canonical form. -/

namespace Sys2Proof.Machine

open Sys2Proof

variable {kq : List Instr} {kb : Bool}

theorem pwrResult_kept {s : State} {st : Status} {reason : Nat} {refuser : Nat} (hs : Kept kq kb s) :
    Kept kq kb (pwrResult s st reason refuser) := by
  unfold pwrResult
  try dsimp only
  repeat' first
    | with_reducible assumption
    | with_reducible apply state_setPwr_kept
    | (with_reducible refine kept_ite ?_ ?_ <;> intro _)
    | simp only [kept_mk]
    | exact fun x => tblSorted_tblSet x
    | exact fun x => tblSorted_tblIns x
    | exact fun x => tblSorted_filter x

theorem pwrRequest_kept {s : State} {t : PwrState} (hs : Kept kq kb s) :
    Kept kq kb (pwrRequest s t) := by
  unfold pwrRequest
  try dsimp only
  repeat' first
    | with_reducible assumption
    | with_reducible apply state_setPwr_kept
    | with_reducible apply wakeAny_kept
    | with_reducible apply pwrResult_kept
    | (with_reducible refine kept_ite ?_ ?_ <;> intro _)
    | simp only [kept_mk]
    | exact fun x => tblSorted_tblSet x
    | exact fun x => tblSorted_tblIns x
    | exact fun x => tblSorted_filter x
    | split

theorem pwrCtrl_kept {s : State} {v : Word} (hs : Kept kq kb s) :
    Kept kq kb (pwrCtrl s v) := by
  unfold pwrCtrl
  try dsimp only
  repeat' first
    | with_reducible assumption
    | with_reducible apply pwrResult_kept
    | with_reducible apply pwrRequest_kept
    | (with_reducible refine kept_ite ?_ ?_ <;> intro _)
    | split

theorem pwrD3_kept {s : State} (hs : Kept kq kb s) :
    Kept kq kb (pwrD3 s) := by
  unfold pwrD3
  try dsimp only
  repeat' first
    | with_reducible assumption
    | with_reducible apply pwrRequest_kept
    | (with_reducible refine kept_ite ?_ ?_ <;> intro _)
    | split

theorem autoHold_kept {s : State} (hs : Kept kq kb s) :
    Kept kq kb (autoHold s) := by
  unfold autoHold
  try dsimp only
  repeat' first
    | with_reducible assumption
    | with_reducible apply pwrRequest_kept
    | (with_reducible refine kept_ite ?_ ?_ <;> intro _)
    | split

theorem acceptShake_kept {s : State} {t : PwrState} {acc : List Nat} {p : Nat} (hs : Kept kq kb s) :
    Kept kq kb (acceptShake s t acc p) := by
  unfold acceptShake
  try dsimp only
  repeat' first
    | with_reducible assumption
    | with_reducible apply state_setPwr_kept
    | (with_reducible refine kept_ite ?_ ?_ <;> intro _)
    | simp only [kept_mk]
    | exact fun x => tblSorted_tblSet x
    | exact fun x => tblSorted_tblIns x
    | exact fun x => tblSorted_filter x
    | split

theorem handshakeAnswer_kept {s : State} {p : Nat} {ans : HsAnswer} (hs : Kept kq kb s) :
    Kept kq kb (handshakeAnswer s p ans) := by
  unfold handshakeAnswer
  try dsimp only
  repeat' first
    | with_reducible assumption
    | with_reducible apply abandonShake_kept
    | with_reducible apply acceptShake_kept
    | (with_reducible refine kept_ite ?_ ?_ <;> intro _)
    | split

theorem handshakeTimeout_kept {s : State} (hs : Kept kq kb s) :
    Kept kq kb (handshakeTimeout s) := by
  unfold handshakeTimeout
  try dsimp only
  repeat' first
    | with_reducible assumption
    | with_reducible apply abandonShake_kept
    | (with_reducible refine kept_ite ?_ ?_ <;> intro _)
    | intro _
    | split

theorem stateReached_kept {s : State} {t : PwrState} (hs : Kept kq kb s) :
    Kept kq kb (stateReached s t) := by
  unfold stateReached
  try dsimp only
  repeat' first
    | with_reducible assumption
    | with_reducible apply pwrEvent_kept
    | with_reducible apply state_setPwr_kept
    | (with_reducible refine kept_ite ?_ ?_ <;> intro _)
    | simp only [kept_mk]
    | exact fun x => tblSorted_tblSet x
    | exact fun x => tblSorted_tblIns x
    | exact fun x => tblSorted_filter x

theorem serveWake_kept {s : State} (hs : Kept kq kb s) :
    Kept kq kb (serveWake s) := by
  unfold serveWake
  try dsimp only
  repeat' first
    | with_reducible assumption
    | with_reducible apply state_setPwr_kept
    | with_reducible apply wakeAny_kept
    | (with_reducible refine kept_ite ?_ ?_ <;> intro _)
    | simp only [kept_mk]
    | exact fun x => tblSorted_tblSet x
    | exact fun x => tblSorted_tblIns x
    | exact fun x => tblSorted_filter x
    | split

theorem powerTransitionDone_kept {s : State} (hs : Kept kq kb s) :
    Kept kq kb (powerTransitionDone s) := by
  unfold powerTransitionDone
  try dsimp only
  repeat' first
    | with_reducible assumption
    | with_reducible apply sensorsOff_kept
    | with_reducible apply fallowEntered_kept
    | with_reducible apply stateReached_kept
    | with_reducible apply serveWake_kept
    | (with_reducible refine kept_ite ?_ ?_ <;> intro _)
    | split

theorem thermalTrip_kept {s : State} (hs : Kept kq kb s) :
    Kept kq kb (thermalTrip s) := by
  unfold thermalTrip
  try dsimp only
  repeat' first
    | with_reducible assumption
    | with_reducible apply pwrEvent_kept
    | with_reducible apply state_setPwr_kept
    | with_reducible apply fallowEntered_kept
    | (with_reducible refine kept_ite ?_ ?_ <;> intro _)
    | simp only [kept_mk]
    | exact fun x => tblSorted_tblSet x
    | exact fun x => tblSorted_tblIns x
    | exact fun x => tblSorted_filter x

theorem compTrip_kept {s : State} (hs : Kept kq kb s) :
    Kept kq kb (compTrip s) := by
  unfold compTrip
  try dsimp only
  repeat' first
    | with_reducible assumption
    | with_reducible apply state_bump16_kept
    | with_reducible apply state_setBits_kept
    | with_reducible apply state_setPwr_kept
    | with_reducible apply wakeSource_kept
    | (with_reducible refine kept_ite ?_ ?_ <;> intro _)
    | simp only [kept_mk]
    | exact fun x => tblSorted_tblSet x
    | exact fun x => tblSorted_tblIns x
    | exact fun x => tblSorted_filter x
    | with_reducible exact fun x => storeOk_mk x
    | split

theorem compRearm_kept {s : State} (hs : Kept kq kb s) :
    Kept kq kb (compRearm s) := by
  unfold compRearm
  try dsimp only
  repeat' first
    | with_reducible assumption
    | with_reducible apply state_setPwr_kept
    | (with_reducible refine kept_ite ?_ ?_ <;> intro _)
    | simp only [kept_mk]
    | exact fun x => tblSorted_tblSet x
    | exact fun x => tblSorted_tblIns x
    | exact fun x => tblSorted_filter x
    | with_reducible exact fun x => storeOk_mk x

theorem wakeCfgWrite_kept {s : State} {v : Word} (hs : Kept kq kb s) :
    Kept kq kb (wakeCfgWrite s v) := by
  unfold wakeCfgWrite
  try dsimp only
  repeat' first
    | with_reducible assumption
    | with_reducible apply state_setReg_kept
    | with_reducible apply compRearm_kept
    | (with_reducible refine kept_ite ?_ ?_ <;> intro _)
    | with_reducible exact fun x => storeOk_mk x

theorem state_setDie_kept {s : State} {d : Nat} {x : DiePower} (hs : Kept kq kb s) :
    Kept kq kb (State.setDie s d x) := by
  unfold State.setDie
  try dsimp only
  repeat' first
    | with_reducible assumption
    | with_reducible apply state_reset_kept
    | with_reducible apply state_setPwr_kept
    | (with_reducible refine kept_ite ?_ ?_ <;> intro _)
    | simp only [kept_mk]
    | exact fun x => tblSorted_tblSet x
    | exact fun x => tblSorted_tblIns x
    | exact fun x => tblSorted_filter x

theorem state_setRail_kept {s : State} {r : Nat} {x : RailSt} (hs : Kept kq kb s) :
    Kept kq kb (State.setRail s r x) := by
  unfold State.setRail
  try dsimp only
  repeat' first
    | with_reducible assumption
    | with_reducible apply state_reset_kept
    | with_reducible apply state_setPwr_kept
    | (with_reducible refine kept_ite ?_ ?_ <;> intro _)
    | simp only [kept_mk]
    | exact fun x => tblSorted_tblSet x
    | exact fun x => tblSorted_tblIns x
    | exact fun x => tblSorted_filter x

theorem state_setPhase_kept {s : State} {i : Nat} {x : PhaseSt} (hs : Kept kq kb s) :
    Kept kq kb (State.setPhase s i x) := by
  unfold State.setPhase
  try dsimp only
  repeat' first
    | with_reducible assumption
    | with_reducible apply state_reset_kept
    | with_reducible apply state_setPwr_kept
    | (with_reducible refine kept_ite ?_ ?_ <;> intro _)
    | simp only [kept_mk]
    | exact fun x => tblSorted_tblSet x
    | exact fun x => tblSorted_tblIns x
    | exact fun x => tblSorted_filter x

theorem adjustDie_kept {s : State} {d : Nat} (hs : Kept kq kb s) :
    Kept kq kb (adjustDie s d) := by
  unfold adjustDie
  try dsimp only
  repeat' first
    | with_reducible assumption
    | with_reducible apply state_setDie_kept
    | (with_reducible refine kept_ite ?_ ?_ <;> intro _)
    | simp only [kept_mk]
    | exact fun x => tblSorted_tblSet x
    | exact fun x => tblSorted_tblIns x
    | exact fun x => tblSorted_filter x
    | split

theorem adjustDies_kept {s : State} (hs : Kept kq kb s) :
    Kept kq kb (adjustDies s) := by
  unfold adjustDies
  try dsimp only
  repeat' first
    | with_reducible assumption
    | with_reducible apply adjustDie_kept
    | with_reducible apply kept_foldl
    | (with_reducible refine kept_ite ?_ ?_ <;> intro _)
    | intro _

theorem aclkSlewDone_kept {s : State} {d : Nat} (hs : Kept kq kb s) :
    Kept kq kb (aclkSlewDone s d) := by
  unfold aclkSlewDone
  try dsimp only
  repeat' first
    | with_reducible assumption
    | with_reducible apply state_setDie_kept
    | with_reducible apply adjustDie_kept
    | (with_reducible refine kept_ite ?_ ?_ <;> intro _)
    | simp only [kept_mk]
    | exact fun x => tblSorted_tblSet x
    | exact fun x => tblSorted_tblIns x
    | exact fun x => tblSorted_filter x
    | split

theorem revokeSprint_kept {s : State} {d : Nat} (hs : Kept kq kb s) :
    Kept kq kb (revokeSprint s d) := by
  unfold revokeSprint
  try dsimp only
  repeat' first
    | with_reducible assumption
    | with_reducible apply state_setPwr_kept
    | with_reducible apply state_setDie_kept
    | (with_reducible refine kept_ite ?_ ?_ <;> intro _)
    | simp only [kept_mk]
    | exact fun x => tblSorted_tblSet x
    | exact fun x => tblSorted_tblIns x
    | exact fun x => tblSorted_filter x

theorem railStep1_kept {s : State} {r : Nat} {load : Nat} (hs : Kept kq kb s) :
    Kept kq kb (railStep1 s r load) := by
  unfold railStep1
  try dsimp only
  repeat' first
    | with_reducible assumption
    | with_reducible apply state_setRail_kept
    | with_reducible apply adjustDie_kept
    | with_reducible apply revokeSprint_kept
    | (with_reducible refine kept_ite ?_ ?_ <;> intro _)
    | simp only [kept_mk]
    | exact fun x => tblSorted_tblSet x
    | exact fun x => tblSorted_tblIns x
    | exact fun x => tblSorted_filter x
    | split

theorem retirePhase_kept {s : State} {i : Nat} (hs : Kept kq kb s) :
    Kept kq kb (retirePhase s i) := by
  unfold retirePhase
  try dsimp only
  repeat' first
    | with_reducible assumption
    | with_reducible apply pwrEvent_kept
    | with_reducible apply markRetired_kept
    | with_reducible apply spareNotice_kept
    | with_reducible apply state_setPhase_kept
    | with_reducible apply railStep1_kept
    | (with_reducible refine kept_ite ?_ ?_ <;> intro _)
    | simp only [kept_mk]
    | exact fun x => tblSorted_tblSet x
    | exact fun x => tblSorted_tblIns x
    | exact fun x => tblSorted_filter x
    | intro _
    | split

theorem phaseSample_kept {s : State} {amps : List Nat} {bad : List Nat} (hs : Kept kq kb s) :
    Kept kq kb (phaseSample s amps bad) := by
  unfold phaseSample
  try dsimp only
  repeat' first
    | with_reducible assumption
    | with_reducible apply state_setPhase_kept
    | with_reducible apply retirePhase_kept
    | with_reducible apply kept_foldl
    | (with_reducible refine kept_ite ?_ ?_ <;> intro _)
    | simp only [kept_mk]
    | exact fun x => tblSorted_tblSet x
    | exact fun x => tblSorted_tblIns x
    | exact fun x => tblSorted_filter x
    | intro _
    | split

theorem railStep3_kept {s : State} {r : Nat} (hs : Kept kq kb s) :
    Kept kq kb (railStep3 s r) := by
  unfold railStep3
  try dsimp only
  repeat' first
    | with_reducible assumption
    | with_reducible apply state_reset_kept
    | with_reducible apply logEntry_kept
    | with_reducible apply pwrEvent_kept
    | with_reducible apply state_setRail_kept
    | (with_reducible refine kept_ite ?_ ?_ <;> intro _)
    | simp only [kept_mk]
    | exact fun x => tblSorted_tblSet x
    | exact fun x => tblSorted_tblIns x
    | exact fun x => tblSorted_filter x
    | intro _
    | split

theorem sparePhaseSwitched_kept {s : State} {r : Nat} (hs : Kept kq kb s) :
    Kept kq kb (sparePhaseSwitched s r) := by
  unfold sparePhaseSwitched
  try dsimp only
  repeat' first
    | with_reducible assumption
    | with_reducible apply state_reset_kept
    | with_reducible apply spareNotice_kept
    | with_reducible apply state_setRail_kept
    | with_reducible apply state_setPhase_kept
    | with_reducible apply adjustDie_kept
    | with_reducible apply railStep3_kept
    | (with_reducible refine kept_ite ?_ ?_ <;> intro _)
    | simp only [kept_mk]
    | exact fun x => tblSorted_tblSet x
    | exact fun x => tblSorted_tblIns x
    | exact fun x => tblSorted_filter x
    | split

theorem thermalSample_kept {s : State} {i : Nat} {old : Option Int} {v : Int} (hs : Kept kq kb s) :
    Kept kq kb (thermalSample s i old v) := by
  unfold thermalSample
  try dsimp only
  repeat' first
    | with_reducible assumption
    | with_reducible apply pwrEvent_kept
    | with_reducible apply thermalTrip_kept
    | with_reducible apply state_setDie_kept
    | with_reducible apply adjustDie_kept
    | with_reducible apply retirePhase_kept
    | (with_reducible refine kept_ite ?_ ?_ <;> intro _)
    | simp only [kept_mk]
    | exact fun x => tblSorted_tblSet x
    | exact fun x => tblSorted_tblIns x
    | exact fun x => tblSorted_filter x
    | intro _
    | split

theorem sensorSample_kept {s : State} {i : Nat} {v : Option Nat} (hs : Kept kq kb s) :
    Kept kq kb (sensorSample s i v) := by
  unfold sensorSample
  try dsimp only
  repeat' first
    | with_reducible assumption
    | with_reducible apply logEntry_kept
    | with_reducible apply state_setSensor_kept
    | with_reducible apply bgUnit_kept
    | with_reducible apply thermalSample_kept
    | (with_reducible refine kept_ite ?_ ?_ <;> intro _)
    | simp only [kept_mk]
    | exact fun x => tblSorted_tblSet x
    | exact fun x => tblSorted_tblIns x
    | exact fun x => tblSorted_filter x
    | split

theorem tripSample_kept {s : State} {i : Nat} {v : Option Nat} (hs : Kept kq kb s) :
    Kept kq kb (tripSample s i v) := by
  unfold tripSample
  try dsimp only
  repeat' first
    | with_reducible assumption
    | with_reducible apply state_setSensor_kept
    | (with_reducible refine kept_ite ?_ ?_ <;> intro _)
    | simp only [kept_mk]
    | exact fun x => tblSorted_tblSet x
    | exact fun x => tblSorted_tblIns x
    | exact fun x => tblSorted_filter x
    | split

theorem thermStep_kept {s : State} {d : Nat} (hs : Kept kq kb s) :
    Kept kq kb (thermStep s d) := by
  unfold thermStep
  try dsimp only
  repeat' first
    | with_reducible assumption
    | with_reducible apply state_setDie_kept
    | (with_reducible refine kept_ite ?_ ?_ <;> intro _)
    | simp only [kept_mk]
    | exact fun x => tblSorted_tblSet x
    | exact fun x => tblSorted_tblIns x
    | exact fun x => tblSorted_filter x
    | split

theorem setCeilings_kept {s : State} {f : Nat → Nat} (hs : Kept kq kb s) :
    Kept kq kb (setCeilings s f) := by
  unfold setCeilings
  try dsimp only
  repeat' first
    | with_reducible assumption
    | with_reducible apply state_setDie_kept
    | with_reducible apply kept_foldl
    | (with_reducible refine kept_ite ?_ ?_ <;> intro _)
    | simp only [kept_mk]
    | exact fun x => tblSorted_tblSet x
    | exact fun x => tblSorted_tblIns x
    | exact fun x => tblSorted_filter x
    | intro _

theorem budgetAction_kept {s : State} {inW : Nat} (hs : Kept kq kb s) :
    Kept kq kb (budgetAction s inW) := by
  unfold budgetAction
  try dsimp only
  repeat' first
    | with_reducible assumption
    | with_reducible apply state_setPwr_kept
    | with_reducible apply state_setDie_kept
    | with_reducible apply revokeSprint_kept
    | with_reducible apply setCeilings_kept
    | (with_reducible refine kept_ite ?_ ?_ <;> intro _)
    | simp only [kept_mk]
    | exact fun x => tblSorted_tblSet x
    | exact fun x => tblSorted_tblIns x
    | exact fun x => tblSorted_filter x
    | intro _
    | split

theorem budgetAccounts_kept {s : State} {inW : Nat} {delivW : Nat} (hs : Kept kq kb s) :
    Kept kq kb (budgetAccounts s inW delivW) := by
  unfold budgetAccounts
  try dsimp only
  repeat' first
    | with_reducible assumption
    | with_reducible apply state_setReg_kept
    | with_reducible apply state_bump_kept
    | (with_reducible refine kept_ite ?_ ?_ <;> intro _)
    | intro _
    | split

theorem budgetEvaluation_kept {s : State} {inW : Nat} {delivW : Nat} (hs : Kept kq kb s) :
    Kept kq kb (budgetEvaluation s inW delivW) := by
  unfold budgetEvaluation
  try dsimp only
  repeat' first
    | with_reducible assumption
    | with_reducible apply state_setPwr_kept
    | with_reducible apply state_setDie_kept
    | with_reducible apply adjustDies_kept
    | with_reducible apply thermStep_kept
    | with_reducible apply budgetAction_kept
    | with_reducible apply budgetAccounts_kept
    | with_reducible apply kept_foldl
    | (with_reducible refine kept_ite ?_ ?_ <;> intro _)
    | simp only [kept_mk]
    | exact fun x => tblSorted_tblSet x
    | exact fun x => tblSorted_tblIns x
    | exact fun x => tblSorted_filter x
    | intro _
    | split

theorem inputOvercurrent_kept {s : State} (hs : Kept kq kb s) :
    Kept kq kb (inputOvercurrent s) := by
  unfold inputOvercurrent
  try dsimp only
  repeat' first
    | with_reducible assumption
    | with_reducible apply state_setDie_kept
    | with_reducible apply adjustDies_kept
    | with_reducible apply revokeSprint_kept
    | with_reducible apply kept_foldl
    | (with_reducible refine kept_ite ?_ ?_ <;> intro _)
    | simp only [kept_mk]
    | exact fun x => tblSorted_tblSet x
    | exact fun x => tblSorted_tblIns x
    | exact fun x => tblSorted_filter x
    | intro _

theorem powerRequest_kept {s : State} {t : Nat} (hs : Kept kq kb s) :
    Kept kq kb (powerRequest s t) := by
  unfold powerRequest
  try dsimp only
  repeat' first
    | with_reducible assumption
    | with_reducible apply pwrRequest_kept
    | (with_reducible refine kept_ite ?_ ?_ <;> intro _)
    | simp only [kept_mk]
    | exact fun x => tblSorted_tblSet x
    | exact fun x => tblSorted_tblIns x
    | exact fun x => tblSorted_filter x
    | split

end Sys2Proof.Machine
end

