-- ==== Sys2Proof/Laws/Kept/Objects.lean ====
section
/-! SUPPORT. Sys2Proof/Laws/Kept/Objects.lean: the operations of Machine/Objects.lean keep the queue and the canonical form. -/

namespace Sys2Proof.Machine

open Sys2Proof

variable {kq : List Instr} {kb : Bool}

theorem objErr_kept {s : State} {c : Nat} {st : Status} (hs : Kept kq kb s) :
    Kept kq kb (objErr s c st) := by
  unfold objErr
  try dsimp only
  repeat' first
    | with_reducible assumption
    | with_reducible apply state_setCtx_kept
    | (with_reducible refine kept_ite ?_ ?_ <;> intro _)
    | simp only [kept_mk]
    | exact fun x => tblSorted_tblSet x
    | exact fun x => tblSorted_tblIns x
    | exact fun x => tblSorted_filter x

theorem state_setBody_kept {s : State} {sid : Nat} {b : Body} (hs : Kept kq kb s) :
    Kept kq kb (State.setBody s sid b) := by
  unfold State.setBody
  try dsimp only
  repeat' first
    | with_reducible assumption
    | (with_reducible refine kept_ite ?_ ?_ <;> intro _)
    | simp only [kept_mk]
    | exact fun x => tblSorted_tblSet x
    | exact fun x => tblSorted_tblIns x
    | exact fun x => tblSorted_filter x
    | (with_reducible refine Kept.setCom ?_ ?_)
    | with_reducible exact fun x => storeOk_mk x

/-- The state that an object operation leaves. -/
def KeptE (kq : List Instr) (kb : Bool) (e : ObjEnd) : Prop := ∀ t, e = .ok t → Kept kq kb t

theorem keptE_ok {s : State} (hs : Kept kq kb s) : KeptE kq kb (.ok s) := fun _ h => ObjEnd.ok.inj h ▸ hs
theorem keptE_fail {st : Status} : KeptE kq kb (.fail st) := fun _ h => nomatch h
theorem keptE_full : KeptE kq kb .full := fun _ h => nomatch h
theorem keptE_of {r : State ⊕ Status} (h : KeptS kq kb r) : KeptE kq kb (.of r) := by
  cases r with
  | inl t => exact keptE_ok (h t rfl)
  | inr st => exact keptE_fail

theorem objEnds_kept {s : State} {c : Nat} {e : ObjEnd} (hs : Kept kq kb s) (he : KeptE kq kb e) : Kept kq kb (objEnds s c e) := by
  cases e with
  | ok t => exact objErr_kept (he t rfl)
  | fail st => exact objErr_kept hs
  | full => exact objErr_kept (state_bump_kept hs)

theorem reserveGrans_kept {s : State} {sid : Nat} {bd : Body} {gs : List Nat} (hs : Kept kq kb s) :
    KeptE kq kb (reserveGrans s sid bd gs) := by
  unfold reserveGrans
  split
  · next t h => exact keptE_ok (allocGrans_kept hs h)
  · exact keptE_fail
  · exact keptE_full

theorem createObj_kept {s : State} {c : Nat} (hs : Kept kq kb s) : KeptE kq kb (createObj s c) := by
  have h1 : ∀ (sid : Nat) (bd : Body), Kept kq kb { s.setBody sid bd with nextSid := sid + 1 } := fun sid bd => state_setBody_kept (sid := sid) (b := bd) hs
  unfold createObj
  dsimp only
  repeat' split
  all_goals first
    | exact keptE_fail
    | exact reserveGrans_kept ((h1 _ _).setCom storeOk_mk)
    | exact keptE_ok ((h1 _ _).setCom storeOk_mk)

theorem abandonFrom_kept {s : State} {sid : Nat} {g : Nat} (hs : Kept kq kb s) :
    Kept kq kb (abandonFrom s sid g) := by
  unfold abandonFrom
  try dsimp only
  repeat' first
    | with_reducible assumption
    | with_reducible apply abandonMigration_kept
    | with_reducible apply kept_foldl
    | (with_reducible refine kept_ite ?_ ?_ <;> intro _)
    | intro _

theorem destroyNumber_kept {s : State} {c : Nat} {o : Nat} (hs : Kept kq kb s) :
    Kept kq kb (destroyNumber s c o) := by
  unfold destroyNumber
  try dsimp only
  repeat' first
    | with_reducible assumption
    | with_reducible apply dropObject_kept
    | with_reducible apply dropExports_kept
    | with_reducible apply abandonFrom_kept
    | (with_reducible refine kept_ite ?_ ?_ <;> intro _)
    | with_reducible exact fun x => storeOk_mk x
    | intro _
    | split

theorem destroyObj_kept {s : State} {c : Nat} (hs : Kept kq kb s) : KeptS kq kb (destroyObj s c) := by
  unfold destroyObj
  dsimp only
  repeat' split
  all_goals first
    | exact keptS_inr
    | exact keptS_inl (state_setCtx_kept (destroyNumber_kept hs))

theorem resizeObj_kept {s : State} {c : Nat} (hs : Kept kq kb s) : KeptE kq kb (resizeObj s c) := by
  unfold resizeObj
  dsimp only
  split
  · exact keptE_fail
  · next sid bd _ =>
    split
    · exact keptE_fail
    · split
      · exact keptE_fail
      · have hd : Kept kq kb (dropExports (s.setBody sid { bd with size := objSize s c })
            (fun e => e.ctx == c && e.obj == objSel s c)) := dropExports_kept (state_setBody_kept hs)
        have ht : Kept kq kb (if objSize s c < bd.size then
              freeGransFrom (abandonFrom (dropExports (s.setBody sid { bd with size := objSize s c })
                (fun e => e.ctx == c && e.obj == objSel s c)) sid (objSize s c)) sid (objSize s c)
            else dropExports (s.setBody sid { bd with size := objSize s c }) (fun e => e.ctx == c && e.obj == objSel s c)) :=
          kept_ite (fun _ => freeGransFrom_kept (abandonFrom_kept hd)) (fun _ => hd)
        split
        · next t h =>
          refine keptE_ok (state_setCtx_kept ?_)
          split at h
          · exact reserveGrans_kept ht t h
          · exact ObjEnd.ok.inj h ▸ ht
        · next h =>
          intro t he
          exact absurd he (h t)

theorem setCfgObj_kept {s : State} {c : Nat} (hs : Kept kq kb s) : KeptS kq kb (setCfgObj s c) := by
  unfold setCfgObj
  dsimp only
  repeat' split
  all_goals first
    | exact keptS_inr
    | exact keptS_inl (state_setBody_kept hs)

theorem askPromote_kept {s : State} {k : Nat} (hs : Kept kq kb s) :
    Kept kq kb (askPromote s k) := by
  unfold askPromote
  try dsimp only
  repeat' first
    | with_reducible assumption
    | with_reducible apply startPromotion_kept
    | with_reducible apply abandonMigration_kept
    | (with_reducible refine kept_ite ?_ ?_ <;> intro _)
    | split

theorem askEvict_kept {s : State} {k : Nat} (hs : Kept kq kb s) :
    Kept kq kb (askEvict s k) := by
  unfold askEvict
  try dsimp only
  repeat' first
    | with_reducible assumption
    | with_reducible apply state_bump_kept
    | with_reducible apply startEviction_kept
    | with_reducible apply abandonMigration_kept
    | (refine startEviction_kept ?_ _ (by with_reducible assumption))
    | (refine startEviction_kept ?_ _ (by with_reducible assumption))
    | (with_reducible refine kept_ite ?_ ?_ <;> intro _)
    | with_reducible apply kept_getD
    | split

theorem requestRange_kept {s : State} {c : Nat} {ask : State → Nat → State} (hs : Kept kq kb s)
    (ha : ∀ t k, Kept kq kb t → Kept kq kb (ask t k)) : KeptS kq kb (requestRange s c ask) := by
  unfold requestRange
  split
  · exact keptS_inr
  · exact keptS_inl (kept_foldl _ hs ha)

theorem mapObj_kept {s : State} {f c : Nat} (hs : Kept kq kb s) : KeptS kq kb (mapObj s f c) := by
  unfold mapObj
  dsimp only
  repeat' split
  all_goals first
    | exact keptS_inr
    | exact keptS_inl (hs.setCom storeOk_mk)

theorem objOp_kept {s : State} {c : Nat} {go : State → ObjEnd} (hs : Kept kq kb s) (hg : ∀ t, Kept kq kb t → KeptE kq kb (go t)) :
    Kept kq kb (objOp s c go) :=
  kept_ite (fun _ => objErr_kept hs) (fun _ => objEnds_kept hs (hg s hs))

theorem objCtrl_kept {s : State} {f c : Nat} {v : Word} (hs : Kept kq kb s) : Kept kq kb (objCtrl s f c v) := by
  unfold objCtrl
  split
  · exact objOp_kept hs fun _ h => createObj_kept h
  · exact objOp_kept hs fun _ h => keptE_of (destroyObj_kept h)
  · exact objOp_kept hs fun _ h => resizeObj_kept h
  · exact objOp_kept hs fun _ h => keptE_of (setCfgObj_kept h)
  · exact objOp_kept hs fun _ h => keptE_of (requestRange_kept h fun _ _ h => askPromote_kept h)
  · exact objOp_kept hs fun _ h => keptE_of (requestRange_kept h fun _ _ h => askEvict_kept h)
  · exact objOp_kept hs fun _ h => keptE_of (mapObj_kept h)
  · exact hs

theorem objOperationDone_kept {s : State} {c : Nat} (hs : Kept kq kb s) :
    Kept kq kb (objOperationDone s c) := by
  unfold objOperationDone
  try dsimp only
  repeat' first
    | with_reducible assumption
    | with_reducible apply state_setCtx_kept
    | with_reducible apply objOp_kept
    | (with_reducible refine kept_ite ?_ ?_ <;> intro _)
    | simp only [kept_mk]
    | exact fun x => tblSorted_tblSet x
    | exact fun x => tblSorted_tblIns x
    | exact fun x => tblSorted_filter x
    | split

theorem migrationPressure_kept {s : State} {n : Nat} (hs : Kept kq kb s) :
    Kept kq kb (migrationPressure s n) := by
  unfold migrationPressure
  try dsimp only
  repeat' first
    | with_reducible assumption
    | with_reducible apply pressureEvict_kept
    | (with_reducible refine kept_ite ?_ ?_ <;> intro _)
    | split

theorem heatPromotion_kept {s : State} (hs : Kept kq kb s) :
    Kept kq kb (heatPromotion s) := by
  unfold heatPromotion
  try dsimp only
  repeat' first
    | with_reducible assumption
    | with_reducible apply startPromotion_kept
    | with_reducible apply kept_foldl
    | (with_reducible refine kept_ite ?_ ?_ <;> intro _)
    | simp only [kept_mk]
    | exact fun x => tblSorted_tblSet x
    | exact fun x => tblSorted_tblIns x
    | exact fun x => tblSorted_filter x
    | with_reducible exact fun x => storeOk_mk x
    | intro _
    | split

theorem keepSource_kept {s : State} {k : Nat} {g : Gran} (hs : Kept kq kb s) :
    Kept kq kb (keepSource s k g) := by
  unfold keepSource
  try dsimp only
  repeat' first
    | with_reducible assumption
    | (with_reducible refine kept_ite ?_ ?_ <;> intro _)
    | simp only [kept_mk]
    | exact fun x => tblSorted_tblSet x
    | exact fun x => tblSorted_tblIns x
    | exact fun x => tblSorted_filter x
    | split

theorem migrationCopyDone_kept {s : State} {k : Nat} (hs : Kept kq kb s) :
    Kept kq kb (migrationCopyDone s k) := by
  unfold migrationCopyDone
  try dsimp only
  repeat' first
    | with_reducible assumption
    | with_reducible apply state_bump_kept
    | with_reducible apply state_setGran_kept
    | with_reducible apply keepSource_kept
    | (with_reducible refine kept_ite ?_ ?_ <;> intro _)
    | simp only [kept_mk]
    | exact fun x => tblSorted_tblSet x
    | exact fun x => tblSorted_tblIns x
    | exact fun x => tblSorted_filter x
    | split

theorem sourceFree_kept {s : State} {sid : Nat} {gran : Nat} (hs : Kept kq kb s) :
    Kept kq kb (sourceFree s sid gran) := by
  unfold sourceFree
  try dsimp only
  repeat' first
    | with_reducible assumption
    | (with_reducible refine kept_ite ?_ ?_ <;> intro _)
    | simp only [kept_mk]
    | exact fun x => tblSorted_tblSet x
    | exact fun x => tblSorted_tblIns x
    | exact fun x => tblSorted_filter x
    | intro _

theorem mendUnit_kept {s : State} {u : Nat} (hs : Kept kq kb s) : Kept kq kb (mendUnit s u) :=
  kept_ite (fun _ => hs) (fun _ => hs.setCom fun h => ⟨memCopy_wf h.1, h.2⟩)

theorem rehome_kept {s : State} {k : Nat} (hs : Kept kq kb s) :
    Kept kq kb (rehome s k) := by
  unfold rehome
  try dsimp only
  repeat' first
    | with_reducible assumption
    | with_reducible apply state_setGran_kept
    | (with_reducible refine kept_ite ?_ ?_ <;> intro _)
    | simp only [kept_mk]
    | exact fun x => tblSorted_tblSet x
    | exact fun x => tblSorted_tblIns x
    | exact fun x => tblSorted_filter x
    | with_reducible exact fun x => storeOk_mk x
    | split

theorem releaseRepaired_kept {s : State} (hs : Kept kq kb s) :
    Kept kq kb (releaseRepaired s) := by
  unfold releaseRepaired
  try dsimp only
  repeat' first
    | with_reducible assumption
    | with_reducible apply state_setCmd_kept
    | with_reducible apply kept_foldl
    | (with_reducible refine kept_ite ?_ ?_ <;> intro _)
    | simp only [kept_mk]
    | exact fun x => tblSorted_tblSet x
    | exact fun x => tblSorted_tblIns x
    | exact fun x => tblSorted_filter x
    | intro _
    | split

theorem repairComplete_kept {s : State} {k : Nat} (hs : Kept kq kb s) :
    Kept kq kb (repairComplete s k) := by
  unfold repairComplete
  try dsimp only
  repeat' first
    | with_reducible assumption
    | with_reducible apply state_bump_kept
    | with_reducible apply state_setGran_kept
    | with_reducible apply mendUnit_kept
    | with_reducible apply rehome_kept
    | with_reducible apply releaseRepaired_kept
    | with_reducible apply kept_foldl
    | (with_reducible refine kept_ite ?_ ?_ <;> intro _)
    | simp only [kept_mk]
    | exact fun x => tblSorted_tblSet x
    | exact fun x => tblSorted_tblIns x
    | exact fun x => tblSorted_filter x
    | with_reducible exact fun x => storeOk_mk x
    | intro _
    | split

theorem migCfgWrite_kept {s : State} {v : Word} (hs : Kept kq kb s) :
    Kept kq kb (migCfgWrite s v) := by
  unfold migCfgWrite
  try dsimp only
  repeat' first
    | with_reducible assumption
    | with_reducible apply state_setReg_kept
    | with_reducible apply state_setBits_kept
    | (with_reducible refine kept_ite ?_ ?_ <;> intro _)
    | split

theorem cartOstdWrite_kept {s : State} {q : Nat} {v : Word} (hs : Kept kq kb s) :
    Kept kq kb (cartOstdWrite s q v) := by
  unfold cartOstdWrite
  try dsimp only
  repeat' first
    | with_reducible assumption
    | with_reducible apply state_setReg_kept
    | with_reducible apply state_setBits_kept
    | (with_reducible refine kept_ite ?_ ?_ <;> intro _)
    | split

end Sys2Proof.Machine
end

