-- ==== Sys2Proof/Laws/Kept/Slots.lean ====
section
/-! SUPPORT. Sys2Proof/Laws/Kept/Slots.lean: the operations of Machine/Slots.lean keep the queue and the canonical form. -/

namespace Sys2Proof.Machine

open Sys2Proof

variable {kq : List Instr} {kb : Bool}

theorem cancelDispatched_kept {c : Nat} {s : State} {e : Nat × Cmd} (hs : Kept kq kb s) :
    Kept kq kb (cancelDispatched c s e) := by
  unfold cancelDispatched
  try dsimp only
  repeat' first
    | with_reducible assumption
    | with_reducible apply killCmd_kept
    | with_reducible apply finishCmd_kept
    | (with_reducible refine kept_ite ?_ ?_ <;> intro _)
    | split

theorem cancelWaiting_kept {c : Nat} {s : State} {e : Nat × Cmd} (hs : Kept kq kb s) :
    Kept kq kb (cancelWaiting c s e) := by
  unfold cancelWaiting
  try dsimp only
  repeat' first
    | with_reducible assumption
    | with_reducible apply state_setCmd_kept
    | (with_reducible refine kept_ite ?_ ?_ <;> intro _)
    | simp only [kept_mk]
    | exact fun x => tblSorted_tblSet x
    | exact fun x => tblSorted_tblIns x
    | exact fun x => tblSorted_filter x

theorem beginCancel_kept {s : State} {c : Nat} {slot : Nat} (hs : Kept kq kb s) :
    Kept kq kb (beginCancel s c slot) := by
  unfold beginCancel
  try dsimp only
  repeat' first
    | with_reducible assumption
    | with_reducible apply state_setCtx_kept
    | with_reducible apply state_setSeq_kept
    | with_reducible apply cancelDispatched_kept
    | with_reducible apply cancelWaiting_kept
    | with_reducible apply kept_foldl
    | (with_reducible refine kept_ite ?_ ?_ <;> intro _)
    | simp only [kept_mk]
    | exact fun x => tblSorted_tblSet x
    | exact fun x => tblSorted_tblIns x
    | exact fun x => tblSorted_filter x
    | intro _

theorem cancelEnds_kept {s : State} {c : Nat} {st : Status} (hs : Kept kq kb s) :
    Kept kq kb (cancelEnds s c st) := by
  unfold cancelEnds
  try dsimp only
  repeat' first
    | with_reducible assumption
    | with_reducible apply state_setCtx_kept
    | (with_reducible refine kept_ite ?_ ?_ <;> intro _)
    | simp only [kept_mk]
    | exact fun x => tblSorted_tblSet x
    | exact fun x => tblSorted_tblIns x
    | exact fun x => tblSorted_filter x

theorem seqCancel_kept {s : State} {c : Nat} {slot : Nat} (hs : Kept kq kb s) :
    Kept kq kb (seqCancel s c slot) := by
  unfold seqCancel
  try dsimp only
  repeat' first
    | with_reducible assumption
    | with_reducible apply state_setBits_kept
    | with_reducible apply beginCancel_kept
    | with_reducible apply cancelEnds_kept
    | (with_reducible refine kept_ite ?_ ?_ <;> intro _)
    | split

theorem cancelComplete_kept {s : State} {c : Nat} (hs : Kept kq kb s) :
    Kept kq kb (cancelComplete s c) := by
  unfold cancelComplete
  try dsimp only
  repeat' first
    | with_reducible assumption
    | with_reducible apply state_setCtx_kept
    | with_reducible apply state_setBits_kept
    | with_reducible apply signalCtxVector_kept
    | with_reducible apply detachMap_kept
    | (with_reducible refine kept_ite ?_ ?_ <;> intro _)
    | simp only [kept_mk]
    | exact fun x => tblSorted_tblSet x
    | exact fun x => tblSorted_tblIns x
    | exact fun x => tblSorted_filter x
    | split

theorem driftGroupFree_kept {s : State} {c : Nat} (hs : Kept kq kb s) :
    Kept kq kb (driftGroupFree s c) := by
  unfold driftGroupFree
  try dsimp only
  repeat' first
    | with_reducible assumption
    | with_reducible apply freeGroup_kept
    | (with_reducible refine kept_ite ?_ ?_ <;> intro _)
    | simp only [kept_mk]
    | exact fun x => tblSorted_tblSet x
    | exact fun x => tblSorted_tblIns x
    | exact fun x => tblSorted_filter x
    | split

theorem steerErr_kept {s : State} {c : Nat} {st : Status} (hs : Kept kq kb s) :
    Kept kq kb (steerErr s c st) := by
  unfold steerErr
  try dsimp only
  repeat' first
    | with_reducible assumption
    | with_reducible apply state_setCtx_kept
    | (with_reducible refine kept_ite ?_ ?_ <;> intro _)
    | simp only [kept_mk]
    | exact fun x => tblSorted_tblSet x
    | exact fun x => tblSorted_tblIns x
    | exact fun x => tblSorted_filter x

theorem steerInstall_kept {s : State} {c : Nat} (hs : Kept kq kb s) :
    Kept kq kb (steerInstall s c) := by
  unfold steerInstall
  try dsimp only
  repeat' first
    | with_reducible assumption
    | with_reducible apply state_setCtx_kept
    | with_reducible apply steerErr_kept
    | (with_reducible refine kept_ite ?_ ?_ <;> intro _)
    | simp only [kept_mk]
    | exact fun x => tblSorted_tblSet x
    | exact fun x => tblSorted_tblIns x
    | exact fun x => tblSorted_filter x
    | (with_reducible refine Kept.setCom ?_ ?_)
    | with_reducible exact fun x => storeOk_mk x
    | split

theorem steerRemove_kept {s : State} {c : Nat} (hs : Kept kq kb s) :
    Kept kq kb (steerRemove s c) := by
  unfold steerRemove
  try dsimp only
  repeat' first
    | with_reducible assumption
    | with_reducible apply state_setCtx_kept
    | with_reducible apply steerErr_kept
    | (with_reducible refine kept_ite ?_ ?_ <;> intro _)
    | simp only [kept_mk]
    | exact fun x => tblSorted_tblSet x
    | exact fun x => tblSorted_tblIns x
    | exact fun x => tblSorted_filter x
    | (with_reducible refine Kept.setCom ?_ ?_)
    | with_reducible exact fun x => storeOk_mk x
    | split

theorem steerCtrl_kept {s : State} {c : Nat} {v : Word} (hs : Kept kq kb s) :
    Kept kq kb (steerCtrl s c v) := by
  unfold steerCtrl
  try dsimp only
  repeat' first
    | with_reducible assumption
    | with_reducible apply steerErr_kept
    | with_reducible apply steerInstall_kept
    | with_reducible apply steerRemove_kept
    | (with_reducible refine kept_ite ?_ ?_ <;> intro _)
    | split

theorem steerOperationDone_kept {s : State} {c : Nat} (hs : Kept kq kb s) :
    Kept kq kb (steerOperationDone s c) := by
  unfold steerOperationDone
  try dsimp only
  repeat' first
    | with_reducible assumption
    | with_reducible apply state_setCtx_kept
    | (with_reducible refine kept_ite ?_ ?_ <;> intro _)
    | simp only [kept_mk]
    | exact fun x => tblSorted_tblSet x
    | exact fun x => tblSorted_tblIns x
    | exact fun x => tblSorted_filter x
    | split

theorem seedLoWrite_kept {s : State} {c : Nat} {v : Word} (hs : Kept kq kb s) :
    Kept kq kb (seedLoWrite s c v) := by
  unfold seedLoWrite
  try dsimp only
  repeat' first
    | with_reducible assumption
    | with_reducible apply state_setCtx_kept
    | (with_reducible refine kept_ite ?_ ?_ <;> intro _)
    | simp only [kept_mk]
    | exact fun x => tblSorted_tblSet x
    | exact fun x => tblSorted_tblIns x
    | exact fun x => tblSorted_filter x

theorem seedHiWrite_kept {s : State} {c : Nat} {v : Word} (hs : Kept kq kb s) :
    Kept kq kb (seedHiWrite s c v) := by
  unfold seedHiWrite
  try dsimp only
  repeat' first
    | with_reducible assumption
    | with_reducible apply state_setCtx_kept
    | (with_reducible refine kept_ite ?_ ?_ <;> intro _)
    | simp only [kept_mk]
    | exact fun x => tblSorted_tblSet x
    | exact fun x => tblSorted_tblIns x
    | exact fun x => tblSorted_filter x
    | with_reducible apply kept_getD

theorem closePkgs_kept {s : State} {p : PkgSlot → Bool} (hs : Kept kq kb s) :
    Kept kq kb (closePkgs s p) := by
  unfold closePkgs
  try dsimp only
  repeat' first
    | with_reducible assumption
    | (with_reducible refine kept_ite ?_ ?_ <;> intro _)
    | simp only [kept_mk]
    | exact fun x => tblSorted_tblSet x
    | exact fun x => tblSorted_tblIns x
    | exact fun x => tblSorted_filter x
    | intro _

theorem closeSlots_kept {s : State} {c : Nat} (hs : Kept kq kb s) :
    Kept kq kb (closeSlots s c) := by
  unfold closeSlots
  try dsimp only
  repeat' first
    | with_reducible assumption
    | with_reducible apply seqCloseFx_kept
    | with_reducible apply kept_foldl
    | (with_reducible refine kept_ite ?_ ?_ <;> intro _)
    | with_reducible exact fun x => storeOk_mk x
    | intro _

theorem releaseCtx_kept {s : State} {c : Nat} (hs : Kept kq kb s) :
    Kept kq kb (releaseCtx s c) := by
  unfold releaseCtx
  try dsimp only
  repeat' first
    | with_reducible assumption
    | with_reducible apply state_setCtx_kept
    | with_reducible apply state_setFab_kept
    | with_reducible apply farOp_kept
    | with_reducible apply dropExports_kept
    | with_reducible apply destroyNumber_kept
    | with_reducible apply objOp_kept
    | with_reducible apply closePkgs_kept
    | with_reducible apply closeSlots_kept
    | with_reducible apply kept_foldl
    | (with_reducible refine kept_ite ?_ ?_ <;> intro _)
    | simp only [kept_mk]
    | exact fun x => tblSorted_tblSet x
    | exact fun x => tblSorted_tblIns x
    | exact fun x => tblSorted_filter x
    | intro _
    | split

theorem dropRings_kept {s : State} {c : Nat} (hs : Kept kq kb s) :
    Kept kq kb (dropRings s c) := by
  unfold dropRings
  try dsimp only
  repeat' first
    | with_reducible assumption
    | with_reducible apply state_setRing_kept
    | with_reducible apply unpin_kept
    | with_reducible apply kept_foldl
    | (with_reducible refine kept_ite ?_ ?_ <;> intro _)
    | simp only [kept_mk]
    | exact fun x => tblSorted_tblSet x
    | exact fun x => tblSorted_tblIns x
    | exact fun x => tblSorted_filter x
    | intro _

theorem flrEnds_kept {s : State} {f : Nat} (hs : Kept kq kb s) :
    Kept kq kb (flrEnds s f) := by
  unfold flrEnds
  try dsimp only
  repeat' first
    | with_reducible assumption
    | with_reducible apply state_setFn_kept
    | with_reducible apply breakLatches_kept
    | with_reducible apply dropRings_kept
    | with_reducible apply kept_foldl
    | (with_reducible refine kept_ite ?_ ?_ <;> intro _)
    | simp only [kept_mk]
    | exact fun x => tblSorted_tblSet x
    | exact fun x => tblSorted_tblIns x
    | exact fun x => tblSorted_filter x
    | intro _
    | split

theorem ownerFlrEnds_kept {s : State} {c : Nat} (hs : Kept kq kb s) :
    Kept kq kb (ownerFlrEnds s c) := by
  unfold ownerFlrEnds
  try dsimp only
  repeat' first
    | with_reducible assumption
    | with_reducible apply flrEnds_kept
    | (with_reducible refine kept_ite ?_ ?_ <;> intro _)
    | split

theorem destroyRelease_kept {s : State} {c : Nat} (hs : Kept kq kb s) :
    Kept kq kb (destroyRelease s c) := by
  unfold destroyRelease
  try dsimp only
  repeat' first
    | with_reducible assumption
    | with_reducible apply releaseCtx_kept
    | with_reducible apply ownerFlrEnds_kept
    | (with_reducible refine kept_ite ?_ ?_ <;> intro _)
    | intro _
    | split

end Sys2Proof.Machine
end

