-- ==== Sys2Proof/Laws/Kept/Vault.lean ====
section
/-! SUPPORT. Sys2Proof/Laws/Kept/Vault.lean: the operations of Machine/Vault.lean keep the queue and the canonical form. -/

namespace Sys2Proof.Machine

open Sys2Proof

variable {kq : List Instr} {kb : Bool}

theorem dropOverlays_kept {s : State} {k : Nat} (hs : Kept kq kb s) :
    Kept kq kb (dropOverlays s k) := by
  unfold dropOverlays
  try dsimp only
  repeat' first
    | with_reducible assumption
    | (with_reducible refine kept_ite ?_ ?_ <;> intro _)
    | simp only [kept_mk]
    | exact fun x => tblSorted_tblSet x
    | exact fun x => tblSorted_tblIns x
    | exact fun x => tblSorted_filter x
    | intro _

theorem loadsEnd_kept {s : State} {slots : List Nat} (hs : Kept kq kb s) : Kept kq kb (loadsEnd s slots) :=
  hs.ctxs (tblSorted_map fun e => by split <;> rfl)

theorem dropPackages_kept {s : State} {k : Nat} (hs : Kept kq kb s) :
    Kept kq kb (dropPackages s k) := by
  unfold dropPackages
  try dsimp only
  repeat' first
    | with_reducible assumption
    | with_reducible apply closePkgs_kept
    | with_reducible apply loadsEnd_kept
    | (with_reducible refine kept_ite ?_ ?_ <;> intro _)
    | intro _

theorem emptyPlanKey_kept {s : State} {k : Nat} (hs : Kept kq kb s) :
    Kept kq kb (emptyPlanKey s k) := by
  unfold emptyPlanKey
  try dsimp only
  repeat' first
    | with_reducible assumption
    | with_reducible apply dropOverlays_kept
    | (with_reducible refine kept_ite ?_ ?_ <;> intro _)
    | simp only [kept_mk]
    | exact fun x => tblSorted_tblSet x
    | exact fun x => tblSorted_tblIns x
    | exact fun x => tblSorted_filter x
    | split

theorem emptyPubKey_kept {s : State} {k : Nat} (hs : Kept kq kb s) :
    Kept kq kb (emptyPubKey s k) := by
  unfold emptyPubKey
  try dsimp only
  repeat' first
    | with_reducible assumption
    | with_reducible apply dropPackages_kept
    | (with_reducible refine kept_ite ?_ ?_ <;> intro _)
    | simp only [kept_mk]
    | exact fun x => tblSorted_tblSet x
    | exact fun x => tblSorted_tblIns x
    | exact fun x => tblSorted_filter x
    | split

theorem recordEffect_kept {s : State} {r : List Byte} (hs : Kept kq kb s) :
    Kept kq kb (recordEffect s r) := by
  unfold recordEffect
  try dsimp only
  repeat' first
    | with_reducible assumption
    | with_reducible apply emptyPlanKey_kept
    | with_reducible apply emptyPubKey_kept
    | with_reducible apply kept_foldl
    | (with_reducible refine kept_ite ?_ ?_ <;> intro _)
    | simp only [kept_mk]
    | exact fun x => tblSorted_tblSet x
    | exact fun x => tblSorted_tblIns x
    | exact fun x => tblSorted_filter x
    | intro _
    | split

theorem kvEnds_kept {s : State} {st : Status} (hs : Kept kq kb s) :
    Kept kq kb (kvEnds s st) := by
  unfold kvEnds
  try dsimp only
  repeat' first
    | with_reducible assumption
    | with_reducible apply state_bump_kept
    | (with_reducible refine kept_ite ?_ ?_ <;> intro _)
    | simp only [kept_mk]
    | exact fun x => tblSorted_tblSet x
    | exact fun x => tblSorted_tblIns x
    | exact fun x => tblSorted_filter x
    | split

theorem recordApply_kept {s : State} (hs : Kept kq kb s) :
    Kept kq kb (recordApply s) := by
  unfold recordApply
  try dsimp only
  repeat' first
    | with_reducible assumption
    | with_reducible apply recordEffect_kept
    | with_reducible apply kvEnds_kept
    | (with_reducible refine kept_ite ?_ ?_ <;> intro _)
    | split

theorem svnCommit_kept {s : State} (hs : Kept kq kb s) :
    Kept kq kb (svnCommit s) := by
  unfold svnCommit
  try dsimp only
  repeat' first
    | with_reducible assumption
    | with_reducible apply kvEnds_kept
    | (with_reducible refine kept_ite ?_ ?_ <;> intro _)
    | simp only [kept_mk]
    | exact fun x => tblSorted_tblSet x
    | exact fun x => tblSorted_tblIns x
    | exact fun x => tblSorted_filter x

theorem kvCtrl_kept {s : State} {v : Word} (hs : Kept kq kb s) :
    Kept kq kb (kvCtrl s v) := by
  unfold kvCtrl
  try dsimp only
  repeat' first
    | with_reducible assumption
    | (with_reducible refine kept_ite ?_ ?_ <;> intro _)
    | simp only [kept_mk]
    | exact fun x => tblSorted_tblSet x
    | exact fun x => tblSorted_tblIns x
    | exact fun x => tblSorted_filter x
    | split

theorem keyVaultOpDone_kept {s : State} (hs : Kept kq kb s) :
    Kept kq kb (keyVaultOpDone s) := by
  unfold keyVaultOpDone
  try dsimp only
  repeat' first
    | with_reducible assumption
    | with_reducible apply recordApply_kept
    | with_reducible apply svnCommit_kept
    | (with_reducible refine kept_ite ?_ ?_ <;> intro _)
    | split

/-- The state that an end of a package operation leaves while it waits. -/
def KeptW {α : Type} (kq : List Instr) (kb : Bool) (e : WpkEnd α) : Prop := ∀ t, e = .later t → Kept kq kb t

theorem keptW_bind {α β : Type} {x : WpkEnd α} {f : α → WpkEnd β} (hx : KeptW kq kb x) (hf : ∀ a, KeptW kq kb (f a)) :
    KeptW kq kb (x.bind f) := by
  cases x with
  | fail st k => exact fun _ h => nomatch h
  | breach a w => exact fun _ h => nomatch h
  | later s => exact fun t h => hx t (by rw [← WpkEnd.later.inj h])
  | good a => exact hf a

theorem readPart_kept {s : State} {c i off n : Nat} : KeptW kq kb (readPart s c i off n) := by
  unfold readPart
  dsimp only
  repeat' split
  all_goals exact fun _ h => nomatch h

theorem wpkNeed_kept {x : Bool} {st : Status} : KeptW kq kb (wpkNeed x st) := by
  unfold wpkNeed
  split <;> exact fun _ h => nomatch h

theorem wpkOpenRun_kept {s : State} {c : Nat} : KeptW kq kb (wpkOpenRun s c) := by
  unfold wpkOpenRun
  refine keptW_bind wpkNeed_kept fun _ => keptW_bind wpkNeed_kept fun _ => keptW_bind readPart_kept fun _ =>
    keptW_bind wpkNeed_kept fun _ => keptW_bind wpkNeed_kept fun _ => ?_
  split
  · exact fun _ h => nomatch h
  · refine keptW_bind wpkNeed_kept fun _ => keptW_bind wpkNeed_kept fun _ => ?_
    split
    · exact fun _ h => nomatch h
    · split
      · exact fun _ h => nomatch h
      · exact keptW_bind readPart_kept fun _ => keptW_bind wpkNeed_kept fun _ => fun _ h => nomatch h

theorem loadDest_kept {s : State} {c : Nat} : KeptW kq kb (loadDest s c) := by
  unfold loadDest
  repeat' split
  all_goals exact fun _ h => nomatch h

/-- Both ends of a LOAD that leave a state. -/
def KeptL (kq : List Instr) (kb : Bool) (e : WpkEnd Loaded) : Prop := KeptW kq kb e ∧ ∀ x, e = .good x → Kept kq kb x.s

theorem keptL_bind {α : Type} {x : WpkEnd α} {f : α → WpkEnd Loaded} (hx : KeptW kq kb x) (hf : ∀ a, KeptL kq kb (f a)) :
    KeptL kq kb (x.bind f) := by
  cases x with
  | fail st k => exact ⟨fun _ h => (nomatch h), fun _ h => (nomatch h)⟩
  | breach a w => exact ⟨fun _ h => (nomatch h), fun _ h => (nomatch h)⟩
  | later s => exact ⟨fun t h => hx t (by rw [← WpkEnd.later.inj h]), fun _ h => (nomatch h)⟩
  | good a => exact hf a

theorem wpkLoadRun_kept {s : State} {c slot : Nat} (hs : Kept kq kb s) : KeptL kq kb (wpkLoadRun s c slot) := by
  unfold wpkLoadRun
  split
  · exact ⟨fun _ h => (nomatch h), fun _ h => (nomatch h)⟩
  · dsimp only
    refine keptL_bind wpkNeed_kept fun _ => keptL_bind loadDest_kept fun _ => keptL_bind wpkNeed_kept fun _ =>
      keptL_bind readPart_kept fun _ => ?_
    split
    · exact ⟨fun _ h => (nomatch h), fun _ h => (nomatch h)⟩
    · split
      · next t ht =>
        split
        · exact ⟨fun _ h => (nomatch h), fun _ h => (nomatch h)⟩
        · exact ⟨fun _ h => (nomatch h), fun x h => by rw [← WpkEnd.good.inj h]; exact allocGrans_kept hs ht⟩
      · split
        · next u hu => exact ⟨fun t h => by rw [← WpkEnd.later.inj h]; exact evictForSpace_kept hs u hu, fun _ h => (nomatch h)⟩
        · exact ⟨fun _ h => (nomatch h), fun _ h => (nomatch h)⟩
      · exact ⟨fun _ h => (nomatch h), fun _ h => (nomatch h)⟩

theorem wpkEnds_kept {s : State} {c : Nat} {st : Status} {chunk : Option Nat} (hs : Kept kq kb s) :
    Kept kq kb (wpkEnds s c st chunk) := by
  unfold wpkEnds
  try dsimp only
  repeat' first
    | with_reducible assumption
    | with_reducible apply state_setCtx_kept
    | with_reducible apply state_bump_kept
    | (with_reducible refine kept_ite ?_ ?_ <;> intro _)
    | simp only [kept_mk]
    | exact fun x => tblSorted_tblSet x
    | exact fun x => tblSorted_tblIns x
    | exact fun x => tblSorted_filter x
    | with_reducible apply kept_getD
    | split

theorem wpkBreach_kept {s : State} {c : Nat} {a : Nat} {w : Bool} (hs : Kept kq kb s) :
    Kept kq kb (wpkBreach s c a w) := by
  unfold wpkBreach
  try dsimp only
  repeat' first
    | with_reducible assumption
    | with_reducible apply beginFreeze_kept
    | with_reducible apply wpkEnds_kept
    | (with_reducible refine kept_ite ?_ ?_ <;> intro _)
    | simp only [kept_mk]
    | exact fun x => tblSorted_tblSet x
    | exact fun x => tblSorted_tblIns x
    | exact fun x => tblSorted_filter x

theorem commitLoad_kept {s : State} {c : Nat} {x : Loaded} (hs : Kept kq kb s) (hx : Kept kq kb x.s) : Kept kq kb (commitLoad s c x) := by
  unfold commitLoad
  split
  · exact wpkEnds_kept hs
  · next t h =>
    have ht := wpkEnds_kept (c := c) (st := .ok) (chunk := none) (sealSid_kept (farOk := x.farOk) (sid := x.sid) (commitObjects_kept hx t h))
    exact kept_ite (fun _ => evcInc_kept ht) (fun _ => ht)

theorem openEnds_kept {s : State} {c : Nat} (hs : Kept kq kb s) : Kept kq kb (openEnds s c) := by
  unfold openEnds
  dsimp only
  have h0 : Kept kq kb { s with vault := { s.vault with opens := s.vault.opens.filter (fun d => d != c) } } := hs
  split
  · exact wpkEnds_kept h0
  · exact wpkBreach_kept h0
  · next u h => exact wpkOpenRun_kept u h
  · exact wpkEnds_kept hs

theorem loadEnds_kept {s : State} {c slot : Nat} (hs : Kept kq kb s) : Kept kq kb (loadEnds s c slot) := by
  unfold loadEnds
  split
  · exact wpkEnds_kept hs
  · split
    · exact wpkEnds_kept hs
    · exact wpkBreach_kept hs
    · next u h => exact (wpkLoadRun_kept hs).1 u h
    · next x h => exact commitLoad_kept hs ((wpkLoadRun_kept hs).2 x h)

theorem wpkOperationDone_kept {s : State} {c : Nat} (hs : Kept kq kb s) :
    Kept kq kb (wpkOperationDone s c) := by
  unfold wpkOperationDone
  try dsimp only
  repeat' first
    | with_reducible assumption
    | with_reducible apply openEnds_kept
    | with_reducible apply loadEnds_kept
    | (with_reducible refine kept_ite ?_ ?_ <;> intro _)
    | split

theorem wpkClose_kept {s : State} {c : Nat} (hs : Kept kq kb s) :
    Kept kq kb (wpkClose s c) := by
  unfold wpkClose
  try dsimp only
  repeat' first
    | with_reducible assumption
    | with_reducible apply state_setCtx_kept
    | (with_reducible refine kept_ite ?_ ?_ <;> intro _)
    | simp only [kept_mk]
    | exact fun x => tblSorted_tblSet x
    | exact fun x => tblSorted_tblIns x
    | exact fun x => tblSorted_filter x
    | intro _
    | split

theorem wpkCtrl_kept {s : State} {c : Nat} {v : Word} (hs : Kept kq kb s) :
    Kept kq kb (wpkCtrl s c v) := by
  unfold wpkCtrl
  try dsimp only
  repeat' first
    | with_reducible assumption
    | with_reducible apply state_setCtx_kept
    | with_reducible apply wpkClose_kept
    | (with_reducible refine kept_ite ?_ ?_ <;> intro _)
    | simp only [kept_mk]
    | exact fun x => tblSorted_tblSet x
    | exact fun x => tblSorted_tblIns x
    | exact fun x => tblSorted_filter x
    | split

theorem digestCtrl_kept {s : State} {c : Nat} {v : Word} (hs : Kept kq kb s) :
    Kept kq kb (digestCtrl s c v) := by
  unfold digestCtrl
  try dsimp only
  repeat' first
    | with_reducible assumption
    | with_reducible apply state_setCtx_kept
    | with_reducible apply state_setReg_kept
    | (with_reducible refine kept_ite ?_ ?_ <;> intro _)
    | simp only [kept_mk]
    | exact fun x => tblSorted_tblSet x
    | exact fun x => tblSorted_tblIns x
    | exact fun x => tblSorted_filter x
    | split

theorem digestClear_kept {s : State} {c : Nat} (hs : Kept kq kb s) :
    Kept kq kb (digestClear s c) := by
  unfold digestClear
  try dsimp only
  repeat' first
    | with_reducible assumption
    | with_reducible apply digestCtrl_kept
    | (with_reducible refine kept_ite ?_ ?_ <;> intro _)

theorem detInjectWrite_kept {s : State} {v : Word} (hs : Kept kq kb s) :
    Kept kq kb (detInjectWrite s v) := by
  unfold detInjectWrite
  try dsimp only
  repeat' first
    | with_reducible assumption
    | with_reducible apply state_setReg_kept
    | (with_reducible refine kept_ite ?_ ?_ <;> intro _)

end Sys2Proof.Machine
end

