-- ==== Sys2Proof/Laws/Kept/Host.lean ====
section
/-! SUPPORT. Sys2Proof/Laws/Kept/Host.lean: the operations of Machine/Host.lean keep the queue and the canonical form. -/

namespace Sys2Proof.Machine

open Sys2Proof

variable {kq : List Instr} {kb : Bool}

theorem replyWith_kept {s : State} {bs : List Byte} (hs : Kept kq kb s) :
    Kept kq kb (replyWith s bs) := by
  unfold replyWith
  try dsimp only
  repeat' first
    | with_reducible assumption
    | (with_reducible refine kept_ite ?_ ?_ <;> intro _)
    | simp only [kept_mk]
    | exact fun x => tblSorted_tblSet x
    | exact fun x => tblSorted_tblIns x
    | exact fun x => tblSorted_filter x

theorem aptRefuse_kept {s : State} {f : Nat} {st : Status} (hs : Kept kq kb s) :
    Kept kq kb (aptRefuse s f st) := by
  unfold aptRefuse
  try dsimp only
  repeat' first
    | with_reducible assumption
    | with_reducible apply state_setFn_kept
    | (with_reducible refine kept_ite ?_ ?_ <;> intro _)
    | simp only [kept_mk]
    | exact fun x => tblSorted_tblSet x
    | exact fun x => tblSorted_tblIns x
    | exact fun x => tblSorted_filter x

theorem logPoison_kept {c : Nat} {s : State} {u : Nat} (hs : Kept kq kb s) :
    Kept kq kb (logPoison c s u) := by
  unfold logPoison
  try dsimp only
  repeat' first
    | with_reducible assumption
    | with_reducible apply logEntry_kept
    | (with_reducible refine kept_ite ?_ ?_ <;> intro _)
    | intro _
    | split

theorem apertureRead_kept {s : State} {f : Nat} {off : Nat} {n : Nat} (hs : Kept kq kb s) :
    Kept kq kb (apertureRead s f off n) := by
  unfold apertureRead
  try dsimp only
  repeat' first
    | with_reducible assumption
    | with_reducible apply replyWith_kept
    | with_reducible apply aptRefuse_kept
    | with_reducible apply logPoison_kept
    | with_reducible apply kept_foldl
    | (with_reducible refine kept_ite ?_ ?_ <;> intro _)
    | simp only [kept_mk]
    | exact fun x => tblSorted_tblSet x
    | exact fun x => tblSorted_tblIns x
    | exact fun x => tblSorted_filter x
    | with_reducible exact fun x => storeOk_mk x
    | intro _
    | split

theorem apertureWrite_kept {s : State} {f : Nat} {off : Nat} {bs : List Byte} (hs : Kept kq kb s) :
    Kept kq kb (apertureWrite s f off bs) := by
  unfold apertureWrite
  try dsimp only
  repeat' first
    | with_reducible assumption
    | with_reducible apply commitObjects_kept
    | with_reducible apply aptRefuse_kept
    | (refine allocGrans_kept ?_ (by with_reducible assumption))
    | (refine commitObjects_kept ?_ _ (by with_reducible assumption))
    | (with_reducible refine kept_ite ?_ ?_ <;> intro _)
    | with_reducible exact fun x => storeOk_mk x
    | with_reducible apply kept_getD
    | split

theorem viaAperture_kept {s : State} {f : Nat} {off : Nat} {n : Nat} {write : Bool} {go : State → State} (hs : Kept kq kb s) (hgo : ∀ y0, Kept kq kb y0 → Kept kq kb (go y0)) :
    Kept kq kb (viaAperture s f off n write go) := by
  unfold viaAperture
  try dsimp only
  repeat' first
    | with_reducible assumption
    | with_reducible apply badAccess_kept
    | with_reducible apply wakeSource_kept
    | with_reducible apply replyWith_kept
    | with_reducible apply hgo
    | (with_reducible refine kept_ite ?_ ?_ <;> intro _)
    | intro _
    | split

theorem sendHeld_kept {s : State} {f : Nat} (hs : Kept kq kb s) :
    Kept kq kb (sendHeld s f) := by
  unfold sendHeld
  try dsimp only
  repeat' first
    | with_reducible assumption
    | with_reducible apply state_reset_kept
    | with_reducible apply state_setFn_kept
    | with_reducible apply kept_foldl
    | (with_reducible refine kept_ite ?_ ?_ <;> intro _)
    | simp only [kept_mk]
    | exact fun x => tblSorted_tblSet x
    | exact fun x => tblSorted_tblIns x
    | exact fun x => tblSorted_filter x
    | intro _
    | split

theorem irqHoldoffExpiry_kept {s : State} {f : Nat} {v : Nat} (hs : Kept kq kb s) :
    Kept kq kb (irqHoldoffExpiry s f v) := by
  unfold irqHoldoffExpiry
  try dsimp only
  repeat' first
    | with_reducible assumption
    | with_reducible apply messageDue_kept
    | (with_reducible refine kept_ite ?_ ?_ <;> intro _)
    | split

theorem setVectorMask_kept {s : State} {f : Nat} {v : Nat} {on : Bool} (hs : Kept kq kb s) :
    Kept kq kb (setVectorMask s f v on) := by
  unfold setVectorMask
  try dsimp only
  repeat' first
    | with_reducible assumption
    | with_reducible apply state_reset_kept
    | with_reducible apply state_setFn_kept
    | with_reducible apply sendHeld_kept
    | (with_reducible refine kept_ite ?_ ?_ <;> intro _)
    | simp only [kept_mk]
    | exact fun x => tblSorted_tblSet x
    | exact fun x => tblSorted_tblIns x
    | exact fun x => tblSorted_filter x

theorem setFunctionMask_kept {s : State} {f : Nat} {on : Bool} (hs : Kept kq kb s) :
    Kept kq kb (setFunctionMask s f on) := by
  unfold setFunctionMask
  try dsimp only
  repeat' first
    | with_reducible assumption
    | with_reducible apply state_setFn_kept
    | with_reducible apply sendHeld_kept
    | (with_reducible refine kept_ite ?_ ?_ <;> intro _)
    | simp only [kept_mk]
    | exact fun x => tblSorted_tblSet x
    | exact fun x => tblSorted_tblIns x
    | exact fun x => tblSorted_filter x

theorem quiesceFn_kept {s : State} {f : Nat} (hs : Kept kq kb s) :
    Kept kq kb (quiesceFn s f) := by
  unfold quiesceFn
  try dsimp only
  repeat' first
    | with_reducible assumption
    | with_reducible apply killCtx_kept
    | with_reducible apply kept_foldl
    | (with_reducible refine kept_ite ?_ ?_ <;> intro _)
    | intro _

theorem fnChange_kept {s : State} {f : Nat} {y : Fn} (hs : Kept kq kb s) :
    Kept kq kb (fnChange s f y) := by
  unfold fnChange
  try dsimp only
  repeat' first
    | with_reducible assumption
    | with_reducible apply state_setFn_kept
    | with_reducible apply sendHeld_kept
    | with_reducible apply quiesceFn_kept
    | (with_reducible refine kept_ite ?_ ?_ <;> intro _)
    | simp only [kept_mk]
    | exact fun x => tblSorted_tblSet x
    | exact fun x => tblSorted_tblIns x
    | exact fun x => tblSorted_filter x
    | split

theorem setD3_kept {s : State} {f : Nat} {on : Bool} (hs : Kept kq kb s) :
    Kept kq kb (setD3 s f on) := by
  unfold setD3
  try dsimp only
  repeat' first
    | with_reducible assumption
    | with_reducible apply pwrD3_kept
    | with_reducible apply fnChange_kept
    | (with_reducible refine kept_ite ?_ ?_ <;> intro _)
    | simp only [kept_mk]
    | exact fun x => tblSorted_tblSet x
    | exact fun x => tblSorted_tblIns x
    | exact fun x => tblSorted_filter x
    | split

theorem setBme_kept {s : State} {f : Nat} {on : Bool} (hs : Kept kq kb s) :
    Kept kq kb (setBme s f on) := by
  unfold setBme
  try dsimp only
  repeat' first
    | with_reducible assumption
    | with_reducible apply fnChange_kept
    | (with_reducible refine kept_ite ?_ ?_ <;> intro _)
    | simp only [kept_mk]
    | exact fun x => tblSorted_tblSet x
    | exact fun x => tblSorted_tblIns x
    | exact fun x => tblSorted_filter x

theorem clearPage_kept {s : State} {f : Nat} (hs : Kept kq kb s) :
    Kept kq kb (clearPage s f) := by
  unfold clearPage
  try dsimp only
  repeat' first
    | with_reducible assumption
    | (with_reducible refine kept_ite ?_ ?_ <;> intro _)
    | simp only [kept_mk]
    | simp only [kept_mk_regs]
    | with_reducible apply keptRegs
    | exact fun x => tblSorted_tblSet x
    | exact fun x => tblSorted_tblIns x
    | exact fun x => tblSorted_filter x
    | intro _

theorem flrCtx_kept {s : State} {c : Nat} (hs : Kept kq kb s) :
    Kept kq kb (flrCtx s c) := by
  unfold flrCtx
  try dsimp only
  repeat' first
    | with_reducible assumption
    | with_reducible apply state_setCtx_kept
    | with_reducible apply killCtx_kept
    | with_reducible apply dropSets_kept
    | with_reducible apply closePkgs_kept
    | (with_reducible refine kept_ite ?_ ?_ <;> intro _)
    | simp only [kept_mk]
    | exact fun x => tblSorted_tblSet x
    | exact fun x => tblSorted_tblIns x
    | exact fun x => tblSorted_filter x
    | intro _

theorem flrFn_kept {s : State} {f : Nat} (hs : Kept kq kb s) :
    Kept kq kb (flrFn s f) := by
  unfold flrFn
  try dsimp only
  repeat' first
    | with_reducible assumption
    | with_reducible apply state_reset_kept
    | with_reducible apply state_setFn_kept
    | with_reducible apply clearPage_kept
    | with_reducible apply flrCtx_kept
    | with_reducible apply kept_foldl
    | (with_reducible refine kept_ite ?_ ?_ <;> intro _)
    | simp only [kept_mk]
    | exact fun x => tblSorted_tblSet x
    | exact fun x => tblSorted_tblIns x
    | exact fun x => tblSorted_filter x
    | intro _

theorem vfReset_kept {s : State} {f : Nat} (hs : Kept kq kb s) :
    Kept kq kb (vfReset s f) := by
  unfold vfReset
  try dsimp only
  repeat' first
    | with_reducible assumption
    | with_reducible apply flrFn_kept
    | (with_reducible refine kept_ite ?_ ?_ <;> intro _)
    | split

theorem dropVfs_kept {s : State} {a : Nat} (hs : Kept kq kb s) :
    Kept kq kb (dropVfs s a) := by
  unfold dropVfs
  try dsimp only
  repeat' first
    | with_reducible assumption
    | with_reducible apply vfReset_kept
    | with_reducible apply kept_foldl
    | (with_reducible refine kept_ite ?_ ?_ <;> intro _)
    | intro _

theorem pfReset_kept {s : State} (hs : Kept kq kb s) :
    Kept kq kb (pfReset s) := by
  unfold pfReset
  try dsimp only
  repeat' first
    | with_reducible assumption
    | with_reducible apply flrFn_kept
    | with_reducible apply dropVfs_kept
    | (with_reducible refine kept_ite ?_ ?_ <;> intro _)
    | simp only [kept_mk]
    | exact fun x => tblSorted_tblSet x
    | exact fun x => tblSorted_tblIns x
    | exact fun x => tblSorted_filter x
    | split

theorem setNumVFs_kept {s : State} {n : Nat} (hs : Kept kq kb s) :
    Kept kq kb (setNumVFs s n) := by
  unfold setNumVFs
  try dsimp only
  repeat' first
    | with_reducible assumption
    | with_reducible apply dropVfs_kept
    | (with_reducible refine kept_ite ?_ ?_ <;> intro _)
    | simp only [kept_mk]
    | exact fun x => tblSorted_tblSet x
    | exact fun x => tblSorted_tblIns x
    | exact fun x => tblSorted_filter x
    | split

theorem setVfEnable_kept {s : State} {on : Bool} (hs : Kept kq kb s) :
    Kept kq kb (setVfEnable s on) := by
  unfold setVfEnable
  try dsimp only
  repeat' first
    | with_reducible assumption
    | with_reducible apply dropVfs_kept
    | (with_reducible refine kept_ite ?_ ?_ <;> intro _)
    | simp only [kept_mk]
    | exact fun x => tblSorted_tblSet x
    | exact fun x => tblSorted_tblIns x
    | exact fun x => tblSorted_filter x
    | split

theorem configWrite_kept {s : State} {f : Nat} {r : ConfigReq} (hs : Kept kq kb s) : Kept kq kb (configWrite s f r) := by
  cases r with
  | read => exact hs
  | memorySpace on => exact state_setFn_kept hs
  | busMaster on => exact setBme_kept hs
  | msixEnable on => exact sendHeld_kept (state_setFn_kept hs)
  | functionMask on => exact setFunctionMask_kept hs
  | atsEnable on => exact state_setFn_kept hs
  | maxPayload n => exact kept_ite (fun _ => state_setFn_kept hs) (fun _ => hs)
  | maxReadRequest n => exact kept_ite (fun _ => state_setFn_kept hs) (fun _ => hs)
  | numVFs n => exact kept_ite (fun _ => setNumVFs_kept hs) (fun _ => hs)
  | vfEnable on => exact kept_ite (fun _ => setVfEnable_kept hs) (fun _ => hs)
  | powerState d => exact setD3_kept hs
  | pmeEnable on => exact kept_ite (fun _ => state_setFn_kept hs) (fun _ => hs)

theorem configRequest_kept {s : State} {f : Nat} {q : ConfigReq} (hs : Kept kq kb s) :
    Kept kq kb (configRequest s f q) := by
  unfold configRequest
  try dsimp only
  repeat' first
    | with_reducible assumption
    | with_reducible apply replyWith_kept
    | with_reducible apply configWrite_kept
    | (with_reducible refine kept_ite ?_ ?_ <;> intro _)
    | split

theorem atsInvalidation_kept {s : State} {f : Nat} {page : Nat} (hs : Kept kq kb s) :
    Kept kq kb (atsInvalidation s f page) := by
  unfold atsInvalidation
  try dsimp only
  repeat' first
    | with_reducible assumption
    | with_reducible apply state_bump_kept
    | (with_reducible refine kept_ite ?_ ?_ <;> intro _)
    | split

theorem hostCompletionTimeout_kept {s : State} {c : Nat} {n : Nat} {ser : Nat} {page : Nat} (hs : Kept kq kb s) :
    Kept kq kb (hostCompletionTimeout s c n ser page) := by
  unfold hostCompletionTimeout
  try dsimp only
  repeat' first
    | with_reducible assumption
    | with_reducible apply state_bump_kept
    | with_reducible apply hostFault_kept
    | (with_reducible refine kept_ite ?_ ?_ <;> intro _)
    | split

theorem hostLinkTrained_kept {s : State} {speed : Nat} {width : Nat} {flit : Bool} (hs : Kept kq kb s) :
    Kept kq kb (hostLinkTrained s speed width flit) := by
  unfold hostLinkTrained
  try dsimp only
  repeat' first
    | with_reducible assumption
    | (with_reducible refine kept_ite ?_ ?_ <;> intro _)
    | simp only [kept_mk]
    | exact fun x => tblSorted_tblSet x
    | exact fun x => tblSorted_tblIns x
    | exact fun x => tblSorted_filter x
    | split

end Sys2Proof.Machine
end

