-- ==== Sys2Proof/Laws/Kept/Reliability.lean ====
section
/-! SUPPORT. Sys2Proof/Laws/Kept/Reliability.lean: the operations of Machine/Reliability.lean keep the queue and the canonical form. -/

namespace Sys2Proof.Machine

open Sys2Proof

variable {kq : List Instr} {kb : Bool}

theorem wmCfgWrite_kept {s : State} {v : Word} (hs : Kept kq kb s) :
    Kept kq kb (wmCfgWrite s v) := by
  unfold wmCfgWrite
  try dsimp only
  repeat' first
    | with_reducible assumption
    | with_reducible apply state_setMon_kept
    | (with_reducible refine kept_ite ?_ ?_ <;> intro _)
    | simp only [kept_mk]
    | exact fun x => tblSorted_tblSet x
    | exact fun x => tblSorted_tblIns x
    | exact fun x => tblSorted_filter x
    | split

theorem wmThresholdWrite_kept {s : State} {reg : Nat} {v : Word} (hs : Kept kq kb s) :
    Kept kq kb (wmThresholdWrite s reg v) := by
  unfold wmThresholdWrite
  try dsimp only
  repeat' first
    | with_reducible assumption
    | with_reducible apply state_setMon_kept
    | (with_reducible refine kept_ite ?_ ?_ <;> intro _)
    | split

theorem evictExcess_kept {n : Nat} {fuel : Nat} {s : State} (hs : Kept kq kb s) : Kept kq kb (evictExcess n fuel s) := by
  induction fuel generalizing s with
  | zero => exact hs
  | succ fuel ih =>
    unfold evictExcess
    dsimp only
    split
    · exact hs
    · split
      · split
        · next t h => exact ih (startEviction_kept hs t h)
        · exact hs
      · exact hs

theorem poisonGran_kept {s : State} {k : Nat} (hs : Kept kq kb s) :
    Kept kq kb (poisonGran s k) := by
  unfold poisonGran
  try dsimp only
  repeat' first
    | with_reducible assumption
    | with_reducible apply startRepair_kept
    | with_reducible apply kept_foldl
    | (with_reducible refine kept_ite ?_ ?_ <;> intro _)
    | simp only [kept_mk]
    | exact fun x => tblSorted_tblSet x
    | exact fun x => tblSorted_tblIns x
    | exact fun x => tblSorted_filter x
    | (with_reducible refine Kept.setCom ?_ ?_)
    | with_reducible exact fun x => storeOk_mk x
    | intro _
    | split

theorem poisonUnbound_kept {n : Nat} {s : State} (hs : Kept kq kb s) :
    Kept kq kb (poisonUnbound n s) := by
  unfold poisonUnbound
  try dsimp only
  repeat' first
    | with_reducible assumption
    | with_reducible apply state_draw_kept
    | with_reducible apply poisonGran_kept
    | with_reducible apply kept_foldl
    | (with_reducible refine kept_ite ?_ ?_ <;> intro _)
    | with_reducible apply kept_getD
    | intro _
    | split

theorem withdrawGroup_kept {s : State} {n : Nat} (hs : Kept kq kb s) :
    Kept kq kb (withdrawGroup s n) := by
  unfold withdrawGroup
  try dsimp only
  repeat' first
    | with_reducible assumption
    | with_reducible apply evictExcess_kept
    | with_reducible apply poisonUnbound_kept
    | (with_reducible refine kept_ite ?_ ?_ <;> intro _)
    | simp only [kept_mk]
    | exact fun x => tblSorted_tblSet x
    | exact fun x => tblSorted_tblIns x
    | exact fun x => tblSorted_filter x

theorem retirePch_kept {s : State} {k : Nat} (hs : Kept kq kb s) :
    Kept kq kb (retirePch s k) := by
  unfold retirePch
  try dsimp only
  repeat' first
    | with_reducible assumption
    | with_reducible apply markRetired_kept
    | with_reducible apply spareNotice_kept
    | with_reducible apply withdrawGroup_kept
    | (with_reducible refine kept_ite ?_ ?_ <;> intro _)
    | simp only [kept_mk]
    | exact fun x => tblSorted_tblSet x
    | exact fun x => tblSorted_tblIns x
    | exact fun x => tblSorted_filter x
    | split

theorem pchSpareCopyDone_kept {s : State} {n : Nat} (hs : Kept kq kb s) :
    Kept kq kb (pchSpareCopyDone s n) := by
  unfold pchSpareCopyDone
  try dsimp only
  repeat' first
    | with_reducible assumption
    | (with_reducible refine kept_ite ?_ ?_ <;> intro _)
    | simp only [kept_mk]
    | exact fun x => tblSorted_tblSet x
    | exact fun x => tblSorted_tblIns x
    | exact fun x => tblSorted_filter x
    | intro _
    | split

theorem slotEvent_kept {s : State} {k : Nat} (hs : Kept kq kb s) :
    Kept kq kb (slotEvent s k) := by
  unfold slotEvent
  try dsimp only
  repeat' first
    | with_reducible assumption
    | with_reducible apply logEntry_kept
    | with_reducible apply retireSlot_kept
    | with_reducible apply faultEvent_kept
    | (with_reducible refine kept_ite ?_ ?_ <;> intro _)
    | split

theorem retireArrayLine_kept {s : State} {k : Nat} {line : Nat} (hs : Kept kq kb s) :
    Kept kq kb (retireArrayLine s k line) := by
  unfold retireArrayLine
  try dsimp only
  repeat' first
    | with_reducible assumption
    | with_reducible apply markRetired_kept
    | with_reducible apply slotEvent_kept
    | (with_reducible refine kept_ite ?_ ?_ <;> intro _)
    | split

theorem retireCribLine_kept {s : State} {b : Nat} {line : Nat} (hs : Kept kq kb s) :
    Kept kq kb (retireCribLine s b line) := by
  unfold retireCribLine
  try dsimp only
  repeat' first
    | with_reducible assumption
    | with_reducible apply markRetired_kept
    | (with_reducible refine kept_ite ?_ ?_ <;> intro _)
    | split

theorem lineFinding_kept {s : State} {crib : Bool} {i : Nat} {line : Nat} {found : ScrubFound} (hs : Kept kq kb s) :
    Kept kq kb (lineFinding s crib i line found) := by
  unfold lineFinding
  try dsimp only
  repeat' first
    | with_reducible assumption
    | with_reducible apply logEntry_kept
    | with_reducible apply faultEvent_kept
    | with_reducible apply slotEvent_kept
    | with_reducible apply retireArrayLine_kept
    | with_reducible apply retireCribLine_kept
    | (with_reducible refine kept_ite ?_ ?_ <;> intro _)
    | split

theorem loftFinding_kept {s : State} {u k row : Nat} {f : ScrubFound} (hs : Kept kq kb s) : Kept kq kb (loftFinding s u k row f) := by
  cases f with
  | clean => exact hs
  | corrected =>
    have h := faultEvent_kept (k := resKey kPch k) (w := hour) (logEntry_kept (cls := 0) (unit := 2) (st := 0) (ctx := noCtx) (loc := k) hs)
    exact kept_ite (fun _ => h) (fun _ => retirePch_kept h)
  | uncorrectable =>
    unfold loftFinding
    dsimp only
    generalize (tblFind s.grans (u / 2 ^ 15)).any (fun g => g.tier != Tier.silo) = held
    have h0 : Kept kq kb (if held = true then s.setCom { s.com with poison := setIns s.com.poison u } else s) :=
      kept_ite (fun _ => hs.setCom storeOk_mk) (fun _ => hs)
    generalize (if held = true then s.setCom { s.com with poison := setIns s.com.poison u } else s) = t at h0
    have h := faultEvent_kept (k := 2 ^ 34 + k * 2 ^ 20 + row) (w := day)
      (logEntry_kept (cls := 1) (unit := 2) (st := 0) (ctx := noCtx) (loc := k) h0)
    generalize (faultEvent (logEntry t 1 2 0 noCtx k) (2 ^ 34 + k * 2 ^ 20 + row) day).1 = v at h
    have h' : Kept kq kb (if (held && repairable v u) = true then startRepair v (u / 2 ^ 15) u else v) :=
      kept_ite (fun _ => startRepair_kept h) (fun _ => h)
    exact kept_ite (fun _ => h') (fun _ => retirePch_kept h')

theorem scrubUnit_kept {s : State} {act : Nat} {u : Nat} {res : Nat} {line : Nat} {found : ScrubFound} (hs : Kept kq kb s) :
    Kept kq kb (scrubUnit s act u res line found) := by
  unfold scrubUnit
  try dsimp only
  repeat' first
    | with_reducible assumption
    | with_reducible apply bgUnit_kept
    | with_reducible apply lineFinding_kept
    | with_reducible apply loftFinding_kept
    | (with_reducible refine kept_ite ?_ ?_ <;> intro _)
    | split

theorem phyCalibration_kept {s : State} {n : Nat} (hs : Kept kq kb s) :
    Kept kq kb (phyCalibration s n) := by
  unfold phyCalibration
  try dsimp only
  repeat' first
    | with_reducible assumption
    | with_reducible apply bgUnit_kept
    | (with_reducible refine kept_ite ?_ ?_ <;> intro _)
    | split

theorem bgPassLate_kept {s : State} {a : Nat} (hs : Kept kq kb s) :
    Kept kq kb (bgPassLate s a) := by
  unfold bgPassLate
  try dsimp only
  repeat' first
    | with_reducible assumption
    | with_reducible apply bgPassEnds_kept
    | (with_reducible refine kept_ite ?_ ?_ <;> intro _)
    | split

theorem moveReplica_kept {p : Nat} {s : State} {k : Nat} (hs : Kept kq kb s) :
    Kept kq kb (moveReplica p s k) := by
  unfold moveReplica
  try dsimp only
  repeat' first
    | with_reducible assumption
    | with_reducible apply state_setGran_kept
    | (with_reducible refine kept_ite ?_ ?_ <;> intro _)
    | simp only [kept_mk]
    | exact fun x => tblSorted_tblSet x
    | exact fun x => tblSorted_tblIns x
    | exact fun x => tblSorted_filter x
    | split

theorem leavePort_kept {p : Nat} {s : State} {k : Nat} (hs : Kept kq kb s) :
    Kept kq kb (leavePort p s k) := by
  unfold leavePort
  try dsimp only
  repeat' first
    | with_reducible assumption
    | with_reducible apply abandonMigration_kept
    | with_reducible apply startRepair_kept
    | (with_reducible refine kept_ite ?_ ?_ <;> intro _)
    | intro _
    | split

theorem siloPortRetire_kept {s : State} {p : Nat} (hs : Kept kq kb s) :
    Kept kq kb (siloPortRetire s p) := by
  unfold siloPortRetire
  try dsimp only
  repeat' first
    | with_reducible assumption
    | with_reducible apply state_setSiloPort_kept
    | with_reducible apply markRetired_kept
    | with_reducible apply moveReplica_kept
    | with_reducible apply leavePort_kept
    | with_reducible apply kept_foldl
    | (with_reducible refine kept_ite ?_ ?_ <;> intro _)
    | simp only [kept_mk]
    | exact fun x => tblSorted_tblSet x
    | exact fun x => tblSorted_tblIns x
    | exact fun x => tblSorted_filter x
    | intro _
    | split

theorem siloRequestTimeout_kept {s : State} {p : Nat} (hs : Kept kq kb s) :
    Kept kq kb (siloRequestTimeout s p) := by
  unfold siloRequestTimeout
  try dsimp only
  repeat' first
    | with_reducible assumption
    | with_reducible apply logEntry_kept
    | with_reducible apply state_setSiloPort_kept
    | with_reducible apply faultEvent_kept
    | with_reducible apply siloPortRetire_kept
    | (with_reducible refine kept_ite ?_ ?_ <;> intro _)
    | simp only [kept_mk]
    | exact fun x => tblSorted_tblSet x
    | exact fun x => tblSorted_tblIns x
    | exact fun x => tblSorted_filter x
    | split

theorem healthRecordWrite_kept {s : State} {okay : Bool} (hs : Kept kq kb s) :
    Kept kq kb (healthRecordWrite s okay) := by
  unfold healthRecordWrite
  try dsimp only
  repeat' first
    | with_reducible assumption
    | (with_reducible refine kept_ite ?_ ?_ <;> intro _)
    | simp only [kept_mk]
    | exact fun x => tblSorted_tblSet x
    | exact fun x => tblSorted_tblIns x
    | exact fun x => tblSorted_filter x
    | split

theorem coreWatchdog_kept {s : State} {c : Nat} (hs : Kept kq kb s) :
    Kept kq kb (coreWatchdog s c) := by
  unfold coreWatchdog
  try dsimp only
  repeat' first
    | with_reducible assumption
    | with_reducible apply logEntry_kept
    | with_reducible apply faultEvent_kept
    | with_reducible apply warmReset_kept
    | (with_reducible refine kept_ite ?_ ?_ <;> intro _)
    | simp only [kept_mk]
    | exact fun x => tblSorted_tblSet x
    | exact fun x => tblSorted_tblIns x
    | exact fun x => tblSorted_filter x
    | intro _
    | split

theorem elogRelease_kept {s : State} {n : Nat} (hs : Kept kq kb s) :
    Kept kq kb (elogRelease s n) := by
  unfold elogRelease
  try dsimp only
  repeat' first
    | with_reducible assumption
    | (with_reducible refine kept_ite ?_ ?_ <;> intro _)
    | simp only [kept_mk]
    | exact fun x => tblSorted_tblSet x
    | exact fun x => tblSorted_tblIns x
    | exact fun x => tblSorted_filter x
    | split

theorem elogRdWrite_kept {s : State} {high : Bool} {v : Word} (hs : Kept kq kb s) :
    Kept kq kb (elogRdWrite s high v) := by
  unfold elogRdWrite
  try dsimp only
  repeat' first
    | with_reducible assumption
    | with_reducible apply elogRelease_kept
    | (with_reducible refine kept_ite ?_ ?_ <;> intro _)
    | simp only [kept_mk]
    | exact fun x => tblSorted_tblSet x
    | exact fun x => tblSorted_tblIns x
    | exact fun x => tblSorted_filter x
    | with_reducible apply kept_getD
    | split

theorem elogEntryRead_kept {s : State} (hs : Kept kq kb s) :
    Kept kq kb (elogEntryRead s) := by
  unfold elogEntryRead
  try dsimp only
  repeat' first
    | with_reducible assumption
    | with_reducible apply replyWith_kept
    | (with_reducible refine kept_ite ?_ ?_ <;> intro _)
    | simp only [kept_mk]
    | exact fun x => tblSorted_tblSet x
    | exact fun x => tblSorted_tblIns x
    | exact fun x => tblSorted_filter x

theorem readBar0_kept {s : State} {a : Agent} {go : State → State} (hs : Kept kq kb s) (hgo : ∀ y0, Kept kq kb y0 → Kept kq kb (go y0)) :
    Kept kq kb (readBar0 s a go) := by
  unfold readBar0
  try dsimp only
  repeat' first
    | with_reducible assumption
    | with_reducible apply wakeSource_kept
    | with_reducible apply replyWith_kept
    | with_reducible apply hgo
    | (with_reducible refine kept_ite ?_ ?_ <;> intro _)
    | intro _
    | split

theorem timeStep_kept {s : State} (hs : Kept kq kb s) :
    Kept kq kb (timeStep s) := by
  unfold timeStep
  try dsimp only
  repeat' first
    | with_reducible assumption
    | (with_reducible refine kept_ite ?_ ?_ <;> intro _)
    | simp only [kept_mk]
    | exact fun x => tblSorted_tblSet x
    | exact fun x => tblSorted_tblIns x
    | exact fun x => tblSorted_filter x

end Sys2Proof.Machine
end

