-- ==== Sys2Proof/Laws/Kept/Management.lean ====
section
/-! SUPPORT. Sys2Proof/Laws/Kept/Management.lean: the operations of Machine/Management.lean keep the queue and the canonical form. -/

namespace Sys2Proof.Machine

open Sys2Proof

variable {kq : List Instr} {kb : Bool}

theorem runImage_kept {s : State} {a : Nat} (hs : Kept kq kb s) :
    Kept kq kb (runImage s a) := by
  unfold runImage
  try dsimp only
  repeat' first
    | with_reducible assumption
    | (with_reducible refine kept_ite ?_ ?_ <;> intro _)
    | simp only [kept_mk]
    | exact fun x => tblSorted_tblSet x
    | exact fun x => tblSorted_tblIns x
    | exact fun x => tblSorted_filter x

theorem selectImage_kept {s : State} (hs : Kept kq kb s) :
    Kept kq kb (selectImage s) := by
  unfold selectImage
  try dsimp only
  repeat' first
    | with_reducible assumption
    | with_reducible apply runImage_kept
    | (with_reducible refine kept_ite ?_ ?_ <;> intro _)
    | simp only [kept_mk]
    | exact fun x => tblSorted_tblSet x
    | exact fun x => tblSorted_tblIns x
    | exact fun x => tblSorted_filter x
    | intro _
    | split

theorem mctpDrop_kept {s : State} (hs : Kept kq kb s) :
    Kept kq kb (mctpDrop s) := by
  unfold mctpDrop
  try dsimp only
  repeat' first
    | with_reducible assumption
    | with_reducible apply state_setReg_kept
    | (with_reducible refine kept_ite ?_ ?_ <;> intro _)

theorem viaMctp_kept {s : State} {msg : List Byte} {ty : Nat} {always : List Byte → Bool} {go : Nat → List Byte → State} (hs : Kept kq kb s) (hgo : ∀ y0 y1, Kept kq kb (go y0 y1)) :
    Kept kq kb (viaMctp s msg ty always go) := by
  unfold viaMctp
  try dsimp only
  repeat' first
    | with_reducible assumption
    | with_reducible apply replyWith_kept
    | with_reducible apply mctpDrop_kept
    | with_reducible apply hgo
    | (with_reducible refine kept_ite ?_ ?_ <;> intro _)
    | intro _
    | split

theorem mctpControl_kept {s : State} {b : Nat} {m : List Byte} (hs : Kept kq kb s) :
    Kept kq kb (mctpControl s b m) := by
  unfold mctpControl
  try dsimp only
  repeat' first
    | with_reducible assumption
    | with_reducible apply state_setReg_kept
    | with_reducible apply replyWith_kept
    | (with_reducible refine kept_ite ?_ ?_ <;> intro _)
    | intro _
    | split

theorem pldmSay_kept {s : State} {m : List Byte} {bs : List Byte} (hs : Kept kq kb s) :
    Kept kq kb (pldmSay s m bs) := by
  unfold pldmSay
  try dsimp only
  repeat' first
    | with_reducible assumption
    | with_reducible apply replyWith_kept
    | (with_reducible refine kept_ite ?_ ?_ <;> intro _)

theorem pldmBase_kept {s : State} {m : List Byte} (hs : Kept kq kb s) :
    Kept kq kb (pldmBase s m) := by
  unfold pldmBase
  try dsimp only
  repeat' first
    | with_reducible assumption
    | with_reducible apply pldmSay_kept
    | (with_reducible refine kept_ite ?_ ?_ <;> intro _)
    | split

theorem pldmMonitor_kept {s : State} {m : List Byte} (hs : Kept kq kb s) :
    Kept kq kb (pldmMonitor s m) := by
  unfold pldmMonitor
  try dsimp only
  repeat' first
    | with_reducible assumption
    | with_reducible apply pldmSay_kept
    | (with_reducible refine kept_ite ?_ ?_ <;> intro _)
    | simp only [kept_mk]
    | exact fun x => tblSorted_tblSet x
    | exact fun x => tblSorted_tblIns x
    | exact fun x => tblSorted_filter x
    | split

theorem pldmFru_kept {s : State} {m : List Byte} (hs : Kept kq kb s) :
    Kept kq kb (pldmFru s m) := by
  unfold pldmFru
  try dsimp only
  repeat' first
    | with_reducible assumption
    | with_reducible apply pldmSay_kept
    | (with_reducible refine kept_ite ?_ ?_ <;> intro _)
    | split

theorem pldmRequest_kept {s : State} {m : List Byte} (hs : Kept kq kb s) :
    Kept kq kb (pldmRequest s m) := by
  unfold pldmRequest
  try dsimp only
  repeat' first
    | with_reducible assumption
    | with_reducible apply pldmSay_kept
    | with_reducible apply pldmBase_kept
    | with_reducible apply pldmMonitor_kept
    | with_reducible apply pldmFru_kept
    | (with_reducible refine kept_ite ?_ ?_ <;> intro _)
    | split

theorem firmwareUpdate_kept {s : State} {g : List Byte} (hs : Kept kq kb s) :
    Kept kq kb (firmwareUpdate s g) := by
  unfold firmwareUpdate
  try dsimp only
  repeat' first
    | with_reducible assumption
    | with_reducible apply replyWith_kept
    | (with_reducible refine kept_ite ?_ ?_ <;> intro _)
    | simp only [kept_mk]
    | exact fun x => tblSorted_tblSet x
    | exact fun x => tblSorted_tblIns x
    | exact fun x => tblSorted_filter x
    | split

theorem spdmSign_kept {s : State} {m : List Byte} {bs : List Byte} (hs : Kept kq kb s) :
    Kept kq kb (spdmSign s m bs) := by
  unfold spdmSign
  try dsimp only
  repeat' first
    | with_reducible assumption
    | with_reducible apply state_draw_kept
    | with_reducible apply replyWith_kept
    | (with_reducible refine kept_ite ?_ ?_ <;> intro _)

theorem spdmRequest_kept {s : State} {m : List Byte} (hs : Kept kq kb s) :
    Kept kq kb (spdmRequest s m) := by
  unfold spdmRequest
  try dsimp only
  repeat' first
    | with_reducible assumption
    | with_reducible apply replyWith_kept
    | with_reducible apply spdmSign_kept
    | (with_reducible refine kept_ite ?_ ?_ <;> intro _)
    | split

theorem healthRecordRead_kept {s : State} {part : Nat} (hs : Kept kq kb s) :
    Kept kq kb (healthRecordRead s part) := by
  unfold healthRecordRead
  try dsimp only
  repeat' first
    | with_reducible assumption
    | with_reducible apply replyWith_kept
    | (with_reducible refine kept_ite ?_ ?_ <;> intro _)

theorem errorLogRead_kept {s : State} {n : Nat} (hs : Kept kq kb s) :
    Kept kq kb (errorLogRead s n) := by
  unfold errorLogRead
  try dsimp only
  repeat' first
    | with_reducible assumption
    | with_reducible apply replyWith_kept
    | (with_reducible refine kept_ite ?_ ?_ <;> intro _)
    | intro _
    | split

theorem vendor_kept {s : State} {go : State → State} (hs : Kept kq kb s) (hgo : ∀ y0, Kept kq kb y0 → Kept kq kb (go y0)) :
    Kept kq kb (vendor s go) := by
  unfold vendor
  try dsimp only
  repeat' first
    | with_reducible assumption
    | with_reducible apply replyWith_kept
    | with_reducible apply hgo
    | (with_reducible refine kept_ite ?_ ?_ <;> intro _)
    | intro _
    | split

end Sys2Proof.Machine
end

