-- ==== Sys2Proof/Laws/Kept/Startup.lean ====
section
/-! SUPPORT. Sys2Proof/Laws/Kept/Startup.lean: the operations of Machine/Startup.lean keep the queue and the canonical form. -/

namespace Sys2Proof.Machine

open Sys2Proof

variable {kq : List Instr} {kb : Bool}

theorem auxPowerLoss_kept {s : State} (hs : Kept kq kb s) :
    Kept kq kb (auxPowerLoss s) := by
  unfold auxPowerLoss
  try dsimp only
  repeat' first
    | with_reducible assumption
    | with_reducible apply coldReset_kept
    | (with_reducible refine kept_ite ?_ ?_ <;> intro _)
    | simp only [kept_mk]
    | exact fun x => tblSorted_tblSet x
    | exact fun x => tblSorted_tblIns x
    | exact fun x => tblSorted_filter x

theorem perstAssert_kept {s : State} (hs : Kept kq kb s) :
    Kept kq kb (perstAssert s) := by
  unfold perstAssert
  try dsimp only
  repeat' first
    | with_reducible assumption
    | with_reducible apply warmReset_kept
    | (with_reducible refine kept_ite ?_ ?_ <;> intro _)
    | simp only [kept_mk]
    | exact fun x => tblSorted_tblSet x
    | exact fun x => tblSorted_tblIns x
    | exact fun x => tblSorted_filter x
    | split

theorem supplyLoss_kept {s : State} (hs : Kept kq kb s) :
    Kept kq kb (supplyLoss s) := by
  unfold supplyLoss
  try dsimp only
  repeat' first
    | with_reducible assumption
    | with_reducible apply state_draw_kept
    | with_reducible apply logEntry_kept
    | with_reducible apply warmReset_kept
    | (with_reducible refine kept_ite ?_ ?_ <;> intro _)
    | simp only [kept_mk]
    | exact fun x => tblSorted_tblSet x
    | exact fun x => tblSorted_tblIns x
    | exact fun x => tblSorted_filter x
    | split

theorem warmResetBy_kept {s : State} {cause : Nat} (hs : Kept kq kb s) :
    Kept kq kb (warmResetBy s cause) := by
  unfold warmResetBy
  try dsimp only
  repeat' first
    | with_reducible assumption
    | with_reducible apply warmReset_kept
    | with_reducible apply perstAssert_kept
    | with_reducible apply supplyLoss_kept
    | (with_reducible refine kept_ite ?_ ?_ <;> intro _)
    | split

theorem rstCtrl_kept {s : State} {v : Word} (hs : Kept kq kb s) :
    Kept kq kb (rstCtrl s v) := by
  unfold rstCtrl
  try dsimp only
  repeat' first
    | with_reducible assumption
    | with_reducible apply warmReset_kept
    | (with_reducible refine kept_ite ?_ ?_ <;> intro _)
    | split

theorem sysrefLoss_kept {s : State} (hs : Kept kq kb s) :
    Kept kq kb (sysrefLoss s) := by
  unfold sysrefLoss
  try dsimp only
  repeat' first
    | with_reducible assumption
    | with_reducible apply state_draw_kept
    | with_reducible apply warmReset_kept
    | (with_reducible refine kept_ite ?_ ?_ <;> intro _)
    | simp only [kept_mk]
    | exact fun x => tblSorted_tblSet x
    | exact fun x => tblSorted_tblIns x
    | exact fun x => tblSorted_filter x
    | split

theorem startSteps_kept {s : State} (hs : Kept kq kb s) :
    Kept kq kb (startSteps s) := by
  unfold startSteps
  try dsimp only
  repeat' first
    | with_reducible assumption
    | (with_reducible refine kept_ite ?_ ?_ <;> intro _)
    | simp only [kept_mk]
    | exact fun x => tblSorted_tblSet x
    | exact fun x => tblSorted_tblIns x
    | exact fun x => tblSorted_filter x

theorem stepTo_kept {s : State} {n : Nat} (hs : Kept kq kb s) :
    Kept kq kb (stepTo s n) := by
  unfold stepTo
  try dsimp only
  repeat' first
    | with_reducible assumption
    | (with_reducible refine kept_ite ?_ ?_ <;> intro _)
    | simp only [kept_mk]
    | exact fun x => tblSorted_tblSet x
    | exact fun x => tblSorted_tblIns x
    | exact fun x => tblSorted_filter x

theorem afterReset_kept {s : State} (hs : Kept kq kb s) :
    Kept kq kb (afterReset s) := by
  unfold afterReset
  try dsimp only
  repeat' first
    | with_reducible assumption
    | with_reducible apply startSteps_kept
    | (with_reducible refine kept_ite ?_ ?_ <;> intro _)
    | simp only [kept_mk]
    | exact fun x => tblSorted_tblSet x
    | exact fun x => tblSorted_tblIns x
    | exact fun x => tblSorted_filter x
    | split

theorem checkSupplies_kept {s : State} (hs : Kept kq kb s) :
    Kept kq kb (checkSupplies s) := by
  unfold checkSupplies
  try dsimp only
  repeat' first
    | with_reducible assumption
    | with_reducible apply stepTo_kept
    | (with_reducible refine kept_ite ?_ ?_ <;> intro _)
    | simp only [kept_mk]
    | exact fun x => tblSorted_tblSet x
    | exact fun x => tblSorted_tblIns x
    | exact fun x => tblSorted_filter x
    | split

theorem trainLinks_kept {s : State} (hs : Kept kq kb s) :
    Kept kq kb (trainLinks s) := by
  unfold trainLinks
  try dsimp only
  repeat' first
    | with_reducible assumption
    | with_reducible apply state_setLink_kept
    | with_reducible apply kept_foldl
    | (with_reducible refine kept_ite ?_ ?_ <;> intro _)
    | simp only [kept_mk]
    | exact fun x => tblSorted_tblSet x
    | exact fun x => tblSorted_tblIns x
    | exact fun x => tblSorted_filter x
    | intro _

theorem selfTest_kept {s : State} (hs : Kept kq kb s) :
    Kept kq kb (selfTest s) := by
  unfold selfTest
  try dsimp only
  repeat' first
    | with_reducible assumption
    | with_reducible apply state_draw_kept
    | (with_reducible refine kept_ite ?_ ?_ <;> intro _)
    | simp only [kept_mk]
    | exact fun x => tblSorted_tblSet x
    | exact fun x => tblSorted_tblIns x
    | exact fun x => tblSorted_filter x
    | intro _
    | split

theorem trainStacks_kept {s : State} (hs : Kept kq kb s) :
    Kept kq kb (trainStacks s) := by
  unfold trainStacks
  try dsimp only
  repeat' first
    | with_reducible assumption
    | with_reducible apply state_draw_kept
    | (with_reducible refine kept_ite ?_ ?_ <;> intro _)
    | simp only [kept_mk]
    | exact fun x => tblSorted_tblSet x
    | exact fun x => tblSorted_tblIns x
    | exact fun x => tblSorted_filter x
    | split

theorem applySlot_kept {s : State} {k : Nat} (hs : Kept kq kb s) :
    Kept kq kb (applySlot s k) := by
  unfold applySlot
  try dsimp only
  repeat' first
    | with_reducible assumption
    | with_reducible apply state_setSlot_kept
    | with_reducible apply mapEvent_kept
    | with_reducible apply placeDoubled_kept
    | with_reducible apply takeOver_kept
    | (with_reducible refine kept_ite ?_ ?_ <;> intro _)
    | simp only [kept_mk]
    | exact fun x => tblSorted_tblSet x
    | exact fun x => tblSorted_tblIns x
    | exact fun x => tblSorted_filter x
    | split

theorem applyRecord_kept {s : State} (hs : Kept kq kb s) :
    Kept kq kb (applyRecord s) := by
  unfold applyRecord
  try dsimp only
  repeat' first
    | with_reducible assumption
    | with_reducible apply state_setSiloPort_kept
    | with_reducible apply retiredLanes_kept
    | with_reducible apply state_setPhase_kept
    | with_reducible apply applySlot_kept
    | with_reducible apply kept_foldl
    | (with_reducible refine kept_ite ?_ ?_ <;> intro _)
    | simp only [kept_mk]
    | exact fun x => tblSorted_tblSet x
    | exact fun x => tblSorted_tblIns x
    | exact fun x => tblSorted_filter x
    | intro _
    | split

theorem recordStep_kept {s : State} (hs : Kept kq kb s) :
    Kept kq kb (recordStep s) := by
  unfold recordStep
  try dsimp only
  repeat' first
    | with_reducible assumption
    | with_reducible apply applyRecord_kept
    | (with_reducible refine kept_ite ?_ ?_ <;> intro _)
    | split

theorem readyStep_kept {s : State} (hs : Kept kq kb s) :
    Kept kq kb (readyStep s) := by
  unfold readyStep
  try dsimp only
  repeat' first
    | with_reducible assumption
    | with_reducible apply stepTo_kept
    | (with_reducible refine kept_ite ?_ ?_ <;> intro _)
    | simp only [kept_mk]
    | exact fun x => tblSorted_tblSet x
    | exact fun x => tblSorted_tblIns x
    | exact fun x => tblSorted_filter x
    | intro _

theorem noBootPlan_kept {s : State} (hs : Kept kq kb s) :
    Kept kq kb (noBootPlan s) := by
  unfold noBootPlan
  try dsimp only
  repeat' first
    | with_reducible assumption
    | (with_reducible refine kept_ite ?_ ?_ <;> intro _)
    | simp only [kept_mk]
    | exact fun x => tblSorted_tblSet x
    | exact fun x => tblSorted_tblIns x
    | exact fun x => tblSorted_filter x
    | split

theorem restoreStep_kept {s : State} (hs : Kept kq kb s) :
    Kept kq kb (restoreStep s) := by
  unfold restoreStep
  try dsimp only
  repeat' first
    | with_reducible assumption
    | with_reducible apply stateReached_kept
    | (with_reducible refine kept_ite ?_ ?_ <;> intro _)
    | simp only [kept_mk]
    | exact fun x => tblSorted_tblSet x
    | exact fun x => tblSorted_tblIns x
    | exact fun x => tblSorted_filter x

theorem endStep_kept {s : State} {n : Nat} (hs : Kept kq kb s) :
    Kept kq kb (endStep s n) := by
  unfold endStep
  try dsimp only
  repeat' first
    | with_reducible assumption
    | with_reducible apply portsTrain_kept
    | with_reducible apply selectImage_kept
    | with_reducible apply stepTo_kept
    | with_reducible apply afterReset_kept
    | with_reducible apply checkSupplies_kept
    | with_reducible apply trainLinks_kept
    | with_reducible apply selfTest_kept
    | with_reducible apply trainStacks_kept
    | with_reducible apply recordStep_kept
    | with_reducible apply readyStep_kept
    | with_reducible apply noBootPlan_kept
    | with_reducible apply restoreStep_kept
    | (with_reducible refine kept_ite ?_ ?_ <;> intro _)
    | simp only [kept_mk]
    | exact fun x => tblSorted_tblSet x
    | exact fun x => tblSorted_tblIns x
    | exact fun x => tblSorted_filter x
    | split

theorem startupStepDone_kept {s : State} (hs : Kept kq kb s) :
    Kept kq kb (startupStepDone s) := by
  unfold startupStepDone
  try dsimp only
  repeat' first
    | with_reducible assumption
    | with_reducible apply afterReset_kept
    | with_reducible apply endStep_kept
    | (with_reducible refine kept_ite ?_ ?_ <;> intro _)
    | split

theorem step1Retry_kept {s : State} (hs : Kept kq kb s) :
    Kept kq kb (step1Retry s) := by
  unfold step1Retry
  try dsimp only
  repeat' first
    | with_reducible assumption
    | with_reducible apply state_draw_kept
    | (with_reducible refine kept_ite ?_ ?_ <;> intro _)
    | simp only [kept_mk]
    | exact fun x => tblSorted_tblSet x
    | exact fun x => tblSorted_tblIns x
    | exact fun x => tblSorted_filter x
    | split

theorem fallowExit_kept {s : State} (hs : Kept kq kb s) :
    Kept kq kb (fallowExit s) := by
  unfold fallowExit
  try dsimp only
  repeat' first
    | with_reducible assumption
    | with_reducible apply warmReset_kept
    | with_reducible apply startSteps_kept
    | (with_reducible refine kept_ite ?_ ?_ <;> intro _)
    | split

theorem hostPortReset_kept {s : State} (hs : Kept kq kb s) :
    Kept kq kb (hostPortReset s) := by
  unfold hostPortReset
  try dsimp only
  repeat' first
    | with_reducible assumption
    | with_reducible apply state_reset_kept
    | with_reducible apply state_setFn_kept
    | with_reducible apply dropVfs_kept
    | (with_reducible refine kept_ite ?_ ?_ <;> intro _)
    | simp only [kept_mk]
    | simp only [kept_mk_regs]
    | with_reducible apply keptRegs
    | exact fun x => tblSorted_tblSet x
    | exact fun x => tblSorted_tblIns x
    | exact fun x => tblSorted_filter x
    | intro _
    | split

theorem perstWake_kept {s : State} (hs : Kept kq kb s) :
    Kept kq kb (perstWake s) := by
  unfold perstWake
  try dsimp only
  repeat' first
    | with_reducible assumption
    | with_reducible apply state_setBits_kept
    | with_reducible apply wakeAny_kept
    | (with_reducible refine kept_ite ?_ ?_ <;> intro _)
    | split

theorem perstDeassert_kept {s : State} (hs : Kept kq kb s) :
    Kept kq kb (perstDeassert s) := by
  unfold perstDeassert
  try dsimp only
  repeat' first
    | with_reducible assumption
    | with_reducible apply startSteps_kept
    | with_reducible apply hostPortReset_kept
    | with_reducible apply perstWake_kept
    | (with_reducible refine kept_ite ?_ ?_ <;> intro _)
    | simp only [kept_mk]
    | exact fun x => tblSorted_tblSet x
    | exact fun x => tblSorted_tblIns x
    | exact fun x => tblSorted_filter x
    | split

theorem perstAssertInFallow_kept {s : State} (hs : Kept kq kb s) :
    Kept kq kb (perstAssertInFallow s) := by
  unfold perstAssertInFallow
  try dsimp only
  repeat' first
    | with_reducible assumption
    | (with_reducible refine kept_ite ?_ ?_ <;> intro _)
    | simp only [kept_mk]
    | exact fun x => tblSorted_tblSet x
    | exact fun x => tblSorted_tblIns x
    | exact fun x => tblSorted_filter x
    | split

theorem siloPortTrained_kept {s : State} {p : Nat} {capacity : Nat} (hs : Kept kq kb s) :
    Kept kq kb (siloPortTrained s p capacity) := by
  unfold siloPortTrained
  try dsimp only
  repeat' first
    | with_reducible assumption
    | with_reducible apply state_setSiloPort_kept
    | (with_reducible refine kept_ite ?_ ?_ <;> intro _)
    | simp only [kept_mk]
    | exact fun x => tblSorted_tblSet x
    | exact fun x => tblSorted_tblIns x
    | exact fun x => tblSorted_filter x
    | split

theorem bootPlanLoad_kept {s : State} (hs : Kept kq kb s) :
    Kept kq kb (bootPlanLoad s) := by
  unfold bootPlanLoad
  try dsimp only
  repeat' first
    | with_reducible assumption
    | with_reducible apply fpEnd_kept
    | with_reducible apply bootPlanEnds_kept
    | (with_reducible refine kept_ite ?_ ?_ <;> intro _)
    | simp only [kept_mk]
    | exact fun x => tblSorted_tblSet x
    | exact fun x => tblSorted_tblIns x
    | exact fun x => tblSorted_filter x
    | split

theorem bootCtrl_kept {s : State} {v : Word} (hs : Kept kq kb s) :
    Kept kq kb (bootCtrl s v) := by
  unfold bootCtrl
  try dsimp only
  repeat' first
    | with_reducible assumption
    | (with_reducible refine kept_ite ?_ ?_ <;> intro _)
    | simp only [kept_mk]
    | exact fun x => tblSorted_tblSet x
    | exact fun x => tblSorted_tblIns x
    | exact fun x => tblSorted_filter x
    | split

theorem bootStoreDone_kept {s : State} (hs : Kept kq kb s) :
    Kept kq kb (bootStoreDone s) := by
  unfold bootStoreDone
  try dsimp only
  repeat' first
    | with_reducible assumption
    | with_reducible apply state_bump_kept
    | (with_reducible refine kept_ite ?_ ?_ <;> intro _)
    | simp only [kept_mk]
    | exact fun x => tblSorted_tblSet x
    | exact fun x => tblSorted_tblIns x
    | exact fun x => tblSorted_filter x
    | with_reducible exact fun x => storeOk_mk x
    | split

theorem bootCfgWrite_kept {s : State} {v : Word} (hs : Kept kq kb s) :
    Kept kq kb (bootCfgWrite s v) := by
  unfold bootCfgWrite
  try dsimp only
  repeat' first
    | with_reducible assumption
    | with_reducible apply state_setReg_kept
    | (with_reducible refine kept_ite ?_ ?_ <;> intro _)

end Sys2Proof.Machine
end

