-- ==== Sys2Proof/Laws/Kept/Registers.lean ====
section
/-! SUPPORT. Sys2Proof/Laws/Kept/Registers.lean: the operations of Machine/Registers.lean keep the queue and the canonical form. -/

namespace Sys2Proof.Machine

open Sys2Proof

variable {kq : List Instr} {kb : Bool}

theorem clearRead_kept {s : State} {k : Nat} (hs : Kept kq kb s) :
    Kept kq kb (clearRead s k) := by
  unfold clearRead
  try dsimp only
  repeat' first
    | with_reducible assumption
    | with_reducible apply state_setReg_kept
    | with_reducible apply state_setMon_kept
    | (with_reducible refine kept_ite ?_ ?_ <;> intro _)
    | simp only [kept_mk]
    | exact fun x => tblSorted_tblSet x
    | exact fun x => tblSorted_tblIns x
    | exact fun x => tblSorted_filter x
    | split

theorem readKey_kept {s : State} {rd k : Nat} (hs : Kept kq kb s) : Kept kq kb (readKey s rd k).1 := by
  unfold readKey
  split
  · exact hs
  · exact clearRead_kept hs

theorem answerRead_kept {s : State} {rd : Nat} {k : Nat} (hs : Kept kq kb s) :
    Kept kq kb (answerRead s rd k) := by
  unfold answerRead
  try dsimp only
  repeat' first
    | with_reducible assumption
    | with_reducible apply replyWith_kept
    | with_reducible apply readKey_kept
    | (with_reducible refine kept_ite ?_ ?_ <;> intro _)

theorem regRead_kept {s : State} {a : Agent} {bar : Bar} {off : Nat} (hs : Kept kq kb s) :
    Kept kq kb (regRead s a bar off) := by
  unfold regRead
  try dsimp only
  repeat' first
    | with_reducible assumption
    | with_reducible apply badAccess_kept
    | with_reducible apply wakeSource_kept
    | with_reducible apply replyWith_kept
    | with_reducible apply apertureRead_kept
    | with_reducible apply viaAperture_kept
    | with_reducible apply readBar0_kept
    | with_reducible apply answerRead_kept
    | (with_reducible refine kept_ite ?_ ?_ <;> intro _)
    | intro _
    | split

theorem plainWrite_kept {s : State} {k : Nat} {v : Word} (hs : Kept kq kb s) :
    Kept kq kb (plainWrite s k v) := by
  unfold plainWrite
  try dsimp only
  repeat' first
    | with_reducible assumption
    | with_reducible apply state_setReg_kept
    | (with_reducible refine kept_ite ?_ ?_ <;> intro _)
    | split

theorem crvCfgWrite_kept {s : State} {v : Word} (hs : Kept kq kb s) :
    Kept kq kb (crvCfgWrite s v) := by
  unfold crvCfgWrite
  try dsimp only
  repeat' first
    | with_reducible assumption
    | with_reducible apply plainWrite_kept
    | (with_reducible refine kept_ite ?_ ?_ <;> intro _)
    | split

theorem thermWrite_kept {s : State} {v : Word} (hs : Kept kq kb s) :
    Kept kq kb (thermWrite s v) := by
  unfold thermWrite
  try dsimp only
  repeat' first
    | with_reducible assumption
    | with_reducible apply state_setReg_kept
    | (with_reducible refine kept_ite ?_ ?_ <;> intro _)
    | intro _
    | split

theorem slewWrite_kept {s : State} {v : Word} (hs : Kept kq kb s) :
    Kept kq kb (slewWrite s v) := by
  unfold slewWrite
  try dsimp only
  repeat' first
    | with_reducible assumption
    | with_reducible apply plainWrite_kept
    | (with_reducible refine kept_ite ?_ ?_ <;> intro _)
    | split

theorem wmStatusWrite_kept {s : State} {v : Word} (hs : Kept kq kb s) :
    Kept kq kb (wmStatusWrite s v) := by
  unfold wmStatusWrite
  try dsimp only
  repeat' first
    | with_reducible assumption
    | with_reducible apply state_setMon_kept
    | (with_reducible refine kept_ite ?_ ?_ <;> intro _)
    | simp only [kept_mk]
    | exact fun x => tblSorted_tblSet x
    | exact fun x => tblSorted_tblIns x
    | exact fun x => tblSorted_filter x

theorem wmPendingWrite_kept {s : State} {j : Nat} {v : Word} (hs : Kept kq kb s) :
    Kept kq kb (wmPendingWrite s j v) := by
  unfold wmPendingWrite
  try dsimp only
  repeat' first
    | with_reducible assumption
    | with_reducible apply state_setMon_kept
    | with_reducible apply kept_foldl
    | (with_reducible refine kept_ite ?_ ?_ <;> intro _)
    | simp only [kept_mk]
    | exact fun x => tblSorted_tblSet x
    | exact fun x => tblSorted_tblIns x
    | exact fun x => tblSorted_filter x
    | intro _

theorem bar0Write_kept {s : State} {off : Nat} {v : Word} (hs : Kept kq kb s) :
    Kept kq kb (bar0Write s off v) := by
  unfold bar0Write
  try dsimp only
  repeat' first
    | with_reducible assumption
    | with_reducible apply fpCtrl_kept
    | with_reducible apply fnRangeWrite_kept
    | with_reducible apply portCtrlWrite_kept
    | with_reducible apply pwrCtrl_kept
    | with_reducible apply wakeCfgWrite_kept
    | with_reducible apply migCfgWrite_kept
    | with_reducible apply cartOstdWrite_kept
    | with_reducible apply kvCtrl_kept
    | with_reducible apply detInjectWrite_kept
    | with_reducible apply wmCfgWrite_kept
    | with_reducible apply wmThresholdWrite_kept
    | with_reducible apply elogRdWrite_kept
    | with_reducible apply timeStep_kept
    | with_reducible apply rstCtrl_kept
    | with_reducible apply bootCtrl_kept
    | with_reducible apply bootCfgWrite_kept
    | with_reducible apply plainWrite_kept
    | with_reducible apply crvCfgWrite_kept
    | with_reducible apply thermWrite_kept
    | with_reducible apply slewWrite_kept
    | with_reducible apply wmStatusWrite_kept
    | with_reducible apply wmPendingWrite_kept
    | (with_reducible refine kept_ite ?_ ?_ <;> intro _)
    | split

theorem farCtrl_kept {s : State} {c : Nat} {v : Word} (hs : Kept kq kb s) :
    Kept kq kb (farCtrl s c v) := by
  unfold farCtrl
  try dsimp only
  repeat' first
    | with_reducible assumption
    | with_reducible apply farErr_kept
    | with_reducible apply farOp_kept
    | with_reducible apply farExport_kept
    | with_reducible apply farUnexport_kept
    | with_reducible apply farBind_kept
    | (with_reducible refine kept_ite ?_ ?_ <;> intro _)
    | intro _
    | split

theorem ringWrite_kept {s : State} {c : Nat} {n : Nat} {r : Nat} {v : Word} (hs : Kept kq kb s) :
    Kept kq kb (ringWrite s c n r v) := by
  unfold ringWrite
  try dsimp only
  repeat' first
    | with_reducible assumption
    | with_reducible apply ringCtrl_kept
    | with_reducible apply ringCfgWrite_kept
    | with_reducible apply plainWrite_kept
    | (with_reducible refine kept_ite ?_ ?_ <;> intro _)
    | split

theorem windowWrite_kept {s : State} {f : Nat} {c : Nat} {off : Nat} {v : Word} (hs : Kept kq kb s) :
    Kept kq kb (windowWrite s f c off v) := by
  unfold windowWrite
  try dsimp only
  repeat' first
    | with_reducible assumption
    | with_reducible apply evcAdd_kept
    | with_reducible apply ctxCtrl_kept
    | with_reducible apply ctxCfgWrite_kept
    | with_reducible apply ctxWeightWrite_kept
    | with_reducible apply objCtrl_kept
    | with_reducible apply seqCancel_kept
    | with_reducible apply steerCtrl_kept
    | with_reducible apply seedLoWrite_kept
    | with_reducible apply seedHiWrite_kept
    | with_reducible apply wpkCtrl_kept
    | with_reducible apply digestCtrl_kept
    | with_reducible apply plainWrite_kept
    | with_reducible apply farCtrl_kept
    | with_reducible apply ringWrite_kept
    | (with_reducible refine kept_ite ?_ ?_ <;> intro _)
    | split

theorem msixWrite_kept {s : State} {f : Nat} {v : Nat} {d : Nat} {w : Word} (hs : Kept kq kb s) :
    Kept kq kb (msixWrite s f v d w) := by
  unfold msixWrite
  try dsimp only
  repeat' first
    | with_reducible assumption
    | with_reducible apply state_reset_kept
    | with_reducible apply state_setFn_kept
    | with_reducible apply setVectorMask_kept
    | (with_reducible refine kept_ite ?_ ?_ <;> intro _)
    | simp only [kept_mk]
    | exact fun x => tblSorted_tblSet x
    | exact fun x => tblSorted_tblIns x
    | exact fun x => tblSorted_filter x
    | intro _
    | split

theorem pageWrite_kept {s : State} {f : Nat} {off : Nat} {v : Word} (hs : Kept kq kb s) :
    Kept kq kb (pageWrite s f off v) := by
  unfold pageWrite
  try dsimp only
  repeat' first
    | with_reducible assumption
    | with_reducible apply state_setFn_kept
    | with_reducible apply plainWrite_kept
    | with_reducible apply msixWrite_kept
    | (with_reducible refine kept_ite ?_ ?_ <;> intro _)
    | simp only [kept_mk]
    | exact fun x => tblSorted_tblSet x
    | exact fun x => tblSorted_tblIns x
    | exact fun x => tblSorted_filter x
    | split

theorem regWrite_kept {s : State} {a : Agent} {bar : Bar} {off : Nat} {v : Word} (hs : Kept kq kb s) :
    Kept kq kb (regWrite s a bar off v) := by
  unfold regWrite
  try dsimp only
  repeat' first
    | with_reducible assumption
    | with_reducible apply badAccess_kept
    | with_reducible apply wakeSource_kept
    | with_reducible apply viaBar0_kept
    | with_reducible apply viaWindow_kept
    | with_reducible apply doorbellPageWrite_kept
    | with_reducible apply apertureWrite_kept
    | with_reducible apply viaAperture_kept
    | with_reducible apply bar0Write_kept
    | with_reducible apply windowWrite_kept
    | with_reducible apply pageWrite_kept
    | (with_reducible refine kept_ite ?_ ?_ <;> intro _)
    | intro _
    | split

theorem badRegisterAccess_kept {s : State} {f : Nat} {bar : Bar} {off : Nat} {write : Bool} (hs : Kept kq kb s) :
    Kept kq kb (badRegisterAccess s f bar off write) := by
  unfold badRegisterAccess
  try dsimp only
  repeat' first
    | with_reducible assumption
    | with_reducible apply badAccess_kept
    | with_reducible apply wakeSource_kept
    | with_reducible apply replyWith_kept
    | (with_reducible refine kept_ite ?_ ?_ <;> intro _)
    | split

end Sys2Proof.Machine
end

