-- ==== Sys2Proof/Laws/Kept/Rows.lean ====
section
/-! SUPPORT. Sys2Proof/Laws/Kept/Rows.lean: the answer of every row keeps the queue and the canonical form. -/

namespace Sys2Proof.Machine

open Sys2Proof

variable {kq : List Instr} {kb : Bool}

theorem done_kept {s : State} (hs : Kept kq kb s) : KeptOut kq kb (done s) := keptOut_next (watch_kept hs)

theorem hub_kept {s t : State} (hs : Kept kq kb s) (ht : Kept kq kb t) : KeptOut kq kb (hub s t) := by
  unfold hub
  split
  · exact done_kept ht
  · exact keptOut_next hs

theorem aon_kept {s t : State} (hs : Kept kq kb s) (ht : Kept kq kb t) : KeptOut kq kb (aon s t) := by
  unfold aon
  split
  · exact done_kept ht
  · exact keptOut_next hs

theorem early_kept {s t : State} (hs : Kept kq kb s) (ht : Kept kq kb t) : KeptOut kq kb (early s t) := by
  unfold early
  split
  · exact done_kept ht
  · exact keptOut_next hs

theorem portRow_kept {p : Nat} {s t : State} (hs : Kept kq kb s) (ht : Kept kq kb t) : KeptOut kq kb (portRow p s t) :=
  hub_kept hs (kept_ite (fun _ => ht) (fun _ => hs))

theorem regRow_kept {a : Agent} {b : Bar} {s t : State} (hs : Kept kq kb s) (ht : Kept kq kb t) : KeptOut kq kb (regRow a b s t) := by
  unfold regRow
  split
  · exact aon_kept hs ht
  · split
    · exact early_kept hs ht
    · exact hub_kept hs ht

theorem execRotationStart_kept {die : Nat} {s : State} (hs : Kept kq kb s) : KeptOut kq kb (execRotationStart die s) := by
  unfold execRotationStart
  repeat' first
    | with_reducible assumption
    | with_reducible apply hub_kept
    | with_reducible apply rotationStart_kept

theorem execRotationCopy_kept {die : Nat} {s : State} (hs : Kept kq kb s) : KeptOut kq kb (execRotationCopy die s) := by
  unfold execRotationCopy
  repeat' first
    | with_reducible assumption
    | with_reducible apply hub_kept
    | with_reducible apply rotationCopy_kept

theorem execRotationEnd_kept {die : Nat} {s : State} (hs : Kept kq kb s) : KeptOut kq kb (execRotationEnd die s) := by
  unfold execRotationEnd
  repeat' first
    | with_reducible assumption
    | with_reducible apply hub_kept
    | with_reducible apply rotationEnd_kept

theorem execAgeingTick_kept {s : State} (hs : Kept kq kb s) : KeptOut kq kb (execAgeingTick s) := by
  unfold execAgeingTick
  repeat' first
    | with_reducible assumption
    | with_reducible apply hub_kept
    | with_reducible apply ageingTick_kept

theorem execDieLinkCrcRetry_kept {link : Nat} {repaired : Bool} {retrained : Bool} {s : State} (hs : Kept kq kb s) : KeptOut kq kb (execDieLinkCrcRetry link repaired retrained s) := by
  unfold execDieLinkCrcRetry
  repeat' first
    | with_reducible assumption
    | with_reducible apply hub_kept
    | with_reducible apply dieLinkCrcRetry_kept

theorem execDieLinkDown_kept {link : Nat} {up : Nat} {s : State} (hs : Kept kq kb s) : KeptOut kq kb (execDieLinkDown link up s) := by
  unfold execDieLinkDown
  repeat' first
    | with_reducible assumption
    | with_reducible apply hub_kept
    | with_reducible apply dieLinkDown_kept

theorem execD2dLinkRestored_kept {link : Nat} {s : State} (hs : Kept kq kb s) : KeptOut kq kb (execD2dLinkRestored link s) := by
  unfold execD2dLinkRestored
  repeat' first
    | with_reducible assumption
    | with_reducible apply hub_kept
    | with_reducible apply d2dLinkRestored_kept

theorem execFpLoad_kept {a : Agent} {slot : Nat} {s : State} (hs : Kept kq kb s) : KeptOut kq kb (execFpLoad a slot s) := by
  unfold execFpLoad
  repeat' first
    | with_reducible assumption
    | with_reducible apply hub_kept
    | with_reducible apply viaBar0_kept
    | with_reducible apply fpLoad_kept
    | intro _

theorem execFpPrepare_kept {a : Agent} {slot : Nat} {s : State} (hs : Kept kq kb s) : KeptOut kq kb (execFpPrepare a slot s) := by
  unfold execFpPrepare
  repeat' first
    | with_reducible assumption
    | with_reducible apply hub_kept
    | with_reducible apply viaBar0_kept
    | with_reducible apply fpPrepare_kept
    | intro _

theorem execFpApply_kept {a : Agent} {slot : Nat} {s : State} (hs : Kept kq kb s) : KeptOut kq kb (execFpApply a slot s) := by
  unfold execFpApply
  repeat' first
    | with_reducible assumption
    | with_reducible apply hub_kept
    | with_reducible apply viaBar0_kept
    | with_reducible apply fpApply_kept
    | intro _

theorem execApplyBankSwitch_kept {s : State} (hs : Kept kq kb s) : KeptOut kq kb (execApplyBankSwitch s) := by
  unfold execApplyBankSwitch
  repeat' first
    | with_reducible assumption
    | with_reducible apply hub_kept
    | with_reducible apply applyBankSwitch_kept

theorem execApplyWaitTimeout_kept {s : State} (hs : Kept kq kb s) : KeptOut kq kb (execApplyWaitTimeout s) := by
  unfold execApplyWaitTimeout
  repeat' first
    | with_reducible assumption
    | with_reducible apply hub_kept
    | with_reducible apply applyWaitTimeout_kept

theorem execApplyAckTimeout_kept {die : Nat} {s : State} (hs : Kept kq kb s) : KeptOut kq kb (execApplyAckTimeout die s) := by
  unfold execApplyAckTimeout
  repeat' first
    | with_reducible assumption
    | with_reducible apply hub_kept
    | with_reducible apply applyAckTimeout_kept

theorem execFpDiscard_kept {a : Agent} {slot : Nat} {s : State} (hs : Kept kq kb s) : KeptOut kq kb (execFpDiscard a slot s) := by
  unfold execFpDiscard
  repeat' first
    | with_reducible assumption
    | with_reducible apply hub_kept
    | with_reducible apply viaBar0_kept
    | with_reducible apply fpDiscard_kept
    | intro _

theorem execFpUnload_kept {a : Agent} {slot : Nat} {s : State} (hs : Kept kq kb s) : KeptOut kq kb (execFpUnload a slot s) := by
  unfold execFpUnload
  repeat' first
    | with_reducible assumption
    | with_reducible apply hub_kept
    | with_reducible apply viaBar0_kept
    | with_reducible apply fpUnload_kept
    | intro _

theorem execFpOperationDone_kept {s : State} (hs : Kept kq kb s) : KeptOut kq kb (execFpOperationDone s) := by
  unfold execFpOperationDone
  repeat' first
    | with_reducible assumption
    | with_reducible apply hub_kept
    | with_reducible apply fpOperationDone_kept

theorem execRingEnable_kept {fn : Nat} {ring : Nat} {s : State} (hs : Kept kq kb s) : KeptOut kq kb (execRingEnable fn ring s) := by
  unfold execRingEnable
  repeat' first
    | with_reducible assumption
    | with_reducible apply hub_kept
    | with_reducible apply viaWindow_kept
    | with_reducible apply ringEnable_kept
    | intro _

theorem execRingResume_kept {fn : Nat} {ring : Nat} {s : State} (hs : Kept kq kb s) : KeptOut kq kb (execRingResume fn ring s) := by
  unfold execRingResume
  repeat' first
    | with_reducible assumption
    | with_reducible apply hub_kept
    | with_reducible apply viaWindow_kept
    | with_reducible apply ringResume_kept
    | intro _

theorem execRingFlush_kept {fn : Nat} {ring : Nat} {s : State} (hs : Kept kq kb s) : KeptOut kq kb (execRingFlush fn ring s) := by
  unfold execRingFlush
  repeat' first
    | with_reducible assumption
    | with_reducible apply hub_kept
    | with_reducible apply viaWindow_kept
    | with_reducible apply ringFlush_kept
    | intro _

theorem execRingDisable_kept {fn : Nat} {ring : Nat} {s : State} (hs : Kept kq kb s) : KeptOut kq kb (execRingDisable fn ring s) := by
  unfold execRingDisable
  repeat' first
    | with_reducible assumption
    | with_reducible apply hub_kept
    | with_reducible apply viaWindow_kept
    | with_reducible apply ringDisable_kept
    | intro _

theorem execFlushComplete_kept {ctx : Nat} {ring : Nat} {s : State} (hs : Kept kq kb s) : KeptOut kq kb (execFlushComplete ctx ring s) := by
  unfold execFlushComplete
  repeat' first
    | with_reducible assumption
    | with_reducible apply hub_kept
    | with_reducible apply flushComplete_kept

theorem execDoorbell_kept {fn : Nat} {page : Nat} {ring : Nat} {v : Word} {s : State} (hs : Kept kq kb s) : KeptOut kq kb (execDoorbell fn page ring v s) := by
  unfold execDoorbell
  repeat' first
    | with_reducible assumption
    | with_reducible apply hub_kept
    | with_reducible apply doorbell_kept

theorem execDoorbellPageWrite_kept {fn : Nat} {off : Nat} {data : List Byte} {s : State} (hs : Kept kq kb s) : KeptOut kq kb (execDoorbellPageWrite fn off data s) := by
  unfold execDoorbellPageWrite
  repeat' first
    | with_reducible assumption
    | with_reducible apply hub_kept
    | with_reducible apply doorbellPageWrite_kept

theorem execEvcAdd_kept {fn : Nat} {ctr : Nat} {inc : Nat} {s : State} (hs : Kept kq kb s) : KeptOut kq kb (execEvcAdd fn ctr inc s) := by
  unfold execEvcAdd
  repeat' first
    | with_reducible assumption
    | with_reducible apply hub_kept
    | with_reducible apply viaWindow_kept
    | with_reducible apply evcAdd_kept
    | intro _

theorem execCtxCreate_kept {fn : Nat} {s : State} (hs : Kept kq kb s) : KeptOut kq kb (execCtxCreate fn s) := by
  unfold execCtxCreate
  repeat' first
    | with_reducible assumption
    | with_reducible apply hub_kept
    | with_reducible apply viaWindow_kept
    | with_reducible apply ctxCreate_kept
    | intro _

theorem execCtxDestroy_kept {fn : Nat} {s : State} (hs : Kept kq kb s) : KeptOut kq kb (execCtxDestroy fn s) := by
  unfold execCtxDestroy
  repeat' first
    | with_reducible assumption
    | with_reducible apply hub_kept
    | with_reducible apply viaWindow_kept
    | with_reducible apply ctxDestroy_kept
    | intro _

theorem execCtxThaw_kept {fn : Nat} {s : State} (hs : Kept kq kb s) : KeptOut kq kb (execCtxThaw fn s) := by
  unfold execCtxThaw
  repeat' first
    | with_reducible assumption
    | with_reducible apply hub_kept
    | with_reducible apply viaWindow_kept
    | with_reducible apply ctxThaw_kept
    | intro _

theorem execCtxReset_kept {fn : Nat} {s : State} (hs : Kept kq kb s) : KeptOut kq kb (execCtxReset fn s) := by
  unfold execCtxReset
  repeat' first
    | with_reducible assumption
    | with_reducible apply hub_kept
    | with_reducible apply viaWindow_kept
    | with_reducible apply ctxReset_kept
    | intro _

theorem execResetComplete_kept {ctx : Nat} {s : State} (hs : Kept kq kb s) : KeptOut kq kb (execResetComplete ctx s) := by
  unfold execResetComplete
  repeat' first
    | with_reducible assumption
    | with_reducible apply hub_kept
    | with_reducible apply resetComplete_kept

theorem execFreezeComplete_kept {ctx : Nat} {s : State} (hs : Kept kq kb s) : KeptOut kq kb (execFreezeComplete ctx s) := by
  unfold execFreezeComplete
  repeat' first
    | with_reducible assumption
    | with_reducible apply hub_kept
    | with_reducible apply freezeComplete_kept

theorem execFnRangeWrite_kept {a : Agent} {fn : Nat} {latches : Bool} {v : Word} {s : State} (hs : Kept kq kb s) : KeptOut kq kb (execFnRangeWrite a fn latches v s) := by
  unfold execFnRangeWrite
  repeat' first
    | with_reducible assumption
    | with_reducible apply hub_kept
    | with_reducible apply viaBar0_kept
    | with_reducible apply fnRangeWrite_kept
    | (with_reducible refine kept_ite ?_ ?_ <;> intro _)
    | intro _
    | split

theorem execCtxWeightWrite_kept {fn : Nat} {v : Word} {s : State} (hs : Kept kq kb s) : KeptOut kq kb (execCtxWeightWrite fn v s) := by
  unfold execCtxWeightWrite
  repeat' first
    | with_reducible assumption
    | with_reducible apply hub_kept
    | with_reducible apply viaWindow_kept
    | with_reducible apply ctxWeightWrite_kept
    | intro _

theorem execPreemptionCheck_kept {s : State} (hs : Kept kq kb s) : KeptOut kq kb (execPreemptionCheck s) := by
  unfold execPreemptionCheck
  repeat' first
    | with_reducible assumption
    | with_reducible apply hub_kept
    | with_reducible apply preemptionCheck_kept

theorem execVtIdleAdjust_kept {s : State} (hs : Kept kq kb s) : KeptOut kq kb (execVtIdleAdjust s) := by
  unfold execVtIdleAdjust
  repeat' first
    | with_reducible assumption
    | with_reducible apply hub_kept
    | with_reducible apply vtIdleAdjust_kept

theorem execEnergyReconcile_kept {railUj : List Nat} {s : State} (hs : Kept kq kb s) : KeptOut kq kb (execEnergyReconcile railUj s) := by
  unfold execEnergyReconcile
  repeat' first
    | with_reducible assumption
    | with_reducible apply hub_kept
    | with_reducible apply energyReconcile_kept

theorem execFarExport_kept {fn : Nat} {s : State} (hs : Kept kq kb s) : KeptOut kq kb (execFarExport fn s) := by
  unfold execFarExport
  repeat' first
    | with_reducible assumption
    | with_reducible apply hub_kept
    | with_reducible apply viaWindow_kept
    | with_reducible apply farExport_kept
    | intro _

theorem execFarUnexport_kept {fn : Nat} {s : State} (hs : Kept kq kb s) : KeptOut kq kb (execFarUnexport fn s) := by
  unfold execFarUnexport
  repeat' first
    | with_reducible assumption
    | with_reducible apply hub_kept
    | with_reducible apply viaWindow_kept
    | with_reducible apply farUnexport_kept
    | intro _

theorem execFarBind_kept {fn : Nat} {s : State} (hs : Kept kq kb s) : KeptOut kq kb (execFarBind fn s) := by
  unfold execFarBind
  repeat' first
    | with_reducible assumption
    | with_reducible apply hub_kept
    | with_reducible apply viaWindow_kept
    | with_reducible apply farBind_kept
    | intro _

theorem execBindQuery_kept {pkt : FarPacket} {s : State} (hs : Kept kq kb s) : KeptOut kq kb (execBindQuery pkt s) := by
  unfold execBindQuery
  repeat' first
    | with_reducible assumption
    | with_reducible apply hub_kept
    | with_reducible apply bindQuery_kept

theorem execBindAnswer_kept {pkt : FarPacket} {s : State} (hs : Kept kq kb s) : KeptOut kq kb (execBindAnswer pkt s) := by
  unfold execBindAnswer
  repeat' first
    | with_reducible assumption
    | with_reducible apply hub_kept
    | with_reducible apply bindAnswer_kept

theorem execWritePacket_kept {pkt : FarPacket} {s : State} (hs : Kept kq kb s) : KeptOut kq kb (execWritePacket pkt s) := by
  unfold execWritePacket
  repeat' first
    | with_reducible assumption
    | with_reducible apply hub_kept
    | with_reducible apply writePacket_kept

theorem execReadReqPacket_kept {pkt : FarPacket} {rereadsClean : Bool} {s : State} (hs : Kept kq kb s) : KeptOut kq kb (execReadReqPacket pkt rereadsClean s) := by
  unfold execReadReqPacket
  repeat' first
    | with_reducible assumption
    | with_reducible apply hub_kept
    | with_reducible apply readReqPacket_kept

theorem execReadDataPacket_kept {pkt : FarPacket} {s : State} (hs : Kept kq kb s) : KeptOut kq kb (execReadDataPacket pkt s) := by
  unfold execReadDataPacket
  repeat' first
    | with_reducible assumption
    | with_reducible apply hub_kept
    | with_reducible apply readDataPacket_kept

theorem execCommitPacket_kept {pkt : FarPacket} {s : State} (hs : Kept kq kb s) : KeptOut kq kb (execCommitPacket pkt s) := by
  unfold execCommitPacket
  repeat' first
    | with_reducible assumption
    | with_reducible apply hub_kept
    | with_reducible apply commitPacket_kept

theorem execAbortPacket_kept {pkt : FarPacket} {s : State} (hs : Kept kq kb s) : KeptOut kq kb (execAbortPacket pkt s) := by
  unfold execAbortPacket
  repeat' first
    | with_reducible assumption
    | with_reducible apply hub_kept
    | with_reducible apply abortPacket_kept

theorem execDonePacket_kept {pkt : FarPacket} {s : State} (hs : Kept kq kb s) : KeptOut kq kb (execDonePacket pkt s) := by
  unfold execDonePacket
  repeat' first
    | with_reducible assumption
    | with_reducible apply hub_kept
    | with_reducible apply donePacket_kept

theorem execFarStageExpire_kept {epoch : Nat} {s : State} (hs : Kept kq kb s) : KeptOut kq kb (execFarStageExpire epoch s) := by
  unfold execFarStageExpire
  repeat' first
    | with_reducible assumption
    | with_reducible apply hub_kept
    | with_reducible apply farStageExpire_kept

theorem execTallyUp_kept {port : Nat} {pkt : TallyPacket} {s : State} (hs : Kept kq kb s) : KeptOut kq kb (execTallyUp port pkt s) := by
  unfold execTallyUp
  repeat' first
    | with_reducible assumption
    | with_reducible apply hub_kept
    | with_reducible apply tallyUp_kept

theorem execTallyDown_kept {port : Nat} {pkt : TallyPacket} {s : State} (hs : Kept kq kb s) : KeptOut kq kb (execTallyDown port pkt s) := by
  unfold execTallyDown
  repeat' first
    | with_reducible assumption
    | with_reducible apply hub_kept
    | with_reducible apply tallyDown_kept

theorem execCollTimeout_kept {tree : Nat} {seq : Nat} {group : Nat} {s : State} (hs : Kept kq kb s) : KeptOut kq kb (execCollTimeout tree seq group s) := by
  unfold execCollTimeout
  repeat' first
    | with_reducible assumption
    | with_reducible apply hub_kept
    | with_reducible apply collTimeout_kept

theorem execE2eTimeout_kept {xid : Nat} {marked : Bool} {s : State} (hs : Kept kq kb s) : KeptOut kq kb (execE2eTimeout xid marked s) := by
  unfold execE2eTimeout
  repeat' first
    | with_reducible assumption
    | with_reducible apply hub_kept
    | with_reducible apply e2eTimeout_kept

theorem execCommandFetch_kept {ctx : Nat} {ring : Nat} {s : State} (hs : Kept kq kb s) : KeptOut kq kb (execCommandFetch ctx ring s) := by
  unfold execCommandFetch
  repeat' first
    | with_reducible assumption
    | with_reducible apply hub_kept
    | with_reducible apply commandFetch_kept

theorem execCommandDispatch_kept {ctx : Nat} {ring : Nat} {inst : Nat} {s : State} (hs : Kept kq kb s) : KeptOut kq kb (execCommandDispatch ctx ring inst s) := by
  unfold execCommandDispatch
  repeat' first
    | with_reducible assumption
    | with_reducible apply hub_kept
    | with_reducible apply commandDispatch_kept

theorem execTile_kept {ctx : Nat} {ring : Nat} {serial : Nat} {env : RunEnv} {s : State} (hs : Kept kq kb s) : KeptOut kq kb (execTile ctx ring serial env s) := by
  unfold execTile
  repeat' first
    | with_reducible assumption
    | with_reducible apply hub_kept
    | with_reducible apply engineRow_kept

theorem execAttnFwd_kept {ctx : Nat} {ring : Nat} {serial : Nat} {env : RunEnv} {s : State} (hs : Kept kq kb s) : KeptOut kq kb (execAttnFwd ctx ring serial env s) := by
  unfold execAttnFwd
  repeat' first
    | with_reducible assumption
    | with_reducible apply hub_kept
    | with_reducible apply engineRow_kept

theorem execAttnBwd_kept {ctx : Nat} {ring : Nat} {serial : Nat} {env : RunEnv} {s : State} (hs : Kept kq kb s) : KeptOut kq kb (execAttnBwd ctx ring serial env s) := by
  unfold execAttnBwd
  repeat' first
    | with_reducible assumption
    | with_reducible apply hub_kept
    | with_reducible apply engineRow_kept

theorem execMerge_kept {ctx : Nat} {ring : Nat} {serial : Nat} {env : RunEnv} {s : State} (hs : Kept kq kb s) : KeptOut kq kb (execMerge ctx ring serial env s) := by
  unfold execMerge
  repeat' first
    | with_reducible assumption
    | with_reducible apply hub_kept
    | with_reducible apply engineRow_kept

theorem execElem_kept {ctx : Nat} {ring : Nat} {serial : Nat} {env : RunEnv} {s : State} (hs : Kept kq kb s) : KeptOut kq kb (execElem ctx ring serial env s) := by
  unfold execElem
  repeat' first
    | with_reducible assumption
    | with_reducible apply hub_kept
    | with_reducible apply engineRow_kept

theorem execRoute_kept {ctx : Nat} {ring : Nat} {serial : Nat} {env : RunEnv} {s : State} (hs : Kept kq kb s) : KeptOut kq kb (execRoute ctx ring serial env s) := by
  unfold execRoute
  repeat' first
    | with_reducible assumption
    | with_reducible apply hub_kept
    | with_reducible apply engineRow_kept

theorem execGather_kept {ctx : Nat} {ring : Nat} {serial : Nat} {env : RunEnv} {s : State} (hs : Kept kq kb s) : KeptOut kq kb (execGather ctx ring serial env s) := by
  unfold execGather
  repeat' first
    | with_reducible assumption
    | with_reducible apply hub_kept
    | with_reducible apply engineRow_kept

theorem execScatter_kept {ctx : Nat} {ring : Nat} {serial : Nat} {env : RunEnv} {s : State} (hs : Kept kq kb s) : KeptOut kq kb (execScatter ctx ring serial env s) := by
  unfold execScatter
  repeat' first
    | with_reducible assumption
    | with_reducible apply hub_kept
    | with_reducible apply engineRow_kept

theorem execMomentum_kept {ctx : Nat} {ring : Nat} {serial : Nat} {env : RunEnv} {s : State} (hs : Kept kq kb s) : KeptOut kq kb (execMomentum ctx ring serial env s) := by
  unfold execMomentum
  repeat' first
    | with_reducible assumption
    | with_reducible apply hub_kept
    | with_reducible apply updateRow_kept

theorem execAdaptive_kept {ctx : Nat} {ring : Nat} {serial : Nat} {env : RunEnv} {s : State} (hs : Kept kq kb s) : KeptOut kq kb (execAdaptive ctx ring serial env s) := by
  unfold execAdaptive
  repeat' first
    | with_reducible assumption
    | with_reducible apply hub_kept
    | with_reducible apply updateRow_kept

theorem execSignmom_kept {ctx : Nat} {ring : Nat} {serial : Nat} {env : RunEnv} {s : State} (hs : Kept kq kb s) : KeptOut kq kb (execSignmom ctx ring serial env s) := by
  unfold execSignmom
  repeat' first
    | with_reducible assumption
    | with_reducible apply hub_kept
    | with_reducible apply updateRow_kept

theorem execOrthoPrep_kept {ctx : Nat} {ring : Nat} {serial : Nat} {env : RunEnv} {s : State} (hs : Kept kq kb s) : KeptOut kq kb (execOrthoPrep ctx ring serial env s) := by
  unfold execOrthoPrep
  repeat' first
    | with_reducible assumption
    | with_reducible apply hub_kept
    | with_reducible apply updateRow_kept

theorem execOrthoIter_kept {ctx : Nat} {ring : Nat} {serial : Nat} {env : RunEnv} {s : State} (hs : Kept kq kb s) : KeptOut kq kb (execOrthoIter ctx ring serial env s) := by
  unfold execOrthoIter
  repeat' first
    | with_reducible assumption
    | with_reducible apply hub_kept
    | with_reducible apply updateRow_kept

theorem execOrthoApply_kept {ctx : Nat} {ring : Nat} {serial : Nat} {env : RunEnv} {s : State} (hs : Kept kq kb s) : KeptOut kq kb (execOrthoApply ctx ring serial env s) := by
  unfold execOrthoApply
  repeat' first
    | with_reducible assumption
    | with_reducible apply hub_kept
    | with_reducible apply updateRow_kept

theorem execKronStats_kept {ctx : Nat} {ring : Nat} {serial : Nat} {env : RunEnv} {s : State} (hs : Kept kq kb s) : KeptOut kq kb (execKronStats ctx ring serial env s) := by
  unfold execKronStats
  repeat' first
    | with_reducible assumption
    | with_reducible apply hub_kept
    | with_reducible apply updateRow_kept

theorem execKronRoot_kept {ctx : Nat} {ring : Nat} {serial : Nat} {env : RunEnv} {s : State} (hs : Kept kq kb s) : KeptOut kq kb (execKronRoot ctx ring serial env s) := by
  unfold execKronRoot
  repeat' first
    | with_reducible assumption
    | with_reducible apply hub_kept
    | with_reducible apply updateRow_kept

theorem execKronApply_kept {ctx : Nat} {ring : Nat} {serial : Nat} {env : RunEnv} {s : State} (hs : Kept kq kb s) : KeptOut kq kb (execKronApply ctx ring serial env s) := by
  unfold execKronApply
  repeat' first
    | with_reducible assumption
    | with_reducible apply hub_kept
    | with_reducible apply updateRow_kept

theorem execNorm_kept {ctx : Nat} {ring : Nat} {serial : Nat} {env : RunEnv} {s : State} (hs : Kept kq kb s) : KeptOut kq kb (execNorm ctx ring serial env s) := by
  unfold execNorm
  repeat' first
    | with_reducible assumption
    | with_reducible apply hub_kept
    | with_reducible apply updateRow_kept

theorem execDecideStep_kept {ctx : Nat} {ring : Nat} {serial : Nat} {env : RunEnv} {s : State} (hs : Kept kq kb s) : KeptOut kq kb (execDecideStep ctx ring serial env s) := by
  unfold execDecideStep
  repeat' first
    | with_reducible assumption
    | with_reducible apply hub_kept
    | with_reducible apply updateRow_kept

theorem execMove_kept {ctx : Nat} {ring : Nat} {serial : Nat} {env : RunEnv} {s : State} (hs : Kept kq kb s) : KeptOut kq kb (execMove ctx ring serial env s) := by
  unfold execMove
  repeat' first
    | with_reducible assumption
    | with_reducible apply hub_kept
    | with_reducible apply moveRow_kept

theorem execSample_kept {ctx : Nat} {ring : Nat} {serial : Nat} {env : RunEnv} {s : State} (hs : Kept kq kb s) : KeptOut kq kb (execSample ctx ring serial env s) := by
  unfold execSample
  repeat' first
    | with_reducible assumption
    | with_reducible apply hub_kept
    | with_reducible apply engineRow_kept

theorem execSampleVerify_kept {ctx : Nat} {ring : Nat} {serial : Nat} {env : RunEnv} {s : State} (hs : Kept kq kb s) : KeptOut kq kb (execSampleVerify ctx ring serial env s) := by
  unfold execSampleVerify
  repeat' first
    | with_reducible assumption
    | with_reducible apply hub_kept
    | with_reducible apply engineRow_kept

theorem execSeqOpen_kept {ctx : Nat} {ring : Nat} {serial : Nat} {env : RunEnv} {s : State} (hs : Kept kq kb s) : KeptOut kq kb (execSeqOpen ctx ring serial env s) := by
  unfold execSeqOpen
  repeat' first
    | with_reducible assumption
    | with_reducible apply hub_kept
    | with_reducible apply engineRow_kept

theorem execSeqClose_kept {ctx : Nat} {ring : Nat} {serial : Nat} {env : RunEnv} {s : State} (hs : Kept kq kb s) : KeptOut kq kb (execSeqClose ctx ring serial env s) := by
  unfold execSeqClose
  repeat' first
    | with_reducible assumption
    | with_reducible apply hub_kept
    | with_reducible apply engineRow_kept

theorem execSeqAccept_kept {ctx : Nat} {ring : Nat} {serial : Nat} {env : RunEnv} {s : State} (hs : Kept kq kb s) : KeptOut kq kb (execSeqAccept ctx ring serial env s) := by
  unfold execSeqAccept
  repeat' first
    | with_reducible assumption
    | with_reducible apply hub_kept
    | with_reducible apply engineRow_kept

theorem execSeqRollBack_kept {ctx : Nat} {ring : Nat} {serial : Nat} {env : RunEnv} {s : State} (hs : Kept kq kb s) : KeptOut kq kb (execSeqRollBack ctx ring serial env s) := by
  unfold execSeqRollBack
  repeat' first
    | with_reducible assumption
    | with_reducible apply hub_kept
    | with_reducible apply engineRow_kept

theorem execSeqPrefixMatch_kept {ctx : Nat} {ring : Nat} {serial : Nat} {env : RunEnv} {s : State} (hs : Kept kq kb s) : KeptOut kq kb (execSeqPrefixMatch ctx ring serial env s) := by
  unfold execSeqPrefixMatch
  repeat' first
    | with_reducible assumption
    | with_reducible apply hub_kept
    | with_reducible apply engineRow_kept

theorem execReduce_kept {ctx : Nat} {ring : Nat} {serial : Nat} {env : RunEnv} {s : State} (hs : Kept kq kb s) : KeptOut kq kb (execReduce ctx ring serial env s) := by
  unfold execReduce
  repeat' first
    | with_reducible assumption
    | with_reducible apply hub_kept
    | with_reducible apply reduceRow_kept

theorem execReshard_kept {ctx : Nat} {ring : Nat} {serial : Nat} {env : RunEnv} {s : State} (hs : Kept kq kb s) : KeptOut kq kb (execReshard ctx ring serial env s) := by
  unfold execReshard
  repeat' first
    | with_reducible assumption
    | with_reducible apply hub_kept
    | with_reducible apply reshardRow_kept

theorem execCommandCommit_kept {ctx : Nat} {ring : Nat} {serial : Nat} {s : State} (hs : Kept kq kb s) : KeptOut kq kb (execCommandCommit ctx ring serial s) := by
  unfold execCommandCommit
  repeat' first
    | with_reducible assumption
    | with_reducible apply hub_kept
    | with_reducible apply commandCommit_kept

theorem execProvisionalDecision_kept {ctx : Nat} {ring : Nat} {serial : Nat} {s : State} (hs : Kept kq kb s) : KeptOut kq kb (execProvisionalDecision ctx ring serial s) := by
  unfold execProvisionalDecision
  repeat' first
    | with_reducible assumption
    | with_reducible apply hub_kept
    | with_reducible apply provisionalDecision_kept

theorem execProvisionalTimeout_kept {ctx : Nat} {ring : Nat} {serial : Nat} {s : State} (hs : Kept kq kb s) : KeptOut kq kb (execProvisionalTimeout ctx ring serial s) := by
  unfold execProvisionalTimeout
  repeat' first
    | with_reducible assumption
    | with_reducible apply hub_kept
    | with_reducible apply provisionalTimeout_kept

theorem execWatchdogExpiry_kept {ctx : Nat} {ring : Nat} {serial : Nat} {s : State} (hs : Kept kq kb s) : KeptOut kq kb (execWatchdogExpiry ctx ring serial s) := by
  unfold execWatchdogExpiry
  repeat' first
    | with_reducible assumption
    | with_reducible apply hub_kept
    | with_reducible apply watchdogExpiry_kept

theorem execInjectedKill_kept {ctx : Nat} {ring : Nat} {serial : Nat} {s : State} (hs : Kept kq kb s) : KeptOut kq kb (execInjectedKill ctx ring serial s) := by
  unfold execInjectedKill
  repeat' first
    | with_reducible assumption
    | with_reducible apply hub_kept
    | with_reducible apply injectedKill_kept

theorem execWait_kept {ctx : Nat} {ring : Nat} {serial : Nat} {s : State} (hs : Kept kq kb s) : KeptOut kq kb (execWait ctx ring serial s) := by
  unfold execWait
  repeat' first
    | with_reducible assumption
    | with_reducible apply hub_kept
    | with_reducible apply waitRow_kept

theorem execSignal_kept {ctx : Nat} {ring : Nat} {serial : Nat} {s : State} (hs : Kept kq kb s) : KeptOut kq kb (execSignal ctx ring serial s) := by
  unfold execSignal
  repeat' first
    | with_reducible assumption
    | with_reducible apply hub_kept
    | with_reducible apply signalRow_kept

theorem execLatchAcquire_kept {ctx : Nat} {ring : Nat} {serial : Nat} {s : State} (hs : Kept kq kb s) : KeptOut kq kb (execLatchAcquire ctx ring serial s) := by
  unfold execLatchAcquire
  repeat' first
    | with_reducible assumption
    | with_reducible apply hub_kept
    | with_reducible apply latchAcquireRow_kept

theorem execLatchTry_kept {ctx : Nat} {ring : Nat} {serial : Nat} {s : State} (hs : Kept kq kb s) : KeptOut kq kb (execLatchTry ctx ring serial s) := by
  unfold execLatchTry
  repeat' first
    | with_reducible assumption
    | with_reducible apply hub_kept
    | with_reducible apply latchTryRow_kept

theorem execLatchRelease_kept {ctx : Nat} {ring : Nat} {serial : Nat} {s : State} (hs : Kept kq kb s) : KeptOut kq kb (execLatchRelease ctx ring serial s) := by
  unfold execLatchRelease
  repeat' first
    | with_reducible assumption
    | with_reducible apply hub_kept
    | with_reducible apply latchReleaseRow_kept

theorem execWaitLatchTimeout_kept {ctx : Nat} {ring : Nat} {serial : Nat} {s : State} (hs : Kept kq kb s) : KeptOut kq kb (execWaitLatchTimeout ctx ring serial s) := by
  unfold execWaitLatchTimeout
  repeat' first
    | with_reducible assumption
    | with_reducible apply hub_kept
    | with_reducible apply waitLatchTimeout_kept

theorem execPortCtrlWrite_kept {a : Agent} {port : Nat} {v : Word} {s : State} (hs : Kept kq kb s) : KeptOut kq kb (execPortCtrlWrite a port v s) := by
  unfold execPortCtrlWrite
  repeat' first
    | with_reducible assumption
    | with_reducible apply viaBar0_kept
    | with_reducible apply portCtrlWrite_kept
    | with_reducible apply portRow_kept
    | intro _

theorem execTrainingComplete_kept {port : Nat} {s : State} (hs : Kept kq kb s) : KeptOut kq kb (execTrainingComplete port s) := by
  unfold execTrainingComplete
  repeat' first
    | with_reducible assumption
    | with_reducible apply trainingComplete_kept
    | with_reducible apply portRow_kept

theorem execTrainingTimeout_kept {port : Nat} {s : State} (hs : Kept kq kb s) : KeptOut kq kb (execTrainingTimeout port s) := by
  unfold execTrainingTimeout
  repeat' first
    | with_reducible assumption
    | with_reducible apply trainingTimeout_kept
    | with_reducible apply portRow_kept

theorem execDownRetry_kept {port : Nat} {s : State} (hs : Kept kq kb s) : KeptOut kq kb (execDownRetry port s) := by
  unfold execDownRetry
  repeat' first
    | with_reducible assumption
    | with_reducible apply downRetry_kept
    | with_reducible apply portRow_kept

theorem execLinkPacket_kept {port : Nat} {msg : LinkMsg} {s : State} (hs : Kept kq kb s) : KeptOut kq kb (execLinkPacket port msg s) := by
  unfold execLinkPacket
  repeat' first
    | with_reducible assumption
    | with_reducible apply linkPacket_kept
    | with_reducible apply portRow_kept

theorem execPortActivate_kept {port : Nat} {s : State} (hs : Kept kq kb s) : KeptOut kq kb (execPortActivate port s) := by
  unfold execPortActivate
  repeat' first
    | with_reducible assumption
    | with_reducible apply portActivate_kept
    | with_reducible apply portRow_kept

theorem execRetrainLock_kept {port : Nat} {s : State} (hs : Kept kq kb s) : KeptOut kq kb (execRetrainLock port s) := by
  unfold execRetrainLock
  repeat' first
    | with_reducible assumption
    | with_reducible apply retrainLock_kept
    | with_reducible apply portRow_kept

theorem execRetrainTimeout_kept {port : Nat} {s : State} (hs : Kept kq kb s) : KeptOut kq kb (execRetrainTimeout port s) := by
  unfold execRetrainTimeout
  repeat' first
    | with_reducible assumption
    | with_reducible apply retrainTimeout_kept
    | with_reducible apply portRow_kept

theorem execLaneRotationStart_kept {port : Nat} {s : State} (hs : Kept kq kb s) : KeptOut kq kb (execLaneRotationStart port s) := by
  unfold execLaneRotationStart
  repeat' first
    | with_reducible assumption
    | with_reducible apply laneRotationStart_kept
    | with_reducible apply portRow_kept

theorem execLaneRotationSwitch_kept {port : Nat} {s : State} (hs : Kept kq kb s) : KeptOut kq kb (execLaneRotationSwitch port s) := by
  unfold execLaneRotationSwitch
  repeat' first
    | with_reducible assumption
    | with_reducible apply laneRotationSwitch_kept
    | with_reducible apply portRow_kept

theorem execLaneRotateRetry_kept {port : Nat} {s : State} (hs : Kept kq kb s) : KeptOut kq kb (execLaneRotateRetry port s) := by
  unfold execLaneRotateRetry
  repeat' first
    | with_reducible assumption
    | with_reducible apply laneRotateRetry_kept
    | with_reducible apply portRow_kept

theorem execLaneCalibrationDone_kept {port : Nat} {s : State} (hs : Kept kq kb s) : KeptOut kq kb (execLaneCalibrationDone port s) := by
  unfold execLaneCalibrationDone
  repeat' first
    | with_reducible assumption
    | with_reducible apply laneCalibrationDone_kept
    | with_reducible apply portRow_kept

theorem execLaneRetire_kept {port : Nat} {lane : Nat} {s : State} (hs : Kept kq kb s) : KeptOut kq kb (execLaneRetire port lane s) := by
  unfold execLaneRetire
  repeat' first
    | with_reducible assumption
    | with_reducible apply laneRetire_kept
    | with_reducible apply portRow_kept

theorem execLinkRekey_kept {port : Nat} {s : State} (hs : Kept kq kb s) : KeptOut kq kb (execLinkRekey port s) := by
  unfold execLinkRekey
  repeat' first
    | with_reducible assumption
    | with_reducible apply linkRekey_kept
    | with_reducible apply portRow_kept

theorem execCreditStallTick_kept {port : Nat} {lane : Nat} {s : State} (hs : Kept kq kb s) : KeptOut kq kb (execCreditStallTick port lane s) := by
  unfold execCreditStallTick
  repeat' first
    | with_reducible assumption
    | with_reducible apply creditStallTick_kept
    | with_reducible apply portRow_kept

theorem execCrvRefClkLoss_kept {s : State} (hs : Kept kq kb s) : KeptOut kq kb (execCrvRefClkLoss s) := by
  unfold execCrvRefClkLoss
  repeat' first
    | with_reducible assumption
    | with_reducible apply hub_kept
    | with_reducible apply crvClkLoss_kept

theorem execCrvRefClkReturn_kept {s : State} (hs : Kept kq kb s) : KeptOut kq kb (execCrvRefClkReturn s) := by
  unfold execCrvRefClkReturn
  repeat' first
    | with_reducible assumption
    | with_reducible apply hub_kept
    | with_reducible apply crvClkReturn_kept

theorem execFrameTransmit_kept {port : Nat} {s : State} (hs : Kept kq kb s) : KeptOut kq kb (execFrameTransmit port s) := by
  unfold execFrameTransmit
  repeat' first
    | with_reducible assumption
    | with_reducible apply portRow_kept
    | with_reducible apply frameTransmit_kept

theorem execFrameReceive_kept {port : Nat} {frame : RxFrame} {s : State} (hs : Kept kq kb s) : KeptOut kq kb (execFrameReceive port frame s) := by
  unfold execFrameReceive
  repeat' first
    | with_reducible assumption
    | with_reducible apply portRow_kept
    | with_reducible apply frameReceive_kept

theorem execPwrRun_kept {a : Agent} {s : State} (hs : Kept kq kb s) : KeptOut kq kb (execPwrRun a s) := by
  unfold execPwrRun
  repeat' first
    | with_reducible assumption
    | with_reducible apply hub_kept
    | with_reducible apply viaBar0_kept
    | with_reducible apply pwrRequest_kept
    | intro _

theorem execPwrHold_kept {a : Agent} {s : State} (hs : Kept kq kb s) : KeptOut kq kb (execPwrHold a s) := by
  unfold execPwrHold
  repeat' first
    | with_reducible assumption
    | with_reducible apply hub_kept
    | with_reducible apply viaBar0_kept
    | with_reducible apply pwrRequest_kept
    | intro _

theorem execPwrNap_kept {a : Agent} {s : State} (hs : Kept kq kb s) : KeptOut kq kb (execPwrNap a s) := by
  unfold execPwrNap
  repeat' first
    | with_reducible assumption
    | with_reducible apply hub_kept
    | with_reducible apply viaBar0_kept
    | with_reducible apply pwrRequest_kept
    | intro _

theorem execAutoHold_kept {s : State} (hs : Kept kq kb s) : KeptOut kq kb (execAutoHold s) := by
  unfold execAutoHold
  repeat' first
    | with_reducible assumption
    | with_reducible apply hub_kept
    | with_reducible apply autoHold_kept

theorem execHandshakeAnswer_kept {part : Nat} {ans : HsAnswer} {s : State} (hs : Kept kq kb s) : KeptOut kq kb (execHandshakeAnswer part ans s) := by
  unfold execHandshakeAnswer
  repeat' first
    | with_reducible assumption
    | with_reducible apply hub_kept
    | with_reducible apply handshakeAnswer_kept

theorem execHandshakeTimeout_kept {s : State} (hs : Kept kq kb s) : KeptOut kq kb (execHandshakeTimeout s) := by
  unfold execHandshakeTimeout
  repeat' first
    | with_reducible assumption
    | with_reducible apply hub_kept
    | with_reducible apply handshakeTimeout_kept

theorem execPowerTransitionDone_kept {s : State} (hs : Kept kq kb s) : KeptOut kq kb (execPowerTransitionDone s) := by
  unfold execPowerTransitionDone
  repeat' first
    | with_reducible assumption
    | with_reducible apply hub_kept
    | with_reducible apply powerTransitionDone_kept

theorem execWakeEvent_kept {src : Nat} {s : State} (hs : Kept kq kb s) : KeptOut kq kb (execWakeEvent src s) := by
  unfold execWakeEvent
  repeat' first
    | with_reducible assumption
    | with_reducible apply wakeSource_kept
    | with_reducible apply aon_kept
    | (with_reducible refine kept_ite ?_ ?_ <;> intro _)
    | split

theorem execCompTrip_kept {s : State} (hs : Kept kq kb s) : KeptOut kq kb (execCompTrip s) := by
  unfold execCompTrip
  repeat' first
    | with_reducible assumption
    | with_reducible apply aon_kept
    | with_reducible apply compTrip_kept

theorem execCompRearm_kept {s : State} (hs : Kept kq kb s) : KeptOut kq kb (execCompRearm s) := by
  unfold execCompRearm
  repeat' first
    | with_reducible assumption
    | with_reducible apply aon_kept
    | with_reducible apply compRearm_kept

theorem execWakeCfgWrite_kept {a : Agent} {v : Word} {s : State} (hs : Kept kq kb s) : KeptOut kq kb (execWakeCfgWrite a v s) := by
  unfold execWakeCfgWrite
  repeat' first
    | with_reducible assumption
    | with_reducible apply hub_kept
    | with_reducible apply viaBar0_kept
    | with_reducible apply wakeCfgWrite_kept
    | intro _

theorem execAclkSlewDone_kept {die : Nat} {s : State} (hs : Kept kq kb s) : KeptOut kq kb (execAclkSlewDone die s) := by
  unfold execAclkSlewDone
  repeat' first
    | with_reducible assumption
    | with_reducible apply hub_kept
    | with_reducible apply aclkSlewDone_kept
    | (with_reducible refine kept_ite ?_ ?_ <;> intro _)
    | split

theorem execPhaseSample_kept {amps : List Nat} {bad : List Nat} {s : State} (hs : Kept kq kb s) : KeptOut kq kb (execPhaseSample amps bad s) := by
  unfold execPhaseSample
  repeat' first
    | with_reducible assumption
    | with_reducible apply hub_kept
    | with_reducible apply phaseSample_kept

theorem execSparePhaseSwitched_kept {rail : Nat} {s : State} (hs : Kept kq kb s) : KeptOut kq kb (execSparePhaseSwitched rail s) := by
  unfold execSparePhaseSwitched
  repeat' first
    | with_reducible assumption
    | with_reducible apply hub_kept
    | with_reducible apply sparePhaseSwitched_kept

theorem execBudgetEvaluation_kept {inW : Nat} {delivW : Nat} {s : State} (hs : Kept kq kb s) : KeptOut kq kb (execBudgetEvaluation inW delivW s) := by
  unfold execBudgetEvaluation
  repeat' first
    | with_reducible assumption
    | with_reducible apply hub_kept
    | with_reducible apply budgetEvaluation_kept

theorem execInputOvercurrent_kept {s : State} (hs : Kept kq kb s) : KeptOut kq kb (execInputOvercurrent s) := by
  unfold execInputOvercurrent
  repeat' first
    | with_reducible assumption
    | with_reducible apply hub_kept
    | with_reducible apply inputOvercurrent_kept

theorem execSensorSample_kept {sensor : Nat} {v : Option Nat} {s : State} (hs : Kept kq kb s) : KeptOut kq kb (execSensorSample sensor v s) := by
  unfold execSensorSample
  repeat' first
    | with_reducible assumption
    | with_reducible apply aon_kept
    | with_reducible apply hub_kept
    | with_reducible apply sensorSample_kept
    | with_reducible apply tripSample_kept
    | (with_reducible refine kept_ite ?_ ?_ <;> intro _)
    | split

theorem execSidebandWake_kept {s : State} (hs : Kept kq kb s) : KeptOut kq kb (execSidebandWake s) := by
  unfold execSidebandWake
  repeat' first
    | with_reducible assumption
    | with_reducible apply wakeSource_kept
    | with_reducible apply aon_kept

theorem execPowerRequest_kept {target : Nat} {s : State} (hs : Kept kq kb s) : KeptOut kq kb (execPowerRequest target s) := by
  unfold execPowerRequest
  repeat' first
    | with_reducible assumption
    | with_reducible apply hub_kept
    | with_reducible apply powerRequest_kept

theorem objRow_kept {fn : Nat} {op : Word} {s : State} (hs : Kept kq kb s) : KeptOut kq kb (objRow fn op s) := by
  unfold objRow
  repeat' first
    | with_reducible assumption
    | with_reducible apply hub_kept
    | with_reducible apply viaWindow_kept
    | with_reducible apply objCtrl_kept
    | with_reducible apply objRow_kept
    | intro _

theorem execObjCreate_kept {fn : Nat} {s : State} (hs : Kept kq kb s) : KeptOut kq kb (execObjCreate fn s) := by
  unfold execObjCreate
  repeat' first
    | with_reducible assumption
    | with_reducible apply objRow_kept

theorem execObjDestroy_kept {fn : Nat} {s : State} (hs : Kept kq kb s) : KeptOut kq kb (execObjDestroy fn s) := by
  unfold execObjDestroy
  repeat' first
    | with_reducible assumption
    | with_reducible apply objRow_kept

theorem execObjResize_kept {fn : Nat} {s : State} (hs : Kept kq kb s) : KeptOut kq kb (execObjResize fn s) := by
  unfold execObjResize
  repeat' first
    | with_reducible assumption
    | with_reducible apply objRow_kept

theorem execObjSetCfg_kept {fn : Nat} {s : State} (hs : Kept kq kb s) : KeptOut kq kb (execObjSetCfg fn s) := by
  unfold execObjSetCfg
  repeat' first
    | with_reducible assumption
    | with_reducible apply objRow_kept

theorem execObjPromote_kept {fn : Nat} {s : State} (hs : Kept kq kb s) : KeptOut kq kb (execObjPromote fn s) := by
  unfold execObjPromote
  repeat' first
    | with_reducible assumption
    | with_reducible apply objRow_kept

theorem execObjEvict_kept {fn : Nat} {s : State} (hs : Kept kq kb s) : KeptOut kq kb (execObjEvict fn s) := by
  unfold execObjEvict
  repeat' first
    | with_reducible assumption
    | with_reducible apply objRow_kept

theorem execObjMap_kept {fn : Nat} {s : State} (hs : Kept kq kb s) : KeptOut kq kb (execObjMap fn s) := by
  unfold execObjMap
  repeat' first
    | with_reducible assumption
    | with_reducible apply objRow_kept

theorem execObjOperationDone_kept {ctx : Nat} {s : State} (hs : Kept kq kb s) : KeptOut kq kb (execObjOperationDone ctx s) := by
  unfold execObjOperationDone
  repeat' first
    | with_reducible assumption
    | with_reducible apply hub_kept
    | with_reducible apply objOperationDone_kept

theorem execMigrationPressure_kept {stack : Nat} {s : State} (hs : Kept kq kb s) : KeptOut kq kb (execMigrationPressure stack s) := by
  unfold execMigrationPressure
  repeat' first
    | with_reducible assumption
    | with_reducible apply hub_kept
    | with_reducible apply migrationPressure_kept

theorem execHeatPromotion_kept {s : State} (hs : Kept kq kb s) : KeptOut kq kb (execHeatPromotion s) := by
  unfold execHeatPromotion
  repeat' first
    | with_reducible assumption
    | with_reducible apply hub_kept
    | with_reducible apply heatPromotion_kept

theorem execMigrationCopyDone_kept {sid : Nat} {gran : Nat} {s : State} (hs : Kept kq kb s) : KeptOut kq kb (execMigrationCopyDone sid gran s) := by
  unfold execMigrationCopyDone
  repeat' first
    | with_reducible assumption
    | with_reducible apply hub_kept
    | with_reducible apply migrationCopyDone_kept

theorem execSourceFree_kept {sid : Nat} {gran : Nat} {s : State} (hs : Kept kq kb s) : KeptOut kq kb (execSourceFree sid gran s) := by
  unfold execSourceFree
  repeat' first
    | with_reducible assumption
    | with_reducible apply hub_kept
    | with_reducible apply sourceFree_kept

theorem execRepairComplete_kept {sid : Nat} {gran : Nat} {s : State} (hs : Kept kq kb s) : KeptOut kq kb (execRepairComplete sid gran s) := by
  unfold execRepairComplete
  repeat' first
    | with_reducible assumption
    | with_reducible apply hub_kept
    | with_reducible apply repairComplete_kept

theorem execMigCfgWrite_kept {a : Agent} {v : Word} {s : State} (hs : Kept kq kb s) : KeptOut kq kb (execMigCfgWrite a v s) := by
  unfold execMigCfgWrite
  repeat' first
    | with_reducible assumption
    | with_reducible apply hub_kept
    | with_reducible apply viaBar0_kept
    | with_reducible apply migCfgWrite_kept
    | intro _

theorem execCartOstdWrite_kept {a : Agent} {q : Nat} {v : Word} {s : State} (hs : Kept kq kb s) : KeptOut kq kb (execCartOstdWrite a q v s) := by
  unfold execCartOstdWrite
  repeat' first
    | with_reducible assumption
    | with_reducible apply hub_kept
    | with_reducible apply viaBar0_kept
    | with_reducible apply cartOstdWrite_kept
    | (with_reducible refine kept_ite ?_ ?_ <;> intro _)
    | intro _
    | split

theorem execSeqCancel_kept {fn : Nat} {slot : Nat} {s : State} (hs : Kept kq kb s) : KeptOut kq kb (execSeqCancel fn slot s) := by
  unfold execSeqCancel
  repeat' first
    | with_reducible assumption
    | with_reducible apply hub_kept
    | with_reducible apply viaWindow_kept
    | with_reducible apply seqCancel_kept
    | intro _

theorem execCancelComplete_kept {ctx : Nat} {s : State} (hs : Kept kq kb s) : KeptOut kq kb (execCancelComplete ctx s) := by
  unfold execCancelComplete
  repeat' first
    | with_reducible assumption
    | with_reducible apply hub_kept
    | with_reducible apply cancelComplete_kept

theorem execMapRelease_kept {s : State} (hs : Kept kq kb s) : KeptOut kq kb (execMapRelease s) := by
  unfold execMapRelease
  repeat' first
    | with_reducible assumption
    | with_reducible apply releaseOldest_kept
    | with_reducible apply hub_kept

theorem execDriftGroupFree_kept {ctx : Nat} {s : State} (hs : Kept kq kb s) : KeptOut kq kb (execDriftGroupFree ctx s) := by
  unfold execDriftGroupFree
  repeat' first
    | with_reducible assumption
    | with_reducible apply hub_kept
    | with_reducible apply driftGroupFree_kept

theorem execSteerInstall_kept {fn : Nat} {s : State} (hs : Kept kq kb s) : KeptOut kq kb (execSteerInstall fn s) := by
  unfold execSteerInstall
  repeat' first
    | with_reducible assumption
    | with_reducible apply hub_kept
    | with_reducible apply viaWindow_kept
    | with_reducible apply steerCtrl_kept
    | intro _

theorem execSteerRemove_kept {fn : Nat} {s : State} (hs : Kept kq kb s) : KeptOut kq kb (execSteerRemove fn s) := by
  unfold execSteerRemove
  repeat' first
    | with_reducible assumption
    | with_reducible apply hub_kept
    | with_reducible apply viaWindow_kept
    | with_reducible apply steerCtrl_kept
    | intro _

theorem execSteerOperationDone_kept {ctx : Nat} {s : State} (hs : Kept kq kb s) : KeptOut kq kb (execSteerOperationDone ctx s) := by
  unfold execSteerOperationDone
  repeat' first
    | with_reducible assumption
    | with_reducible apply hub_kept
    | with_reducible apply steerOperationDone_kept

theorem execRngSeedLoWrite_kept {fn : Nat} {v : Word} {s : State} (hs : Kept kq kb s) : KeptOut kq kb (execRngSeedLoWrite fn v s) := by
  unfold execRngSeedLoWrite
  repeat' first
    | with_reducible assumption
    | with_reducible apply hub_kept
    | with_reducible apply viaWindow_kept
    | with_reducible apply seedLoWrite_kept
    | intro _

theorem execRngSeedHiWrite_kept {fn : Nat} {v : Word} {s : State} (hs : Kept kq kb s) : KeptOut kq kb (execRngSeedHiWrite fn v s) := by
  unfold execRngSeedHiWrite
  repeat' first
    | with_reducible assumption
    | with_reducible apply hub_kept
    | with_reducible apply viaWindow_kept
    | with_reducible apply seedHiWrite_kept
    | intro _

theorem execDestroyRelease_kept {ctx : Nat} {s : State} (hs : Kept kq kb s) : KeptOut kq kb (execDestroyRelease ctx s) := by
  unfold execDestroyRelease
  repeat' first
    | with_reducible assumption
    | with_reducible apply hub_kept
    | with_reducible apply destroyRelease_kept

theorem execKeyRecordApply_kept {a : Agent} {s : State} (hs : Kept kq kb s) : KeptOut kq kb (execKeyRecordApply a s) := by
  unfold execKeyRecordApply
  repeat' first
    | with_reducible assumption
    | with_reducible apply hub_kept
    | with_reducible apply viaBar0_kept
    | with_reducible apply kvCtrl_kept
    | intro _

theorem execSvnCommit_kept {a : Agent} {s : State} (hs : Kept kq kb s) : KeptOut kq kb (execSvnCommit a s) := by
  unfold execSvnCommit
  repeat' first
    | with_reducible assumption
    | with_reducible apply hub_kept
    | with_reducible apply viaBar0_kept
    | with_reducible apply kvCtrl_kept
    | intro _

theorem execKeyVaultOpDone_kept {s : State} (hs : Kept kq kb s) : KeptOut kq kb (execKeyVaultOpDone s) := by
  unfold execKeyVaultOpDone
  repeat' first
    | with_reducible assumption
    | with_reducible apply hub_kept
    | with_reducible apply keyVaultOpDone_kept

theorem execWpkOpen_kept {fn : Nat} {s : State} (hs : Kept kq kb s) : KeptOut kq kb (execWpkOpen fn s) := by
  unfold execWpkOpen
  repeat' first
    | with_reducible assumption
    | with_reducible apply hub_kept
    | with_reducible apply viaWindow_kept
    | with_reducible apply wpkCtrl_kept
    | intro _

theorem execWpkLoad_kept {fn : Nat} {s : State} (hs : Kept kq kb s) : KeptOut kq kb (execWpkLoad fn s) := by
  unfold execWpkLoad
  repeat' first
    | with_reducible assumption
    | with_reducible apply hub_kept
    | with_reducible apply viaWindow_kept
    | with_reducible apply wpkCtrl_kept
    | intro _

theorem execWpkClose_kept {fn : Nat} {s : State} (hs : Kept kq kb s) : KeptOut kq kb (execWpkClose fn s) := by
  unfold execWpkClose
  repeat' first
    | with_reducible assumption
    | with_reducible apply hub_kept
    | with_reducible apply viaWindow_kept
    | with_reducible apply wpkCtrl_kept
    | intro _

theorem execWpkOperationDone_kept {ctx : Nat} {s : State} (hs : Kept kq kb s) : KeptOut kq kb (execWpkOperationDone ctx s) := by
  unfold execWpkOperationDone
  repeat' first
    | with_reducible assumption
    | with_reducible apply hub_kept
    | with_reducible apply wpkOperationDone_kept

theorem execDigestClear_kept {fn : Nat} {s : State} (hs : Kept kq kb s) : KeptOut kq kb (execDigestClear fn s) := by
  unfold execDigestClear
  repeat' first
    | with_reducible assumption
    | with_reducible apply hub_kept
    | with_reducible apply viaWindow_kept
    | with_reducible apply digestClear_kept
    | intro _

theorem execDetInjectWrite_kept {a : Agent} {v : Word} {s : State} (hs : Kept kq kb s) : KeptOut kq kb (execDetInjectWrite a v s) := by
  unfold execDetInjectWrite
  repeat' first
    | with_reducible assumption
    | with_reducible apply hub_kept
    | with_reducible apply viaBar0_kept
    | with_reducible apply detInjectWrite_kept
    | intro _

theorem execApertureRead_kept {fn : Nat} {off : Nat} {len : Nat} {s : State} (hs : Kept kq kb s) : KeptOut kq kb (execApertureRead fn off len s) := by
  unfold execApertureRead
  repeat' first
    | with_reducible assumption
    | with_reducible apply hub_kept
    | with_reducible apply apertureRead_kept
    | with_reducible apply viaAperture_kept
    | intro _

theorem execApertureWrite_kept {fn : Nat} {off : Nat} {data : List Byte} {s : State} (hs : Kept kq kb s) : KeptOut kq kb (execApertureWrite fn off data s) := by
  unfold execApertureWrite
  repeat' first
    | with_reducible assumption
    | with_reducible apply hub_kept
    | with_reducible apply apertureWrite_kept
    | with_reducible apply viaAperture_kept
    | (with_reducible refine kept_ite ?_ ?_ <;> intro _)
    | intro _
    | split

theorem execIrqHoldoffExpiry_kept {fn : Nat} {vec : Nat} {s : State} (hs : Kept kq kb s) : KeptOut kq kb (execIrqHoldoffExpiry fn vec s) := by
  unfold execIrqHoldoffExpiry
  repeat' first
    | with_reducible assumption
    | with_reducible apply hub_kept
    | with_reducible apply irqHoldoffExpiry_kept

theorem execMsixUnmask_kept {fn : Nat} {vec : Option Nat} {s : State} (hs : Kept kq kb s) : KeptOut kq kb (execMsixUnmask fn vec s) := by
  unfold execMsixUnmask
  repeat' first
    | with_reducible assumption
    | with_reducible apply wakeSource_kept
    | with_reducible apply hub_kept
    | with_reducible apply setVectorMask_kept
    | with_reducible apply setFunctionMask_kept
    | (with_reducible refine kept_ite ?_ ?_ <;> intro _)
    | split

theorem execFunctionQuiesce_kept {fn : Nat} {d3 : Bool} {s : State} (hs : Kept kq kb s) : KeptOut kq kb (execFunctionQuiesce fn d3 s) := by
  unfold execFunctionQuiesce
  repeat' first
    | with_reducible assumption
    | with_reducible apply hub_kept
    | with_reducible apply setD3_kept
    | with_reducible apply setBme_kept
    | (with_reducible refine kept_ite ?_ ?_ <;> intro _)
    | split

theorem execFunctionResume_kept {fn : Nat} {s : State} (hs : Kept kq kb s) : KeptOut kq kb (execFunctionResume fn s) := by
  unfold execFunctionResume
  repeat' first
    | with_reducible assumption
    | with_reducible apply hub_kept
    | with_reducible apply setD3_kept
    | with_reducible apply setBme_kept
    | (with_reducible refine kept_ite ?_ ?_ <;> intro _)
    | split

theorem execVfReset_kept {fn : Nat} {s : State} (hs : Kept kq kb s) : KeptOut kq kb (execVfReset fn s) := by
  unfold execVfReset
  repeat' first
    | with_reducible assumption
    | with_reducible apply hub_kept
    | with_reducible apply vfReset_kept

theorem execPfReset_kept {s : State} (hs : Kept kq kb s) : KeptOut kq kb (execPfReset s) := by
  unfold execPfReset
  repeat' first
    | with_reducible assumption
    | with_reducible apply hub_kept
    | with_reducible apply pfReset_kept

theorem execConfigRequest_kept {fn : Nat} {req : ConfigReq} {s : State} (hs : Kept kq kb s) : KeptOut kq kb (execConfigRequest fn req s) := by
  unfold execConfigRequest
  repeat' first
    | with_reducible assumption
    | with_reducible apply aon_kept
    | with_reducible apply configRequest_kept

theorem execAtsInvalidation_kept {fn : Nat} {page : Nat} {s : State} (hs : Kept kq kb s) : KeptOut kq kb (execAtsInvalidation fn page s) := by
  unfold execAtsInvalidation
  repeat' first
    | with_reducible assumption
    | with_reducible apply hub_kept
    | with_reducible apply atsInvalidation_kept

theorem execHostCompletionTimeout_kept {ctx : Nat} {ring : Nat} {serial : Nat} {page : Nat} {s : State} (hs : Kept kq kb s) : KeptOut kq kb (execHostCompletionTimeout ctx ring serial page s) := by
  unfold execHostCompletionTimeout
  repeat' first
    | with_reducible assumption
    | with_reducible apply hub_kept
    | with_reducible apply hostCompletionTimeout_kept

theorem execHostLinkTrained_kept {speed : Nat} {width : Nat} {flit : Bool} {s : State} (hs : Kept kq kb s) : KeptOut kq kb (execHostLinkTrained speed width flit s) := by
  unfold execHostLinkTrained
  repeat' first
    | with_reducible assumption
    | with_reducible apply aon_kept
    | with_reducible apply hostLinkTrained_kept

theorem execWmCfgWrite_kept {a : Agent} {v : Word} {s : State} (hs : Kept kq kb s) : KeptOut kq kb (execWmCfgWrite a v s) := by
  unfold execWmCfgWrite
  repeat' first
    | with_reducible assumption
    | with_reducible apply hub_kept
    | with_reducible apply viaBar0_kept
    | with_reducible apply wmCfgWrite_kept
    | intro _

theorem execWmThresholdWrite_kept {a : Agent} {reg : Nat} {v : Word} {s : State} (hs : Kept kq kb s) : KeptOut kq kb (execWmThresholdWrite a reg v s) := by
  unfold execWmThresholdWrite
  repeat' first
    | with_reducible assumption
    | with_reducible apply hub_kept
    | with_reducible apply viaBar0_kept
    | with_reducible apply wmThresholdWrite_kept
    | intro _

theorem execPchSpareCopyDone_kept {stack : Nat} {s : State} (hs : Kept kq kb s) : KeptOut kq kb (execPchSpareCopyDone stack s) := by
  unfold execPchSpareCopyDone
  repeat' first
    | with_reducible assumption
    | with_reducible apply hub_kept
    | with_reducible apply pchSpareCopyDone_kept

theorem execSiloRequestTimeout_kept {port : Nat} {s : State} (hs : Kept kq kb s) : KeptOut kq kb (execSiloRequestTimeout port s) := by
  unfold execSiloRequestTimeout
  repeat' first
    | with_reducible assumption
    | with_reducible apply hub_kept
    | with_reducible apply siloRequestTimeout_kept

theorem execSiloPortRetire_kept {port : Nat} {s : State} (hs : Kept kq kb s) : KeptOut kq kb (execSiloPortRetire port s) := by
  unfold execSiloPortRetire
  repeat' first
    | with_reducible assumption
    | with_reducible apply hub_kept
    | with_reducible apply siloPortRetire_kept

theorem execScrubUnit_kept {act : Nat} {unit : Nat} {res : Nat} {line : Nat} {found : ScrubFound} {s : State} (hs : Kept kq kb s) : KeptOut kq kb (execScrubUnit act unit res line found s) := by
  unfold execScrubUnit
  repeat' first
    | with_reducible assumption
    | with_reducible apply hub_kept
    | with_reducible apply scrubUnit_kept

theorem execPhyCalibration_kept {stack : Nat} {s : State} (hs : Kept kq kb s) : KeptOut kq kb (execPhyCalibration stack s) := by
  unfold execPhyCalibration
  repeat' first
    | with_reducible assumption
    | with_reducible apply hub_kept
    | with_reducible apply phyCalibration_kept

theorem execBgPassLate_kept {act : Nat} {s : State} (hs : Kept kq kb s) : KeptOut kq kb (execBgPassLate act s) := by
  unfold execBgPassLate
  repeat' first
    | with_reducible assumption
    | with_reducible apply hub_kept
    | with_reducible apply bgPassLate_kept

theorem execHealthRecordWrite_kept {okay : Bool} {s : State} (hs : Kept kq kb s) : KeptOut kq kb (execHealthRecordWrite okay s) := by
  unfold execHealthRecordWrite
  repeat' first
    | with_reducible assumption
    | with_reducible apply hub_kept
    | with_reducible apply healthRecordWrite_kept

theorem execCoreWatchdog_kept {core : Nat} {s : State} (hs : Kept kq kb s) : KeptOut kq kb (execCoreWatchdog core s) := by
  unfold execCoreWatchdog
  repeat' first
    | with_reducible assumption
    | with_reducible apply hub_kept
    | with_reducible apply coreWatchdog_kept

theorem execElogRdWrite_kept {a : Agent} {high : Bool} {v : Word} {s : State} (hs : Kept kq kb s) : KeptOut kq kb (execElogRdWrite a high v s) := by
  unfold execElogRdWrite
  repeat' first
    | with_reducible assumption
    | with_reducible apply hub_kept
    | with_reducible apply viaBar0_kept
    | with_reducible apply elogRdWrite_kept
    | (with_reducible refine kept_ite ?_ ?_ <;> intro _)
    | intro _
    | split

theorem execElogEntryRead_kept {a : Agent} {s : State} (hs : Kept kq kb s) : KeptOut kq kb (execElogEntryRead a s) := by
  unfold execElogEntryRead
  repeat' first
    | with_reducible assumption
    | with_reducible apply hub_kept
    | with_reducible apply elogEntryRead_kept
    | with_reducible apply readBar0_kept
    | intro _

theorem execTimeStep_kept {a : Agent} {s : State} (hs : Kept kq kb s) : KeptOut kq kb (execTimeStep a s) := by
  unfold execTimeStep
  repeat' first
    | with_reducible assumption
    | with_reducible apply hub_kept
    | with_reducible apply viaBar0_kept
    | with_reducible apply timeStep_kept
    | intro _

theorem execMctpControl_kept {msg : List Byte} {s : State} (hs : Kept kq kb s) : KeptOut kq kb (execMctpControl msg s) := by
  unfold execMctpControl
  repeat' first
    | with_reducible assumption
    | with_reducible apply aon_kept
    | with_reducible apply viaMctp_kept
    | with_reducible apply mctpControl_kept
    | intro _

theorem execPldmRequest_kept {msg : List Byte} {s : State} (hs : Kept kq kb s) : KeptOut kq kb (execPldmRequest msg s) := by
  unfold execPldmRequest
  repeat' first
    | with_reducible assumption
    | with_reducible apply aon_kept
    | with_reducible apply viaMctp_kept
    | with_reducible apply pldmRequest_kept
    | intro _

theorem execPldmFirmwareUpdate_kept {msg : List Byte} {s : State} (hs : Kept kq kb s) : KeptOut kq kb (execPldmFirmwareUpdate msg s) := by
  unfold execPldmFirmwareUpdate
  repeat' first
    | with_reducible assumption
    | with_reducible apply aon_kept
    | with_reducible apply replyWith_kept
    | with_reducible apply firmwareUpdate_kept
    | (with_reducible refine kept_ite ?_ ?_ <;> intro _)
    | split

theorem execSpdmRequest_kept {msg : List Byte} {s : State} (hs : Kept kq kb s) : KeptOut kq kb (execSpdmRequest msg s) := by
  unfold execSpdmRequest
  repeat' first
    | with_reducible assumption
    | with_reducible apply aon_kept
    | with_reducible apply viaMctp_kept
    | with_reducible apply spdmRequest_kept
    | intro _

theorem execHealthRecordRead_kept {part : Nat} {s : State} (hs : Kept kq kb s) : KeptOut kq kb (execHealthRecordRead part s) := by
  unfold execHealthRecordRead
  repeat' first
    | with_reducible assumption
    | with_reducible apply aon_kept
    | with_reducible apply healthRecordRead_kept
    | with_reducible apply vendor_kept
    | intro _

theorem execErrorLogRead_kept {idx : Nat} {s : State} (hs : Kept kq kb s) : KeptOut kq kb (execErrorLogRead idx s) := by
  unfold execErrorLogRead
  repeat' first
    | with_reducible assumption
    | with_reducible apply aon_kept
    | with_reducible apply errorLogRead_kept
    | with_reducible apply vendor_kept
    | intro _

theorem execErrorLogRelease_kept {rd : Nat} {s : State} (hs : Kept kq kb s) : KeptOut kq kb (execErrorLogRelease rd s) := by
  unfold execErrorLogRelease
  repeat' first
    | with_reducible assumption
    | with_reducible apply aon_kept
    | with_reducible apply elogRelease_kept
    | with_reducible apply vendor_kept
    | intro _

theorem execColdReset_kept {s : State} (hs : Kept kq kb s) : KeptOut kq kb (execColdReset s) := by
  unfold execColdReset
  repeat' first
    | with_reducible assumption
    | with_reducible apply done_kept
    | with_reducible apply coldReset_kept

theorem execAuxPowerLoss_kept {s : State} (hs : Kept kq kb s) : KeptOut kq kb (execAuxPowerLoss s) := by
  unfold execAuxPowerLoss
  repeat' first
    | with_reducible assumption
    | with_reducible apply aon_kept
    | with_reducible apply auxPowerLoss_kept

theorem execWarmReset_kept {cause : Nat} {s : State} (hs : Kept kq kb s) : KeptOut kq kb (execWarmReset cause s) := by
  unfold execWarmReset
  repeat' first
    | with_reducible assumption
    | with_reducible apply aon_kept
    | with_reducible apply warmResetBy_kept

theorem execRstCtrlWarm_kept {a : Agent} {v : Word} {s : State} (hs : Kept kq kb s) : KeptOut kq kb (execRstCtrlWarm a v s) := by
  unfold execRstCtrlWarm
  repeat' first
    | with_reducible assumption
    | with_reducible apply viaBar0_kept
    | with_reducible apply rstCtrl_kept
    | with_reducible apply early_kept
    | intro _

theorem execPerstDeassert_kept {s : State} (hs : Kept kq kb s) : KeptOut kq kb (execPerstDeassert s) := by
  unfold execPerstDeassert
  repeat' first
    | with_reducible assumption
    | with_reducible apply aon_kept
    | with_reducible apply perstDeassert_kept

theorem execPerstAssertInFallow_kept {s : State} (hs : Kept kq kb s) : KeptOut kq kb (execPerstAssertInFallow s) := by
  unfold execPerstAssertInFallow
  repeat' first
    | with_reducible assumption
    | with_reducible apply aon_kept
    | with_reducible apply perstAssertInFallow_kept

theorem execSysrefClkLoss_kept {s : State} (hs : Kept kq kb s) : KeptOut kq kb (execSysrefClkLoss s) := by
  unfold execSysrefClkLoss
  repeat' first
    | with_reducible assumption
    | with_reducible apply aon_kept
    | with_reducible apply sysrefLoss_kept

theorem execStartupStepDone_kept {s : State} (hs : Kept kq kb s) : KeptOut kq kb (execStartupStepDone s) := by
  unfold execStartupStepDone
  repeat' first
    | with_reducible assumption
    | with_reducible apply aon_kept
    | with_reducible apply startupStepDone_kept

theorem execStartupStep1Retry_kept {s : State} (hs : Kept kq kb s) : KeptOut kq kb (execStartupStep1Retry s) := by
  unfold execStartupStep1Retry
  repeat' first
    | with_reducible assumption
    | with_reducible apply aon_kept
    | with_reducible apply step1Retry_kept

theorem execSiloTrainingRetry_kept {_port : Nat} {s : State} (hs : Kept kq kb s) : KeptOut kq kb (execSiloTrainingRetry _port s) := by
  unfold execSiloTrainingRetry
  repeat' first
    | with_reducible assumption
    | with_reducible apply hub_kept

theorem execSiloPortTrained_kept {port : Nat} {capacity : Nat} {s : State} (hs : Kept kq kb s) : KeptOut kq kb (execSiloPortTrained port capacity s) := by
  unfold execSiloPortTrained
  repeat' first
    | with_reducible assumption
    | with_reducible apply hub_kept
    | with_reducible apply siloPortTrained_kept

theorem execBootPlanLoad_kept {s : State} (hs : Kept kq kb s) : KeptOut kq kb (execBootPlanLoad s) := by
  unfold execBootPlanLoad
  repeat' first
    | with_reducible assumption
    | with_reducible apply hub_kept
    | with_reducible apply bootPlanLoad_kept

theorem execFallowExit_kept {s : State} (hs : Kept kq kb s) : KeptOut kq kb (execFallowExit s) := by
  unfold execFallowExit
  repeat' first
    | with_reducible assumption
    | with_reducible apply aon_kept
    | with_reducible apply fallowExit_kept

theorem execBootStore_kept {a : Agent} {s : State} (hs : Kept kq kb s) : KeptOut kq kb (execBootStore a s) := by
  unfold execBootStore
  repeat' first
    | with_reducible assumption
    | with_reducible apply viaBar0_kept
    | with_reducible apply bootCtrl_kept
    | with_reducible apply early_kept
    | intro _

theorem execBootErase_kept {a : Agent} {s : State} (hs : Kept kq kb s) : KeptOut kq kb (execBootErase a s) := by
  unfold execBootErase
  repeat' first
    | with_reducible assumption
    | with_reducible apply viaBar0_kept
    | with_reducible apply bootCtrl_kept
    | with_reducible apply early_kept
    | intro _

theorem execBootStoreDone_kept {s : State} (hs : Kept kq kb s) : KeptOut kq kb (execBootStoreDone s) := by
  unfold execBootStoreDone
  repeat' first
    | with_reducible assumption
    | with_reducible apply bootStoreDone_kept
    | with_reducible apply early_kept

theorem execBootCfgWrite_kept {a : Agent} {v : Word} {s : State} (hs : Kept kq kb s) : KeptOut kq kb (execBootCfgWrite a v s) := by
  unfold execBootCfgWrite
  repeat' first
    | with_reducible assumption
    | with_reducible apply viaBar0_kept
    | with_reducible apply bootCfgWrite_kept
    | with_reducible apply early_kept
    | intro _

theorem execRegisterWrite_kept {a : Agent} {bar : Bar} {off : Nat} {v : Word} {s : State} (hs : Kept kq kb s) : KeptOut kq kb (execRegisterWrite a bar off v s) := by
  unfold execRegisterWrite
  repeat' first
    | with_reducible assumption
    | with_reducible apply regWrite_kept
    | with_reducible apply regRow_kept

theorem execReadClearRegister_kept {a : Agent} {bar : Bar} {off : Nat} {s : State} (hs : Kept kq kb s) : KeptOut kq kb (execReadClearRegister a bar off s) := by
  unfold execReadClearRegister
  repeat' first
    | with_reducible assumption
    | with_reducible apply regRead_kept
    | with_reducible apply regRow_kept

theorem execLowHalfRead_kept {a : Agent} {bar : Bar} {off : Nat} {s : State} (hs : Kept kq kb s) : KeptOut kq kb (execLowHalfRead a bar off s) := by
  unfold execLowHalfRead
  repeat' first
    | with_reducible assumption
    | with_reducible apply regRead_kept
    | with_reducible apply regRow_kept

theorem execLatchInfoRead_kept {a : Agent} {bar : Bar} {off : Nat} {s : State} (hs : Kept kq kb s) : KeptOut kq kb (execLatchInfoRead a bar off s) := by
  unfold execLatchInfoRead
  repeat' first
    | with_reducible assumption
    | with_reducible apply regRead_kept
    | with_reducible apply regRow_kept

theorem execBadRegisterAccess_kept {fn : Nat} {bar : Bar} {off : Nat} {write : Bool} {s : State} (hs : Kept kq kb s) : KeptOut kq kb (execBadRegisterAccess fn bar off write s) := by
  unfold execBadRegisterAccess
  repeat' first
    | with_reducible assumption
    | with_reducible apply badRegisterAccess_kept
    | with_reducible apply regRow_kept


end Sys2Proof.Machine
end

