-- ==== Sys2Proof/WellFormed.lean ====
section
/-! DEFINITION. Sys2Proof/WellFormed.lean: what a sender can send: every operand in the range that the block has for it. `exec` is
total all the same; an operand out of range has the effect that its own rule gives it. -/

namespace Sys2Proof

/-- R440: functions 0 (PF) to 255. -/
def fnWf (f : Nat) : Bool := decide (f < 256)
/-- R153: contexts 0 to 4,095. -/
def ctxWf (c : Nat) : Bool := decide (c < 4096)
/-- R109: rings 0 to 63 of a context. -/
def ringWf (r : Nat) : Bool := decide (r < 64)
/-- R114: a 64-bit command serial. -/
def serialWf (n : Nat) : Bool := decide (n < 2 ^ 64)
/-- R114: names a command. -/
def cmdWf (c r n : Nat) : Bool := ctxWf c && ringWf r && serialWf n
/-- R17: compute dies (and their Loft stacks) 0 to 15. -/
def dieWf (d : Nat) : Bool := decide (d < 16)
/-- R24: die links 0 to 46. -/
def linkWf (n : Nat) : Bool := decide (n < 47)
/-- R335: Caravan ports 0 to 35. -/
def portWf (p : Nat) : Bool := decide (p < 36)
/-- R518: Silo ports 0 to 11. -/
def siloWf (p : Nat) : Bool := decide (p < 12)
/-- R441: a register lies at a multiple of 4 in a 32-bit window. -/
def offWf (o : Nat) : Bool := decide (o % 4 = 0) && decide (o < 2 ^ 32)
/-- R505: a message has at least its type byte. -/
def msgWf (m : List Byte) : Bool := !m.isEmpty && decide (m.length < 2 ^ 32)

def Agent.wf : Agent → Bool
  | .host f => fnWf f
  | .mctp | .firmware => true

/-- R222: a host page number of a 64-bit address. -/
def RunEnv.wf (e : RunEnv) : Bool := e.hostFaultPage.all (fun p => decide (p < 2 ^ 52))

def ConfigReq.wf : ConfigReq → Bool
  | .maxPayload n | .maxReadRequest n => [128, 256, 512, 1024, 2048, 4096].contains n
  | .numVFs n => decide (n < 2 ^ 16)
  | .read | .memorySpace _ | .busMaster _ | .msixEnable _ | .functionMask _ | .atsEnable _ | .vfEnable _ | .powerState _
  | .pmeEnable _ => true

/-- R347: node numbers are 16 bits, ports 6, groups 32. -/
def LinkMsg.wf : LinkMsg → Bool
  | .identity n p g => decide (n < 2 ^ 16) && portWf p && decide (g < 2 ^ 32)
  | .hello n p g _ k _ => decide (n < 2 ^ 16) && portWf p && decide (g < 2 ^ 32) && decide (k.length = 32)
  | .finish sig => decide (sig.length = 64)
  | .ready _ => true

/-- R337: a frame of 40 flits of 64 bytes. -/
def RxFrame.wf (x : RxFrame) : Bool := decide (x.bytes.length = 2560)

/-- R351, R359: the fields of a far packet. -/
def FarPacket.wf (k : FarPacket) : Bool :=
  decide (k.dest < 2 ^ 16) && decide (k.src < 2 ^ 16) && decide (k.xid < 2 ^ 64) && decide (k.expo < 2 ^ 16)
    && decide (k.gen < 2 ^ 16) && decide (k.attempt < 2 ^ 16) && decide (k.epoch < 2 ^ 128) && decide (k.data.length ≤ 4096)

/-- R362, R366: the fields of a Tally packet. -/
def TallyPacket.wf (k : TallyPacket) : Bool :=
  decide (k.dest < 2 ^ 16) && decide (k.src < 2 ^ 16) && decide (k.xid < 2 ^ 64) && decide (k.tree < 2 ^ 16)
    && decide (k.pass < 4) && decide (k.data.length ≤ 2048)

/-- Every operand in its range. -/
def Instr.wf : Instr → Bool
  | .registerWrite a _ off _ => a.wf && offWf off
  | .readClearRegister a _ off => a.wf && offWf off
  | .lowHalfRead a _ off => a.wf && offWf off
  | .latchInfoRead a _ off => a.wf && offWf off
  | .badRegisterAccess fn _ off _ => fnWf fn && decide (off < 2 ^ 32)
  | .fpLoad a slot => a.wf && decide (slot < 8)
  | .fpPrepare a slot => a.wf && decide (slot < 8)
  | .fpApply a slot => a.wf && decide (slot < 8)
  | .applyBankSwitch => true
  | .applyWaitTimeout => true
  | .applyAckTimeout die => dieWf die
  | .fpDiscard a slot => a.wf && decide (slot < 8)
  | .fpUnload a slot => a.wf && decide (slot < 8)
  | .rotationStart die => dieWf die
  | .rotationCopy die => dieWf die
  | .rotationEnd die => dieWf die
  | .ageingTick => true
  | .dieLinkCrcRetry link _ _ => linkWf link
  | .dieLinkDown link up => linkWf link && decide (up ≤ 64)
  | .doorbell fn page ring _ => fnWf fn && ctxWf page && ringWf ring
  | .doorbellPageWrite fn off data => fnWf fn && decide (off + data.length ≤ 2 ^ 24) && !data.isEmpty
  | .commandFetch ctx ring => ctxWf ctx && ringWf ring
  | .commandDispatch ctx ring inst => ctxWf ctx && ringWf ring && decide (inst < 2 ^ 16)
  | .commandCommit ctx ring serial => cmdWf ctx ring serial
  | .freezeComplete ctx => ctxWf ctx
  | .tile ctx ring serial env => cmdWf ctx ring serial && env.wf
  | .attnFwd ctx ring serial env => cmdWf ctx ring serial && env.wf
  | .attnBwd ctx ring serial env => cmdWf ctx ring serial && env.wf
  | .merge ctx ring serial env => cmdWf ctx ring serial && env.wf
  | .elem ctx ring serial env => cmdWf ctx ring serial && env.wf
  | .route ctx ring serial env => cmdWf ctx ring serial && env.wf
  | .gather ctx ring serial env => cmdWf ctx ring serial && env.wf
  | .scatter ctx ring serial env => cmdWf ctx ring serial && env.wf
  | .momentum ctx ring serial env => cmdWf ctx ring serial && env.wf
  | .adaptive ctx ring serial env => cmdWf ctx ring serial && env.wf
  | .signmom ctx ring serial env => cmdWf ctx ring serial && env.wf
  | .orthoPrep ctx ring serial env => cmdWf ctx ring serial && env.wf
  | .orthoIter ctx ring serial env => cmdWf ctx ring serial && env.wf
  | .orthoApply ctx ring serial env => cmdWf ctx ring serial && env.wf
  | .kronStats ctx ring serial env => cmdWf ctx ring serial && env.wf
  | .kronRoot ctx ring serial env => cmdWf ctx ring serial && env.wf
  | .kronApply ctx ring serial env => cmdWf ctx ring serial && env.wf
  | .norm ctx ring serial env => cmdWf ctx ring serial && env.wf
  | .decideStep ctx ring serial env => cmdWf ctx ring serial && env.wf
  | .provisionalDecision ctx ring serial => cmdWf ctx ring serial
  | .provisionalTimeout ctx ring serial => cmdWf ctx ring serial
  | .move ctx ring serial env => cmdWf ctx ring serial && env.wf
  | .sample ctx ring serial env => cmdWf ctx ring serial && env.wf
  | .sampleVerify ctx ring serial env => cmdWf ctx ring serial && env.wf
  | .seqOpen ctx ring serial env => cmdWf ctx ring serial && env.wf
  | .seqClose ctx ring serial env => cmdWf ctx ring serial && env.wf
  | .seqAccept ctx ring serial env => cmdWf ctx ring serial && env.wf
  | .seqRollBack ctx ring serial env => cmdWf ctx ring serial && env.wf
  | .seqPrefixMatch ctx ring serial env => cmdWf ctx ring serial && env.wf
  | .reduce ctx ring serial env => cmdWf ctx ring serial && env.wf
  | .reshard ctx ring serial env => cmdWf ctx ring serial && env.wf
  | .wait ctx ring serial => cmdWf ctx ring serial
  | .signal ctx ring serial => cmdWf ctx ring serial
  | .latchAcquire ctx ring serial => cmdWf ctx ring serial
  | .latchTry ctx ring serial => cmdWf ctx ring serial
  | .latchRelease ctx ring serial => cmdWf ctx ring serial
  | .waitLatchTimeout ctx ring serial => cmdWf ctx ring serial
  | .watchdogExpiry ctx ring serial => cmdWf ctx ring serial
  | .injectedKill ctx ring serial => cmdWf ctx ring serial
  | .evcAdd fn ctr inc => fnWf fn && decide (ctr < 256) && decide (inc < 2 ^ 16)
  | .ringEnable fn ring => fnWf fn && ringWf ring
  | .ringResume fn ring => fnWf fn && ringWf ring
  | .ringFlush fn ring => fnWf fn && ringWf ring
  | .ringDisable fn ring => fnWf fn && ringWf ring
  | .flushComplete ctx ring => ctxWf ctx && ringWf ring
  | .ctxCreate fn => fnWf fn
  | .ctxDestroy fn => fnWf fn
  | .destroyRelease ctx => ctxWf ctx
  | .ctxThaw fn => fnWf fn
  | .ctxReset fn => fnWf fn
  | .fnRangeWrite a fn _ _ => a.wf && fnWf fn
  | .ctxWeightWrite fn _ => fnWf fn
  | .preemptionCheck => true
  | .vtIdleAdjust => true
  | .energyReconcile railUj => decide (railUj.length = 52)
  | .objCreate fn => fnWf fn
  | .objDestroy fn => fnWf fn
  | .objResize fn => fnWf fn
  | .objSetCfg fn => fnWf fn
  | .objPromote fn => fnWf fn
  | .objEvict fn => fnWf fn
  | .objMap fn => fnWf fn
  | .migrationPressure stack => dieWf stack
  | .heatPromotion => true
  | .migrationCopyDone _ gran => decide (gran < 2 ^ 19)
  | .sourceFree _ gran => decide (gran < 2 ^ 19)
  | .repairComplete _ gran => decide (gran < 2 ^ 19)
  | .migCfgWrite a _ => a.wf
  | .cartOstdWrite a q _ => a.wf && decide (q < 16384)
  | .seqCancel fn slot => fnWf fn && decide (slot < 2 ^ 17)
  | .cancelComplete ctx => ctxWf ctx
  | .mapRelease => true
  | .driftGroupFree ctx => ctxWf ctx
  | .steerInstall fn => fnWf fn
  | .steerRemove fn => fnWf fn
  | .rngSeedLoWrite fn _ => fnWf fn
  | .rngSeedHiWrite fn _ => fnWf fn
  | .portCtrlWrite a port _ => a.wf && portWf port
  | .trainingComplete port => portWf port
  | .trainingTimeout port => portWf port
  | .downRetry port => portWf port
  | .linkPacket port msg => portWf port && msg.wf
  | .portActivate port => portWf port
  | .frameTransmit port => portWf port
  | .frameReceive port frame => portWf port && frame.wf
  | .retrainLock port => portWf port
  | .retrainTimeout port => portWf port
  | .laneRotationStart port => portWf port
  | .laneRotationSwitch port => portWf port
  | .laneRotateRetry port => portWf port
  | .laneCalibrationDone port => portWf port
  | .laneRetire port lane => portWf port && decide (lane < 9)
  | .linkRekey port => portWf port
  | .creditStallTick port lane => portWf port && decide (lane < 3)
  | .farExport fn => fnWf fn
  | .farUnexport fn => fnWf fn
  | .farBind fn => fnWf fn
  | .writePacket pkt => pkt.wf
  | .readReqPacket pkt _ => pkt.wf
  | .readDataPacket pkt => pkt.wf
  | .commitPacket pkt => pkt.wf
  | .abortPacket pkt => pkt.wf
  | .donePacket pkt => pkt.wf
  | .e2eTimeout xid _ => decide (xid < 2 ^ 64)
  | .farStageExpire epoch => decide (epoch < 2 ^ 128)
  | .tallyUp port pkt => portWf port && pkt.wf
  | .tallyDown port pkt => portWf port && pkt.wf
  | .collTimeout tree seq group => decide (tree < 2 ^ 16) && decide (seq < 2 ^ 32) && decide (group < 2 ^ 32)
  | .digestClear fn => fnWf fn
  | .detInjectWrite a _ => a.wf
  | .keyRecordApply a => a.wf
  | .svnCommit a => a.wf
  | .wpkOpen fn => fnWf fn
  | .wpkLoad fn => fnWf fn
  | .wpkClose fn => fnWf fn
  | .apertureRead fn off len => fnWf fn && decide (0 < len) && decide (off < 2 ^ 16) && decide (len ≤ 4096)
  | .apertureWrite fn off data => fnWf fn && !data.isEmpty && decide (off < 2 ^ 16) && decide (data.length ≤ 4096)
  | .irqHoldoffExpiry fn vec => fnWf fn && decide (vec < 2048)
  | .msixUnmask fn vec => fnWf fn && vec.all (fun v => decide (v < 2048))
  | .functionQuiesce fn _ => fnWf fn
  | .functionResume fn => fnWf fn
  | .vfReset fn => fnWf fn
  | .pfReset => true
  | .configRequest fn req => fnWf fn && req.wf
  | .atsInvalidation fn page => fnWf fn && decide (page < 2 ^ 52)
  | .hostCompletionTimeout ctx ring serial page => cmdWf ctx ring serial && decide (page < 2 ^ 52)
  | .pwrRun a => a.wf
  | .pwrHold a => a.wf
  | .pwrNap a => a.wf
  | .autoHold => true
  | .handshakeAnswer part _ => decide (part < 10)
  | .handshakeTimeout => true
  | .powerTransitionDone => true
  | .wakeEvent src => decide (src < 5)
  | .compTrip => true
  | .wakeCfgWrite a _ => a.wf
  | .aclkSlewDone die => dieWf die
  | .phaseSample amps bad => decide (amps.length = 160) && bad.all (fun i => decide (i < 160))
  | .sparePhaseSwitched rail => decide (rail < 52)
  | .budgetEvaluation inW delivW => decide (inW < 2 ^ 16) && decide (delivW < 2 ^ 16)
  | .inputOvercurrent => true
  | .sensorSample sensor v => decide (sensor < 312) && v.all (fun x => decide (x < 2 ^ 16))
  | .wmCfgWrite a _ => a.wf
  | .wmThresholdWrite a reg _ => a.wf && [0x2A004, 0x2A008, 0x2A00C].contains reg
  | .pchSpareCopyDone stack => dieWf stack
  | .siloRequestTimeout port => siloWf port
  | .siloPortRetire port => siloWf port
  | .scrubUnit act unit res line _ => decide (act < 2) && decide (unit < 2 ^ 48) && decide (res < 1600) && decide (line < 2 ^ 20)
  | .phyCalibration stack => dieWf stack
  | .bgPassLate act => decide (act < 6)
  | .healthRecordWrite _ => true
  | .coreWatchdog core => decide (core < 4)
  | .elogRdWrite a _ _ => a.wf
  | .elogEntryRead a => a.wf
  | .timeStep a => a.wf
  | .mctpControl msg => msgWf msg
  | .pldmRequest msg => msgWf msg
  | .pldmFirmwareUpdate msg => msgWf msg
  | .spdmRequest msg => msgWf msg
  | .powerRequest target => decide (target < 256)
  | .sidebandWake => true
  | .healthRecordRead part => decide (part < 2 ^ 16)
  | .errorLogRead idx => decide (idx < 2 ^ 64)
  | .errorLogRelease rd => decide (rd < 2 ^ 64)
  | .coldReset => true
  | .auxPowerLoss => true
  | .warmReset cause => decide (cause < 3)
  | .rstCtrlWarm a _ => a.wf
  | .perstDeassert => true
  | .sysrefClkLoss => true
  | .crvRefClkLoss => true
  | .startupStep1Retry => true
  | .siloTrainingRetry port => siloWf port
  | .siloPortTrained port capacity => siloWf port && decide (capacity < 2 ^ 64)
  | .bootPlanLoad => true
  | .fallowExit => true
  | .bootStore a => a.wf
  | .bootErase a => a.wf
  | .bootCfgWrite a _ => a.wf
  | .startupStepDone => true
  | .resetComplete ctx => ctxWf ctx
  | .fpOperationDone => true
  | .objOperationDone ctx => ctxWf ctx
  | .steerOperationDone ctx => ctxWf ctx
  | .keyVaultOpDone => true
  | .wpkOperationDone ctx => ctxWf ctx
  | .bootStoreDone => true
  | .bindQuery pkt => pkt.wf
  | .bindAnswer pkt => pkt.wf
  | .d2dLinkRestored link => linkWf link
  | .crvRefClkReturn => true
  | .compRearm => true
  | .perstAssertInFallow => true
  | .hostLinkTrained speed width _ => decide (1 ≤ speed) && decide (speed ≤ 6) && [1, 2, 4, 8, 16].contains width

end Sys2Proof
end

