-- ==== Sys2Proof/Tests/Slice0.lean ====
section
/-! SUPPORT. Sys2Proof/Tests/Slice0.lean: the model's own tests: the well-formedness smoke test, small steps read off the spec, and one
witness per statement of Sys2Proof/Certificates/Slice0/Obligations.lean that has hypotheses. -/

namespace Sys2Proof.Tests

open Sys2Proof Sys2Proof.Machine

set_option Elab.async false

/-! ### Small states -/

/-- A module that has started, with BAR0 and the windows of function 0 open. -/
def live : State :=
  { State.reset with boot := { Boot.reset with step := 10, running := false }, fns := [(0, { Fn.reset with mse := true, bme := true })] }

/-- `live` with every register of the module but the listed ones at reset. -/
def withRegs (l : List (Nat × Word)) : State := { live with regs := l }

/-- An active context. -/
def act : Ctx := { Ctx.reset with st := .active }

/-- `live` with context 0 as given. -/
def inCtx (x : Ctx) : State := { live with ctxs := [(0, x)] }

theorem live_up : live.up = true := by decide
theorem live_reaches (a : Agent) (h : a = .host 0 ∨ a = .mctp) : Reaches live a := by
  rcases h with rfl | rfl
  · exact ⟨by decide, fun f hf => by cases hf; decide⟩
  · exact ⟨by decide, fun f hf => by cases hf⟩
theorem reaches_of {s : State} (h : bar0Open s (.host 0) = true) (h' : (s.fn 0).flr = false) : Reaches s (.host 0) :=
  ⟨h, fun f hf => by cases hf; exact h'⟩
theorem live_shows : Shows live 0 0 := by unfold Shows; decide

/-- A ring of depth 4 with these commands. -/
def ringOf (st : RingSt) (cmds : List Cmd) : Ring := { Ring.reset with st := st, depth := 4, cmds := cmds }
/-- Context 0 active, its ring 0 running with these commands. -/
def withCmds (cmds : List Cmd) : State := { inCtx act with rings := [(0, ringOf .running cmds)] }
/-- A descriptor: 64 zero bytes but for these (offset, length, value) fields, the opcode at byte 0. -/
def dsc (op : Nat) (l : List (Nat × Nat × Nat)) : List Byte :=
  l.foldl (fun d e => d.take e.1 ++ bytesLE e.2.2 e.2.1 ++ d.drop (e.1 + e.2.1)) (bytesLE op 64)
/-- An attempt on instance 0. -/
def att0 : Attempt :=
  { inst := 0, queue := 0, t0 := 0, t1 := 0, snap := Store.reset, scratch := 0, scratchDie := 0, grans := [], touched := [], ostd := 0, kv := [],
    wsids := [], degraded := false }
/-- The command of serial 0 in slot 0, in this phase, with an attempt. -/
def cmdIn (p : Phase) (d : List Byte) : Cmd := { newCmd d 0 0 1 with phase := p, att := some att0, param := some [] }

/-! ### Witnesses: the machine -/

theorem witness_StepRunsFrontCommand :
    ({ live with pending := [.applyBankSwitch, .coldReset] } : State).pending = .applyBankSwitch :: [.coldReset] := by decide
theorem witness_IdleStepCountsTime :
    (live.pending = [] ∧ State.reset.pending = [])
    ∧ ({ live with pins := { live.pins with aux := false } } : State).pins.aux = false
    ∧ (State.reset.boot.step = 0 ∧ State.reset.boot.running = true)
    ∧ (live.pins.aux = true ∧ 1 ≤ live.boot.step ∧ live.pins.sysref = true ∧ slewed (slewPpm live).natAbs live.tclk = false)
    ∧ (let s := { withRegs [(0x28214, 500)] with tclk := 1999 }
       slewed (slewPpm s).natAbs s.tclk = true ∧ 0 < slewPpm s)
    ∧ (let s := { withRegs [(0x28214, BitVec.ofInt 32 (-500))] with tclk := 1999 }
       slewed (slewPpm s).natAbs s.tclk = true ∧ slewPpm s ≤ 0)
    ∧ (let s := { live with boot := { live.boot with step := 0 } }
       s.pins.aux = true ∧ s.boot.step = 0 ∧ s.boot.running = false)
    ∧ (let s := { live with pins := { live.pins with sysref := false } }
       1 ≤ s.boot.step ∧ s.pins.sysref = false) := by decide
theorem witness_SlewedCyclesEvenlySpaced : 500 ≤ 500 ∧ slewed 500 1999 = true ∧ slewed 500 1998 = false := by decide
theorem witness_CommandsLeaveTheQueue : ∃ t, exec .applyBankSwitch live = .next t := ⟨_, rfl⟩
theorem witness_EveryStepKeepsCanon : State.reset.Canon ∧ ∃ t, step State.reset = .next t :=
  ⟨by unfold State.Canon CanonOf StoreOk; decide, _, rfl⟩
theorem witness_EveryStepKeepsMonitorsSettled :
    State.reset.Settled ∧ ∃ t, step { State.reset with pending := [.coldReset] } = .next t :=
  ⟨fun k h => absurd h (by show ¬ (tblGet Monitor.reset [] k).en = true; rw [show (tblGet Monitor.reset [] k) = Monitor.reset from rfl]; decide), _, rfl⟩
theorem witness_MonitorEvaluationChangesOnlySignals : ∀ k, (State.reset.mon k).en = false := fun _ => rfl

/-! ### Witnesses: register access -/

theorem live_mctp_reaches : (Agent.mctp = .mctp → live.pins.aux = true) ∧ Reaches live .mctp := ⟨by decide, live_reaches _ (.inr rfl)⟩
theorem live_host_reaches : (Agent.host 0 = .mctp → live.pins.aux = true) ∧ Reaches live (.host 0) := ⟨by decide, live_reaches _ (.inl rfl)⟩
theorem witness_RegisterWriteFollowsAccessCodes :
    live.up = true
    ∧ (∀ off ∈ [0x0, 0x8004, 0x800C], off < 2 ^ 32 ∧ off % 4 = 0 ∧ ownRow off = false ∧ (findReg .bar0 off).isSome = true)
    ∧ Shows live 0 0
    ∧ (∀ off ∈ [0x10, 0x100, 0x1008], off < 0x10000 ∧ off % 4 = 0 ∧ ownWindowRow off = false ∧ (findReg .window off).isSome = true)
    ∧ (barOpen live 0 = true ∧ (live.fn 0).flr = false)
    ∧ (∀ off ∈ [0x10000, 0x10004], 0x10000 ≤ off ∧ off < 0x20000 ∧ off % 4 = 0 ∧ off ≠ 0x10028 ∧ (findReg .page off).isSome = true) :=
  ⟨live_up, by decide, live_shows, by decide, by decide, by decide⟩
theorem witness_ReadClearsOnlyReadToClearBits :
    live.up = true
    ∧ ((findReg .bar0 0x7400).any (fun e => e.1.rc != 0) = true ∧ latched (kBar0 0x7400) = [] ∧ tblFind live.shadows (shadowKey 0 (kBar0 0x7400)) = none)
    ∧ tblFind live.shadows (shadowKey 0 0x2A018) = none
    ∧ (barOpen live 0 = true ∧ ((wakeSource live 1).fn 0).flr = false ∧ shownCtx (wakeSource live 1) 0 = some 0)
    ∧ ((findReg .window 0x1038).any (fun e => e.1.rc != 0) = true ∧ latched (kWin 0 0x1038) = []
      ∧ tblFind live.shadows (shadowKey 0 (kWin 0 0x1038)) = none) := by decide
theorem witness_LowHalfReadLatchesHighHalf :
    ∀ off ∈ [0x10, 0x4008], off + 4 < 2 ^ 32 ∧ off % 4 = 0 ∧ (findReg .bar0 off).any (fun e => e.1.lo && e.1.rc == 0) = true
      ∧ tblFind live.shadows (shadowKey (readerOf (.host 0)) (kBar0 off)) = none := by decide
theorem witness_MapGenLatchRule :
    tblFind live.shadows (shadowKey 0 0x4008) = none ∧ tblFind live.shadows (shadowKey 0 0x400C) = none
    ∧ (let u := { live with shadows := [(shadowKey 0 0x400C, 5)] }
       u.up = true ∧ Reaches u (.host 0) ∧ (tblFind u.shadows (shadowKey 0 0x400C)).isSome = true) :=
  ⟨by decide, by decide, by decide, ⟨by decide, fun f hf => by cases hf; decide⟩, by decide⟩
theorem witness_LatchInfoReadLatchesGeneration :
    live.up = true ∧ (∀ a ∈ [Agent.host 0, .mctp], tblFind live.shadows (shadowKey (readerOf a) 0xB018) = none) := by decide
theorem witness_BadRegisterAccessIsIgnoredAndRecorded :
    live.up = true ∧ barOpen live 0 = true ∧ (Bar.bar2 = .bar0 → 0 = 0)
    ∧ barOpen { live with fns := [(255, { Fn.reset with mse := true })], host := { live.host with numVFs := 255, vfEnable := true } } 255 = true := by decide

/-! ### Witnesses: Field Plans and topology -/

/-! ### A key whose signatures are known: the neutral element of the curve -/

def neutral : EdPt := { x := 0, y := 1, z := 1 }
def neutralKey : List Byte := bytesLE 1 32
def neutralSig : List Byte := bytesLE 1 64
theorem edMul_neutral (fuel k : Nat) : edMul fuel k neutral neutral = neutral := by
  have h : edAdd neutral neutral = neutral := by decide +kernel
  induction fuel generalizing k with
  | zero => rfl
  | succ n ih => rw [edMul, h, ite_self, ih, ite_self]
/-- With the neutral element as the key and the commitment, and 0 as the scalar, a signature verifies over every message. -/
theorem neutral_verifies (msg : List Byte) : ed25519Verifies neutralKey msg neutralSig = true := by
  have hk : edDecode neutralKey = some neutral := by decide +kernel
  have hr : edDecode (neutralSig.take 32) = some neutral := by decide +kernel
  have hs : leValue (neutralSig.drop 32) = 0 := by decide +kernel
  have hl : neutralSig.length = 64 := by decide
  have hb : edBase.isSome = true := by decide +kernel
  obtain ⟨b, hb⟩ := Option.isSome_iff_exists.mp hb
  unfold ed25519Verifies
  simp only [hk, hr, hs, hb, hl]
  rw [show edScale 0 b = neutral from rfl, show ∀ k, edScale k neutral = neutral from edMul_neutral 520]
  decide +kernel

/-- Key slot 0 holds the neutral key. -/
def keyed : State := { live with vault := { live.vault with planKeys := [(0, neutralKey)] } }
def baseImage : List Byte :=
  bytesLE 0x100110020000001D8080100014E4C5046 32 ++ bytesLE 0x800000001000000B00000000100000000000000000000000000000000 32 ++
  bytesLE 0x4000000010000000C0000000030000000800000001000000B800000002 32 ++
  bytesLE 0x2000000001000001200000000600000020000000020000010000000004 32 ++
  bytesLE 0x800000001000001800000000C0000004000000010000001400000000B 32 ++
  bytesLE 0x400001000000000001000000000000001000000001000001880000000D 32 ++
  bytesLE 0x700000006000000050000000400000003000000020000000100000000 32 ++
  bytesLE 0xF0000000E0000000D0000000C0000000B0000000A0000000900000008 32 ++
  bytesLE 0x10001000300000000000000010000001000010000 32 ++ bytesLE 0xFFF000000000000000000000000000000010000000000010300 32 ++
  bytesLE 0x700000006000000050000000400000003000000020000000100000000 32 ++
  bytesLE 0xF0000000E0000000D0000000C0000000B0000000A0000000900000008 32 ++
  bytesLE 0x10000000000000000000000000000000000000000000004B0 32 ++ bytesLE 0x0 32 ++ bytesLE 0x0 24
def overlayImage : List Byte :=
  bytesLE 0x1000000000000000200110020000000B0010200014E4C5046 32 ++
  bytesLE 0x800000001000000400000000C00000000000000000000000000000000 32 ++ bytesLE 0x3E8 32 ++
  bytesLE 0x100000000000000000000000000000000 32 ++ bytesLE 0x0 32 ++ bytesLE 0x0 16
/-- Host memory that holds these bytes from address 0. -/
def hostBytes (l : List Byte) : Store := { Store.reset with host := (l.zipIdx.filter (fun e => e.1 != 0)).map (fun e => (e.2, e.1)) }
/-- A LOAD of the base image in progress. -/
def loadingBase : State := { keyed with com := hostBytes baseImage, plan := { keyed.plan with op := some { op := 1, slot := 0, addr := 0, len := 472, boot := false } } }
/-- A configuration with one plot, of one field, and one queue. -/
def baseSecs : Sections :=
  { plots := some [⟨0, 0, 1⟩], queues := some [⟨0, 0, 1, 64⟩], cribs := some ((List.range 16).map (fun d => ⟨d, 0⟩)), lofts := some [⟨0, 1, 16, 1⟩, ⟨3, 1, 1, 0⟩],
    silos := none, windows := some [⟨0, 3, 1, 1, 0, 4095⟩], quotas := none, group := none, routes := none, trees := none,
    opPoints := some ((List.range 16).map (fun d => ⟨d, 0⟩)), powerCap := some [1200], enable := some [⟨0, 0, 0⟩] }
def basePlan : PlanImage := { kind := 1, planId := 1, baseId := 0, keyIndex := 0, secs := baseSecs }
/-- A plan of these sections in slot 0 and in force. -/
def planOf (c : Sections) : PlanSt := { live.plan with slots := [(0, { basePlan with secs := c })], force := some c }
/-- `live` with the base configuration in force. -/
def planned : State := { live with plan := planOf baseSecs }
/-- A PREPARE of the overlay in progress. -/
def preparing : State :=
  { keyed with com := hostBytes overlayImage, plan := { planned.plan with op := some { op := 2, slot := 1, addr := 0, len := 176, boot := false } } }

theorem witness_FieldPlanOperationsEnd_load :
    validateImage loadingBase (memRead loadingBase.com.host 0 (if 472 ≤ 4194304 then 472 else 0)) 472 1 = .inl basePlan := by decide +kernel
theorem witness_FieldPlanOperationsEnd_prepare :
    (validateImage preparing (memRead preparing.com.host 0 (if 176 ≤ 4194304 then 176 else 0)) 176 2).isLeft = true := by decide +kernel

/-- `planned` with an overlay of other queues in slot 1. -/
def twoSlots : State :=
  { live with plan := { live.plan with force := some baseSecs, slots := [(0, basePlan),
      (1, { kind := 2, planId := 2, baseId := 1, keyIndex := 0, secs := { baseSecs with queues := some [⟨0, 0, 2, 64⟩] } })] } }
/-- An APPLY of slot 1 in progress, which waits for the command of ring 0. -/
def applying (p : Phase) : State :=
  { withCmds [cmdIn p (dsc 1 [])] with
    plan := { twoSlots.plan with apply := some { slot := 1, plots := [0], waits := [{ ctx := 0, ring := 0, serial := 0 }], began := 0 } } }

theorem witness_FieldPlanOperationsBegin :
    (let s := { live with plan := { live.plan with op := some { op := 1, slot := 0, addr := 0, len := 0, boot := false } } }
     s.up = true ∧ bar0Open s (.host 0) = true ∧ (s.fn 0).flr = false ∧ (7 < 8) ∧ fpBusy s = true)
    ∧ (let s := { live with topo := { live.topo with diePresent := List.range 20 } }
       fpBusy s = false ∧ (seenFrom s (.host 0)).ctr64 kFpSrc % 8 = 0 ∧ someContext s = false ∧ allDies s = true)
    ∧ someContext (inCtx act) = true
    ∧ (fpBusy planned = false ∧ planLoaded planned = true ∧ (seenFrom planned (.host 0)).ctr64 kFpSrc % 8 = 0)
    ∧ (let s := twoSlots
       (match inForce s, configOf s.plan 1 with
        | some x, some y => decide (changedPlots x y = [0]) && !holdsUnstarted (seenFrom s (.host 0)) (changedPlots x y)
            && !reducesOn (seenFrom s (.host 0)) (changedTrees x y)
        | _, _ => false) = true ∧ 1 ≠ s.plan.active) := by decide +kernel
theorem witness_FieldPlanOperationsEnd :
    (let s := applying .running
     s.up = true ∧ s.plan.apply.isSome = true ∧ s.plan.apply.any (fun r => applyReturned s r) = false ∧ s.plan.apply.any (fun r => applyWaiting s r) = true)
    ∧ (let s := applying .done
       s.plan.apply.any (fun r => applyReturned s r) = false ∧ s.plan.apply.any (fun r => applyWaiting s r) = false)
    ∧ live.plan.op = none
    ∧ (match validateImage loadingBase (memRead live.com.host 0 176) 176 1 with | .inr f => f.st == .format | .inl _ => false) = true := by decide +kernel

/-- `live` with the ageing of die 0's slot 0 and a rotation of die 0. -/
def aged (rot : List (Nat × Rotation)) : State :=
  { withRegs [(0x28060, 0x10000)] with rel := { live.rel with ageing := [(0, 102), (64, 100)] }, topo := { live.topo with rotations := rot } }

theorem witness_RotationMovesAFieldIndexToASpare :
    (let s := aged []
     s.up = true ∧ tblFind s.topo.rotations 0 = none ∧ s.regField 0x28060 16 8 ≠ 0
     ∧ firstBy (fun a b => slotAge (bgUnit s 4) b < slotAge (bgUnit s 4) a) (dieSlots (bgUnit s 4) 0 .inService) = some 0
     ∧ (firstBy (fun a b => slotAge (bgUnit s 4) a < slotAge (bgUnit s 4) b) (freeSpares (bgUnit s 4) 0)).any
         (fun n => slotAge (bgUnit s 4) n * 101 < slotAge (bgUnit s 4) 0 * 100) = true)
    ∧ (let s := { aged [] with rel := live.rel }
       (firstBy (fun a b => slotAge (bgUnit s 4) b < slotAge (bgUnit s 4) a) (dieSlots (bgUnit s 4) 0 .inService)).isSome = true
       ∧ (firstBy (fun a b => slotAge (bgUnit s 4) a < slotAge (bgUnit s 4) b) (freeSpares (bgUnit s 4) 0)).isSome = true
       ∧ ∀ o n, slotAge (bgUnit s 4) o * 100 ≤ slotAge (bgUnit s 4) n * 101)
    ∧ (let s := aged [(0, { from_ := 0, spare := 64, copied := false })]
       fieldBusy s (s.slot 0).field = false ∧ (s.slot 0).doubled = none)
    ∧ (let s := aged [(0, { from_ := 0, spare := 64, copied := true })]
       tblFind s.topo.rotations 0 = some { from_ := 0, spare := 64, copied := true } ∧ (s.slot 0).doubled = none) :=
  ⟨by decide +kernel, ⟨by decide +kernel, by decide +kernel, fun _ _ => Nat.mul_le_mul (Nat.le_of_eq rfl) (by decide)⟩, by decide +kernel, by decide +kernel⟩
theorem witness_AgeingAndDieLinkEvents :
    (let s := { live with topo := { live.topo with links := [(46, { D2DLink.reset with up := 2 })] } }
     s.up = true ∧ 46 < 47 ∧ 0 < 1 ∧ 1 < (s.link 46).up ∧ 0 < (s.link 46).up) := by decide

/-! ### Witnesses: rings and contexts -/

theorem witness_DoorbellAcceptedOnlyByRule :
    (∀ st ∈ [RingSt.running, .halted, .frozen],
      let s := { inCtx act with rings := [(63, ringOf st [])] }
      s.up = true ∧ barOpen s 0 = true ∧ (s.fn 0).flr = false ∧ 0 < fnCtxCount s 0 ∧ fnCtxBase s 0 + 0 = 0
      ∧ (s.ring 0 63).st = st ∧ (s.ctx 0).st = .active
      -- all four slots at once, and one too many, and a wrong epoch
      ∧ slotDist (s.ring 0 63) 0 4 ≤ slotDist (s.ring 0 63) 0 ((0 + 4) % 8)
      ∧ ¬ slotDist (s.ring 0 63) 0 5 ≤ slotDist (s.ring 0 63) 0 ((0 + 4) % 8)
      ∧ (s.ring 0 63).epoch.toNat % 4096 = 0)
    ∧ (({ inCtx { act with st := .frozen } with rings := [(63, ringOf .frozen [])] } : State).ctx 0).st = .frozen := by decide
theorem witness_DoorbellPageWritesAreUnitByUnit :
    live.up = true ∧ 62 + 1 < 64 ∧ barOpen live 0 = true ∧ (live.fn 0).flr = false ∧ 4095 < fnCtxCount live 0 ∧ fnCtxCount live 0 ≤ 4096 := by decide
theorem witness_RingOperationsFollowTheStateTable :
    ∀ st ∈ [RingSt.halted, .running, .frozen, .disabled, .flushing],
      let s := { inCtx act with rings := [(63, ringOf st [])] }
      s.up = true ∧ barOpen s 0 = true ∧ (s.fn 0).flr = false ∧ shownCtx s 0 = some 0 ∧ (s.ring 0 63).st = st := by decide

/-- `planned`, context 0 active on plot 0, with these registers. -/
def enabling (l : List (Nat × Word)) : State := { planned with ctxs := [(0, act)], regs := l }
theorem witness_EnableTakesIndicesToZero :
    (let s := { inCtx act with rings := [(0, ringOf .running [])] }
     s.up = true ∧ barOpen s 0 = true ∧ (s.fn 0).flr = false ∧ shownCtx s 0 = some 0 ∧ (s.ring 0 0).st ≠ .disabled)
    ∧ ((live.ring 0 0).st = .disabled ∧ queueEntry live (ctxPlot live 0) (ringClass live 0 0) = none)
    ∧ (∀ l ∈ [[(kWin 0 0x1000, (0x1000 : Word))], [(kWin 0 0x1000, 0x1000), (kWin 0 0x1010, 64)]],
       let s := enabling l
       barOpen s 0 = true ∧ shownCtx s 0 = some 0 ∧ (s.ring 0 0).st = .disabled ∧ (queueEntry s (ctxPlot s 0) (ringClass s 0 0)).isSome = true
       ∧ ringIndex s 0 0 < 1 ∧ (enabledRings s 0).length < 64 ∧ enabledTotal s < 65536 ∧ enabledRings s 0 = [] ∧ ringHost s 0 0 = true)
    ∧ ringSq (enabling [(kWin 0 0x1000, 0x1000)]) 0 0 % 4096 = 0 ∧ ringCq (enabling [(kWin 0 0x1000, 0x1000)]) 0 0 % 4096 = 0
    ∧ ringSq (enabling [(kWin 0 0x1000, 0x1000), (kWin 0 0x1010, 64)]) 0 0 % 4096 ≠ 0
    ∧ (match enableChecks (enabling []) 0 0 with | .inr st => st == .noObject | .inl _ => false) = true
    ∧ (match enableChecks (enabling [(kWin 0 0x1000, 0x1000)]) 0 0 with | .inr _ => false | .inl _ => true) = true := by decide +kernel
theorem witness_EventCounterAdds :
    (live.up = true ∧ 255 < 256 ∧ 65535 < 65536 ∧ (live.ctx 0).st = .free)
    ∧ (let s := inCtx act
       barOpen s 0 = true ∧ (s.fn 0).flr = false ∧ shownCtx s 0 = some 0 ∧ (s.ctx 0).st ≠ .free ∧ (s.evctr 0 255).toNat + 65535 < 2 ^ 64)
    ∧ 2 ^ 64 ≤ (({ inCtx act with evc := [(255, BitVec.ofNat 64 (2 ^ 64 - 1))] } : State).evctr 0 255).toNat + 1 := by decide
theorem witness_ContextOperationsFollowTheStateTable :
    (∀ st ∈ [CtxSt.destroying, .resetting],
      let s := inCtx { act with st := st }
      s.up = true ∧ barOpen s 0 = true ∧ (s.fn 0).flr = false ∧ shownCtx s 0 = some 0 ∧ ctxBusy (s.ctx 0) = true ∧ (s.ctx 0).st = st)
    ∧ ((planned.ctx 0).st = .free ∧ (planned.ctx 0).freezing = none ∧ createCheck planned 0 0 = none ∧ createCheck live 0 0 = some .notReady)
    ∧ createCheck { planned with regs := [(kWin 0 4, 0)] } 0 0 = some .format
    ∧ (∀ st ∈ [CtxSt.active, .frozen], ((inCtx { act with st := st }).ctx 0).st = st ∧ ((inCtx { act with st := st }).ctx 0).freezing = none)
    ∧ (let s := { inCtx { act with st := .frozen } with rings := [(63, { ringOf .frozen [] with before := .running })] }
       (s.ring 0 63).st = .frozen)
    ∧ (let s := inCtx { act with freezing := some Freeze.reset }
       (s.ctx 0).freezing = some Freeze.reset ∧ Freeze.reset.serValid = false)
    ∧ (let s := inCtx { act with st := .destroying }
       ownerFn s 0 = some 0 ∧ (s.fn 0).flr = false ∧ (aliasesElsewhere s 0).any (fun e => objNamed s e.1 e.2) = false) := by decide +kernel

/-- The storage behind object 1 of context 0: one granule of Loft. -/
def body0 : Body :=
  { ctx := 0, num := 1, size := 1, place := 0, writable := true, replica := false, stack := 255, reserved := false, isSealed := false, farOk := false,
    live := true }
def objStore : Store := { Store.reset with objs := [(1, { sid := 0, alias_ := false })], bodies := [(0, body0)] }
def dieSecs : Sections := { baseSecs with queues := some [⟨0, 0, 1, 64⟩, ⟨0, 3, 1, 64⟩], windows := some [⟨1, 0, 3, 1, 0, 2 ^ 40⟩, ⟨0, 3, 3, 1, 0, 4095⟩] }
/-- A MOVE of 64 bytes from host memory to object 1. -/
def moveIn : List Byte := dsc 0x20 [(1, 1, 1), (12, 2, 0xFFFF), (32, 8, 64), (40, 8, 2 ^ 40), (48, 8, 64), (56, 1, 1)]
/-- Everything is there for a command to run: a configuration, an active context, object 1, its ring 0 of class 3 with these commands. -/
def ready (cmds : List Cmd) : State :=
  { withCmds cmds with plan := planOf dieSecs, com := objStore, regs := [(kWin 0 0x1000, 0x1003)],
                       topo := { live.topo with diePresent := List.range 20 } }
def waitMove : Cmd := newCmd moveIn 0 0 1
theorem witness_WeightTakesEffectAtTheNextCharge :
    live.up = true ∧ Shows live 0 0 ∧ (0x10000 : Word).toNat % 65536 = 0 ∧ (0xFFFF : Word).toNat % 65536 ≠ 0 ∧ tblSorted live.regs = true :=
  ⟨live_up, live_shows, by decide, by decide, by decide⟩
theorem others_hold_none : ∀ g < 256, g ≠ 0 → fnCtxCount (seenFrom live (.host 0)) g = 0 ∧ fnLatchCount (seenFrom live (.host 0)) g = 0 := by decide +kernel
theorem witness_FunctionRangeWritesAreCheckedWhole :
    live.up = true ∧ Reaches live (.host 0) ∧ 16 + 4080 ≤ 4096 ∧ ¬ 17 + 4080 ≤ 4096
    ∧ (∀ g < 256, g ≠ 0 → ¬(∃ x, 16 ≤ x ∧ x < 16 + 4080 ∧ fnCtxBase (seenFrom live (.host 0)) g ≤ x
        ∧ x < fnCtxBase (seenFrom live (.host 0)) g + fnCtxCount (seenFrom live (.host 0)) g))
    ∧ (∀ e ∈ live.ctxs, e.2.st = .free) :=
  ⟨live_up, reaches_of (by decide) (by decide), by decide, by decide,
    fun g h1 h2 ⟨x, _, _, h3, h4⟩ => by rw [(others_hold_none g h1 h2).1] at h4; omega, by decide⟩
/-- Context 0 runs a MOVE on instance 0, and context 1, with less vt, waits for it. -/
def contended : State :=
  let s := ready [cmdIn .running moveIn]
  { s with ctxs := [(0, { act with vt := [(3, 1000)] }), (1, act)], rings := [(0, ringOf .running [cmdIn .running moveIn]), (64, ringOf .running [waitMove])],
           regs := [(kWin 0 0x1000, 0x1003), (kWin 1 0x1000, 0x1003)], time := 500000, sched := { s.sched with eligible := [64] } }
theorem witness_SchedulerAndEnergyEvents :
    (cmdsWhere live (fun x => x.phase == .running) = [])
    ∧ (let s := contended
       s.up = true ∧ cmdsWhere s (fun x => x.phase == .running) = [(0, 0, cmdIn .running moveIn)] ∧ preemptable s 0 (cmdIn .running moveIn) = true)
    ∧ (withRegs [(0xB000, 0)]).regField (kBar0 0xB000) 0 12 = 0
    ∧ (live.ctxs.map (fun e => e.2.model)).sum + live.sched.idleModel = 0
    ∧ (let s := inCtx { act with model := 5 }
       (s.ctxs.map (fun e => e.2.model)).sum + s.sched.idleModel ≠ 0) := by decide +kernel

/-! ### Witnesses: fetch, dispatch and commit -/

/-- Ring 0 of context 0 lies in host memory and holds this descriptor; one slot waits. -/
def fetching (d : List Byte) : State :=
  { ready [] with rings := [(0, { ringOf .running [] with tail := 1 })], com := { objStore with host := (hostBytes d).host } }
theorem witness_FetchTakesTheItemAtHead :
    ((live.ctx 0).st ≠ .active ∧ ((ready []).ring 0 0).head = ((ready []).ring 0 0).tail)
    ∧ (∀ d ∈ [moveIn, dsc 0x80 [(1, 1, 1)], dsc 0x7F [(1, 1, 1)], dsc 0x20 [(1, 1, 2)]],
      let s := fetching d
      s.up = true ∧ (s.ctx 0).st = .active ∧ (s.ring 0 0).st = .running ∧ ctxQuiesced s 0 = false ∧ (s.ring 0 0).head ≠ (s.ring 0 0).tail)
    ∧ (let s := { fetching moveIn with regs := [(kWin 0 0x1000, 0x1003), (kWin 0 0x1010, 0x10000)] }
       (match slotsRead 0 0 (headSlots s 0 0 1) s with | .inr a => a == 0x10000 | .inl _ => false) = true)
    ∧ (match slotsRead 0 0 (headSlots (fetching (dsc 0x20 [(1, 1, 2)])) 0 0 1) (fetching (dsc 0x20 [(1, 1, 2)])) with
       | .inl t => !itemComplete t 0 0 | .inr _ => false) = true
    ∧ (∀ e ∈ [(moveIn, none), (dsc 0x7F [(1, 1, 1)], some (Status.format, 0))],
       (match slotsRead 0 0 (headSlots (fetching e.1) 0 0 1) (fetching e.1) with
        | .inl t => itemComplete t 0 0 && (match slotsRead 0 0 (headSlots t 0 0 (itemSlots t 0 0)) t with
            | .inl u => let k := itemSlots u 0 0
                        let r := u.ring 0 0
                        let x := newCmd (itemBytes u 0 0 k) r.serial r.head k
                        let v := u.setRing 0 0 { r with head := (r.head + k) % (2 * r.depth), serial := r.serial + 1, cmds := r.cmds ++ [x] }
                        decide (dOpcode x.desc < 0x80) && fetchChecks (writePending v 0 0 x) 0 0 x.desc == e.2
            | .inr _ => false)
        | .inr _ => false) = true)
    ∧ (match slotsRead 0 0 (headSlots (fetching (dsc 0x80 [(1, 1, 1)])) 0 0 1) (fetching (dsc 0x80 [(1, 1, 1)])) with
       | .inl t => itemComplete t 0 0 && decide (0x80 ≤ dOpcode (itemBytes t 0 0 1)) | .inr _ => false) = true := by decide +kernel
theorem witness_DispatchFollowsTheConditionsOfTheRing :
    (dispatchPoint (live.ring 0 0) = none ∧ ringActs live 0 0 = false)
    ∧ (let s := ready [{ cmdIn .running (dsc 0x40 [(1, 1, 1)]) with serial := 0 }, { waitMove with serial := 1 }]
       dispatchPoint (s.ring 0 0) = some { waitMove with serial := 1 }
       ∧ (earlier (s.ring 0 0) { waitMove with serial := 1 }).any (fun y => y.open_ && isFence (dOpcode y.desc)) = true)
    ∧ (let s := ready [{ waitMove with cancelMark := true }]
       dispatchPoint (s.ring 0 0) = some { waitMove with cancelMark := true } ∧ ringActs s 0 0 = true
       ∧ (earlier (s.ring 0 0) waitMove).any (fun y => y.open_ && isFence (dOpcode y.desc)) = false)
    ∧ queueServed { ready [waitMove] with regs := [(kWin 0 0x1000, 0x1004)] } 0 0 = false
    ∧ (let s := { ready [waitMove] with plan := { (ready []).plan with apply := some { slot := 1, plots := [0], waits := [], began := 0 } } }
       queueServed s 0 0 = true ∧ plotStopped s 0 = true)
    ∧ (let x := newCmd (dsc 0x40 [(1, 1, 1)]) 0 0 1
       let s := ready [x]
       s.Awake ∧ dispatchPoint (s.ring 0 0) = some x ∧ queueServed s 0 0 = true ∧ plotStopped s 0 = false ∧ cmdReady s 0 0 x = true
       ∧ isFence (dOpcode x.desc) = true ∧ ringActs s 0 0 = true) := by unfold State.Awake; decide +kernel
theorem witness_DispatchFollowsTheConditionsOfTheRing_attempts :
    (let s := ready [waitMove]
     let u := noteEligible s
     s.up = true ∧ s.Awake ∧ dispatchPoint (s.ring 0 0) = some waitMove ∧ ringActs s 0 0 = true ∧ waitMove.phase = .waiting ∧ dOpcode waitMove.desc < 0x80
     ∧ (earlier (s.ring 0 0) waitMove).any (fun y => y.open_ && isFence (dOpcode y.desc)) = false ∧ waitMove.cancelMark = false
     ∧ queueServed s 0 0 = true ∧ plotStopped s 0 = false ∧ cmdReady s 0 0 waitMove = true ∧ isFence (dOpcode waitMove.desc) = false
     ∧ winner u 0x20 1 ≠ some (0, 0) ∧ winner u 0x20 0 = some (0, 0) ∧ mustWait u 0 0 waitMove 0 = false
     ∧ firstFail [featureCheck u waitMove.desc (paramOf u 0 waitMove),
         if waitMove.param.isNone then dispatchChecks u 0 waitMove.desc (paramOf u 0 waitMove) else none] = none
     ∧ (readGrans u 0 (accessesNow u 0 waitMove)).filter (onRetiredPort u) = [] ∧ firstBreach u 0 (accessesNow u 0 waitMove) = none
     ∧ (match allocWrites 0 (accessesNow u 0 waitMove) u [] with
        | (.done v, got) => got == [0] && (match takeKv v (refOf 0 0 waitMove) waitMove.desc (paramOf u 0 waitMove) with | .done _ _ => true | _ => false)
        | _ => false) = true)
    ∧ (let d := dsc 0x20 [(1, 1, 1), (12, 2, 0xFFFF), (32, 8, 64), (40, 8, 2 ^ 40 + 2 ^ 21 - 63), (48, 8, 64), (56, 1, 1)]
       let s := ready [newCmd d 0 0 1]
       let u := noteEligible s
       winner u 0x20 0 = some (0, 0) ∧ mustWait u 0 0 (newCmd d 0 0 1) 0 = false
       ∧ (firstFail [featureCheck u d (paramOf u 0 (newCmd d 0 0 1)), dispatchChecks u 0 d (paramOf u 0 (newCmd d 0 0 1))]).isSome = true) := by
  unfold State.Awake; decide +kernel
/-- `ready`, its object holding a poisoned unit, and the attempt's snapshot of it. -/
def poisoned (p : Phase) (d param : List Byte) : State :=
  { ready [{ cmdIn p d with att := some { att0 with snap := { objStore with poison := [0, 1] } }, param := some param }] with com := { objStore with poison := [0, 1] } }
/-- A parameter block of an UPDATE: provisional, with the decision and the step record in object 1, the counter 255 at value 1. -/
def provParam : List Byte :=
  (List.replicate 32 0#8) ++ bytesLE (2 ^ 40) 8 ++ bytesLE (2 ^ 40 + 64) 8 ++ List.replicate 9 0#8 ++ [2#8, 255#8] ++ List.replicate 13 0#8 ++ bytesLE 1 8
    ++ List.replicate 48 0#8
/-- A provisional UPDATE that waits for its decision, with these bytes as the decision record and this count. -/
def deciding (bs : List Byte) (k : Nat) : State :=
  let o := { status := .ok, detail := 0, nonfinite := false, effs := [] }
  let x := { cmdIn .deciding (dsc 0x18 []) with param := some provParam, out := some o, att := some { att0 with snap := objStore } }
  { ready [x] with com := { objStore with mem := (hostBytes bs).host }, evc := [(255, BitVec.ofNat 64 k)], regs := [(kWin 0 0x1000, 0x1003), (kWin 0 0x100C, 5)] }
theorem witness_CommitAndItsExceptions :
    (let s := ready [cmdIn .running moveIn]
     s.up = true ∧ s.cmd 0 0 0 = some (cmdIn .running moveIn) ∧ (cmdIn .running moveIn).phase ≠ .computed ∧ isFence (dOpcode moveIn) = false
     ∧ (injects s 0 = false ∨ injectPpm s 0 = 0 ∨ 3 ≤ (cmdIn .running moveIn).injected))
    ∧ (∀ st ∈ [Status.ok, .format],
       let x := { cmdIn .computed moveIn with out := some { status := st, detail := 0, nonfinite := false, effs := [.write 0 [1]] } }
       let s := ready [x]
       s.cmd 0 0 0 = some x ∧ slotTaken s 0 [.write 0 [1]] = false ∧ (applyEffs s (refOf 0 0 x) [.write 0 [1]]).isSome = true)
    ∧ (let s := { ready [cmdIn .running moveIn] with regs := [(kBar0 0x22000, 1), (kBar0 0x22004, 50000)] }
       injects s 0 = true ∧ injectPpm s 0 ≠ 0 ∧ (cmdIn .running moveIn).injected < 3
       ∧ (((killCmd s 0 0 (cmdIn .running moveIn) .preemption).bump (kBar0 0x22008) 1).cmd 0 0 0).isSome = true)
    ∧ ringWaitTo (ready []) 0 0 = 0 ∧ ringWaitTo (deciding [0] 1) 0 0 = 5
    ∧ (let s := deciding [0] 0
       (s.evctr 0 (upDecCtr provParam)).toNat < upDecVal provParam)
    ∧ (∀ bs ∈ [[0#8], [2#8], [3#8], bytesLE (0x3F800000 * 2 ^ 32) 8],
       let s := deciding bs 1
       upDecVal provParam ≤ (s.evctr 0 (upDecCtr provParam)).toNat ∧ objectsPresent s.com 0 [rd (upDec provParam) 64 (inParam 32)] = none
       ∧ rangesWithin s.com 0 [rd (upDec provParam) 64 (inParam 32)] = none ∧ firstBreach s 0 [rd (upDec provParam) 64 (inParam 32)] = none
       ∧ accessPoison s.com 0 (rd (upDec provParam) 64 0) = [])
    ∧ readDecision (devByte (deciding [3] 1).com 0) (upDec provParam) = none
    ∧ (readDecision (devByte (deciding [2] 1).com 0) (upDec provParam)).any (fun e => e.1 != 0) = true
    ∧ (readDecision (devByte (deciding [0] 1).com 0) (upDec provParam)).any (fun e =>
        e.1 == 0 && e.2 != assumedVals (devByte objStore 0) (upStepIn provParam)) = true
    ∧ (readDecision (devByte (deciding (bytesLE (0x3F800000 * 2 ^ 32) 8) 1).com 0) (upDec provParam)).any (fun e =>
        e.1 == 0 && e.2 == assumedVals (devByte objStore 0) (upStepIn provParam)) = true := by decide +kernel

/-! ### Witnesses: engines, moves and fences -/

theorem witness_EngineRowsStageTheirOutcomeAndCharge :
    (∀ d ∈ [dsc 1 [], dsc 2 [], dsc 3 [], dsc 4 [], dsc 5 [], dsc 0x10 [], dsc 0x11 [], dsc 0x12 [], dsc 0x28 [], dsc 0x28 [(66, 1, 1)] ++ [0#8, 0#8, 1#8],
         dsc 0x2C [(36, 1, 0)], dsc 0x2C [(36, 1, 1)], dsc 0x2C [(36, 1, 2)], dsc 0x2C [(36, 1, 3)], dsc 0x2C [(36, 1, 4)]],
      let s := ready [cmdIn .running d]
      s.up = true ∧ s.cmd 0 0 0 = some (cmdIn .running d) ∧ attemptPoison s 0 (cmdIn .running d) att0 = []
      ∧ (s.ctx 0).st ≠ .free ∧ (opClass (dOpcode d)).isSome = true
      ∧ ([isOp opTile, isOp opAttnFwd, isOp opAttnBwd, isOp opMerge, isOp opElem, isOp opRoute, isOp opGather, isOp opScatter, isSample false, isSample true,
          isSeq 0, isSeq 1, isSeq 2, isSeq 3, isSeq 4].filter (fun f => f d)).length = 1)
    ∧ (isSample true (dsc 0x28 [] ++ [0, 0, 1]) = true ∧ isOp opTile (dsc 2 []) = false)
    ∧ (let d := dsc 4 [(32, 8, 2 ^ 40), (48, 4, 1), (52, 2, 1)]
       let s := poisoned .running d []
       s.up = true ∧ (s.cmd 0 0 0).any (fun x => x.phase == .running && x.att.any (fun a => attemptPoison s 0 x a != [])) = true) := by decide +kernel
theorem witness_UpdateRowsAndTheirDecision :
    (∀ r ∈ [ruleMomentum, ruleAdaptive, ruleSignmom, rulePrep, ruleIter, ruleApply, ruleStats, ruleRoot, ruleKron, ruleNorm, ruleDecide],
      let x := cmdIn .running (dsc 0x18 [(44, 1, r)])
      let s := ready [x]
      s.up = true ∧ s.cmd 0 0 0 = some x ∧ isRule r x.desc = true ∧ attemptPoison s 0 x att0 = [] ∧ ¬(isElemRule r = true ∧ upProvisional (x.param.getD []) = true))
    ∧ isRule ruleMomentum (dsc 0x18 [(44, 1, 1)]) = false
    ∧ (let x := { cmdIn .running (dsc 0x18 []) with param := some provParam }
       let s := ready [x]
       isElemRule ruleMomentum = true ∧ upProvisional (x.param.getD []) = true ∧ attemptPoison s 0 x att0 = [])
    ∧ (let s := poisoned .running (dsc 0x18 []) provParam
       (s.cmd 0 0 0).any (fun x => x.phase == .running && isRule ruleMomentum x.desc && x.att.any (fun a => attemptPoison s 0 x a != [])) = true) := by
  decide +kernel
theorem witness_MoveReshardReduceAttempts :
    (let x := cmdIn .running moveIn
     let s := ready [x]
     s.up = true ∧ s.cmd 0 0 0 = some x ∧ isOp opMove x.desc = true ∧ attemptPoison s 0 x att0 = [] ∧ faultPage x.desc ⟨true, none⟩ = none
     ∧ faultPage x.desc ⟨true, some 0⟩ = some 0 ∧ (moveFarPackets s (jobOf s 0 x att0) (refOf 0 0 x) x.kills).2 = []
     ∧ mvSrcHost x.desc = true ∧ pageIn (mvSrc x.desc) (mvBytes x.desc) 0 = true ∧ tblGet 0 x.hostFaults 0 + 1 < 3)
    ∧ 3 ≤ tblGet 0 { cmdIn .running moveIn with hostFaults := [(0, 2)] }.hostFaults 0 + 1
    ∧ (isOp opReshard moveIn = false ∧ isOp opReduce moveIn = false ∧ isOp opMove (dsc 0x38 []) = false)
    ∧ (let x := cmdIn .running (dsc 0x38 [])
       let s := ready [x]
       isOp opReshard x.desc = true ∧ attemptPoison s 0 x att0 = [] ∧ reshardFarPackets s att0.snap 0 (x.param.getD []) (refOf 0 0 x) x.kills = [])
    ∧ (let x := cmdIn .running (dsc 0x30 [])
       let s := ready [x]
       let t := { s with plan := planOf { dieSecs with trees := some [⟨0, 0xFF, 1, 0⟩] } }
       isOp opReduce x.desc = true ∧ attemptPoison s 0 x att0 = [] ∧ treeOf s (rdTree x.desc) = none ∧ (treeOf t (rdTree x.desc)).isSome = true
       ∧ t.fab.colls.find? (fun k => k.isOf (rdTree x.desc) (rdSeq x.desc) (ctxShareGroup t 0) && k.has (refOf 0 0 x)) = none
       ∧ (let k := { newColl t 0 (rdSeq x.desc) (ctxShareGroup t 0) 0 1 0 0 0 with terms := [{ ref := refOf 0 0 x, kills := 0, words := [0] }], ended := true }
          ({ t with fab := { t.fab with colls := [k] } } : State).fab.colls.find? (fun k => k.isOf (rdTree x.desc) (rdSeq x.desc) (ctxShareGroup t 0) && k.has (refOf 0 0 x))
            = some k)) := by decide +kernel
/-- A fence in progress, latch 0 in this state, waited for by these commands. -/
def fencing (p : Phase) (d : List Byte) (st : LatchSt) (ws : List CmdRef) : State :=
  { withCmds [cmdIn p d] with latches := [(0, { Latch.reset with st := st, waiters := ws })] }
theorem witness_FencesCompleteByTheirRules :
    (∀ d ∈ [dsc 0x40 [], dsc 0x40 [(40, 8, 1)], dsc 0x41 [], dsc 0x48 [], dsc 0x48 [(34, 1, 1)], dsc 0x48 [(34, 1, 2)]],
      let s := withCmds [cmdIn .running d]
      s.up = true ∧ s.cmd 0 0 0 = some (cmdIn .running d) ∧ isFence (dOpcode d) = true)
    ∧ (waitValue (dsc 0x40 []) ≤ (live.evctr 0 0).toNat ∧ (live.evctr 0 0).toNat < waitValue (dsc 0x40 [(40, 8, 1)]))
    ∧ (latchOp (dsc 0x48 []) = 0 ∧ latchOp (dsc 0x48 [(34, 1, 1)]) = 1 ∧ latchOp (dsc 0x48 [(34, 1, 2)]) = 2)
    ∧ (∀ st ∈ [LatchSt.free, .broken, .held 0, .held 1], ((fencing .running (dsc 0x48 []) st []).latch 0).st = st
        ∧ ((fencing .running (dsc 0x48 []) st []).latch 0).waiters = [])
    ∧ (let s := { fencing .running (dsc 0x48 [(34, 1, 2)]) (.held 0) [{ ctx := 1, ring := 0, serial := 0 }] with
                  rings := [(0, ringOf .running [cmdIn .running (dsc 0x48 [(34, 1, 2)])]), (64, ringOf .running [cmdIn .latchWait (dsc 0x48 [])])] }
       (s.latch 0).st = .held 0 ∧ (s.latch 0).waiters = [{ ctx := 1, ring := 0, serial := 0 }] ∧ (s.cmd 1 0 0).isSome = true ∧ (s.cmd 0 0 0).isSome = true)
    ∧ (fenceWaits (cmdIn .running (dsc 0x40 [])) = true ∧ fenceTimeout live 0 0 (dsc 0x40 []) = none)
    ∧ (fenceWaits (cmdIn .running (dsc 0x40 [(48, 4, 1)])) = true ∧ (fenceTimeout live 0 0 (dsc 0x40 [(48, 4, 1)])).isSome = true)
    ∧ (fenceWaits (cmdIn .latchWait (dsc 0x48 [(36, 4, 1)])) = true ∧ (fenceTimeout live 0 0 (dsc 0x48 [(36, 4, 1)])).isSome = true) := by decide +kernel

/-! ### Witnesses: objects -/

/-- `ready` with these window registers of context 0. -/
def objReg (l : List (Nat × Word)) : State := { ready [] with regs := l }
theorem witness_ObjectOperationsCheckThenAct :
    (let s := inCtx { act with objOp := some { op := 1, a := 0, b := 0 } }
     s.up = true ∧ barOpen s 0 = true ∧ (s.fn 0).flr = false ∧ shownCtx s 0 = some 0 ∧ (s.ctx 0).objOp.isSome = true)
    ∧ (ctxLives live 0 = false ∧ (live.ctx 0).objOp = none)
    ∧ (let s := objReg [(kWin 0 0x3000, 1), (kWin 0 0x3008, 1)]
       barOpen s 0 = true ∧ shownCtx s 0 = some 0 ∧ (s.ctx 0).objOp = none ∧ ctxLives s 0 = true ∧ objExists s.com 0 (objSel s 0) = true ∧ objSize s 0 = 1
       ∧ objNamed s 0 1 = false ∧ objSteers s 0 1 = false ∧ hasGrans s 0 = false
       ∧ (match ownBody s 0 1 with | .inl (_, b) => b.size == 1 && !b.reserved | .inr _ => false) = true)
    ∧ (∀ e ∈ [((0 : Nat), (0 : Nat)), (0, 0x80001), (0x10, 1), (0x1F0, 1), (0x1F0, 0x80000)],
       let s := objReg [(kWin 0 0x3000, 2), (kWin 0 0x3004, BitVec.ofNat 32 e.1), (kWin 0 0x3008, BitVec.ofNat 32 e.2)]
       barOpen s 0 = true ∧ shownCtx s 0 = some 0 ∧ ctxLives s 0 = true ∧ objExists s.com 0 (objSel s 0) = false ∧ objectCount s < 4194304
       ∧ reservesAtAdmission s 0 = false ∧ (objSize s 0 < 1 ∨ 524288 < objSize s 0 ∨ stackDefined (objStack s 0) = true))
    ∧ stackDefined (objStack (objReg [(kWin 0 0x3004, 0x100)]) 0) = false
    ∧ (let s := { ready [cmdIn .running moveIn] with regs := [(kWin 0 0x3000, 1), (kWin 0 0x3008, 1)] }
       objNamed s 0 1 = true ∧ objExists s.com 0 1 = true)
    ∧ (let s := { objReg [(kWin 0 0x3000, 1), (kWin 0 0x3004, 2)] with grans := [(0, Gran.fresh live .loft 0 1)] }
       hasGrans s 0 = true ∧ ¬(objPlace s 0 = 2 ↔ 0 = 2))
    ∧ (match ownBody live 0 1 with | .inr st => st == .noObject | .inl _ => false) = true
    ∧ (match moveRange live 0 with | .inr st => st == .noObject | .inl _ => false) = true
    ∧ (match moveRange (objReg [(kWin 0 0x3000, 1), (kWin 0 0x3018, 1)]) 0 with | .inl sid => sid == 0 | .inr _ => false) = true
    ∧ (let s := objReg [(kWin 0 0x3000, 2), (kWin 0 0x3010, 1)]
       objExists s.com 0 2 = false ∧ ctxOwnedBy s 0 (objMapSrc s 0) = true ∧ ctxLives s (objMapSrc s 0) = true
       ∧ (objBody s.com (objMapSrc s 0) (objMapObj s 0)).any (fun e => e.1 == 0 && !e.2.2) = true ∧ objectCount s < 4194304)
    ∧ (let s := objReg [(kWin 0 0x3000, 2), (kWin 0 0x300C, 1)]
       ctxLives s (objMapSrc s 0) = false) := by decide +kernel

def gran0 : Gran := Gran.fresh live .silo 0 32
/-- `ready` with one granule of object 1. -/
def withGran (g : Gran) : State := { ready [] with grans := [(granKey 0 0, g)] }
theorem witness_MigrationAndRepairMoveGranules :
    (live.up = true ∧ tblFind live.grans (granKey 0 0) = none)
    ∧ (∀ g ∈ [gran0, { gran0 with mig := some { dst := 1, sectors := 0, cause := .heat, tries := 0 } }, { gran0 with repairing := true }],
       tblFind (withGran g).grans (granKey 0 0) = some g)
    ∧ (gran0.mig = none ∧ gran0.repairing = false)
    ∧ (({ live with replPoison := [0] } : State).replPoison.contains 0 = true ∧ live.replPoison.contains 0 = false)
    ∧ ((withRegs [(0xC000, 0)]).regField 0xC000 0 8 ≤ loftFree (withRegs [(0xC000, 0)]) 0 ∧ loftFree live 0 < live.regField 0xC000 0 8)
    ∧ ((withRegs [(0xC000, 0)]).regField 0xC000 24 1 = 0)
    ∧ ((0x0100 : Word).toNat / 2 ^ 8 % 256 = 1 ∧ (0x0100 : Word).toNat % 256 < 1 ∧ (0x0101 : Word).toNat / 2 ^ 8 % 256 ≤ (0x0101 : Word).toNat % 256)
    ∧ ((0 : Word).toNat % 2048 = 0 ∧ 1024 < (1025 : Word).toNat % 2048 ∧ (1024 : Word).toNat % 2048 ≠ 0 ∧ (1024 : Word).toNat % 2048 ≤ 1024 ∧ 16383 < 16384) := by
  decide +kernel

/-! ### Witnesses: slots, steering and the seed -/

/-- `ready`, slot 0 in this state and owned by this context. -/
def withSlot (st : SeqSt) (c : Nat) : State := { ready [] with com := { objStore with slots := [(0, { SeqSlot.reset with st := st, owner := c })] } }
/-- `ready`, steering set 0 installed by this context; its storage is that of object 1. -/
def withSet (c : Nat) : State := { ready [] with com := { objStore with sets := [(0, { ctx := c, eg := 0, sid := 0, off := 0 })] } }
/-- Context 0 with an operation of its steering registers in progress that waits for the command of ring 0. -/
def steering (p : Phase) : State := { ready [cmdIn p moveIn] with ctxs := [(0, { act with steerOp := some { op := 2, a := 0, b := 0 }, steerWaits := [⟨0, 0, 0⟩] })] }
theorem witness_SlotSteeringAndSeedOperations :
    (let s := inCtx { act with cancel := some 0, steerOp := some { op := 1, a := 0, b := 0 }, seedLo := some 7 }
     s.up = true ∧ barOpen s 0 = true ∧ (s.fn 0).flr = false ∧ shownCtx s 0 = some 0 ∧ (s.ctx 0).cancel = some 0 ∧ (s.ctx 0).steerOp.isSome = true
     ∧ (s.ctx 0).seedLo = some 7 ∧ 131071 < 2 ^ 17)
    ∧ ((withSlot .free 0).seq 0).st = .free
    ∧ (((withSlot .open_ 1).seq 0).owner ≠ 0 ∧ ((withSlot .cancelled 0).seq 0).st = .cancelled)
    ∧ (let s := withSlot .open_ 0
       barOpen s 0 = true ∧ shownCtx s 0 = some 0 ∧ (s.ctx 0).cancel = none ∧ (s.seq 0).st = .open_ ∧ (s.seq 0).owner = 0 ∧ openCmds s 0 = [])
    ∧ (match installCheck (withSet 0) 0 with | .inr st => st == .notReady | .inl _ => false) = true
    ∧ (tblFind (ready []).com.sets (steerSel (ready []) 0) = none ∧ ((ready []).ctx 0).steerOp = none ∧ ((ready []).ctx 0).seedLo = none)
    ∧ ((tblFind (withSet 1).com.sets 0).any (fun x => x.ctx != 0) = true ∧ (tblFind (withSet 0).com.sets 0).any (fun x => x.ctx == 0 && !setNamed (withSet 0) 0) = true)
    ∧ (live.relQueue = [] ∧ ({ live with relQueue := [{ stooks := [], sheaves := [0] }] } : State).relQueue = { stooks := [], sheaves := [0] } :: [])
    ∧ (live.groupFree.contains 0 = false ∧ ({ live with groupFree := [0] } : State).groupFree.contains 0 = true)
    ∧ (isFinal (steering .running) ⟨0, 0, 0⟩ = false ∧ isFinal (steering .done) ⟨0, 0, 0⟩ = true ∧ ((steering .done).ctx 0).steerOp.isSome = true) := by
  decide +kernel
/-! ### Witnesses: the Caravan ports -/

/-- `planned` with port 0 as given and enabled. -/
def onPort (x : Port) : State :=
  { live with plan := planOf { baseSecs with enable := some [⟨1, 0, 0⟩], group := some [⟨5, 8, 9⟩] },
              fab := { live.fab with ports := [(0, x)] } }
def portOf (st : PortSt) : Port := { Port.reset with st := st }
theorem witness_PortStatesFollowTheStateTable :
    (∀ st ∈ [PortSt.off, .training, .ident, .up, .active, .down, .retrain],
      let s := onPort (portOf st)
      s.up = true ∧ 35 < 36 ∧ (s.port 0).st = st ∧ bar0Open s (.host 0) = true ∧ (s.fn 0).flr = false
      ∧ (∀ v : Nat, v ∈ [0, 1] → ((seenFrom s (.host 0)).setReg (kPort 0 4) (BitVec.ofNat 32 v)).port 0 = portOf st))
    ∧ (encBit (withRegs [(0x2000C, 0)]) 0 = false ∧ live.pins.crvRef = true ∧ ({ live with pins := { live.pins with crvRef := false } } : State).pins.crvRef = false)
    ∧ (Port.reset.agree = none ∧ inForce live = none)
    ∧ (let s := onPort { portOf .up with peerGroup := 9, peerNode := some 6, peerReady := true }
       (inForce s).isSome = true ∧ portEnabled s 0 = true ∧ (s.port 0).peerGroup = groupId s ∧ (s.port 0).peerNode ≠ none ∧ (s.port 0).peerReady = true)
    ∧ ((portOf .up).peerGroup ≠ groupId (onPort (portOf .up)))
    ∧ (∀ q < 36, (({ live with fab := { live.fab with ports := (List.range 36).map (fun q => (q, portOf .off)) } } : State).port q).st = .off) := by decide +kernel
/-- An active port whose spare lane is calibrated and whose peer ranks above. -/
def turning : Port := { portOf .active with peerNode := some 6, peerPort := 1, spareCal := true }
def someKeys : LinkKeys := { ms := [], lower := true, epochTx := 0, epochRx := 0, phaseTx := false, phaseRx := false, frames := 0 }
theorem witness_LanesAndKeysOfAPort :
    (let s := onPort turning
     let x := turning
     s.up = true ∧ s.port 0 = x ∧ x.st = .active ∧ lowerRank s 0 x.peerRank x.peerPort = true ∧ s.regField 0x20014 0 16 ≠ 0 ∧ x.spare.isSome = true ∧ x.spareCal = true
     ∧ x.req = none ∧ x.swap = none)
    ∧ (portOf .up).st ≠ .active
    ∧ (({ turning with swap := some (7, 9) } : Port).swap = some (7, 9) ∧ turning.spare = some 8)
    ∧ (({ turning with spare := none } : Port).spare = none ∧ ({ turning with retired := [8] } : Port).retired.contains 8 = true ∧ turning.retired.contains 8 = false)
    ∧ (turning.spare = some 8 ∧ (8 : Nat) ≠ 7 ∧ turning.laneMap.idxOf? 7 = some 7)
    ∧ (let x := { turning with spare := none, retired := [0, 1, 2, 3, 4], laneMap := [5, 6, 7, 8, 0, 1, 2, 3] }
       x.spare = none ∧ x.retired.contains 5 = false ∧ x.laneMap.idxOf? 5 = some 0 ∧ (workingLanes { x with retired := setIns x.retired 5 }).length < 4)
    ∧ (turning.keys = none ∧ someKeys.epochTx ≠ 0xFFFFFFFF ∧ ({ someKeys with epochTx := 0xFFFFFFFF } : LinkKeys).epochTx = 0xFFFFFFFF)
    ∧ (let x := { turning with tx := [{ vl := 2, data := [], poison := false }], sent := [0, 0, 4096] }
       x.tx.any (fun f => f.vl == 2) = true ∧ creditsLeft x 2 = 0)
    ∧ (3 ≤ 3 ∧ turning.tx.any (fun f => f.vl == 2) = false) := by decide +kernel
theorem witness_FramesKeepTheSequence :
    (live.up = true ∧ carriesFrames (portOf .down) = false ∧ carriesFrames turning = true ∧ (onPort turning).port 0 = turning)
    ∧ (¬(turning.st = .active ∧ 8 ≤ (replayEnds turning).replays) ∧ 8 ≤ ({ turning with replays := 8 } : Port).replays)
    ∧ ([] : List Byte).length ≠ 2560 := by decide +kernel
/-- The CRC's state after `n` times 16 zero bytes, computed at every step. -/
def crcZeros : Nat → Nat → Nat
  | 0, c => c
  | n + 1, c => match (zeros 16).foldl crcByte c with
    | 0 => crcZeros n 0
    | m + 1 => crcZeros n (m + 1)
theorem crcZeros_eq (n c : Nat) : crcZeros n c = (List.replicate n (zeros 16)).flatten.foldl crcByte c := by
  induction n generalizing c with
  | zero => rfl
  | succ n ih =>
    rw [List.replicate_succ, List.flatten_cons, List.foldl_append, ← ih]
    show (match (zeros 16).foldl crcByte c with | 0 => crcZeros n 0 | m + 1 => crcZeros n (m + 1)) = _
    split <;> simp_all
theorem crc32c_zeros {l : List Byte} {c v : Nat} (n : Nat) (h : l.foldl crcByte 0xFFFFFFFF = c) (hv : crcZeros n c = v) :
    crc32c (l ++ (List.replicate n (zeros 16)).flatten) = v ^^^ 0xFFFFFFFF := by
  unfold crc32c
  rw [List.foldl_append, h, ← crcZeros_eq, hv]
theorem crcGood_of {b l : List Byte} {v : Nat} (h : fld b 60 4 = v) (hl : b.take 60 ++ zeros 4 ++ b.drop 64 = l) (hv : crc32c l = v) : crcGood b = true := by
  unfold crcGood
  rw [hl, hv, h]
  exact beq_self_eq_true v
/-- A frame of no flits: 60 bytes before the CRC, the CRC, zeros. -/
def quiet (a : List Byte) (v : Nat) : List Byte := (a ++ bytesLE v 4) ++ zeros 2496
theorem quiet_rest (a : List Byte) (v : Nat) (h : (a ++ bytesLE v 4).length = 64) : (quiet a v).drop 64 = zeros 2496 := by
  unfold quiet
  rw [← h, List.drop_left]
theorem zeros_blocks (m n : Nat) : zeros m ++ (List.replicate n (zeros 16)).flatten = zeros (m + n * 16) := by
  unfold zeros
  rw [List.flatten_replicate_replicate, List.replicate_append_replicate]
def frameA : List Byte := quiet (zeros 60) 0xB20FF57E
/-- The same frame with another tag. -/
def frameB : List Byte := quiet (zeros 44 ++ [1#8] ++ zeros 15) 0x18ADFE51
theorem frameA_good : crcGood frameA = true := by
  refine crcGood_of (l := [] ++ (List.replicate 160 (zeros 16)).flatten) (v := 0xB20FF57E) (by decide +kernel) ?_ ?_
  · rw [show frameA.take 60 = zeros 60 by decide +kernel, show frameA.drop 64 = zeros 2496 from quiet_rest _ _ (by decide)]
    rw [List.nil_append, ← List.nil_append (List.flatten _), show ([] : List Byte) = zeros 0 from rfl, zeros_blocks]
    unfold zeros
    rw [List.replicate_append_replicate, List.replicate_append_replicate]
  · rw [crc32c_zeros 160 (l := []) (c := 0xFFFFFFFF) List.foldl_nil (show crcZeros 160 0xFFFFFFFF = 0x4DF00A81 by decide +kernel)]
    decide
theorem frameB_good : crcGood frameB = true := by
  refine crcGood_of (l := (zeros 44 ++ [1#8] ++ zeros 3) ++ (List.replicate 157 (zeros 16)).flatten) (v := 0x18ADFE51) (by decide +kernel) ?_ ?_
  · rw [show frameB.take 60 = zeros 44 ++ [1#8] ++ zeros 15 by decide +kernel, show frameB.drop 64 = zeros 2496 from quiet_rest _ _ (by decide)]
    rw [List.append_assoc _ (zeros 3), zeros_blocks, List.append_assoc _ (zeros 15), List.append_assoc _ (zeros 15 ++ zeros 4)]
    unfold zeros
    rw [List.replicate_append_replicate, List.replicate_append_replicate, List.append_assoc]
  · rw [crc32c_zeros 157 (show (zeros 44 ++ [1#8] ++ zeros 3).foldl crcByte 0xFFFFFFFF = 0xA366FFE by decide +kernel)
      (show crcZeros 157 0xA366FFE = 0xE75201AE by decide +kernel)]
    decide
theorem witness_FramesKeepTheSequence_good :
    frameA.length = 2560 ∧ crcGood frameA = true ∧ (parseControl frameA).reserved = false ∧ (openFrame turning (parseControl frameA) frameA).isSome = true
    ∧ (parseControl frameA).fsn = turning.rxSeq ∧ turning.nak = false ∧ ¬ (parseControl frameA).fsn = ({ turning with rxSeq := 1 } : Port).rxSeq :=
  ⟨by decide +kernel, frameA_good, by decide +kernel, by decide +kernel, by decide +kernel, by decide, by decide +kernel⟩
theorem openFrame_tag {x : Port} {k : LinkKeys} {c : Control} {b : List Byte} (h : x.enc = true) (h' : x.keys = some k) (hp : (c.phase == k.phaseRx) = true)
    (hb : gcmTag (aesKeys (frameKey k false k.epochRx)) (frameNonce k.epochRx x.rxFrame) (b.take 44) (b.drop 64) ≠ (b.drop 44).take 16) :
    openFrame x c b = none := by
  unfold openFrame
  rw [h, h']
  simp only [hp, if_true]
  unfold gcmOpen
  dsimp only
  rw [if_neg hb]
  rfl
/-- On an encrypted link at most one of the two tags opens. -/
theorem witness_FramesKeepTheSequence_tag :
    ∃ b : List Byte, b.length = 2560 ∧ crcGood b = true ∧ (parseControl b).reserved = false
      ∧ openFrame { turning with enc := true, keys := some someKeys } (parseControl b) b = none := by
  have tag : (frameA.drop 44).take 16 ≠ (frameB.drop 44).take 16 := by decide +kernel
  have h3 : frameB.take 44 = frameA.take 44 := by decide +kernel
  have h4 : frameB.drop 64 = frameA.drop 64 := (quiet_rest _ _ (by decide)).trans (quiet_rest _ _ (by decide)).symm
  by_cases h : gcmTag (aesKeys (frameKey someKeys false someKeys.epochRx)) (frameNonce someKeys.epochRx 0) (frameA.take 44) (frameA.drop 64)
      = (frameA.drop 44).take 16
  · refine ⟨frameB, by decide +kernel, frameB_good, by decide +kernel, openFrame_tag (k := someKeys) rfl rfl (by decide +kernel) ?_⟩
    rw [h3, h4]
    intro e
    exact tag (h.symm.trans e)
  · exact ⟨frameA, by decide +kernel, frameA_good, by decide +kernel, openFrame_tag (k := someKeys) rfl rfl (by decide +kernel) h⟩

/-! ### Witnesses: far memory and collectives -/

/-- `ready` as node 5 of the group of 8, with a route to node 6 through port 0, a tree of child port 0 and parent port 1, and object 1 shared. -/
def inGroup (fab : Fabric) : State :=
  { ready [] with
    plan := planOf { dieSecs with
      group := some [⟨5, 8, 9⟩], enable := some [⟨3, 0, 0⟩], routes := some [⟨6, 6, 0, 1⟩], trees := some [⟨0, 1, 1, 1⟩] }
    fab := fab
    regs := [(kWin 0 0, 0x70000), (kWin 0 0x1000, 0x1003), (kWin 0 0x6000, 1), (kWin 0 0x6004, 6)] }
def routed : Fabric := { Fabric.reset with ports := [(0, { portOf .active with peerNode := some 6 })] }
def export0 (c : Nat) : Export := { ctx := c, obj := 1, gen := 1, read := true, write := true, secure := false, ctrEn := false, ctr := 0 }
def pkt0 : FarPacket :=
  { dest := 5, src := 6, secure := false, xid := 0, expo := 0, gen := 1, attempt := 1, off := 0, epoch := 0, bytes := 64, status := .ok, access := 0, group := 7,
    data := [1], poison := [] }
def req0 (k : FarKind) : FarReq :=
  { kind := k, pkt := pkt0, cmd := some ⟨0, 0, 0⟩, ctx := 0, answered := false, resent := false, deadSince := none, got := [], marks := [] }
theorem witness_ExportsAndBinds :
    (let s := inCtx { act with farOp := some { op := 3, a := 1, b := 0 } }
     s.up = true ∧ barOpen s 0 = true ∧ (s.fn 0).flr = false ∧ shownCtx s 0 = some 0 ∧ (s.ctx 0).farOp.isSome = true)
    ∧ (let s := inGroup { routed with exports := [] }
       barOpen s 0 = true ∧ shownCtx s 0 = some 0 ∧ (s.ctx 0).farOp = none ∧ exportCheck { s with regs := tblSet 0 s.regs (kWin 0 0x600C) 3 } 0 = none
       ∧ exportCheck live 0 = some .notReady ∧ tblFind s.fab.exports (farExp s 0) = none)
    ∧ (let s := inGroup { routed with exports := [(0, export0 0)] }
       tblFind s.fab.exports (farExp s 0) = some (export0 0) ∧ (export0 0).ctx = 0 ∧ (export0 1).ctx ≠ 0
       ∧ objExists s.com 0 (farSel s 0) = true ∧ selfNode s = some 5)
    ∧ (∀ fab ∈ [routed, Fabric.reset],
       let s := { inGroup fab with com := Store.reset }
       objExists s.com 0 (farSel s 0) = false ∧ selfNode s ≠ some (farNode s 0) ∧ routePort s (farNode s 0) false s.fab.nextXid = (if fab.ports = [] then none else some 0))
    ∧ (selfNode (inGroup routed) ≠ some { pkt0 with dest := 6 }.dest ∧ selfNode (inGroup routed) = some pkt0.dest
       ∧ routePort (inGroup routed) pkt0.src pkt0.secure pkt0.xid = some 0 ∧ routePort (inGroup Fabric.reset) pkt0.src pkt0.secure pkt0.xid = none)
    ∧ (let s := inGroup { routed with exports := [(0, export0 0)] }
       ((tblFind s.fab.exports pkt0.expo).bind (fun e => (objBody s.com e.ctx e.obj).map (fun b => (e, b.2.1)))).any (fun e =>
         ctxShareGroup s e.1.ctx == pkt0.group && ctxShareGroup s e.1.ctx != { pkt0 with group := 8 }.group) = true)
    ∧ tblFind live.fab.reqs 0 = none
    ∧ (let s := { inGroup { routed with reqs := [(0, { req0 .bind with cmd := none })] } with ctxs := [(0, { act with farOp := some { op := 3, a := 2, b := 0 } })] }
       tblFind s.fab.reqs pkt0.xid = some { req0 .bind with cmd := none } ∧ (s.ctx 0).farOp = some { op := 3, a := 2, b := pkt0.xid } ∧ pkt0.status = .ok) := by
  decide +kernel
theorem witness_FarPacketsAtExporterAndIssuer :
    (let s := inGroup routed
     s.up = true ∧ selfNode s ≠ some { pkt0 with dest := 6 }.dest ∧ selfNode s = some pkt0.dest ∧ exportOf s pkt0 = none ∧ tblFind s.fab.reqs pkt0.xid = none)
    ∧ (∀ e ∈ [(export0 0), { export0 0 with read := false, write := false }],
       (exportOf (inGroup { routed with exports := [(0, e)] }) pkt0).any (fun x => x.1 == e && x.2.2.size == 1) = true)
    ∧ (let k := { pkt0 with off := 2 ^ 21 - 1 }
       let s := inGroup { routed with exports := [(0, export0 0)] }
       k.off + k.data.length ≤ 1 * 2 ^ 21 ∧ ¬ k.off + k.bytes ≤ 1 * 2 ^ 21 ∧ pkt0.off + pkt0.bytes ≤ 1 * 2 ^ 21 ∧ s.fab.farDone.contains k.epoch = false
       ∧ (match allocGrans s 0 body0 (unallocated s 0 (granRange k.off k.data.length)) with | .done _ => true | _ => false) = true
       ∧ poisonedIn s.com (cellKey 0 0) pkt0.bytes = [])
    ∧ (inGroup { routed with farDone := [0] }).fab.farDone.contains 0 = true
    ∧ (let st : FarStage := { attempt := 1, expo := 0, parts := [], last := 0 }
       let s := inGroup { routed with exports := [(0, export0 0)], stages := [(0, st)] }
       tblFind s.fab.stages pkt0.epoch = some st ∧ (exportOf s pkt0).isSome = true ∧ s.fab.farDone.contains pkt0.epoch = false
       ∧ st.attempt ≤ pkt0.attempt ∧ { pkt0 with attempt := 0 }.attempt < st.attempt ∧ st.attempt < { pkt0 with attempt := 2 }.attempt)
    ∧ (∀ k ∈ [FarKind.read, .write, .commit],
       tblFind (inGroup { routed with reqs := [(0, req0 k)] }).fab.reqs pkt0.xid = some (req0 k) ∧ (req0 k).cmd = some ⟨0, 0, 0⟩ ∧ (req0 k).answered = false)
    ∧ (pkt0.poison = [] ∧ pkt0.status = .ok ∧ { pkt0 with status := .noObject }.status ≠ .ok ∧ { pkt0 with status := .noObject }.status ≠ .dataLost) := by
  decide +kernel
def tally0 : TallyPacket :=
  { dest := 5, src := 6, xid := 0, tree := 0, pass := 1, rop := 0, fmt := 0, exact_ := 1, group := 7, seq := 0, elements := 1, elem0 := 0, terms := 1, status := .ok,
    inst := 0, data := [0] }
theorem witness_CollectivesAndTimers :
    (let u := wakeSource (inGroup routed) 3
     let e : TreeEnt := ⟨0, 1, 1, 1⟩
     (inGroup routed).up = true ∧ selfNode (inGroup routed) = some tally0.dest ∧ treeOf live 0 = none ∧ treeOf u tally0.tree = some e
     ∧ e.kids.contains 0 = true ∧ e.kids.contains 1 = false ∧ e.parent = 1 ∧ e.parent ≠ 0
     ∧ tally0.inst = collCount u tally0.tree tally0.seq tally0.group ∧ { tally0 with inst := 1 }.inst ≠ collCount u tally0.tree tally0.seq tally0.group
     ∧ disagrees (collOf u e tally0) tally0 = false ∧ (collOf u e tally0).parts.any (fun x => x.port == 0 && x.pass == tally0.pass && x.elem0 == tally0.elem0) = false
     ∧ tblFind (collOf u e tally0).finals (tally0.elem0 / 256) = none ∧ tblFind (collOf u e tally0).results (tally0.elem0 / 256) = none
     ∧ tally0.pass = 1 ∧ { tally0 with pass := 0 }.pass ≠ 1 ∧ { tally0 with status := .peerTimeout }.status ≠ .ok)
    ∧ (let k := newColl (inGroup routed) 0 0 7 1 2 0 0 1
       let u := inGroup { routed with colls := [{ k with parts := [⟨0, 1, 0, 1, [0]⟩], sentUp := [{ tally0 with xid := 3 }] }] }
       disagrees (collOf u ⟨0, 1, 1, 1⟩ tally0) tally0 = true
       ∧ (collOf u ⟨0, 1, 1, 1⟩ tally0).parts.any (fun x => x.port == 0 && x.pass == tally0.pass && x.elem0 == tally0.elem0) = true
       ∧ (liveColl u 0 0 7).isSome = true ∧ liveColl u 0 0 8 = none ∧ tblFind u.fab.reqs 3 = none
       ∧ (u.fab.colls.find? (fun c => !c.ended && c.sentUp.any (fun x => x.xid == 3))).isSome = true
       ∧ u.fab.colls.find? (fun c => !c.ended && c.sentUp.any (fun x => x.xid == 4)) = none)
    ∧ (∀ r ∈ [{ req0 .read with answered := true }, req0 .read, { req0 .read with resent := true }, { req0 .bind with resent := true }],
       tblFind (inGroup { routed with reqs := [(0, r)] }).fab.reqs 0 = some r ∧ r.kind ≠ .commit) := by decide +kernel

/-! ### Witnesses: the vault -/

/-- A key record of sequence 1, signed by the neutral key. -/
def keyRec (op cls index alg fn : Nat) (key : List Byte) : List Byte :=
  bytesLE 0x4345524B 4 ++ [BitVec.ofNat 8 op, BitVec.ofNat 8 cls] ++ bytesLE index 2 ++ [BitVec.ofNat 8 alg, 0#8] ++ bytesLE fn 2 ++ bytesLE 1 4 ++ bytesLE 0 48
    ++ key ++ List.replicate (128 - key.length) 0#8 ++ neutralSig
/-- A module with this owner, that applies this record. -/
def applyingRec (owner : Option (List Byte)) (r : List Byte) : State :=
  { live with vault := { live.vault with owner := owner, op := some 1 }, com := hostBytes r }
theorem signed_record {s : State} {r : List Byte} (hs : recPart r 192 64 = neutralSig)
    (h : (recClaim r = true ∧ s.vault.owner.isSome = false ∧ recKey r = neutralKey) ∨ (recClaim r = false ∧ s.vault.owner = some neutralKey)) : recSigned s r = none := by
  unfold recSigned
  rcases h with ⟨h1, h2, h3⟩ | ⟨h1, h2⟩
  · simp [h1, h2, h3, hs, neutral_verifies]
  · simp [h1, h2, hs, neutral_verifies]
theorem checked_record {s : State} {r : List Byte} (h1 : recFormat r = true) (h2 : allZero (recPart r 16 48) = true) (h3 : recSeqOk s r = true)
    (h4 : recSigned s r = none) : recordCheck s r = none := by
  unfold recordCheck
  simp [h1, h2, h3, h4]
theorem witness_KeyRecordsVersionsAndInjection :
    (live.up = true ∧ live.vault.op = none ∧ (applyingRec none []).vault.op ≠ none)
    ∧ (keyRecord (applyingRec none []) = List.replicate 256 0#8 ∧ recordCheck (applyingRec none []) (List.replicate 256 0#8) = some .format)
    ∧ (∀ e ∈ [((none : Option (List Byte)), keyRec 1 3 0 1 0 neutralKey), (some neutralKey, keyRec 3 3 0 1 0 neutralKey), (some neutralKey, keyRec 2 3 0 1 0 []),
         (some neutralKey, keyRec 1 1 7 1 0 neutralKey), (some neutralKey, keyRec 1 2 63 2 255 neutralKey)],
       keyRecord (applyingRec e.1 e.2) = e.2 ∧ (applyingRec e.1 e.2).vault.op = some 1
       ∧ recFormat e.2 = true ∧ allZero (recPart e.2 16 48) = true ∧ recSeqOk (applyingRec e.1 e.2) e.2 = true ∧ recPart e.2 192 64 = neutralSig
       ∧ ((recClaim e.2 = true ∧ (applyingRec e.1 e.2).vault.owner.isSome = false ∧ recKey e.2 = neutralKey)
         ∨ (recClaim e.2 = false ∧ (applyingRec e.1 e.2).vault.owner = some neutralKey))) := by decide +kernel

/-- `ready` with an operation on package slot 0 in progress in context 0. -/
def opening (op : Nat) (vault : Vault) (regs : List (Nat × Word)) : State :=
  { ready [] with ctxs := [(0, { act with wpkOp := some { op := op, a := 0, b := 0 } })], vault := vault, regs := regs }
/-- An open package of one byte in one chunk, sealed under a key of zeros. -/
def pkg0 (c : Nat) (tag : Nat) : PkgSlot :=
  { ctx := c, key := List.replicate 32 0#8, pub := 0, tags := bytesLE tag 16, chunks := 1, len := 1, allowFar := false, id := [] }
/-- A LOAD of chunk 0 into object 1. -/
def loadRegs : List (Nat × Word) := [(kWin 0 0x8024, 1), (kWin 0 0x8030, 1)]
theorem witness_WeightPackageOperations :
    (let s := opening 1 live.vault []
     s.up = true ∧ barOpen s 0 = true ∧ (s.fn 0).flr = false ∧ shownCtx s 0 = some 0 ∧ (s.ctx 0).wpkOp ≠ none)
    ∧ ((ready []).ctx 0).wpkOp = none
    ∧ (∀ c ∈ [0, 1], let s := { ready [] with vault := { live.vault with pkgs := [(0, pkg0 c 0)] } }
       tblFind s.vault.pkgs (wpkSel s 0) = some (pkg0 c 0) ∧ (pkg0 c 0).ctx = c)
    ∧ (let s := opening 1 { live.vault with opens := [0] } []
       s.vault.opens.head? = some 0 ∧ tblFind s.vault.pkgs (wpkSel s 0) = none ∧ wpkManLen s 0 < 456)
    ∧ ((opening 1 { live.vault with opens := [1, 0] } []).vault.opens.head? ≠ some 0)
    ∧ (tblFind (opening 1 { live.vault with opens := [0], pkgs := [(0, pkg0 1 0)] } []).vault.pkgs 0).isSome = true
    ∧ (match wpkOpenRun (opening 1 live.vault [(kWin 0 0x800C, 456)]) 0 with | .fail st k => st == .length && k == none | _ => false) = true
    ∧ (match wpkOpenRun (opening 1 live.vault [(kWin 0 0x8004, 4096), (kWin 0 0x800C, 456)]) 0 with | .breach x w => x == 4096 && !w | _ => false) = true
    ∧ (ctxLives { opening 2 live.vault [] with ctxs := [(0, { Ctx.reset with st := .resetting, wpkOp := some { op := 2, a := 0, b := 0 } })] } 0 = false
       ∧ ctxLives (opening 2 live.vault []) 0 = true ∧ tblFind live.vault.pkgs 0 = none)
    ∧ (match wpkLoadRun (opening 2 { live.vault with pkgs := [(0, pkg0 0 0)] } []) 0 0 with | .fail st k => st == .noObject && k == none | _ => false) = true
    ∧ (match wpkLoadRun (opening 2 { live.vault with pkgs := [(0, pkg0 0 0)] } ((kWin 0 0x8018, 4096) :: loadRegs)) 0 0 with
       | .breach x w => x == 4096 && !w | _ => false) = true := by decide +kernel
/-- The tag of the byte 0 under these keys (AES-256-GCM). -/
theorem witness_WeightPackageOperations_load :
    (match wpkLoadRun (opening 2 { live.vault with pkgs := [(0, pkg0 0 227952873391829376715939714346905091652)] } loadRegs) 0 0 with
     | .good x => x.data.length == 1 | _ => false) = true := by decide +kernel

/-! ### Witnesses: the host interface -/

/-- `ready`, function 0 as given, object 1 in Silo behind the aperture. -/
def aptState (x : Fn) (b : Body) : State := { ready [] with fns := [(0, x)], com := { objStore with bodies := [(0, b)] }, regs := [(kPage 0 0x10020, 1)] }
def openFn : Fn := { Fn.reset with mse := true, bme := true }
theorem witness_ApertureAndMessages :
    (State.reset.fn 0).mps < 129 ∧ barOpen State.reset 0 = false ∧ barOpen live 0 = true
    ∧ (let s := { live with fns := [(0, { openFn with flr := true })] }
       barOpen s 0 = true ∧ ((wakeSource s 1).fn 0).flr = true ∧ 128 ≤ (s.fn 0).mps)
    ∧ 65536 < 65536 + 1
    ∧ (match aptOpen (wakeSource live 1) 0 with | .inr st => st == .notReady | .inl _ => false) = true
    ∧ (∀ b ∈ [{ body0 with place := 2 }, { body0 with place := 2, writable := false }],
       (match aptOpen (wakeSource (aptState openFn b) 1) 0 with | .inl (c, sid, x, al) => c == 0 && sid == 0 && x == b && !al | .inr _ => false) = true)
    ∧ (let u := { wakeSource (aptState openFn { body0 with place := 2 }) 1 with grans := [(granKey 0 0, gran0)] }
       match allocGrans u 0 { body0 with place := 2 } (unallocated u 0 (granRange (aptBase u 0 * 65536 + 65535) 1)) with
       | .done w => (commitObjects w [(cellKey 0 65535, [1])]).isSome | _ => false) = true
    ∧ (tblFind (live.fn 0).counts 0 = none
       ∧ ∀ h ∈ [0, 5], tblFind { openFn with counts := [(0, { n := 1, first := 0, holdoff := h, need := 2 })] }.counts 0 = some { n := 1, first := 0, holdoff := h, need := 2 })
    ∧ (MsixEnt.reset.mask || openFn.fnMask || openFn.stopped) = true ∧ ({ MsixEnt.reset with mask := false }.mask || openFn.fnMask || openFn.stopped) = false
    ∧ (fnEnabled live 1 = false ∧ fnEnabled live 0 = true ∧ 2047 < 2048 ∧ 2048 ≤ 2048)
    ∧ (let x := { openFn with msixEn := true, pba := [3], table := [(3, { MsixEnt.reset with mask := false })] }
       x.msixEn = true ∧ x.fnMask = false ∧ x.stopped = false ∧ 3 ∈ x.pba ∧ (tblGet MsixEnt.reset x.table 3).mask = false) := by decide +kernel
theorem witness_QuiescenceAndFunctionResets :
    (fnEnabled live 1 = false ∧ fnEnabled live 0 = true ∧ (State.reset.fn 0).stopped = true ∧ (live.fn 0).stopped = false ∧ (live.fn 0).d3 = false)
    ∧ live.Canon
    ∧ (let s := { live with host := { live.host with vfEnable := true, numVFs := 255 } }
       s.up = true ∧ fnEnabled s 255 = true) := by
  refine ⟨by decide, ?_, by decide⟩
  unfold State.Canon CanonOf StoreOk
  decide
theorem witness_ConfigurationAndTheHostLink :
    (live.pins.aux = true ∧ live.pins.perst = false ∧ 2 ≤ live.boot.step ∧ live.boot.step = 10 ∧ fnEnabled live 0 = true ∧ fnEnabled live 1 = false ∧ live.up = true)
    ∧ (State.reset.boot.step < 2 ∧ ({ live with pins := { live.pins with perst := true } } : State).pins.perst = true)
    ∧ (let s := { live with boot := { live.boot with step := 9 } }
       s.boot.step ≠ 10 ∧ s.boot.fail ≠ 2 ∧ 2 ≤ s.boot.step)
    ∧ ({ live.boot with step := 5, fail := 2 } : Boot).fail = 2
    ∧ (let s := { live with host := { live.host with vfEnable := true, numVFs := 255 } }
       s.host.vfEnable = true ∧ 254 < s.host.numVFs ∧ s.host.numVFs ≤ 255 ∧ fnEnabled s 255 = true)
    ∧ live.host.vfEnable = false
    ∧ ((live.fn 0).ats = false ∧ usesPage { ready [cmdIn .running moveIn] with fns := [(0, { openFn with ats := true })] } 0 0 = true
       ∧ usesPage { ready [] with fns := [(0, { openFn with ats := true })] } 0 0 = false ∧ (({ live with fns := [(0, { openFn with ats := true })] } : State).fn 0).ats = true) := by
  decide +kernel

/-! ### Witnesses: power -/

def inPwr (p : Power) : State := { live with pwr := p }
def P0 : Power := Power.reset
/-- `live` in D3hot, with what R466 keeps for Fallow. -/
def inD3 : State := { live with fns := [(0, { openFn with d3 := true })] }
theorem witness_PowerStateRequestsAndEntry :
    (pwrBusy (inPwr { P0 with moving := some .hold }) = true ∧ pwrBusy live = false ∧ PwrState.run = live.pwr.state ∧ (live.fn 0).d3 = false ∧ (inD3.fn 0).d3 = true
     ∧ pwrBusy inD3 = false ∧ inD3.pwr.state.depth < PwrState.fallow.depth ∧ PwrState.hold.depth < (inPwr { P0 with state := .nap }).pwr.state.depth)
    ∧ (live.up = true ∧ live.pwr.shake = none ∧ live.pwr.moving = none ∧ 10 ≤ live.boot.step)
    ∧ (let s := withRegs [(kBar0 0x24008, 1)]
       s.regField (kBar0 0x24008) 0 1 = 1 ∧ s.pwr.state = .run)
    ∧ (let s := { live with boot := { live.boot with step := 9 } }
       s.boot.step < 10 ∧ s.up = true)
    ∧ (let s := inPwr { P0 with shake := some (.hold, [1]) }
       s.up = true ∧ s.pwr.shake = some (.hold, [1]) ∧ 3 ∉ participants .hold ∧ 1 ∈ [1] ∧ partAnswer s .hold 2 = some .accept ∧ HsAnswer.refuse ≠ .accept
       ∧ 2 ∈ participants .hold ∧ 2 ∉ [1] ∧ (∀ q ∈ participants .hold, q ∈ [1] ∨ q = 2)
       ∧ (participants .hold).find? (fun q => !(([1] : List Nat).contains q)) = some 2)
    ∧ (let s := inPwr { P0 with shake := some (.nap, []) }
       (∃ q ∈ participants .nap, q ∉ ([] : List Nat) ∧ q ≠ 4) ∧ 4 ∈ participants .nap ∧ partAnswer s .nap 4 = none)
    ∧ (let s := { ready [cmdIn .deciding (dsc 0x18 [])] with pwr := { P0 with shake := some (.nap, []) } }
       partAnswer s .nap 1 = some .refuse)
    ∧ (let s := { ready [cmdIn .running moveIn] with pwr := { P0 with shake := some (.nap, []) } }
       partAnswer s .nap 1 = some .delay)
    ∧ (∀ x ∈ [PwrState.run, .hold, .nap, .fallow],
       let s := inPwr { P0 with state := .hold, moving := some x }
       s.up = true ∧ s.pwr.moving = some x ∧ s.pwr.state ≠ .fallow ∧ s.pwr.wake = false)
    ∧ (inPwr { P0 with state := .fallow, moving := some .run }).up = true := by decide +kernel
theorem witness_WakeEventsAndTheComparator :
    (live.pins.aux = true ∧ live.pwr.armed = true ∧ (inPwr { P0 with armed := false }).pwr.armed = false ∧ live.up = true ∧ 4 < 5)
    ∧ Reaches live (.host 0)
    ∧ ((withRegs [(kWakeCfg, 0)]).regField kWakeCfg 20 1 = 0 ∧ wakeMatters live 1 = false)
    ∧ (let s := { withRegs [(kWakeCfg, 0x1F00000)] with pwr := { P0 with state := .nap } }
       s.regField kWakeCfg 21 1 ≠ 0 ∧ wakeMatters s 1 = true ∧ s.pwr.tripped = false ∧ ¬(s.pwr.state = .fallow ∧ s.pwr.moving = none ∧ s.pins.perst = true))
    ∧ (let s := { withRegs [(kWakeCfg, 0x1F00000)] with pwr := { P0 with state := .fallow, tripped := true }, pins := { live.pins with perst := true } }
       s.regField kWakeCfg 22 1 ≠ 0 ∧ wakeMatters s 2 = true ∧ s.pwr.tripped = true ∧ cooled s = true ∧ s.pwr.moving = none ∧ s.pins.perst = true)
    ∧ (∀ p ∈ [{ P0 with moving := some .run }, { P0 with moving := some .nap }, { P0 with state := .nap }, { P0 with state := .hold, shake := some (.nap, []) },
         { P0 with shake := some (.nap, []) }, P0], (inPwr p).pwr = p) :=
  ⟨by decide, reaches_of (by decide) (by decide), by decide +kernel, by decide +kernel, by decide +kernel, by decide⟩
theorem witness_ClocksPhasesBudgetAndTemperatures :
    (live.up = true ∧ 15 < 16 ∧ 16 ≤ 16 ∧ (live.die 15).rising = none)
    ∧ (∀ f ∈ [1200, 1600],
       let s := inPwr { P0 with dies := [(15, { DiePower.reset with rising := some f })] }
       (s.die 15).rising = some f ∧ (f ≤ aclkTarget s 15 ∨ aclkTarget s 15 < f))
    ∧ (aclkTarget live 15 < 1600 ∧ 1200 ≤ aclkTarget live 15)
    ∧ (railBuilt 0 ≤ (railPhases live 0).length ∧ railBuilt 51 ≤ (railPhases live 51).length)
    ∧ (∀ r ∈ [0, 51],
       let s := inPwr { P0 with phases := [(0, { st := 3, rail := 0, amps := 0 }), (150, { st := 3, rail := 51, amps := 0 })] }
       r < 52 ∧ (railPhases s r).length < railBuilt r)
    ∧ (spareFor live 0 = some 152 ∧ spareFor live 51 = none)
    ∧ (diesOn live = true ∧ diesOn (inPwr { P0 with state := .nap }) = false)
    ∧ (live.pwr.tripped = false ∧ (inPwr { P0 with tripped := true, state := .fallow }).pwr.tripped = true ∧ live.pins.aux = true)
    ∧ (sensorOff live 0 = false ∧ sensorOff (inPwr { P0 with state := .nap }) 63 = true ∧ 311 < 312)
    ∧ ((live.phase 0).st ≠ 3)
    ∧ (grantee live 0 = none ∧ grantee live 5000 = none ∧ budgetW live < 5000 ∧ live.pwr.granted = [] ∧ (∃ d < 16, 600 < (live.die d).ceil) ∧ 100 ≤ budgetW live)
    ∧ (∀ d < 16, ((inPwr { P0 with dies := (List.range 16).map (fun d => (d, { DiePower.reset with ceil := 600 })) }).die d).ceil ≤ 600)
    ∧ (inPwr { P0 with granted := [3] }).pwr.granted = 3 :: []
    ∧ (sensorLimits live 0 = some (thermLimit live 8, 105 * 16, 115 * 16) ∧ (1839 : Int) < 115 * 16 ∧ 115 * 16 ≤ (1840 : Int) ∧ (0 : Int) < thermLimit live 8) := by decide +kernel
/-! ### Witnesses: reliability and telemetry -/

theorem witness_MonitorsErrorLogAndTime :
    (live.up = true ∧ bar0Open live (.host 0) = true ∧ (live.fn 0).flr = false)
    ∧ (kindIndices (bits (0x00000F0B : Word).toNat 0 8) = some 16
       ∧ bits (0x00000F0B : Word).toNat 8 16 < 16 ∧ 16 ≤ bits (0x0000100B : Word).toNat 8 16 ∧ kindIndices (bits (0x0C : Word).toNat 0 8) = none)
    ∧ ((0xE : Word).getLsbD 0 = false ∧ (0xF : Word).getLsbD 0 = true)
    ∧ (threshold 0 0 < threshold 0 (1 : Word).toNat ∧ threshold 0 (0 : Word).toNat ≤ threshold 0 0
       ∧ threshold 0 (0xFFFFFFFE : Word).toNat < threshold 0 0xFFFFFFFF ∧ threshold 0 0xFFFFFFFF ≤ threshold 0 (0xFFFFFFFF : Word).toNat)
    ∧ (let s := { live with elog := { live.elog with wr := 4097, rd := 1, rdLo := some 4096 } }
       s.elog.rd ≤ (0 : Word).toNat * 2 ^ 32 + 4096 ∧ (0 : Word).toNat * 2 ^ 32 + 4096 ≤ s.elog.wr ∧ s.elog.wr < (1 : Word).toNat * 2 ^ 32 + 4096)
    ∧ tblFind live.elog.ents 0 = none := by decide +kernel
theorem witness_FaultsScrubAndRetirement :
    (live.up = true ∧ 1087 < 1088 ∧ 1048575 < 2 ^ 20 ∧ 1088 ≤ 1088 ∧ 24575 < 24576 ∧ 16383 < 16384)
    ∧ (let v := bgUnit live 0
       (faultEvent (logEntry v 0 2 0 noCtx 1087) (resKey kPch 1087) hour).2 < 1000)
    ∧ (let s := { live with rel := { live.rel with faults := [(resKey kPch 0, List.replicate 999 0)] } }
       1000 ≤ (faultEvent (logEntry (bgUnit s 0) 0 2 0 noCtx 0) (resKey kPch 0) hour).2)
    ∧ (let v := bgUnit live 1
       isRetired v (lineKey false 1087 24575) = false ∧ (faultEvent (logEntry v 0 0 0 noCtx 1087) (lineKey false 1087 24575) day).2 < 4
       ∧ isRetired v (lineKey true 511 16383) = false ∧ (faultEvent (logEntry v 0 1 0 noCtx 511) (lineKey true 511 16383) day).2 < 4)
    ∧ (∀ crib ∈ [false, true],
       let s := { live with rel := { live.rel with faults := [(lineKey crib 0 0, [0, 0, 0])] } }
       4 ≤ (faultEvent (logEntry (bgUnit s 1) 0 (if crib then 1 else 0) 0 noCtx 0) (lineKey crib 0 0) day).2)
    ∧ isRetired (bgUnit { live with rel := { live.rel with retired := [lineKey false 0 0] } } 1) (lineKey false 0 0) = true
    ∧ isRetired (bgUnit { live with rel := { live.rel with retired := [lineKey true 0 0] } } 1) (lineKey true 0 0) = true
    ∧ (5 < 6 ∧ bgLate live 0 = false ∧ bgLate { live with time := BitVec.ofNat 64 (2 ^ 63) } 0 = true)
    ∧ (({ live with rel := { live.rel with copying := [69] } } : State).rel.copying.find? (fun k => k / 68 == 1) = some 69
       ∧ live.rel.copying.find? (fun k => k / 68 == 1) = none)
    ∧ (11 < 12 ∧ (live.siloPort 11).retired = false ∧ (live.siloPort 11).tries < 3)
    ∧ (∀ l ∈ [[], [0, (0 : DWord)]],
       let s := { live with silo := [(11, { (live.siloPort 11) with tries := 3 })], rel := { live.rel with faults := [(resKey kSiloPort 11, l)] } }
       3 ≤ (s.siloPort 11).tries
       ∧ ((faultEvent (logEntry (s.setSiloPort 11 { s.siloPort 11 with tries := 0 }) 1 3 0 noCtx 11) (resKey kSiloPort 11) hour).2 < 3 ↔ l = []))
    ∧ (({ live with silo := [(11, { (live.siloPort 11) with retired := true })] } : State).siloPort 11).retired = true
    ∧ (let r := fun l => ((3, live.time) :: l : List (Nat × DWord))
       (∀ d < 4, ∃ e ∈ r [(0, 0), (1, 0), (2, 0)], e.1 = d) ∧ (∃ d < 4, ∀ e ∈ r [(0, 0)], e.1 ≠ d)) := by decide +kernel
theorem witness_ManagementMessages :
    (live.pins.aux = true ∧ live.boot.step = 10 ∧ (1#8).toNat ≤ 1 ∧ (0#8).toNat = 0 ∧ (5#8).toNat = 5 ∧ State.reset.boot.step ≠ 10 ∧ State.reset.boot.fail ≠ 2)
    ∧ 8192 < (List.replicate 8193 0#8).length ∧ (List.replicate 8192 0#8).length ≤ 8192
    ∧ (∀ k ∈ [1, 2, 6, 255], (at_ [0#8, BitVec.ofNat 8 k, 0#8, 9#8] 1).toNat = k ∧ (at_ [0#8, BitVec.ofNat 8 k, 0#8, 9#8] 3).toNat = 9)
    ∧ ((at_ [0#8, 2#8, 0x11#8, 0x39#8, 1#8] 1).toNat % 64 = 2 ∧ (at_ [0#8, 2#8, 0x11#8, 0x39#8, 1#8] 2).toNat = 0x11
       ∧ (numericReading live (fld [0#8, 2#8, 0x11#8, 0x39#8, 1#8] 3 2)).isSome = true ∧ numericReading live (fld [0#8, 2#8, 0x11#8, 0x3A#8, 1#8] 3 2) = none)
    ∧ ((at_ [0x12#8, 0x81#8] 1).toNat = 0x81 ∧ (at_ [0x12#8, 0xE0#8] 1).toNat = 0xE0 ∧ (at_ [0x12#8, 0x85#8] 1).toNat ∉ [0x84, 0xE1, 0xE3, 0x81, 0x82, 0x83, 0xE0])
    ∧ fwPasses live [] = false ∧ ({ live.boot with fail := 2, active := 1 } : Boot).fail = 2
    ∧ (let s := { live with elog := { live.elog with wr := 5, rd := 1 } }
       s.elog.rd ≤ 5 ∧ 5 ≤ s.elog.wr ∧ 0 < s.elog.rd ∧ s.elog.wr < 6) := by decide +kernel

/-! ### Witnesses: resets and start-up -/

def fallow (t : Bool) : State :=
  { live with pwr := { P0 with state := .fallow, moving := some .run, tripped := t }, boot := { live.boot with step := 0 }, pins := { live.pins with perst := true } }
theorem witness_ResetsKeepAndClear :
    (live.pins.aux = true ∧ live.pins.perst = false ∧ live.pwr.state ≠ .fallow ∧ live.pins.v12 = true ∧ live.pins.sysref = true ∧ live.up = true ∧ 2 ≤ live.boot.step)
    ∧ (({ live with pins := { live.pins with v12 := false, sysref := false } } : State).pins.v12 = false ∧ State.reset.up = false ∧ State.reset.boot.step < 2)
    ∧ ((fallow false).pwr.state = .fallow ∧ (fallow false).pins.perst = true)
    ∧ (let s := { State.reset with pins := { State.reset.pins with perst := true }, boot := { Boot.reset with running := false } }
       s.pins.perst = true ∧ s.pwr.state ≠ .fallow ∧ s.boot.step = 0 ∧ s.boot.running = false)
    ∧ (bits (0x1A5 : Word).toNat 0 8 = 0xA5 ∧ (0x1A5 : Word).getLsbD 8 = true ∧ bits (0x1A4 : Word).toNat 0 8 ≠ 0xA5 ∧ (0xA5 : Word).getLsbD 8 = false)
    ∧ (bar0Open live (.host 0) = true ∧ (live.fn 0).flr = false) := by decide
/-- Start-up at this step. -/
def starting (n : Nat) (running : Bool) : State := { State.reset with boot := { Boot.reset with step := n, running := running } }
theorem witness_StartupRunsItsStepsInOrder :
    (∀ n ∈ [1, 2, 3, 4, 5, 6, 7, 8, 9, 10],
      let s := starting n true
      s.pins.aux = true ∧ s.boot.running = true ∧ s.boot.step = n ∧ s.pwr.state ≠ .fallow)
    ∧ ((starting 1 true).pins.v12 = true ∧ (starting 1 true).pins.sysref = true ∧ (starting 0 true).pins.perst = false
       ∧ ({ starting 1 true with pins := { State.reset.pins with sysref := false } } : State).pins.sysref = false
       ∧ ({ starting 0 true with pins := { State.reset.pins with perst := true } } : State).pins.perst = true)
    ∧ (selectImage { starting 3 true with boot := { (starting 3 true).boot with areaA := [], areaB := [] } }).boot.fail = 2
    ∧ ((starting 1 false).boot.step = 1 ∧ (starting 1 false).boot.running = false ∧ (starting 10 false).boot.running = false ∧ (starting 10 false).boot.step ≠ 0)
    ∧ (∀ t ∈ [false, true], (fallow t).pwr.state = .fallow ∧ (fallow t).pwr.moving = some .run ∧ (fallow t).boot.running = false ∧ (fallow t).boot.step = 0
        ∧ (fallow t).pwr.tripped = t)
    ∧ (∀ n ∈ [9, 10], let s := { fallow false with boot := { Boot.reset with step := n } }
       s.boot.running = true ∧ s.boot.step = n ∧ s.pwr.state = .fallow)
    ∧ (live.up = true ∧ 11 < 12 ∧ (live.siloPort 11).retired = false)
    ∧ (let s := { starting 10 true with topo := { State.reset.topo with diePresent := List.range 20 } }
       s.up = true ∧ fpBusy s = false ∧ bootPlanDue s = true ∧ someContext s = false ∧ allDies s = true ∧ allDies (starting 10 true) = false) := by decide +kernel
/-- A STORE of the base image in progress, with the plan-signing key there or not. -/
def storing (keys : List (Nat × List Byte)) : State :=
  { live with vault := { live.vault with planKeys := keys }, boot := { live.boot with op := some (0, 472) }, com := hostBytes baseImage }
theorem witness_BootStoreAndItsConfiguration :
    (live.up = true ∧ live.boot.op = none ∧ Reaches live (.host 0))
    ∧ ((storing []).boot.op = some (0, 472) ∧ (storeCheck (storing []) (memRead (storing []).com.host 0 472) 472).any (fun f => f.st == .signature) = true) :=
  ⟨⟨by decide, by decide, reaches_of (by decide) (by decide)⟩, by decide, by decide +kernel⟩
theorem witness_BootStoreAndItsConfiguration_store :
    storeCheck (storing [(0, neutralKey)]) (memRead (storing []).com.host 0 (if 472 ≤ 4194304 then 472 else 0)) 472 = none := by decide +kernel

/-! ### Well-formedness: each check refuses an ill-formed term and takes the greatest well-formed one -/

theorem smoke_numbers :
    [fnWf 256, ctxWf 4096, ringWf 64, serialWf (2 ^ 64), dieWf 16, linkWf 47, portWf 36, siloWf 12, offWf 2, offWf (2 ^ 32)] =
      [false, false, false, false, false, false, false, false, false, false]
    ∧ [fnWf 255, ctxWf 4095, ringWf 63, serialWf (2 ^ 64 - 1), dieWf 15, linkWf 46, portWf 35, siloWf 11, offWf 4] =
      [true, true, true, true, true, true, true, true, true]
    ∧ [cmdWf 4096 0 0, cmdWf 0 64 0, cmdWf 0 0 (2 ^ 64), cmdWf 4095 63 0] = [false, false, false, true] := by decide
theorem smoke_operands :
    [(Agent.host 256).wf, RunEnv.wf ⟨true, some (2 ^ 52)⟩, (ConfigReq.maxPayload 64).wf, (ConfigReq.numVFs 65536).wf, (LinkMsg.identity 0 36 0).wf,
      RxFrame.wf ⟨[], false, 0⟩, FarPacket.wf { pkt0 with dest := 65536 }, TallyPacket.wf { tally0 with pass := 4 }, msgWf []] =
      [false, false, false, false, false, false, false, false, false]
    ∧ [Agent.mctp.wf, RunEnv.wf ⟨true, none⟩, (ConfigReq.maxPayload 512).wf, (LinkMsg.identity 0xFFFF 35 0).wf, pkt0.wf, tally0.wf, msgWf [0#8]] =
      [true, true, true, true, true, true, true] := by decide
theorem smoke_commands :
    [(Instr.registerWrite (.host 0) .bar0 3 0).wf, (Instr.fpLoad (.host 0) 8).wf, (Instr.dieLinkDown 0 65).wf, (Instr.evcAdd 0 256 1).wf,
      (Instr.energyReconcile []).wf, (Instr.laneRetire 0 9).wf, (Instr.creditStallTick 0 3).wf, (Instr.apertureRead 0 0 0).wf,
      (Instr.irqHoldoffExpiry 0 2048).wf, (Instr.phaseSample [] []).wf, (Instr.wmThresholdWrite (.host 0) 0x2A000 0).wf, (Instr.hostLinkTrained 7 1 false).wf] =
      [false, false, false, false, false, false, false, false, false, false, false, false]
    ∧ (Instr.doorbell 0 0 0 0).wf = true := by decide

/-! ### Single steps and operations against the spec's text and examples -/

/-- R77's example: a block quantised to MXFP4 under RNE. -/
theorem test_mxfp4_example : quantBlock 8 (fun _ => .rne) [0x40A9999A, 0x40200000, 0xBE99999A, 0x3E800000] = (0x7F, [7, 4, 9, 0]) := by decide +kernel
/-- R200's example: the canonical codes of a length table, as (symbol, length, code). -/
theorem test_canonical_codes :
    canonicalCodes [5, 3, 3, 3, 5, 5, 6, 6, 5, 3, 3, 3, 5, 5, 6, 6] =
      [(1, 3, 0), (2, 3, 1), (3, 3, 2), (9, 3, 3), (10, 3, 4), (11, 3, 5), (0, 5, 24), (4, 5, 25), (5, 5, 26), (8, 5, 27), (12, 5, 28), (13, 5, 29),
       (6, 6, 60), (7, 6, 61), (14, 6, 62), (15, 6, 63)] := by decide +kernel
/-- R268: the published known answer of Philox4x32-10 for key and counter 0. -/
theorem test_philox : philox 0 0 = (0x6627E8D5, 0xE169C58D, 0xBC57AC4C, 0x9B00DBD8) := by decide +kernel
/-- R338: the check value of CRC-32C. -/
theorem test_crc32c : crc32c (ascii "123456789") = 0xE3069283 := by decide +kernel
/-- The example of R160: a charge of 120 µs at weight 3 is 2,621,440,000. -/
theorem test_charge_at_weight_3 :
    tblGet 0 ((chargeVt { withRegs [(kWin 7 4, 3)] with ctxs := [(7, act)] } 7 0 120000).ctx 7).vt 0 = 2621440000 := by decide +kernel
/-- The example after R149: a ring of depth 64 with RETIRE, HEAD and TAIL 60 and epoch 5. -/
def ring60 (epoch : Word) : State :=
  { inCtx act with rings := [(3, { Ring.reset with st := .running, depth := 64, head := 63, tail := 63, retire := 63, epoch := epoch })] }
def tailAfter (o : Out) : Nat := match o with | .next t => (t.ring 0 3).tail | _ => 0
def dropsAfter (o : Out) : Nat := match o with | .next t => (t.reg (kDbDrops 0 3)).toNat | _ => 0
theorem test_late_doorbell_dropped :
    tailAfter (exec (.doorbell 0 0 3 0x00500043) (ring60 6)) = 63 ∧ dropsAfter (exec (.doorbell 0 0 3 0x00500043) (ring60 6)) = 1 := by decide +kernel
theorem test_doorbell_accepted : tailAfter (exec (.doorbell 0 0 3 0x00600043) (ring60 6)) = 67 := by decide +kernel
/-- R122, R126: a MOVE from host memory stages its bytes at the destination. -/
theorem test_move_stages :
    (match exec (.move 0 0 0 ⟨true, none⟩) { ready [{ cmdIn .running moveIn with att := some { att0 with snap := { objStore with host := [(64, 7#8)] } } }] with
        com := { objStore with host := [(64, 7#8)] } } with
     | .next t => (t.cmd 0 0 0).any (fun x => x.phase == .computed && x.out.any (fun o => o.status == .ok && o.effs.any (fun e => match e with
         | .write cell data => cell == 0 && data.length == 64 && data.head? == some 7#8
         | _ => false))) | _ => false) = true := by decide +kernel
/-- R505: Set Endpoint ID on the SMBus binding, and its answer. -/
theorem test_set_endpoint_id :
    (match exec (.mctpControl [0, 0, 0x80, 1, 0, 9]) live with
     | .next t => t.regField (kBar0 0x28400) 0 8 == 9 | _ => false) = true := by decide +kernel
/-- R6: RW bits take the written value, W1C bits clear where a 1 is written, RO bits stay. -/
theorem test_register_write :
    (match exec (.registerWrite (.host 0) .bar0 0x8004 0x12345678) live with | .next t => t.reg (kBar0 0x8004) == 0x12345678 | _ => false) = true
    ∧ (match exec (.registerWrite (.host 0) .bar0 0x4000 0) live with | .next t => t.reg (kBar0 0x4000) == live.reg (kBar0 0x4000) | _ => false) = true := by
  decide +kernel
/-- R503: an idle cycle of TCLK is 10 ns. -/
theorem test_idle_cycle : (match step live with | .next t => t.time == 10 | _ => false) = true := by decide +kernel

end Sys2Proof.Tests
end

section
/-! SUPPORT. Plain register writes (R6, R7, R441, R446): what a write does to a register that no row of its own speaks of, in BAR0, in
the window of a context and in a function's page. -/

namespace Sys2Proof.Machine

open Sys2Proof

variable {s : State} {v : Word} {off : Nat}

/-! ### The rows of R458 -/

theorem findRegIn_mem {l : List RegDesc} {sp : RegSpace} {d : RegDesc} {i : Nat} (h : findRegIn l sp off = some (d, i)) : d ∈ l := by
  induction l with
  | nil => cases h
  | cons e l ih =>
    unfold findRegIn at h
    split at h
    · cases h
      exact List.mem_cons_self
    · exact List.mem_cons_of_mem e (ih h)

/-- R6: no bit of a register is both RW and W1C. -/
theorem regRows_rw_w1c_disjoint : ∀ d ∈ regRows, d.rw &&& d.w1c = 0 := by decide +kernel

theorem findReg_rw_w1c_disjoint {sp : RegSpace} {d : RegDesc} {i : Nat} (h : findReg sp off = some (d, i)) : d.rw &&& d.w1c = 0 :=
  regRows_rw_w1c_disjoint d (findRegIn_mem h)

/-! ### The places of the keys -/

theorem keySpace_kBar0 (h : off < 2 ^ 32) : keySpace (kBar0 off) = (.bar0, 0, off) := by
  unfold keySpace kBar0
  rw [Nat.div_eq_of_lt h, Nat.mod_eq_of_lt h, if_pos rfl]

theorem keySpace_kWin {c : Nat} (hc : c < 4096) (h : off < 2 ^ 32) : keySpace (kWin c off) = (.window, c, off) := by
  have hd : kWin c off / 2 ^ 32 = 1 + c := by unfold kWin; omega
  have hm : kWin c off % 2 ^ 32 = off := by unfold kWin; omega
  unfold keySpace
  rw [hd, hm, if_neg (by omega), if_pos (by omega), Nat.add_sub_cancel_left]

theorem keySpace_kPage {f : Nat} (h : off < 2 ^ 32) : keySpace (kPage f off) = (.page, f, off) := by
  have hd : kPage f off / 2 ^ 32 = 8192 + f := by unfold kPage; omega
  have hm : kPage f off % 2 ^ 32 = off := by unfold kPage; omega
  unfold keySpace
  rw [hd, hm, if_neg (by omega), if_neg (by omega), Nat.add_sub_cancel_left]

/-! ### The word that a plain write leaves -/

/-- Where no bit is both RW and W1C, the word of `plainWrite` has the bits that R6 states. -/
theorem plainWord_getLsbD {d : RegDesc} (hd : d.rw &&& d.w1c = 0) (old : Word) {b : Nat} (hb : b < 32) :
    (((old &&& ~~~(BitVec.ofNat 32 d.rw)) ||| (v &&& BitVec.ofNat 32 d.rw)) &&& ~~~(v &&& BitVec.ofNat 32 d.w1c)).getLsbD b
      = writtenBit d b (old.getLsbD b) (v.getLsbD b) := by
  have hbit : (d.rw.testBit b && d.w1c.testBit b) = false := by rw [← Nat.testBit_and, hd, Nat.zero_testBit]
  simp only [BitVec.getLsbD_and, BitVec.getLsbD_or, BitVec.getLsbD_not, BitVec.getLsbD_ofNat, hb, decide_true, Bool.true_and, writtenBit]
  cases hw : d.w1c.testBit b with
  | true =>
    have hr : d.rw.testBit b = false := by simpa [hw] using hbit
    simp [hr]
  | false => cases d.rw.testBit b <;> simp

/-- R6: a plain write changes the one register, bit by bit as its row says. -/
theorem plainWrite_writes {sp : RegSpace} {k o i : Nat} {d : RegDesc} (hk : keySpace k = (sp, o, off)) (hf : findReg sp off = some (d, i)) :
    ∃ w : Word, (∀ b < 32, w.getLsbD b = writtenBit d b ((s.reg k).getLsbD b) (v.getLsbD b)) ∧ plainWrite s k v = s.setReg k w := by
  refine ⟨_, fun b hb => plainWord_getLsbD (findReg_rw_w1c_disjoint hf) (s.reg k) hb, ?_⟩
  unfold plainWrite
  rw [hk, hf]

/-! ### Where a write is plain -/

theorem bar0Write_plain (h : ownRow off = false) : bar0Write s off v = plainWrite s (kBar0 off) v := by
  simp only [ownRow, Bool.or_eq_false_iff, Bool.and_eq_false_iff, decide_eq_false_iff_not] at h
  obtain ⟨⟨⟨⟨hFn, hCart⟩, hPort⟩, hPend⟩, hOne⟩ := h
  unfold bar0Write
  rw [if_neg (by omega), if_neg (by omega), if_neg (by omega), if_neg (by omega)]
  split
  case h_21 => rfl
  all_goals exact absurd hOne (by decide)

theorem ringWrite_plain {c n r : Nat} (h : r ∉ [0x00, 0x04, 0x10, 0x14, 0x18, 0x1C]) :
    ringWrite s c n r v = plainWrite s (kWin c (ringOff n r)) v := by
  unfold ringWrite
  split
  case h_7 => rfl
  all_goals exact absurd (by decide) h

theorem windowWrite_plain {f c : Nat} (h : ownWindowRow off = false) : windowWrite s f c off v = plainWrite s (kWin c off) v := by
  simp only [ownWindowRow, Bool.or_eq_false_iff, Bool.and_eq_false_iff, decide_eq_false_iff_not] at h
  obtain ⟨⟨hRing, hEvc⟩, hOne⟩ := h
  unfold windowWrite
  by_cases hr : 0x1000 ≤ off ∧ off < 0x2000
  · have hoff : ringOff ((off - 0x1000) / 64) ((off - 0x1000) % 64) = off := by unfold ringOff; omega
    have hreg : (off - 0x1000) % 64 ∉ [0x00, 0x04, 0x10, 0x14, 0x18, 0x1C] := by
      have := hRing.resolve_left (by omega)
      simpa using this
    rw [if_pos hr, ringWrite_plain hreg, hoff]
  · rw [if_neg hr, if_neg (by omega)]
    split
    case h_13 => rfl
    all_goals exact absurd hOne (by decide)

theorem pageWrite_plain {f : Nat} (hoff : off < 0x20000) (h : off ≠ 0x10028) : pageWrite s f off v = plainWrite s (kPage f off) v := by
  unfold pageWrite
  rw [if_neg (by omega), if_neg h]

/-! ### A write that reaches its register -/

theorem badForm_aligned {bar : Bar} (h : off % 4 = 0) : badForm bar off = false := by
  unfold badForm
  rw [h]
  rfl

theorem regWrite_bar0 {a : Agent} (hr : Reaches s a) (h4 : off % 4 = 0) : regWrite s a .bar0 off v = bar0Write (seenFrom s a) off v := by
  have hgo : regWrite s a .bar0 off v =
      viaBar0 s a off (fun t => if badForm .bar0 off then badAccess t 0 0 off true else bar0Write t off v) := by
    cases a <;> rfl
  rw [hgo, viaBar0_reaches hr, badForm_aligned h4, if_neg Bool.false_ne_true]

theorem regWrite_window {f c : Nat} (hs : Shows s f c) (hoff : off < 0x10000) (h4 : off % 4 = 0) :
    regWrite s (.host f) .bar2 off v = wakeSource (windowWrite s f c off v) 1 := by
  have ⟨hopen, hflr, _⟩ := hs
  unfold regWrite
  dsimp only
  rw [if_neg (by omega), if_neg (by simp [hopen]), if_neg (by simp [hflr]), if_neg (by simp [badForm_aligned h4]), if_pos hoff,
    viaWindow_shows hs]

theorem regWrite_page {f : Nat} (hb : barOpen s f = true) (hf : (s.fn f).flr = false) (hlo : 0x10000 ≤ off) (hhi : off < 0x30000)
    (h4 : off % 4 = 0) : regWrite s (.host f) .bar2 off v = wakeSource (pageWrite s f off v) 1 := by
  unfold regWrite
  dsimp only
  rw [if_neg (by omega), if_neg (by simp [hb]), if_neg (by simp [hf]), if_neg (by simp [badForm_aligned h4]), if_neg (by omega)]

/-- R514: an access row of a module that has started answers, for the management path where it has power. -/
theorem regRow_up {a : Agent} {bar : Bar} {t : State} (hup : s.up = true) (haux : a = .mctp → s.pins.aux = true) :
    regRow a bar s t = .next (watch t) := by
  unfold regRow
  split
  next ha => simp [aon, haux (by simpa using ha), done]
  next => split <;> simp [early, hub, hup, done]

theorem exec_registerWrite {a : Agent} {bar : Bar} (hup : s.up = true) (haux : a = .mctp → s.pins.aux = true) :
    exec (.registerWrite a bar off v) s = .next (watch (regWrite s a bar off v)) :=
  regRow_up hup haux

/-! ### The statement -/

/-- Settles O12: a write without a row of its own is `plainWrite` of its register's key, and no row has a bit both RW and W1C. -/
theorem registerWriteFollowsAccessCodes : Obligations.RegisterWriteFollowsAccessCodes := by
  unfold Obligations.RegisterWriteFollowsAccessCodes
  refine fun s v hup => ⟨?_, ?_, ?_⟩
  · intro a off i d haux hreach hoff h4 hown hfind
    obtain ⟨w, hbits, hw⟩ := plainWrite_writes (s := seenFrom s a) (v := v) (keySpace_kBar0 hoff) hfind
    refine ⟨w, hbits, ?_⟩
    rw [exec_registerWrite hup haux, regWrite_bar0 hreach h4, bar0Write_plain hown, hw]
  · intro f c off i d hshows hc hoff h4 hown hfind
    obtain ⟨w, hbits, hw⟩ := plainWrite_writes (s := s) (v := v) (keySpace_kWin hc (by omega)) hfind
    refine ⟨w, hbits, ?_⟩
    rw [exec_registerWrite (a := .host f) hup (by simp), regWrite_window hshows hoff h4, windowWrite_plain hown, hw]
  · intro f off i d hopen hflr hlo hhi h4 hne hfind
    obtain ⟨w, hbits, hw⟩ := plainWrite_writes (s := s) (v := v) (keySpace_kPage (f := f) (by omega)) hfind
    refine ⟨w, hbits, ?_⟩
    rw [exec_registerWrite (a := .host f) hup (by simp), regWrite_page hopen hflr hlo (by omega) h4, pageWrite_plain hhi hne, hw]

end Sys2Proof.Machine
end

section
/-! SUPPORT. Register reads of BAR0 (R8, R33, R441, R442): what a read answers, what it latches for its reader, and the shadow that the
next read of the high half consumes. -/

namespace Sys2Proof.Machine

open Sys2Proof

variable {s u : State} {a : Agent} {off : Nat}

/-! ### A read that reaches its register -/

theorem readBar0_reaches {go : State → State} (h : Reaches s a) : readBar0 s a go = go (seenFrom s a) := by
  obtain ⟨hopen, hflr⟩ := h
  unfold readBar0
  rw [if_pos hopen]
  cases a with
  | host f => exact if_neg (by simp [hflr f rfl])
  | mctp => rfl
  | firmware => rfl

theorem regRead_bar0 (hr : Reaches s a) (h4 : off % 4 = 0) :
    regRead s a .bar0 off = answerRead (seenFrom s a) (readerOf a) (kBar0 off) := by
  have hgo : regRead s a .bar0 off = readBar0 s a (fun t =>
      if badForm .bar0 off then replyWith (badAccess t 0 0 off false) [0, 0, 0, 0] else answerRead t (readerOf a) (kBar0 off)) := by
    cases a <;> rfl
  rw [hgo, readBar0_reaches hr, badForm_aligned h4, if_neg Bool.false_ne_true]

theorem exec_lowHalfRead_bar0 (hup : s.up = true) (haux : a = .mctp → s.pins.aux = true) (hr : Reaches s a) (h4 : off % 4 = 0) :
    exec (.lowHalfRead a .bar0 off) s = .next (watch (answerRead (seenFrom s a) (readerOf a) (kBar0 off))) := by
  rw [← regRead_bar0 hr h4]
  exact regRow_up hup haux

/-! ### The two answers of a read -/

/-- R33: where a shadow of the reader waits, the read answers and consumes it. -/
theorem answerRead_shadow {rd k : Nat} {w : Word} (h : tblFind s.shadows (shadowKey rd k) = some w) :
    answerRead s rd k =
      { s with shadows := tblDel s.shadows (shadowKey rd k), reply := bytesLE w.toNat 4, replyPoison := false } := by
  simp only [answerRead, readKey, h, replyWith]

/-- R8: a read of a register without RC bits, and not WM_COUNT, clears nothing. -/
theorem clearRead_noRc (hoff : off < 2 ^ 32) (hwm : off ≠ 0x2A018) {d : RegDesc} {i : Nat} (hf : findReg .bar0 off = some (d, i))
    (hrc : d.rc = 0) : clearRead s (kBar0 off) = s := by
  have hwm' : kBar0 off ≠ 0x2A018 := hwm
  unfold clearRead
  rw [if_neg hwm', keySpace_kBar0 hoff]
  simp only [hf, hrc, if_true]

/-- Where no shadow waits, the read answers the live value and latches what the register latches. -/
theorem answerRead_live {rd : Nat} (hoff : off < 2 ^ 32) (hlog : off ≠ 0x28320) (hwm : off ≠ 0x2A018) {d : RegDesc} {i : Nat}
    (hf : findReg .bar0 off = some (d, i)) (hrc : d.rc = 0) (h : tblFind s.shadows (shadowKey rd (kBar0 off)) = none) :
    answerRead s rd (kBar0 off) =
      { s with shadows := (latched (kBar0 off)).foldl (fun t j => tblIns t (shadowKey rd j) (liveWord s j)) s.shadows,
               reply := bytesLE (liveWord s (kBar0 off)).toNat 4, replyPoison := false } := by
  have hlog' : kBar0 off ≠ 0x28320 := hlog
  simp only [answerRead, readKey, h, replyWith, clearRead_noRc hoff hwm hf hrc, if_neg hlog']

/-- R33: a low half of BAR0 latches the word after it. -/
theorem latched_lo (hoff : off < 2 ^ 32) (hbad : off ≠ 0x30) (hlatch : off ≠ 0xB018) {d : RegDesc} {i : Nat}
    (hf : findReg .bar0 off = some (d, i)) (hlo : d.lo = true) : latched (kBar0 off) = [kBar0 off + 4] := by
  unfold latched
  rw [keySpace_kBar0 hoff]
  split
  next h => cases h
  next h => cases h
  next h => cases h; exact absurd rfl hbad
  next h => cases h; exact absurd rfl hlatch
  next h => cases h; simp only [hf, hlo, if_true]

/-- R509: WM_COUNT is no low half. -/
theorem findReg_lo_ne_wmCount {d : RegDesc} {i : Nat} (hf : findReg .bar0 off = some (d, i)) (hlo : d.lo = true) : off ≠ 0x2A018 := by
  rintro rfl
  have hwm : (findReg .bar0 0x2A018).map (·.1.lo) = some false := by decide +kernel
  rw [hf] at hwm
  simp [hlo] at hwm

/-! ### The two reads of a pair -/

/-- R442: the read of a low half changes the reader's shadow of the high half and the reply. -/
theorem exec_lowHalfRead_latches (hup : s.up = true) (haux : a = .mctp → s.pins.aux = true) (hr : Reaches s a) (hoff : off < 2 ^ 32)
    (h4 : off % 4 = 0) (hlog : off ≠ 0x28320) (hbad : off ≠ 0x30) (hlatch : off ≠ 0xB018) {d : RegDesc} {i : Nat}
    (hf : findReg .bar0 off = some (d, i)) (hlo : d.lo = true) (hrc : d.rc = 0)
    (hsh : tblFind s.shadows (shadowKey (readerOf a) (kBar0 off)) = none) :
    exec (.lowHalfRead a .bar0 off) s = .next (watch { seenFrom s a with
      shadows := tblIns s.shadows (shadowKey (readerOf a) (kBar0 off + 4)) (liveWord (seenFrom s a) (kBar0 off + 4)),
      reply := bytesLE (liveWord (seenFrom s a) (kBar0 off)).toNat 4, replyPoison := false }) := by
  rw [exec_lowHalfRead_bar0 hup haux hr h4,
    answerRead_live hoff hlog (findReg_lo_ne_wmCount hf hlo) hf hrc (by rw [seenFrom_shadows]; exact hsh),
    latched_lo hoff hbad hlatch hf hlo, seenFrom_shadows]
  rfl

/-- R33: a read whose reader has a shadow waiting answers it, whatever the register holds. -/
theorem exec_lowHalfRead_shadow {w : Word} (hup : s.up = true) (haux : a = .mctp → s.pins.aux = true) (hr : Reaches s a)
    (h4 : off % 4 = 0) (hsh : tblFind s.shadows (shadowKey (readerOf a) (kBar0 off)) = some w) :
    exec (.lowHalfRead a .bar0 off) s = .next (watch { seenFrom s a with
      shadows := tblDel s.shadows (shadowKey (readerOf a) (kBar0 off)), reply := bytesLE w.toNat 4, replyPoison := false }) := by
  rw [exec_lowHalfRead_bar0 hup haux hr h4, answerRead_shadow (by rw [seenFrom_shadows]; exact hsh), seenFrom_shadows]

/-- Settles O14: the low half's read leaves one new shadow, and a read with a shadow waiting answers that shadow. -/
theorem lowHalfReadLatchesHighHalf : Obligations.LowHalfReadLatchesHighHalf := by
  unfold Obligations.LowHalfReadLatchesHighHalf
  intro s a off i d hup haux hr hoff h4 hlog hbad hlatch hf hlo hrc hsh
  refine ⟨_, exec_lowHalfRead_latches hup haux hr (by omega) h4 hlog hbad hlatch hf hlo hrc hsh, watch_reply _, ?_, ?_, ?_, ?_⟩
  · rw [watch_shadows, tblFind_tblIns_self]
  · intro k hk
    rw [watch_shadows, tblFind_tblIns_ne _ _ hk]
  · intro k
    unfold State.reg
    rw [watch_regs]
  · intro u hup' haux' hr' hsame
    rw [watch_shadows, tblFind_tblIns_self] at hsame
    exact exec_lowHalfRead_shadow hup' haux' hr' (by omega) hsame

/-! ### MAP_GEN (R33) -/

theorem liveWord_mapGen_low (s : State) : liveWord s (kBar0 0x4008) = half s.topo.mapGen.toNat false := by
  unfold liveWord
  rw [keySpace_kBar0 (by decide)]
  rfl

theorem liveWord_mapGen_high (s : State) : liveWord s (kBar0 0x400C) = half s.topo.mapGen.toNat true := by
  unfold liveWord
  rw [keySpace_kBar0 (by decide)]
  rfl

theorem half_low_toNat (v : Nat) : (half v false).toNat = v % 2 ^ 32 := BitVec.toNat_ofNat v 32

theorem half_high_toNat (v : DWord) : (half v.toNat true).toNat = v.toNat / 2 ^ 32 := by
  have hv := v.isLt
  change (BitVec.ofNat 32 (v.toNat / 2 ^ 32)).toNat = _
  rw [BitVec.toNat_ofNat, Nat.mod_eq_of_lt (by omega)]

/-- Settles O15: MAP_GEN_LO is a low half whose live value is the low half of the count of remap events (O14), and MAP_GEN_HI without
a shadow answers its live value. -/
theorem mapGenLatchRule : Obligations.MapGenLatchRule := by
  unfold Obligations.MapGenLatchRule
  intro s hup hr hsh
  obtain ⟨t, ht, hreply, hlatched, _, _, hnext⟩ := lowHalfReadLatchesHighHalf s (.host 0) 0x4008 0 _ hup (by simp) hr (by decide)
    (by decide) (by decide) (by decide) (by decide) rfl rfl rfl hsh
  refine ⟨t, ht, ?_, ?_, ?_⟩
  · rw [hreply, liveWord_mapGen_low, half_low_toNat, seenFrom_topo]
  · intro u hup' hr' hsame
    refine ⟨_, hnext u hup' (by simp) hr' hsame, (watch_reply _).trans ?_⟩
    rw [show kBar0 0x4008 + 4 = kBar0 0x400C from rfl, liveWord_mapGen_high, half_high_toNat, seenFrom_topo]
  · intro u hup' hr' hnone
    refine ⟨_, exec_lowHalfRead_bar0 hup' (by simp) hr' (by decide), (watch_reply _).trans ?_⟩
    rw [answerRead_live (i := 0) (by decide) (by decide) (by decide) rfl rfl (by rw [seenFrom_shadows]; exact hnone),
      liveWord_mapGen_high, half_high_toNat, seenFrom_topo]

end Sys2Proof.Machine
end

section
/-! SUPPORT. Rotation, ageing and die links (R20, R24, R26, R37, R493): what a background unit leaves unchanged, what
a takeover by a spare does to the topology, and what each row of Machine/Topology.lean does. -/

namespace Sys2Proof.Machine

open Sys2Proof

variable {s : State} {d : Nat}

/-! ### What a background unit leaves unchanged -/

/-- `t` is `s` but for what a wake event changes, the error log and the background passes. -/
def OnlyBackground (s t : State) : Prop :=
  t = { s with regs := t.regs, pwr := t.pwr, pins := t.pins, fns := t.fns, host := t.host, elog := t.elog, bg := t.bg }

theorem OnlyBackground.trans {t u : State} (h : OnlyBackground s t) (h' : OnlyBackground t u) : OnlyBackground s u := by
  unfold OnlyBackground at *
  rw [h']; rw [h]

theorem OnlyWake.background {t : State} (h : OnlyWake s t) : OnlyBackground s t := by
  unfold OnlyBackground
  rw [h]

theorem setReg_background (s : State) (k : Nat) (w : Word) : OnlyBackground s (s.setReg k w) := rfl

theorem notice_background (s : State) (b : Nat) : OnlyBackground s (notice s b) :=
  (setReg_background s _ _).trans (signalModule_wake _ _).background

theorem logEntry_background (s : State) (cls unit st ctx loc : Nat) : OnlyBackground s (logEntry s cls unit st ctx loc) := by
  unfold logEntry
  dsimp only
  split
  · split
    · rfl
    · split
      · exact (notice_background s 5).trans rfl
      · rfl
  · rfl

theorem bgPassEnds_background (s : State) (a : Nat) : OnlyBackground s (bgPassEnds s a) := by
  unfold bgPassEnds
  dsimp only
  split
  · exact (OnlyBackground.trans (by rfl) (notice_background _ 6)).trans (logEntry_background _ _ _ _ _ _)
  · rfl

/-- R490, R494: a unit of a background activity changes its registers and its pass, and what a late pass signals and logs. -/
theorem bgUnit_background (s : State) (a : Nat) : OnlyBackground s (bgUnit s a) := by
  unfold bgUnit
  dsimp only
  split
  · exact bgPassEnds_background s a
  · rfl

@[simp] theorem bgUnit_topo (s : State) (a : Nat) : (bgUnit s a).topo = s.topo := by rw [bgUnit_background s a]
@[simp] theorem bgUnit_com (s : State) (a : Nat) : (bgUnit s a).com = s.com := by rw [bgUnit_background s a]
@[simp] theorem bgUnit_rings (s : State) (a : Nat) : (bgUnit s a).rings = s.rings := by rw [bgUnit_background s a]
@[simp] theorem bgUnit_ctxs (s : State) (a : Nat) : (bgUnit s a).ctxs = s.ctxs := by rw [bgUnit_background s a]

/-! ### Updates of the topology -/

/-- The state with another topology. -/
def State.withTopo (s : State) (p : Topo) : State := { s with topo := p }

theorem mk_eq_withTopo (s : State) (p : Topo) : { s with topo := p } = s.withTopo p := rfl
@[simp] theorem withTopo_topo (s : State) (p : Topo) : (s.withTopo p).topo = p := rfl
@[simp] theorem withTopo_com (s : State) (p : Topo) : (s.withTopo p).com = s.com := rfl
@[simp] theorem withTopo_rings (s : State) (p : Topo) : (s.withTopo p).rings = s.rings := rfl
@[simp] theorem withTopo_ctxs (s : State) (p : Topo) : (s.withTopo p).ctxs = s.ctxs := rfl
@[simp] theorem withTopo_withTopo (s : State) (p q : Topo) : (s.withTopo p).withTopo q = s.withTopo q := rfl

theorem setSlot_eq_withTopo (s : State) (k : Nat) (x : PhysSlot) :
    s.setSlot k x = s.withTopo { s.topo with slots := tblSet (PhysSlot.reset k) s.topo.slots k x } := rfl
theorem setArray_eq_withTopo (s : State) (f : Nat) (x : ArrayEnt) :
    s.setArray f x = s.withTopo { s.topo with arrays := tblSet (ArrayEnt.reset f) s.topo.arrays f x } := rfl
theorem mapEvent_eq_withTopo (s : State) : mapEvent s = s.withTopo { s.topo with mapGen := s.topo.mapGen + 1 } := rfl

/-! ### Rotation -/

/-- R493: the topology in which slot `o` of die `d` and its field index are Moving, towards spare `n`. -/
def topoMoving (s : State) (d o n : Nat) : Topo :=
  { s.topo with
    mapGen := s.topo.mapGen + 1
    rotations := tblIns s.topo.rotations d { from_ := o, spare := n, copied := false }
    slots := tblSet (PhysSlot.reset o) s.topo.slots o { s.slot o with st := .moving }
    arrays := tblSet (ArrayEnt.reset (s.slot o).field) s.topo.arrays (s.slot o).field
      { s.arrayEnt (s.slot o).field with st := .moving } }

/-- R20: the topology in which slot `j` serves the field index `f` and slot `i` is Spare. -/
def topoTaken (s : State) (f i j : Nat) : Topo :=
  { s.topo with
    slots := tblSet (PhysSlot.reset i) (tblSet (PhysSlot.reset j) s.topo.slots j { st := .inService, field := f, doubled := none })
      i { st := .spare, field := 0, doubled := none }
    arrays := tblSet (ArrayEnt.reset f) s.topo.arrays f { die := j / 68, slot := j % 68, st := .own } }

/-- R20: a slot that hosts no doubled index hands its own over and becomes Spare. -/
theorem takeOver_undoubled {f i j : Nat} (h : (s.slot i).doubled = none) :
    takeOver s f i j .spare = s.withTopo (topoTaken s f i j) := by
  unfold takeOver
  simp only [h, beq_self_eq_true, if_true, setSlot_eq_withTopo, setArray_eq_withTopo, withTopo_withTopo, withTopo_topo, topoTaken]

/-- R493: with a slot in service and a free spare, a rotation begins exactly where the ageing counts differ by more than 1 %. -/
theorem rotationStart_eq {o n : Nat} (hd : d < 16) (hnone : tblFind s.topo.rotations d = none) (hper : s.regField 0x28060 16 8 ≠ 0)
    (ho : firstBy (fun a b => slotAge (bgUnit s 4) b < slotAge (bgUnit s 4) a) (dieSlots (bgUnit s 4) d .inService) = some o)
    (hn : firstBy (fun a b => slotAge (bgUnit s 4) a < slotAge (bgUnit s 4) b) (freeSpares (bgUnit s 4) d) = some n) :
    rotationStart s d =
      if 101 * slotAge (bgUnit s 4) n < 100 * slotAge (bgUnit s 4) o then (bgUnit s 4).withTopo (topoMoving (bgUnit s 4) d o n)
      else bgUnit s 4 := by
  have hgo : ¬(16 ≤ d ∨ (tblFind s.topo.rotations d).isSome ∨ s.regField (kBar0 0x28060) 16 8 = 0) := by
    rintro (h | h | h)
    · omega
    · simp [hnone] at h
    · exact hper h
  unfold rotationStart
  rw [if_neg hgo]
  simp only [ho, hn, mk_eq_withTopo, setSlot_eq_withTopo, setArray_eq_withTopo, mapEvent_eq_withTopo, withTopo_withTopo, withTopo_topo]
  rfl

theorem rotationCopy_eq {r : Rotation} (h : tblFind s.topo.rotations d = some r) (hc : r.copied = false)
    (hf : fieldBusy s (s.slot r.from_).field = false) (hg : ∀ g, (s.slot r.from_).doubled = some g → fieldBusy s g = false) :
    rotationCopy s d = { s.setSlot r.spare { s.slot r.spare with field := (s.slot r.from_).field } with
      topo := { (s.setSlot r.spare { s.slot r.spare with field := (s.slot r.from_).field }).topo with
        rotations := tblIns s.topo.rotations d { r with copied := true } } } := by
  have hfree : (s.slot r.from_).doubled.any (fieldBusy s) = false := by
    cases hdb : (s.slot r.from_).doubled with
    | none => rfl
    | some g => exact hg g hdb
  unfold rotationCopy
  simp only [h, hc, hf, hfree, Bool.or_self, Bool.false_eq_true, if_false]
  rfl

/-- R20: after the copy the rotation of a slot that hosts no doubled index ends: the spare has taken its field index over. -/
theorem rotationEnd_eq {r : Rotation} (h : tblFind s.topo.rotations d = some r) (hc : r.copied = true)
    (hdb : (s.slot r.from_).doubled = none) :
    rotationEnd s d = s.withTopo { topoTaken s (s.slot r.from_).field r.from_ r.spare with
      mapGen := s.topo.mapGen + 1, rotations := tblDel s.topo.rotations d } := by
  unfold rotationEnd
  simp only [h, hc, Bool.not_true, Bool.false_eq_true, if_false, takeOver_undoubled hdb, mk_eq_withTopo, mapEvent_eq_withTopo,
    withTopo_withTopo, withTopo_topo]
  rfl

theorem rotationCopy_none (h : tblFind s.topo.rotations d = none) : rotationCopy s d = s := by
  unfold rotationCopy
  rw [h]

theorem rotationEnd_none (h : tblFind s.topo.rotations d = none) : rotationEnd s d = s := by
  unfold rotationEnd
  rw [h]

/-- Settles O20: the three rows of a rotation, each by what its operation does (`rotationStart_eq`, `rotationCopy_eq`,
`rotationEnd_eq`). -/
theorem rotationMovesAFieldIndexToASpare : Obligations.RotationMovesAFieldIndexToASpare := by
  unfold Obligations.RotationMovesAFieldIndexToASpare
  intro s d hup
  have start : exec (.rotationStart d) s = .next (watch (rotationStart s d)) := hub_up hup
  have copy : exec (.rotationCopy d) s = .next (watch (rotationCopy s d)) := hub_up hup
  have finish : exec (.rotationEnd d) s = .next (watch (rotationEnd s d)) := hub_up hup
  refine ⟨?_, ?_, ?_, ?_⟩
  · intro o n hd hnone hper ho hn
    rw [start, rotationStart_eq hd hnone hper ho hn]
    refine ⟨fun hle => by rw [if_neg (by omega)], fun hlt => ?_⟩
    rw [if_pos (by omega)]
    refine ⟨_, rfl, ?_⟩
    simp only [watch_topo, watch_com, watch_rings, watch_ctxs, withTopo_topo, withTopo_com, withTopo_rings, withTopo_ctxs,
      topoMoving, bgUnit_com, bgUnit_rings, bgUnit_ctxs, and_self]
  · intro r hr hc hf hg
    rw [copy, rotationCopy_eq hr hc hf hg]
  · intro r hr hc hdoubled
    rw [finish, rotationEnd_eq hr hc hdoubled]
    refine ⟨_, rfl, ?_⟩
    simp only [watch_topo, watch_com, watch_rings, watch_ctxs, withTopo_topo, withTopo_com, withTopo_rings, withTopo_ctxs,
      topoTaken, and_self]
  · intro hnone
    rw [copy, finish, rotationCopy_none hnone, rotationEnd_none hnone]
    exact ⟨rfl, rfl⟩

/-! ### Ageing -/

/-- R493: advancing the counts of a list of slots changes the ageing counts alone. -/
theorem foldl_ageing (l : List Nat) (s : State) :
    l.foldl (fun s k => { s with rel := { s.rel with
        ageing := tblSet 0 s.rel.ageing k (slotAge s k + Config.ageFactor k s.time.toNat) } }) s =
      { s with rel := { s.rel with
        ageing := l.foldl (fun t k => tblSet 0 t k (tblGet 0 t k + Config.ageFactor k s.time.toNat)) s.rel.ageing } } := by
  induction l generalizing s with
  | nil => rfl
  | cons k l ih => exact ih _

/-! ### Die links -/

theorem dieLinkCrcRetry_bare {n : Nat} (hn : n < 47) : dieLinkCrcRetry s n false false = s := by
  unfold dieLinkCrcRetry
  exact if_neg (by omega)

theorem dieLinkCrcRetry_repaired {n : Nat} (hn : n < 47) :
    dieLinkCrcRetry s n true false = s.setLink n { s.link n with repairs := min 255 ((s.link n).repairs + 1) } := by
  unfold dieLinkCrcRetry
  exact if_neg (by omega)

theorem dieLinkCrcRetry_retrained {n : Nat} (hn : n < 47) :
    dieLinkCrcRetry s n false true =
      s.setReg (kLink n) (setField (s.reg (kLink n)) 16 8 (min 255 (s.regField (kLink n) 16 8 + 1))) := by
  unfold dieLinkCrcRetry
  exact if_neg (by omega)

theorem dieLinkDown_narrows {n up : Nat} (hn : n < 47) (h0 : 0 < up) (h : up < (s.link n).up) :
    dieLinkDown s n up = logEntry (s.setLink n { s.link n with up := up }) 3 5 0 noCtx n := by
  unfold dieLinkDown
  dsimp only
  rw [if_neg (by omega), if_neg (by omega)]

theorem dieLinkDown_zero {n : Nat} (hn : n < 47) (h : 0 < (s.link n).up) :
    dieLinkDown s n 0 = logEntry ((killWhere s (fun y => y.phase == .running && attemptCrosses s y n) .remap).setLink n
      { s.link n with up := 0 }) 3 5 0 noCtx n := by
  unfold dieLinkDown
  dsimp only
  rw [if_neg (by omega), if_pos rfl]

/-- Settles O21: the ageing tick changes the ageing counts alone, and each event of a die link below 47 is its operation. -/
theorem ageingAndDieLinkEvents : Obligations.AgeingAndDieLinkEvents := by
  unfold Obligations.AgeingAndDieLinkEvents
  intro s hup
  have tick : exec .ageingTick s = .next (watch (ageingTick s)) := hub_up hup
  refine ⟨by rw [tick, ageingTick, foldl_ageing], fun n hn => ?_⟩
  have retry : ∀ a b, exec (.dieLinkCrcRetry n a b) s = .next (watch (dieLinkCrcRetry s n a b)) := fun _ _ => hub_up hup
  have down : ∀ up, exec (.dieLinkDown n up) s = .next (watch (dieLinkDown s n up)) := fun _ => hub_up hup
  have restored : exec (.d2dLinkRestored n) s = .next (watch (d2dLinkRestored s n)) := hub_up hup
  refine ⟨?_, ?_, ?_, ?_, ?_, ?_⟩
  · rw [retry, dieLinkCrcRetry_bare hn]
  · rw [retry, dieLinkCrcRetry_repaired hn]
  · rw [retry, dieLinkCrcRetry_retrained hn]
    rfl
  · intro up h0 hlt
    rw [down, dieLinkDown_narrows hn h0 hlt]
  · intro h0
    rw [down, dieLinkDown_zero hn h0]
  · rw [restored, d2dLinkRestored, if_neg (by omega)]
    rfl

end Sys2Proof.Machine
end

section
/-! SUPPORT. The operations of FP_CTRL (R52 to R65): what taking one up and ending one change, and what each of LOAD, PREPARE, APPLY,
DISCARD and UNLOAD does where its preconditions hold. -/

namespace Sys2Proof.Machine

open Sys2Proof

variable {s : State} {a : Agent} {slot : Nat}

/-! ### What a wake event leaves -/

@[simp] theorem seenFrom_fpBusy (s : State) (a : Agent) : fpBusy (seenFrom s a) = fpBusy s := by simp [fpBusy]
@[simp] theorem seenFrom_someContext (s : State) (a : Agent) : someContext (seenFrom s a) = someContext s := by simp [someContext]
@[simp] theorem seenFrom_allDies (s : State) (a : Agent) : allDies (seenFrom s a) = allDies s := by simp [allDies]
@[simp] theorem seenFrom_planLoaded (s : State) (a : Agent) : planLoaded (seenFrom s a) = planLoaded s := by simp [planLoaded]
@[simp] theorem seenFrom_inForce (s : State) (a : Agent) : inForce (seenFrom s a) = inForce s := by simp [inForce]

/-! ### An operation is taken up -/

/-- R54: OP and SLOT recorded. -/
def fpTaken (s : State) (op slot : Nat) : State := { s with plan := { s.plan with lastOp := op, lastSlot := slot } }

theorem fpTaken_plan (s : State) (op slot : Nat) : (fpTaken s op slot).plan = { s.plan with lastOp := op, lastSlot := slot } := rfl

/-- R64: while an operation runs a second one sets REJECTED. -/
theorem fpBegin_busy {op : Nat} {go : State → State} (h : fpBusy s = true) : fpBegin s op slot go = s.setBits kFpStatus 0x200 := if_pos h

theorem fpBegin_free {op : Nat} {go : State → State} (h : fpBusy s = false) (h4 : slot ≤ 4) :
    fpBegin s op slot go = go (fpTaken s op slot) := by
  unfold fpBegin
  rw [if_neg (by simp [h])]
  exact if_neg (by omega)

/-! ### An operation ends -/

theorem OnlyWake.plan {t : State} (h : OnlyWake s t) : t.plan = s.plan := by rw [h]
theorem OnlyWake.com {t : State} (h : OnlyWake s t) : t.com = s.com := by rw [h]
theorem OnlyWake.ctxs {t : State} (h : OnlyWake s t) : t.ctxs = s.ctxs := by rw [h]
theorem OnlyWake.rings {t : State} (h : OnlyWake s t) : t.rings = s.rings := by rw [h]

/-- R52, R543: the end of an operation is recorded in the plan's state. -/
theorem fpEnd_plan (s : State) (st : Status) (e : Option (Nat × Nat)) :
    (fpEnd s st e).plan = { s.plan with op := none, apply := none, result := st, errAt := e } := (signalModule_wake _ _).plan
theorem fpEnd_com (s : State) (st : Status) (e : Option (Nat × Nat)) : (fpEnd s st e).com = s.com := (signalModule_wake _ _).com
theorem fpEnd_ctxs (s : State) (st : Status) (e : Option (Nat × Nat)) : (fpEnd s st e).ctxs = s.ctxs := (signalModule_wake _ _).ctxs
theorem fpEnd_rings (s : State) (st : Status) (e : Option (Nat × Nat)) : (fpEnd s st e).rings = s.rings := (signalModule_wake _ _).rings

/-! ### The five operations where no operation runs -/

/-- R52: LOAD reads the image. -/
theorem fpLoad_reads (h : fpBusy s = false) (h4 : slot ≤ 4) (hsrc : s.ctr64 kFpSrc % 8 = 0) (hctx : someContext s = false)
    (hdies : allDies s = true) : fpLoad s slot = fpRead 1 slot (fpTaken s 1 slot) := by
  have hsrc' : ¬(fpTaken s 1 slot).ctr64 kFpSrc % 8 ≠ 0 := not_not.2 hsrc
  have hgo : (someContext (fpTaken s 1 slot) || !allDies (fpTaken s 1 slot)) = false := by
    rw [show someContext (fpTaken s 1 slot) = false from hctx, show allDies (fpTaken s 1 slot) = true from hdies]
    rfl
  rw [fpLoad, fpBegin_free h h4, if_neg hsrc', hgo, if_neg Bool.false_ne_true]

/-- R52: LOAD is refused while a context exists. -/
theorem fpLoad_context (h : fpBusy s = false) (h4 : slot ≤ 4) (hsrc : s.ctr64 kFpSrc % 8 = 0) (hctx : someContext s = true) :
    fpLoad s slot = fpEnd (fpTaken s 1 slot) .notReady none := by
  have hsrc' : ¬(fpTaken s 1 slot).ctr64 kFpSrc % 8 ≠ 0 := not_not.2 hsrc
  have hctx' : someContext (fpTaken s 1 slot) = true := hctx
  rw [fpLoad, fpBegin_free h h4, if_neg hsrc', hctx', Bool.true_or, if_pos rfl]

/-- R52: PREPARE reads the image. -/
theorem fpPrepare_reads (h : fpBusy s = false) (h4 : slot ≤ 4) (h0 : slot ≠ 0) (hsrc : s.ctr64 kFpSrc % 8 = 0)
    (hplan : planLoaded s = true) : fpPrepare s slot = fpRead 2 slot (fpTaken s 2 slot) := by
  have hsrc' : ¬(slot = 0 ∨ (fpTaken s 2 slot).ctr64 kFpSrc % 8 ≠ 0) := not_or.2 ⟨h0, not_not.2 hsrc⟩
  have hplan' : planLoaded (fpTaken s 2 slot) = true := hplan
  rw [fpPrepare, fpBegin_free h h4, if_neg hsrc', hplan', Bool.not_true, if_neg Bool.false_ne_true]

/-- R56 steps 1 and 2: the APPLY of a slot that waits for the commands executing on the changed plots. -/
def applyRunOf (s : State) (slot : Nat) (ps : List Nat) : ApplyRun :=
  { slot := slot, plots := ps, began := s.time,
    waits := (ringsOfPlots s ps).flatMap (fun e =>
      (e.2.2.cmds.filter Cmd.dispatched).map (fun z => ({ ctx := e.1, ring := e.2.1, serial := z.serial } : CmdRef))) }

theorem applyRunOf_seenFrom (s : State) (a : Agent) (slot : Nat) (ps : List Nat) :
    applyRunOf (seenFrom s a) slot ps = { applyRunOf (seenFrom s a) slot ps with began := s.time } := by
  rw [applyRunOf, seenFrom_time]

/-- R55, R56: APPLY of a quiescent change begins. -/
theorem fpApply_begins {x y : Sections} (h : fpBusy s = false) (h4 : slot ≤ 4) (hx : inForce s = some x)
    (hy : configOf s.plan slot = some y) (hidle : holdsUnstarted s (changedPlots x y) = false)
    (hred : reducesOn s (changedTrees x y) = false) :
    fpApply s slot = { s with plan := { s.plan with
      lastOp := 3, lastSlot := slot, apply := some (applyRunOf s slot (changedPlots x y)) } } := by
  have hx' : inForce (fpTaken s 3 slot) = some x := hx
  have hy' : configOf (fpTaken s 3 slot).plan slot = some y := hy
  have hidle' : holdsUnstarted (fpTaken s 3 slot) (changedPlots x y) = false := hidle
  have hred' : reducesOn (fpTaken s 3 slot) (changedTrees x y) = false := hred
  rw [fpApply, fpBegin_free h h4]
  simp only [hx', hy', hidle', hred', Bool.or_self, Bool.false_eq_true, if_false]
  rfl

/-- R52: DISCARD empties a slot that is not active. -/
theorem fpDiscard_ok (h : fpBusy s = false) (h4 : slot ≤ 4) (h0 : slot ≠ 0) (hact : slot ≠ s.plan.active) :
    fpDiscard s slot = fpEnd { fpTaken s 4 slot with plan := { (fpTaken s 4 slot).plan with slots := tblDel s.plan.slots slot } } .ok none := by
  have hact' : slot ≠ (fpTaken s 4 slot).plan.active := hact
  rw [fpDiscard, fpBegin_free h h4, if_neg h0, if_neg hact']
  rfl

/-- R52: UNLOAD without a context leaves no slot and no configuration in force. -/
theorem fpUnload_ok (h : fpBusy s = false) (h4 : slot ≤ 4) (hctx : someContext s = false) :
    fpUnload s slot = fpEnd (configSwitched { s with plan := { s.plan with
      lastOp := 5, lastSlot := slot, slots := [], active := 0, force := none } } (inForce s)) .ok none := by
  have hctx' : someContext (fpTaken s 5 slot) = false := hctx
  rw [fpUnload, fpBegin_free h h4, hctx', if_neg Bool.false_ne_true]
  rfl

/-! ### The statement -/

/-- R441: an operation of FP_CTRL by an agent that reaches BAR0. -/
theorem hub_viaBar0 {off : Nat} {go : State → State} (hup : s.up = true) (hr : Reaches s a) :
    hub s (viaBar0 s a off go) = .next (watch (go (seenFrom s a))) := by
  rw [hub_up hup, viaBar0_reaches hr]

/-- Settles O18: while one operation runs `fpBegin` rejects; otherwise each operation is what its precondition lemma says. -/
theorem fieldPlanOperationsBegin : Obligations.FieldPlanOperationsBegin := by
  unfold Obligations.FieldPlanOperationsBegin
  intro s a slot hup hr hslot
  have row : ∀ go : State → Nat → State, hub s (viaBar0 s a 0x8000 (fun t => go t (slot % 8))) = .next (watch (go (seenFrom s a) slot)) := by
    intro go
    rw [hub_viaBar0 hup hr, Nat.mod_eq_of_lt hslot]
  have load : exec (.fpLoad a slot) s = .next (watch (fpLoad (seenFrom s a) slot)) := row fpLoad
  have prepare : exec (.fpPrepare a slot) s = .next (watch (fpPrepare (seenFrom s a) slot)) := row fpPrepare
  have apply_ : exec (.fpApply a slot) s = .next (watch (fpApply (seenFrom s a) slot)) := row fpApply
  have discard : exec (.fpDiscard a slot) s = .next (watch (fpDiscard (seenFrom s a) slot)) := row fpDiscard
  have unload : exec (.fpUnload a slot) s = .next (watch (fpUnload (seenFrom s a) slot)) := row fpUnload
  rw [load, prepare, apply_, discard, unload]
  refine ⟨fun hbusy => ?_, fun hfree h4 => ?_⟩
  · rw [← seenFrom_fpBusy s a] at hbusy
    rw [fpLoad, fpPrepare, fpApply, fpDiscard, fpUnload]
    simp only [fpBegin_busy hbusy, and_self]
  rw [← seenFrom_fpBusy s a] at hfree
  refine ⟨?_, ?_, ?_, ?_, ?_, ?_⟩
  · intro hsrc hctx hdies
    rw [fpLoad_reads hfree h4 hsrc (by simpa using hctx) (by simpa using hdies), ← seenFrom_plan s a]
    rfl
  · intro hsrc hctx
    rw [fpLoad_context hfree h4 hsrc (by simpa using hctx)]
    refine ⟨_, rfl, (watch_plan _).trans ?_⟩
    rw [fpEnd_plan, fpTaken_plan, seenFrom_plan]
  · intro h0 hsrc hplan
    rw [fpPrepare_reads hfree h4 h0 hsrc (by simpa using hplan), ← seenFrom_plan s a]
    rfl
  · intro x y hx hy hidle hred
    rw [fpApply_begins hfree h4 (by simpa using hx) (by simpa using hy) hidle hred, applyRunOf_seenFrom, seenFrom_plan]
    rfl
  · intro h0 hact
    rw [fpDiscard_ok hfree h4 h0 (by simpa using hact)]
    refine ⟨_, rfl, (watch_plan _).trans ?_, (watch_com _).trans ?_, (watch_ctxs _).trans ?_, (watch_rings _).trans ?_⟩
    · rw [fpEnd_plan, fpTaken_plan, seenFrom_plan]
    · exact (fpEnd_com _ _ _).trans (seenFrom_com s a)
    · exact (fpEnd_ctxs _ _ _).trans (seenFrom_ctxs s a)
    · exact (fpEnd_rings _ _ _).trans (seenFrom_rings s a)
  · intro hctx
    rw [fpUnload_ok hfree h4 (by simpa using hctx), seenFrom_plan, seenFrom_inForce]

end Sys2Proof.Machine
end

section
/-! SUPPORT. How the operations of FP_CTRL end (R48, R52, R56, R57, R65): what a switch of the configuration in force leaves unchanged,
and what the bank switch, its two timeouts and the end of a read image do. -/

namespace Sys2Proof.Machine

open Sys2Proof

variable {s : State}

/-! ### A switch of the configuration in force -/

/-- `t` is `s` but for what follows the configuration in force: placed field indices, scheduler, frequencies, power and ports. -/
def OnlyFollowsPlan (s t : State) : Prop :=
  t = { s with topo := t.topo, sched := t.sched, aclk := t.aclk, pwr := t.pwr, fab := t.fab }

theorem OnlyFollowsPlan.trans {t u : State} (h : OnlyFollowsPlan s t) (h' : OnlyFollowsPlan t u) : OnlyFollowsPlan s u := by
  unfold OnlyFollowsPlan at *
  rw [h']; rw [h]

theorem OnlyFollowsPlan.plan {t : State} (h : OnlyFollowsPlan s t) : t.plan = s.plan := by rw [h]

theorem OnlyFollowsPlan.foldl {α : Type} {f : State → α → State} (h : ∀ t x, OnlyFollowsPlan t (f t x)) (l : List α) (s : State) :
    OnlyFollowsPlan s (l.foldl f s) :=
  List.foldlRecOn l f rfl (fun t ht x _ => ht.trans (h t x))

theorem placeDoubled_followsPlan (s : State) (f : Nat) : OnlyFollowsPlan s (placeDoubled s f) := by
  unfold placeDoubled
  dsimp only
  split <;> rfl

theorem portsAfterPlan_followsPlan (s : State) : OnlyFollowsPlan s (portsAfterPlan s) := by
  refine OnlyFollowsPlan.foldl (fun t p => ?_) _ s
  split <;> rfl

theorem capAclk_followsPlan (s : State) : OnlyFollowsPlan s (capAclk s) := by
  refine OnlyFollowsPlan.foldl (fun t d => ?_) _ s
  rfl

theorem placeDoubledAll_followsPlan (s : State) : OnlyFollowsPlan s (placeDoubledAll s) :=
  OnlyFollowsPlan.foldl placeDoubled_followsPlan _ s

/-- R52, R53: FP_GEN advanced, and the overlaps of the configuration in force shown. -/
def PlanSt.genAdvanced (p : PlanSt) : PlanSt :=
  { p with gen := p.gen + 1, overlaps := match p.force with | some c => overlapPairs c | none => 0 }

/-- R56, R163: what a switch changes once FP_GEN has advanced. -/
theorem configSwitched_followsPlan (s : State) (old : Option Sections) :
    OnlyFollowsPlan { s with plan := s.plan.genAdvanced } (configSwitched s old) :=
  ((OnlyFollowsPlan.trans (t := keepClocks { s with plan := s.plan.genAdvanced } old) rfl (placeDoubledAll_followsPlan _)).trans
    (capAclk_followsPlan _)).trans (portsAfterPlan_followsPlan _)

theorem configSwitched_plan (s : State) (old : Option Sections) : (configSwitched s old).plan = s.plan.genAdvanced :=
  (configSwitched_followsPlan s old).plan
theorem configSwitched_com (s : State) (old : Option Sections) : (configSwitched s old).com = s.com := by
  rw [configSwitched_followsPlan s old]
theorem configSwitched_ctxs (s : State) (old : Option Sections) : (configSwitched s old).ctxs = s.ctxs := by
  rw [configSwitched_followsPlan s old]
theorem configSwitched_rings (s : State) (old : Option Sections) : (configSwitched s old).rings = s.rings := by
  rw [configSwitched_followsPlan s old]
theorem configSwitched_time (s : State) (old : Option Sections) : (configSwitched s old).time = s.time := by
  rw [configSwitched_followsPlan s old]

/-! ### The end of an APPLY -/

variable {r : ApplyRun}

theorem applyBankSwitch_waits (h : s.plan.apply = some r) (hret : applyReturned s r = false) (hw : applyWaiting s r = true) :
    applyBankSwitch s = s := by
  simp [applyBankSwitch, h, hret, hw]

/-- R56 steps 3 and 4: the slot of the APPLY is active and its configuration in force. -/
def bankSwitched (s : State) (r : ApplyRun) : State :=
  configSwitched { s with plan := { s.plan with active := r.slot, force := configOf s.plan r.slot } } (inForce s)

theorem applyBankSwitch_switches (h : s.plan.apply = some r) (hret : applyReturned s r = false) (hw : applyWaiting s r = false) :
    applyBankSwitch s = fpEnd (applyTimed (bankSwitched s r) r.began) .ok none := by
  simp [applyBankSwitch, h, hret, hw, bankSwitched]

theorem applyTimed_plan (s : State) (t : DWord) :
    (applyTimed s t).plan = { s.plan with applyNs := min 0xFFFFFFFF (s.time - t).toNat } := rfl
theorem applyTimed_com (s : State) (t : DWord) : (applyTimed s t).com = s.com := rfl
theorem applyTimed_ctxs (s : State) (t : DWord) : (applyTimed s t).ctxs = s.ctxs := rfl
theorem applyTimed_rings (s : State) (t : DWord) : (applyTimed s t).rings = s.rings := rfl

theorem applyWaitTimeout_ends (h : s.plan.apply = some r) (hw : applyWaiting s r = true) :
    applyWaitTimeout s = fpEnd (applyTimed s r.began) .notReady none := by
  simp [applyWaitTimeout, h, hw]

theorem applyAckTimeout_ends (die : Nat) (h : s.plan.apply = some r) (hw : applyWaiting s r = false) (hret : applyReturned s r = false) :
    applyAckTimeout s die = fpEnd (logEntry (applyTimed s r.began) 6 8 (statusCode .notReady) noCtx die) .notReady none := by
  simp [applyAckTimeout, h, hw, hret]

theorem OnlyBackground.plan {t : State} (h : OnlyBackground s t) : t.plan = s.plan := by rw [h]
theorem OnlyBackground.com {t : State} (h : OnlyBackground s t) : t.com = s.com := by rw [h]
theorem OnlyBackground.ctxs {t : State} (h : OnlyBackground s t) : t.ctxs = s.ctxs := by rw [h]
theorem OnlyBackground.rings {t : State} (h : OnlyBackground s t) : t.rings = s.rings := by rw [h]

/-- R501: an event of a class above 1 merges with no entry: it has an entry of its own, at the place that WR names. -/
theorem logEntry_finds (s : State) {cls : Nat} (unit st ctx loc : Nat) (h : 1 < cls) :
    tblFind (logEntry s cls unit st ctx loc).elog.ents (s.elog.wr % 4096) =
      some { time := s.time, seq := s.elog.wr, cls := cls, unit := unit, status := st, count := 1, ctx := ctx, loc := loc } := by
  unfold logEntry
  dsimp only
  split
  · rw [if_neg (by simp [LogEnt.merges]; omega)]
    exact tblFind_tblIns_self _ _ _
  · exact tblFind_tblIns_self _ _ _

theorem fpEnd_elog (s : State) (st : Status) (e : Option (Nat × Nat)) : (fpEnd s st e).elog = s.elog := by
  unfold fpEnd
  rw [signalModule_wake]
  rfl

/-! ### The end of a LOAD or PREPARE -/

variable {o : FpOp}

/-- R48: what a read from host memory brings; nothing where the length is beyond the largest image. -/
def hostImage (s : State) (o : FpOp) : List Byte := memRead s.com.host o.addr (if o.len ≤ 4194304 then o.len else 0)

theorem fpOperationDone_none (h : s.plan.op = none) : fpOperationDone s = s := by
  unfold fpOperationDone
  rw [h]

/-- R434: a failed signature is counted. -/
def signatureCounted (s : State) (st : Status) : State := if st == .signature then s.bump kSigFail 1 else s

theorem signatureCounted_plan (s : State) (st : Status) : (signatureCounted s st).plan = s.plan := by
  unfold signatureCounted; split <;> rfl
theorem signatureCounted_com (s : State) (st : Status) : (signatureCounted s st).com = s.com := by
  unfold signatureCounted; split <;> rfl

theorem fpOperationDone_invalid (h : s.plan.op = some o) (hb : o.boot = false) {f : PlanFail}
    (hv : validateImage s (hostImage s o) o.len o.op = .inr f) :
    fpOperationDone s = loadEnded (fpEnd (signatureCounted s f.st) f.st f.at_) o f.st := by
  unfold hostImage at hv
  unfold fpOperationDone
  simp only [h, hb, Bool.false_eq_true, if_false, hv]
  rfl

theorem fpOperationDone_load (h : s.plan.op = some o) (hb : o.boot = false) {img : PlanImage}
    (hv : validateImage s (hostImage s o) o.len o.op = .inl img) (hop : o.op = 1) :
    fpOperationDone s = loadEnded (fpEnd (loadDone s img) .ok none) o .ok := by
  unfold hostImage at hv
  unfold fpOperationDone
  simp only [h, hb, Bool.false_eq_true, if_false, hv, if_pos hop]

theorem fpOperationDone_prepare (h : s.plan.op = some o) (hb : o.boot = false) {img : PlanImage}
    (hv : validateImage s (hostImage s o) o.len o.op = .inl img) (hop : o.op ≠ 1) :
    fpOperationDone s = fpEnd { s with plan := { s.plan with slots := tblIns s.plan.slots o.slot img } } .ok none := by
  unfold hostImage at hv
  unfold fpOperationDone
  simp only [h, hb, Bool.false_eq_true, if_false, hv, if_neg hop]

/-- R520: the end of a LOAD that is not the one of step 10 touches the start-up state only. -/
theorem loadEnded_boot (hb : o.boot = false) (s : State) (st : Status) :
    loadEnded s o st = { s with boot := (loadEnded s o st).boot } := by
  unfold loadEnded
  rw [hb, if_neg Bool.false_ne_true]
  split <;> rfl

theorem loadEnded_plan (hb : o.boot = false) (s : State) (st : Status) : (loadEnded s o st).plan = s.plan := by
  rw [loadEnded_boot hb]
theorem loadEnded_com (hb : o.boot = false) (s : State) (st : Status) : (loadEnded s o st).com = s.com := by
  rw [loadEnded_boot hb]

theorem initCarves_plan (s : State) : (initCarves s).plan = s.plan := rfl

/-- R52: the plan of a LOAD stands alone in slot 0, active and in force. -/
theorem loadDone_plan (s : State) (img : PlanImage) : (loadDone s img).plan =
    ({ s.plan with slots := [(0, img)], active := 0, force := some img.secs } : PlanSt).genAdvanced := by
  unfold loadDone
  dsimp only
  rw [configSwitched_plan, initCarves_plan]

/-! ### The statement -/

/-- Settles O19: each end of an operation is `fpEnd` of what the case's lemma names, and `fpEnd_plan` says what that records. -/
theorem fieldPlanOperationsEnd : Obligations.FieldPlanOperationsEnd := by
  unfold Obligations.FieldPlanOperationsEnd
  intro s hup
  have switch : exec .applyBankSwitch s = .next (watch (applyBankSwitch s)) := hub_up hup
  have waitOver : exec .applyWaitTimeout s = .next (watch (applyWaitTimeout s)) := hub_up hup
  have ackOver : ∀ die, exec (.applyAckTimeout die) s = .next (watch (applyAckTimeout s die)) := fun _ => hub_up hup
  have opDone : exec .fpOperationDone s = .next (watch (fpOperationDone s)) := hub_up hup
  refine ⟨?_, ?_, ?_, ?_, ?_⟩
  · intro r hr hret
    refine ⟨fun hw => by rw [switch, applyBankSwitch_waits hr hret hw], fun hw => ?_⟩
    rw [switch, applyBankSwitch_switches hr hret hw]
    refine ⟨_, rfl, ?_⟩
    simp only [watch_plan, watch_com, watch_ctxs, watch_rings, fpEnd_plan, fpEnd_com, fpEnd_ctxs, fpEnd_rings, applyTimed_plan, applyTimed_com,
      applyTimed_ctxs, applyTimed_rings,
      bankSwitched, configSwitched_plan, PlanSt.genAdvanced, configSwitched_com, configSwitched_ctxs, configSwitched_rings, configSwitched_time, and_self]
  · intro r hr hw
    rw [waitOver, applyWaitTimeout_ends hr hw]
    refine ⟨_, rfl, ?_⟩
    simp only [watch_plan, watch_com, watch_ctxs, watch_rings, fpEnd_plan, fpEnd_com, fpEnd_ctxs, fpEnd_rings, applyTimed_plan, applyTimed_com,
      applyTimed_ctxs, applyTimed_rings, and_self]
  · intro r die hr hw hret
    have logged := logEntry_background (applyTimed s r.began) 6 8 (statusCode .notReady) noCtx die
    rw [ackOver, applyAckTimeout_ends die hr hw hret]
    refine ⟨_, rfl, ?_⟩
    simp only [watch_plan, watch_com, watch_ctxs, watch_rings, watch_elog, fpEnd_plan, fpEnd_com, fpEnd_ctxs, fpEnd_rings, fpEnd_elog,
      logged.plan, logged.com, logged.ctxs, logged.rings, applyTimed_plan, applyTimed_com, applyTimed_ctxs,
      applyTimed_rings, true_and]
    exact logEntry_finds (applyTimed s r.began) 8 0x23 0xFFFF die (by decide)
  · intro hnone
    rw [opDone, fpOperationDone_none hnone]
  · intro o ho hb
    refine ⟨fun f hv => ?_, fun img hv => ⟨fun hop => ?_, fun hop => ?_⟩⟩
    · rw [opDone, fpOperationDone_invalid ho hb hv]
      refine ⟨_, rfl, ?_⟩
      simp only [watch_plan, watch_com, loadEnded_plan hb, loadEnded_com hb, fpEnd_plan, fpEnd_com, signatureCounted_plan,
        signatureCounted_com, and_self]
    · rw [opDone, fpOperationDone_load ho hb hv hop]
      refine ⟨_, rfl, ?_⟩
      simp only [watch_plan, loadEnded_plan hb, fpEnd_plan, loadDone_plan, PlanSt.genAdvanced, and_self]
    · rw [opDone, fpOperationDone_prepare ho hb hv hop]
      refine ⟨_, rfl, ?_⟩
      simp only [watch_plan, watch_com, fpEnd_plan, fpEnd_com, and_self]

end Sys2Proof.Machine
end

section
/-! SUPPORT. COMMAND_DISPATCH (R59, R108, R131 to R135, R149, R153): the conditions of the ring, the arbitration of the engine, and the
start of an attempt, one lemma for each stage. -/

namespace Sys2Proof.Machine

open Sys2Proof

variable {s : State} {c n inst : Nat} {x : Cmd}

/-! ### The conditions of the ring -/

theorem commandDispatch_none (h : dispatchPoint (s.ring c n) = none) : commandDispatch s c n inst = s := by
  unfold commandDispatch
  rw [h]

theorem commandDispatch_inactive (h : ringActs s c n = false) : commandDispatch s c n inst = s := by
  unfold commandDispatch
  split
  · rfl
  · simp [h]

theorem commandDispatch_fenced (hx : dispatchPoint (s.ring c n) = some x)
    (hf : ((earlier (s.ring c n) x).any (fun y => y.open_ && isFence (dOpcode y.desc))) = true) : commandDispatch s c n inst = s := by
  unfold commandDispatch
  simp only [hx, hf, Bool.or_true, if_true]

/-- What becomes of a waiting command of an active ring that no earlier fence holds back, its opcode not privileged. -/
theorem commandDispatch_unfenced (hx : dispatchPoint (s.ring c n) = some x) (hring : ringActs s c n = true) (hp : x.phase = .waiting)
    (hop : dOpcode x.desc < 0x80)
    (hf : ((earlier (s.ring c n) x).any (fun y => y.open_ && isFence (dOpcode y.desc))) = false) :
    commandDispatch s c n inst =
      if x.cancelMark then finishCmd s c n x .cancelled false noField
      else if !queueServed s c n then finishCmd s c n x .notReady false noField
      else if plotStopped s c || !cmdReady s c n x then s
      else issue s c n x inst := by
  have hgo : (!ringActs s c n || x.phase != .waiting
      || ((earlier (s.ring c n) x).any (fun y => y.open_ && isFence (dOpcode y.desc)))) = false := by
    rw [hring, hp, hf]; rfl
  unfold commandDispatch
  simp only [hx, hgo, Bool.false_eq_true, if_false, if_neg (Nat.not_le.2 hop)]
  rfl

/-! ### The issue of a command that is ready -/

theorem issue_fence (h : s.Awake) (hf : isFence (dOpcode x.desc) = true) : issue s c n x inst = startFence s c n x := by
  obtain ⟨hst, hmv, hsh⟩ := h
  simp [issue, hst, hmv, hsh, hf]

theorem issue_engine (h : s.Awake) (hf : isFence (dOpcode x.desc) = false) : issue s c n x inst = arbitrate s c n x inst := by
  obtain ⟨hst, hmv, hsh⟩ := h
  simp [issue, hst, hmv, hsh, hf]

theorem arbitrate_lost (h : winner (noteEligible s) (dOpcode x.desc) inst ≠ some (c, n)) :
    arbitrate s c n x inst = noteEligible s := by
  simp [arbitrate, h]

theorem arbitrate_won (h : winner (noteEligible s) (dOpcode x.desc) inst = some (c, n)) :
    arbitrate s c n x inst = dispatchTo (noteEligible s) c n x inst := by
  simp [arbitrate, h]

/-! ### The winner of an engine -/

/-- R46, R131: the checks at the dispatch point: the feature bits each time, checks 6 to 8 at the first. -/
def pointChecks (s : State) (c : Nat) (x : Cmd) : Option (Status × Nat) :=
  firstFail [featureCheck s x.desc (paramOf s c x), if x.param.isNone then dispatchChecks s c x.desc (paramOf s c x) else none]

theorem dispatchTo_waits (h : mustWait s c n x inst = true) : dispatchTo s c n x inst = s := if_pos h

theorem dispatchTo_refused (hw : mustWait s c n x inst = false) {st : Status} {det : Nat} (h : pointChecks s c x = some (st, det)) :
    dispatchTo s c n x inst = finishCmd s c n x st false det := by
  unfold pointChecks at h
  unfold dispatchTo
  simp only [hw, Bool.false_eq_true, if_false, h]
  rfl

theorem dispatchTo_passes (hw : mustWait s c n x inst = false) (h : pointChecks s c x = none) :
    dispatchTo s c n x inst = reachable s c n x inst := by
  unfold pointChecks at h
  unfold dispatchTo
  simp only [hw, Bool.false_eq_true, if_false, h]

theorem reachable_of_ports (h : (readGrans s c (accessesNow s c x)).filter (onRetiredPort s) = []) :
    reachable s c n x inst = enterEngine s c n x inst := by
  unfold reachable
  rw [h]
  rfl

/-- R135: with its granules and KV space at hand the attempt starts. -/
theorem enterEngine_starts (hb : firstBreach s c (accessesNow s c x) = none) {v w : State} {got : List Nat} {kv : List KvHold}
    (ha : allocWrites c (accessesNow s c x) s [] = (.done v, got)) (hk : takeKv v (refOf c n x) x.desc (paramOf s c x) = .done w kv) :
    enterEngine s c n x inst = startAttempt w c n x inst got kv := by
  unfold enterEngine
  simp only [hb, ha, hk]

/-! ### The statement -/

/-- Settles O32: the conditions of the ring by `commandDispatch_unfenced`, then stage by stage: the issue, the arbitration, the checks,
the ports, the allocations. -/
theorem dispatchFollowsTheConditionsOfTheRing : Obligations.DispatchFollowsTheConditionsOfTheRing := by
  unfold Obligations.DispatchFollowsTheConditionsOfTheRing
  intro s c n inst hup
  have row : exec (.commandDispatch c n inst) s = .next (watch (commandDispatch s c n inst)) := hub_up hup
  rw [row]
  refine ⟨fun h => by rw [commandDispatch_none h], fun h => by rw [commandDispatch_inactive h], ?_⟩
  intro x hx hring hp hop
  refine ⟨fun hf => by rw [commandDispatch_fenced hx hf], fun hf => ?_⟩
  rw [commandDispatch_unfenced hx hring hp hop hf]
  refine ⟨fun hc => by rw [if_pos hc], fun hc hq => ?_, fun hc hq hheld => ?_, fun hc hq hstop hready hawake => ?_⟩
  · rw [if_neg (by simp [hc]), if_pos (by simp [hq])]
  · rw [if_neg (by simp [hc]), if_neg (by simp [hq]), if_pos (by simpa using hheld)]
  rw [if_neg (by simp [hc]), if_neg (by simp [hq]), if_neg (by simp [hstop, hready])]
  refine ⟨fun hfence => by rw [issue_fence hawake hfence]; rfl, ?_⟩
  rintro hfence u rfl
  rw [issue_engine hawake hfence]
  refine ⟨fun hlost => by rw [arbitrate_lost hlost],
    fun hwon hwait => by rw [arbitrate_won hwon, dispatchTo_waits hwait], fun hwon hwait => ?_⟩
  rw [arbitrate_won hwon]
  refine ⟨fun st det hfail => by rw [dispatchTo_refused hwait hfail], ?_⟩
  intro hpass hports hbreach v got w kv halloc hkv
  rw [dispatchTo_passes hwait hpass, reachable_of_ports hports, enterEngine_starts hbreach halloc hkv]

end Sys2Proof.Machine
end

section
/-! SUPPORT. The engines that work alone (R135, R141, R161): what a row does to a running command, by the command's opcode and the
poison that its attempt reads. -/

namespace Sys2Proof.Machine

open Sys2Proof

variable {s : State} {c n ser : Nat} {env : RunEnv} {x : Cmd} {a : Attempt} {is : List Byte → Bool}

/-! ### The engine time of an attempt -/

/-- R161: the engine time of a running attempt counts from its start to now. -/
theorem attemptNs_running (ha : x.att = some a) (hp : x.phase = .running) : attemptNs s x = (s.time - a.t0).toNat := by
  unfold attemptNs
  rw [ha, hp]
  rfl

/-! ### The rows -/

/-- The row's test of its command: it fails for no running command of the row's opcode. -/
theorem fits_running (hp : x.phase = .running) (his : is x.desc = true) : (x.phase != .running || !is x.desc) = false := by
  rw [hp, his]
  rfl

theorem attempt_unfit {go : Cmd → Attempt → State} (hx : s.cmd c n ser = some x) (ha : x.att = some a) (his : is x.desc = false) :
    attempt s c n ser env is go = s := by
  unfold attempt
  simp only [hx, ha, his, Bool.not_false, Bool.or_true, if_true]

theorem attempt_clean {go : Cmd → Attempt → State} (hx : s.cmd c n ser = some x) (ha : x.att = some a) (hp : x.phase = .running)
    (his : is x.desc = true) (hclean : attemptPoison s c x a = []) : attempt s c n ser env is go = go x a := by
  unfold attempt
  simp only [hx, ha, fits_running hp his, Bool.false_eq_true, if_false, hclean]

theorem attempt_poisoned {go : Cmd → Attempt → State} (hx : s.cmd c n ser = some x) (ha : x.att = some a) (hp : x.phase = .running)
    (his : is x.desc = true) (hpois : attemptPoison s c x a ≠ []) :
    attempt s c n ser env is go = consumed s c n x a (attemptPoison s c x a) env.rereadsClean := by
  cases hus : attemptPoison s c x a with
  | nil => exact absurd hus hpois
  | cons u us =>
    unfold attempt
    simp only [hx, ha, fits_running hp his, Bool.false_eq_true, if_false, hus]

/-- R135, R161: an attempt that reads no poison ends with what its engine computes, and is charged. -/
theorem engineRow_clean {run : Job → Outcome_} (hx : s.cmd c n ser = some x) (ha : x.att = some a) (hp : x.phase = .running)
    (his : is x.desc = true) (hclean : attemptPoison s c x a = []) :
    engineRow s c n ser env is run = (accountAttempt s c x true).setCmd c n
      { x with phase := .computed, out := some (run (jobOf s c x a)), att := some { a with t1 := s.time } } := by
  have hself : s.cmd c n x.serial = some x := by rw [cmd_serial hx, hx]
  exact (attempt_clean hx ha hp his hclean).trans (endAttempt_running hself hp ha)

/-! ### The statement -/

/-- Settles O34: every row is `engineRow`, which leaves a command of another opcode alone, ends a clean attempt (`engineRow_clean`) and
charges it (`accountAttempt_charged`), or consumes the poison. -/
theorem engineRowsStageTheirOutcomeAndCharge : Obligations.EngineRowsStageTheirOutcomeAndCharge := by
  unfold Obligations.EngineRowsStageTheirOutcomeAndCharge
  intro s c n ser env x a hup hx ha hp i is run hrow
  have row : exec i s = .next (watch (engineRow s c n ser env is run)) := by
    rcases hrow with ⟨rfl, rfl, rfl⟩ | ⟨rfl, rfl, rfl⟩ | ⟨rfl, rfl, rfl⟩ | ⟨rfl, rfl, rfl⟩ | ⟨rfl, rfl, rfl⟩ | ⟨rfl, rfl, rfl⟩
      | ⟨rfl, rfl, rfl⟩ | ⟨rfl, rfl, rfl⟩ | ⟨rfl, rfl, rfl⟩ | ⟨rfl, rfl, rfl⟩ | ⟨rfl, rfl, rfl⟩ | ⟨rfl, rfl, rfl⟩
      | ⟨rfl, rfl, rfl⟩ | ⟨rfl, rfl, rfl⟩ | ⟨rfl, rfl, rfl⟩ <;> exact hub_up hup
  rw [row]
  refine ⟨fun his => ?unfit, fun his hclean => ⟨?ends, ?charge⟩, fun his hpois => ?poisoned⟩
  case unfit => rw [engineRow, attempt_unfit hx ha his]
  case ends => rw [engineRow_clean hx ha hp his hclean]
  case charge =>
    rintro u cls ns q rfl hst hcls rfl rfl
    obtain ⟨frame, others, own⟩ := accountAttempt_charged hcls ha (attemptNs_running ha hp) hst
    exact ⟨frame, others, _, rfl, own⟩
  case poisoned => rw [engineRow, attempt_poisoned hx ha hp his hpois]

end Sys2Proof.Machine
end

section
/-! SUPPORT. Requests to a ring's registers, to its doorbell and to EVC_ADD (R106 to R111, R144, R149, R150, R152, R544): where such a
request lands, and what each operation does in each state of the ring. -/

namespace Sys2Proof.Machine

open Sys2Proof

variable {s : State} {f c n page : Nat} {v : Word}

/-! ### Requests that reach their ring -/

/-- R151: an operation written to RING_CTRL of a ring in the window of the context that CTXSEL shows. -/
theorem hub_ringWindow (go : State → Nat → Nat → State) (hup : s.up = true) (hs : Shows s f c) (hn : n < 64) :
    hub s (viaWindow s f (ringOff (n % 64) 4) (fun c => go s c (n % 64))) = .next (watch (wakeSource (go s c n) 1)) := by
  rw [hub_up hup, viaWindow_shows hs, Nat.mod_eq_of_lt hn]

/-- R448: a doorbell of a page of the function is a doorbell of the page's context. -/
theorem doorbell_reaches (hopen : barOpen s f = true) (hflr : (s.fn f).flr = false) (hpage : page < fnCtxCount s f) (hn : n < 64) :
    doorbell s f page n v = wakeSource (ringDoorbell s (fnCtxBase s f + page) n v) 1 := by
  unfold doorbell viaBar4 doorbellUnit
  rw [if_neg (by simp [hopen]), if_neg (by simp [hflr]), if_neg (by omega), Nat.mul_div_cancel_left n (by decide)]

/-! ### Doorbells -/

/-- R111: what the device asks of a doorbell to a ring that takes doorbells. -/
theorem doorbellOk_iff (hr : (s.ring c n).st = .running ∨ (s.ring c n).st = .halted ∨ (s.ring c n).st = .frozen)
    (hc : (s.ctx c).st = .active ∨ (s.ctx c).st = .frozen) :
    doorbellOk s c n v = true ↔ v.toNat / 2 ^ 20 % 2 ^ 12 = (s.ring c n).epoch.toNat % 4096 ∧ v.toNat / 2 ^ 17 % 8 = 0
      ∧ slotDist (s.ring c n) (s.ring c n).tail (doorbellTail (s.ring c n) v) ≤ ringSpace (s.ring c n) := by
  have hring : ((s.ring c n).st == .running || (s.ring c n).st == .halted || (s.ring c n).st == .frozen) = true := by
    rcases hr with h | h | h <;> rw [h] <;> rfl
  have hctx : ((s.ctx c).st == .active || (s.ctx c).st == .frozen) = true := by
    rcases hc with h | h <;> rw [h] <;> rfl
  unfold doorbellOk
  simp only [hring, hctx, Bool.true_and, Bool.and_eq_true, beq_iff_eq, decide_eq_true_eq, and_assoc, bits, Nat.shiftRight_eq_div_pow]
  rfl

theorem ringDoorbell_accepted (h : doorbellOk s c n v = true) :
    ringDoorbell s c n v = wakeSource (s.setRing c n { s.ring c n with tail := doorbellTail (s.ring c n) v }) 4 := if_pos h

/-- R111: an ignored doorbell is counted. -/
theorem ringDoorbell_ignored (h : ¬doorbellOk s c n v = true) : ringDoorbell s c n v = s.bump16 (kDbDrops c n) 1 := if_neg h

/-- Settles O22: a doorbell that reaches its ring is accepted by `doorbellOk_iff`, and `bump16_low` says how an ignored one counts. -/
theorem doorbellAcceptedOnlyByRule : Obligations.DoorbellAcceptedOnlyByRule := by
  unfold Obligations.DoorbellAcceptedOnlyByRule
  rintro s f page n v hup hopen hflr hpage hn _ _ rfl rfl hring hctx _ rfl
  have row : exec (.doorbell f page n v) s = .next (watch (wakeSource (ringDoorbell s (fnCtxBase s f + page) n v) 1)) := by
    rw [← doorbell_reaches hopen hflr hpage hn, ← hub_up hup]
    exact congrArg (fun m => hub s (doorbell s f page m v)) (Nat.mod_eq_of_lt hn)
  rw [row]
  refine ⟨fun hrule => ?_, fun hrule => ?_⟩
  · rw [ringDoorbell_accepted ((doorbellOk_iff hring hctx).2 hrule)]
    rfl
  · obtain ⟨w, hw, hlow, hhigh⟩ := bump16_low s (kDbDrops (fnCtxBase s f + page) n)
    rw [ringDoorbell_ignored (mt (doorbellOk_iff hring hctx).1 hrule), hw]
    exact ⟨w, rfl, hlow, hhigh⟩

/-! ### RESUME, FLUSH and DISABLE -/

theorem ringResume_halted (h : (s.ring c n).st = .halted) : ringResume s c n = s.setRing c n { s.ring c n with st := .running } := by
  simp [ringResume, h]

theorem ringResume_refused (h : (s.ring c n).st ≠ .halted) : ringResume s c n = ringErr s c n .notReady := by
  simp [ringResume, h]

/-- R150 steps 1 and 2: the ring flushes, to take the state `to_` at the end, and its dispatched commands are killed. -/
def flushBegun (s : State) (c n : Nat) (to_ : RingSt) : State :=
  killRing (s.setRing c n { s.ring c n with st := .flushing, after := to_ }) c n .flush

theorem ringFlush_live (h : (s.ring c n).st = .running ∨ (s.ring c n).st = .halted) : ringFlush s c n = flushBegun s c n .running := by
  simp [ringFlush, h, flushBegun]

theorem ringFlush_frozen (h : (s.ring c n).st = .frozen) : ringFlush s c n = flushEnd (killRing s c n .flush) c n .frozen := by
  simp [ringFlush, h]

theorem ringFlush_refused (h : (s.ring c n).st = .disabled ∨ (s.ring c n).st = .flushing) :
    ringFlush s c n = ringErr s c n .notReady := by
  rcases h with h | h <;> simp [ringFlush, h]

theorem ringDisable_live (h : (s.ring c n).st = .running ∨ (s.ring c n).st = .halted) :
    ringDisable s c n = flushBegun s c n .disabled := by
  simp [ringDisable, h, flushBegun]

theorem ringDisable_refused (h : (s.ring c n).st ≠ .running) (h' : (s.ring c n).st ≠ .halted) :
    ringDisable s c n = ringErr s c n .notReady := by
  simp [ringDisable, h, h']

theorem flushComplete_flushing (h : (s.ring c n).st = .flushing) : flushComplete s c n = flushEnd s c n (s.ring c n).after := by
  simp [flushComplete, h]

theorem flushComplete_idle (h : (s.ring c n).st ≠ .flushing) : flushComplete s c n = s := by
  simp [flushComplete, h]

/-- Settles O24: each operation in each state of its ring is what the lemma of that case says. -/
theorem ringOperationsFollowTheStateTable : Obligations.RingOperationsFollowTheStateTable := by
  unfold Obligations.RingOperationsFollowTheStateTable
  intro s f c n hup hn
  have complete : exec (.flushComplete c n) s = .next (watch (flushComplete s c n)) := hub_up hup
  rw [complete]
  refine ⟨fun hs => ?_, ?_, fun h => by rw [flushComplete_idle h]⟩
  · have resume : exec (.ringResume f n) s = .next (watch (wakeSource (ringResume s c n) 1)) := hub_ringWindow ringResume hup hs hn
    have flush : exec (.ringFlush f n) s = .next (watch (wakeSource (ringFlush s c n) 1)) := hub_ringWindow ringFlush hup hs hn
    have disable : exec (.ringDisable f n) s = .next (watch (wakeSource (ringDisable s c n) 1)) := hub_ringWindow ringDisable hup hs hn
    rw [resume, flush, disable]
    refine ⟨fun h => ?_, fun h => ?_, fun h => ?_, fun h => ?_, fun h => ?_⟩
    · rw [ringResume_halted h]
    · rw [ringResume_refused h]
      rfl
    · rw [ringFlush_live h, ringDisable_live h]
      exact ⟨rfl, rfl⟩
    · rw [ringFlush_frozen h, ringDisable_refused (by simp [h]) (by simp [h])]
      exact ⟨rfl, rfl⟩
    · rw [ringFlush_refused h, ringDisable_refused (by rcases h with h | h <;> simp [h]) (by rcases h with h | h <;> simp [h])]
      exact ⟨rfl, rfl⟩
  · rintro h _ rfl
    rw [flushComplete_flushing h]
    rfl

/-! ### ENABLE -/

theorem ringEnable_enabled (h : (s.ring c n).st ≠ .disabled) : ringEnable s c n = ringErr s c n .notReady := by
  simp [ringEnable, h]

theorem ringEnable_fails {st : Status} (h : (s.ring c n).st = .disabled) (hc : enableChecks s c n = .inr st) :
    ringEnable s c n = ringErr s c n st := by
  simp [ringEnable, h, hc]

/-- The ring `r` as ENABLE starts it: empty, with `d` slots. -/
def Ring.started (r : Ring) (d : Nat) : Ring :=
  { r with st := .running, depth := d, head := 0, tail := 0, retire := 0, serial := 0, cmds := [] }

theorem ringEnable_passes {u : State} (h : (s.ring c n).st = .disabled) (hc : enableChecks s c n = .inl u) :
    ringEnable s c n = u.setRing c n ((u.ring c n).started (queueDepth s c n)) := by
  simp [ringEnable, h, hc, Ring.started]

/-- R544 condition 1: the plot defines no queue of the ring's class. -/
theorem enableChecks_undefined (h : queueEntry s (ctxPlot s c) (ringClass s c n) = none) : enableChecks s c n = .inr .notReady := by
  simp [enableChecks, h]

section
variable {q : QueueEnt} (hq : queueEntry s (ctxPlot s c) (ringClass s c n) = some q) (hidx : ringIndex s c n < q.queues)
  (hring : (enabledRings s c).length < 64) (htotal : enabledTotal s < 65536)
include hq hidx hring htotal

/-- R544: a wrong base has the status of a shared queue, the check before it. -/
theorem enableChecks_bases (hbase : ringSq s c n % 4096 ≠ 0 ∨ ringCq s c n % 4096 ≠ 0) : enableChecks s c n = .inr .format := by
  unfold enableChecks
  rw [hq, Option.filter_some_pos (by simpa using hidx)]
  dsimp only
  rw [if_neg (by omega), ite_eq_left_iff.2 (fun _ => if_pos hbase)]

/-- R544: with both areas in host memory nothing is left to check or to allocate. -/
theorem enableChecks_host
    (halone : ∀ m ∈ enabledRings s c, m ≠ n → ¬(ringClass s c m = ringClass s c n ∧ ringIndex s c m = ringIndex s c n))
    (hsq : ringSq s c n % 4096 = 0) (hcq : ringCq s c n % 4096 = 0) (hhost : ringHost s c n = true) :
    enableChecks s c n = .inl s := by
  have hshared : (enabledRings s c).any
      (fun m => m != n && ringClass s c m == ringClass s c n && ringIndex s c m == ringIndex s c n) = false := by
    simpa [and_assoc] using halone
  unfold enableChecks
  rw [hq, Option.filter_some_pos (by simpa using hidx)]
  dsimp only
  rw [if_neg (by omega), if_neg (by simp [hshared]), if_neg (by omega), if_pos hhost]

end

theorem queueDepth_of_queueEntry {q : QueueEnt} (hq : queueEntry s (ctxPlot s c) (ringClass s c n) = some q) :
    queueDepth s c n = q.depth := by
  unfold queueDepth
  rw [hq]

/-- Settles O25: ENABLE is its checks (`enableChecks_undefined`, `enableChecks_bases`, `enableChecks_host`), then the start of the ring. -/
theorem enableTakesIndicesToZero : Obligations.EnableTakesIndicesToZero := by
  unfold Obligations.EnableTakesIndicesToZero
  intro s f c n hup hn hs
  have row : exec (.ringEnable f n) s = .next (watch (wakeSource (ringEnable s c n) 1)) := hub_ringWindow ringEnable hup hs hn
  rw [row]
  refine ⟨fun h => by rw [ringEnable_enabled h]; rfl, fun h => ⟨fun hq => ?_, fun st hc => ?_, ?_, fun u hc => ?_⟩⟩
  · rw [ringEnable_fails h (enableChecks_undefined hq)]
    rfl
  · rw [ringEnable_fails h hc]
    rfl
  · intro q hq hidx hring htotal halone
    refine ⟨fun hbase => ?_, fun hsq hcq hhost => ?_⟩
    · rw [ringEnable_fails h (enableChecks_bases hq hidx hring htotal hbase)]
      rfl
    · rw [ringEnable_passes h (enableChecks_host hq hidx hring htotal halone hsq hcq hhost), queueDepth_of_queueEntry hq]
      rfl
  · rw [ringEnable_passes h hc]
    rfl

/-! ### EVC_ADD -/

theorem evcAdd_nothing {k inc : Nat} (h : (s.ctx c).st = .free ∨ inc = 0) : evcAdd s c k inc = s := if_pos (by simpa using h)

theorem evcAdd_some {k inc : Nat} (h : (s.ctx c).st ≠ .free) (h0 : inc ≠ 0) : evcAdd s c k inc = evcInc s c k inc :=
  if_neg (by simp [h, h0])

theorem evcInc_fits {k inc : Nat} (h : (s.evctr c k).toNat + inc < 2 ^ 64) :
    evcInc s c k inc = s.setEvctr c k (s.evctr c k + BitVec.ofNat 64 inc) := by
  have hsum : BitVec.ofNat 64 ((s.evctr c k).toNat + inc) = s.evctr c k + BitVec.ofNat 64 inc := by
    rw [BitVec.ofNat_add, BitVec.ofNat_toNat, BitVec.setWidth_eq]
  rw [← hsum]
  exact if_neg (by omega)

/-- R144: an increment past 2^64 − 1 leaves the counter there and is logged. -/
theorem evcInc_saturates {k inc : Nat} (h : 2 ^ 64 ≤ (s.evctr c k).toNat + inc) :
    evcInc s c k inc = logEntry (s.setEvctr c k (BitVec.allOnes 64)) 6 8 0 c k := if_pos h

/-- Settles O26: an increment of a counter in range is `evcInc`, exact (`evcInc_fits`) or held at its bound (`evcInc_saturates`). -/
theorem eventCounterAdds : Obligations.EventCounterAdds := by
  unfold Obligations.EventCounterAdds
  intro s f c k inc hup hs hk hinc
  have row : exec (.evcAdd f k inc) s = .next (watch (wakeSource (evcAdd s c k inc) 1)) := by
    refine (hub_up hup).trans ?_
    rw [viaWindow_shows hs, Nat.mod_eq_of_lt hk, Nat.mod_eq_of_lt hinc]
  rw [row]
  refine ⟨fun h => by rw [evcAdd_nothing h], fun hlive h0 => ⟨fun hfits => ?_, fun hover => ?_⟩⟩
  · rw [evcAdd_some hlive h0, evcInc_fits hfits]
  · rw [evcAdd_some hlive h0, evcInc_saturates hover]

end Sys2Proof.Machine
end

section
/-! SUPPORT. COMMAND_FETCH (R107, R112 to R114, R118, R149, R153): when a ring fetches, what its head slots' reads decide, and what
checks 1 to 5 do with the item taken. -/

namespace Sys2Proof.Machine

open Sys2Proof

variable {s t u : State} {c n : Nat} {x : Cmd}

/-! ### When a ring fetches -/

/-- R149, R153, R453: the ring and its context fetch, and an item may wait. -/
structure Fetches (s : State) (c n : Nat) : Prop where
  active : (s.ctx c).st = .active
  ring : (s.ring c n).st = .running ∨ (s.ring c n).st = .halted
  awake : ctxQuiesced s c = false
  waits : (s.ring c n).head ≠ (s.ring c n).tail

theorem fetches_iff : Fetches s c n ↔ ((s.ctx c).st != .active || !((s.ring c n).st == .running || (s.ring c n).st == .halted)
    || ctxQuiesced s c || (s.ring c n).head == (s.ring c n).tail) = false := by
  simp only [Bool.or_eq_false_iff, bne_eq_false_iff_eq, Bool.not_eq_false', Bool.or_eq_true, beq_iff_eq, beq_eq_false_iff_ne]
  exact ⟨fun ⟨ha, hr, hq, hw⟩ => ⟨⟨⟨ha, hr⟩, hq⟩, hw⟩, fun ⟨⟨⟨ha, hr⟩, hq⟩, hw⟩ => ⟨ha, hr, hq, hw⟩⟩

theorem commandFetch_idle (h : ¬Fetches s c n) : commandFetch s c n = s :=
  if_pos (Bool.eq_true_of_not_eq_false (mt fetches_iff.2 h))

/-! ### The slots of the item at HEAD -/

/-- R107: a breach on the first slot freezes the context. -/
theorem commandFetch_breach {a : Nat} (h : Fetches s c n) (hread : slotsRead c n (headSlots s c n 1) s = .inr a) :
    commandFetch s c n = areaBreach s c n a false := by
  unfold commandFetch
  simp only [fetches_iff.1 h, Bool.false_eq_true, if_false, hread]

/-- R112: an item whose slots do not all lie before TAIL stays invisible. -/
theorem commandFetch_incomplete (h : Fetches s c n) (hread : slotsRead c n (headSlots s c n 1) s = .inl t)
    (hpart : itemComplete t c n = false) : commandFetch s c n = t := by
  unfold commandFetch
  simp only [fetches_iff.1 h, Bool.false_eq_true, if_false, hread, hpart, Bool.not_false, if_true]

theorem commandFetch_takes (h : Fetches s c n) (hread : slotsRead c n (headSlots s c n 1) s = .inl t)
    (hwhole : itemComplete t c n = true) (hreads : slotsRead c n (headSlots t c n (itemSlots t c n)) t = .inl u) :
    commandFetch s c n = fetchItem u c n := by
  unfold commandFetch
  simp only [fetches_iff.1 h, Bool.false_eq_true, if_false, hread, hwhole, Bool.not_true, hreads]

/-- R113: an item has one to four slots. -/
theorem itemSlots_bounds (s : State) (c n : Nat) : 1 ≤ itemSlots s c n ∧ itemSlots s c n ≤ 4 := by
  unfold itemSlots
  dsimp only
  split <;> omega

/-! ### Checks 1 to 5 -/

/-- R118: a privileged opcode freezes the context. -/
theorem checkFetched_privileged (h : 0x80 ≤ dOpcode x.desc) : checkFetched s c n x =
    beginFreeze s c { cause := 2, write := false, serValid := true, ring := n, addr := 0, serial := x.serial } := if_pos h

theorem checkFetched_passes (h : dOpcode x.desc < 0x80) (hc : fetchChecks s c n x.desc = none) : checkFetched s c n x = s := by
  unfold checkFetched
  rw [if_neg (by omega), hc]

theorem checkFetched_fails {st : Status} {det : Nat} (h : dOpcode x.desc < 0x80) (hc : fetchChecks s c n x.desc = some (st, det)) :
    checkFetched s c n x = finishCmd s c n x st false det := by
  unfold checkFetched
  rw [if_neg (by omega), hc]
  rfl

/-! ### The statement -/

/-- Settles O31: a fetch is what the reads of its slots decide (`commandFetch_breach`, `commandFetch_incomplete`, `commandFetch_takes`),
and checks 1 to 5 of the item taken. -/
theorem fetchTakesTheItemAtHead : Obligations.FetchTakesTheItemAtHead := by
  unfold Obligations.FetchTakesTheItemAtHead
  intro s c n hup
  have row : exec (.commandFetch c n) s = .next (watch (commandFetch s c n)) := hub_up hup
  rw [row]
  refine ⟨fun hidle => ?_, fun hactive hring hawake hwaits => ?_⟩
  · rw [commandFetch_idle]
    rintro ⟨hactive, hring, hawake, hwaits⟩
    rcases hidle with h | h | h | h
    · exact h hactive
    · exact h hring
    · simp [hawake] at h
    · exact hwaits h
  have hgo : Fetches s c n := ⟨hactive, hring, hawake, hwaits⟩
  refine ⟨fun a hread => ?_, fun t hread hpart => by rw [commandFetch_incomplete hgo hread hpart], ?_⟩
  · rw [commandFetch_breach hgo hread]
    rfl
  rintro t u _ _ x hread hwhole hreads rfl rfl hx
  obtain ⟨hlo, hhi⟩ := itemSlots_bounds u c n
  have htaken : takeItem u c n = (u.setRing c n { u.ring c n with
      head := ((u.ring c n).head + itemSlots u c n) % (2 * (u.ring c n).depth), serial := (u.ring c n).serial + 1,
      cmds := (u.ring c n).cmds ++ [x] }, x) := by
    rw [hx]
    rfl
  rw [commandFetch_takes hgo hread hwhole hreads, fetchItem, htaken]
  refine ⟨hlo, hhi, by rw [hx]; rfl, by rw [hx]; rfl, by rw [hx]; rfl, _, rfl, rfl, fun hpriv => ?_, fun hop hpass => ?_,
    fun st det hop hfail => ?_⟩
  · rw [checkFetched_privileged hpriv]
  · rw [checkFetched_passes hop hpass]
  · rw [checkFetched_fails hop hfail]

end Sys2Proof.Machine
end

section
/-! SUPPORT. The rows of UPDATE (R135, R311, R319, R328, R329): the end of an attempt, and the decision that a provisional elementwise
rule then waits for. -/

namespace Sys2Proof.Machine

open Sys2Proof

variable {s : State} {c n ser rule : Nat} {env : RunEnv} {x y : Cmd} {a : Attempt}

/-- A running attempt's command with its outcome staged. -/
def Cmd.computedAt (x : Cmd) (o : Outcome_) (a : Attempt) (t : DWord) : Cmd :=
  { x with phase := .computed, out := some o, att := some { a with t1 := t } }

/-- R135, R161: a running attempt of the ring ends: its outcome is staged and its context charged. -/
theorem endAttempt_staged {o : Outcome_} (hx : s.cmd c n ser = some x) (hp : x.phase = .running) (ha : x.att = some a) :
    endAttempt s (refOf c n x) o = (accountAttempt s c x true).setCmd c n (x.computedAt o a s.time) :=
  endAttempt_running (by rw [cmd_serial hx, hx]) hp ha

/-- What stands in the ring once the attempt has ended. -/
theorem staged_cmd {o : Outcome_} (hx : s.cmd c n ser = some x) (t : DWord) :
    ((accountAttempt s c x true).setCmd c n (x.computedAt o a t)).cmd c n x.serial = some (x.computedAt o a t) := by
  have hself : (accountAttempt s c x true).cmd c n (x.computedAt o a t).serial = some x := by
    rw [accountAttempt_cmd, ← hx, ← cmd_serial hx]
    rfl
  exact setCmd_cmd hself

theorem staged_time : ((accountAttempt s c x true).setCmd c n y).time = s.time := accountAttempt_time true

/-! ### The decision of a provisional UPDATE -/

/-- R328 step 2: a computed UPDATE waits for its decision from now. -/
theorem beginDecision_ok {o : Outcome_} (hy : s.cmd c n y.serial = some y) (hp : y.phase = .computed) (ho : y.out = some o)
    (hok : o.status = .ok) : beginDecision s (refOf c n y) = s.setCmd c n { y with phase := .deciding, joined := s.time } := by
  unfold beginDecision
  simp only [refOf, hy, hp, ho, hok, Option.any_some, beq_self_eq_true, Bool.and_self, if_true]

/-- R328: an UPDATE that did not end with OK awaits no decision. -/
theorem beginDecision_failed {o : Outcome_} (hy : s.cmd c n y.serial = some y) (ho : y.out = some o) (hst : o.status ≠ .ok) :
    beginDecision s (refOf c n y) = s := by
  unfold beginDecision
  simp [refOf, hy, ho, hst]

/-! ### The rows -/

section
variable (hx : s.cmd c n ser = some x) (ha : x.att = some a) (hp : x.phase = .running) (hrule : isRule rule x.desc = true)
  (hclean : attemptPoison s c x a = [])
include hx ha hp hrule hclean

/-- R319: a plain UPDATE, or one of a rule that is not elementwise, is computed. -/
theorem updateRow_plain (h : ¬(isElemRule rule = true ∧ upProvisional (x.param.getD []) = true)) : updateRow s c n ser env rule =
    (accountAttempt s c x true).setCmd c n (x.computedAt (updateRun (jobOf s c x a)) a s.time) := by
  refine (attempt_clean hx ha hp hrule hclean).trans ?_
  rw [if_neg (by simpa using h), endAttempt_staged hx hp ha]

section
variable (helem : isElemRule rule = true) (hprov : upProvisional (x.param.getD []) = true)
include helem hprov

/-- R328: a provisional UPDATE of an elementwise rule goes on to its decision. -/
theorem updateRow_provisional : updateRow s c n ser env rule =
    beginDecision ((accountAttempt s c x true).setCmd c n (x.computedAt (updateRun (jobOf s c x a)) a s.time))
      (refOf c n (x.computedAt (updateRun (jobOf s c x a)) a s.time)) := by
  refine (attempt_clean hx ha hp hrule hclean).trans ?_
  rw [if_pos (by simp [helem, hprov]), endAttempt_staged hx hp ha]
  rfl

theorem updateRow_decides (hok : (updateRun (jobOf s c x a)).status = .ok) : updateRow s c n ser env rule =
    ((accountAttempt s c x true).setCmd c n (x.computedAt (updateRun (jobOf s c x a)) a s.time)).setCmd c n
      { x.computedAt (updateRun (jobOf s c x a)) a s.time with phase := .deciding, joined := s.time } := by
  rw [updateRow_provisional hx ha hp hrule hclean helem hprov, beginDecision_ok (staged_cmd hx s.time) rfl rfl hok,
    staged_time]

theorem updateRow_fails (hst : (updateRun (jobOf s c x a)).status ≠ .ok) : updateRow s c n ser env rule =
    (accountAttempt s c x true).setCmd c n (x.computedAt (updateRun (jobOf s c x a)) a s.time) := by
  rw [updateRow_provisional hx ha hp hrule hclean helem hprov, beginDecision_failed (staged_cmd hx s.time) rfl hst]

end

end

/-- Settles O35: every row is `updateRow`, which ends a clean attempt (`updateRow_plain`) and, for a provisional elementwise rule,
begins its decision (`updateRow_provisional`). -/
theorem updateRowsAndTheirDecision : Obligations.UpdateRowsAndTheirDecision := by
  unfold Obligations.UpdateRowsAndTheirDecision
  intro s c n ser env x a hup hx ha hp i rule hrow
  have row : exec i s = .next (watch (updateRow s c n ser env rule)) := by
    rcases hrow with ⟨rfl, rfl⟩ | ⟨rfl, rfl⟩ | ⟨rfl, rfl⟩ | ⟨rfl, rfl⟩ | ⟨rfl, rfl⟩ | ⟨rfl, rfl⟩ | ⟨rfl, rfl⟩ | ⟨rfl, rfl⟩
      | ⟨rfl, rfl⟩ | ⟨rfl, rfl⟩ | ⟨rfl, rfl⟩ <;> exact hub_up hup
  rw [row]
  refine ⟨fun hrule => ?unfit, ?clean, fun hrule hpois => ?poisoned⟩
  case unfit => rw [updateRow, attempt_unfit hx ha hrule]
  case poisoned => rw [updateRow, attempt_poisoned hx ha hp hrule hpois]
  case clean =>
    rintro hrule hclean _ rfl
    refine ⟨fun h => ?_, fun helem hprov => ⟨fun hst => ?_, fun hok => ?_⟩⟩
    · rw [updateRow_plain hx ha hp hrule hclean h]
      rfl
    · rw [updateRow_fails hx ha hp hrule hclean helem hprov hst]
      rfl
    · rw [updateRow_decides hx ha hp hrule hclean helem hprov hok]
      rfl

end Sys2Proof.Machine
end

section
/-! SUPPORT. MOVE, RESHARD and REDUCE (R135, R221, R222, R357, R363, R383, R438): a local attempt, a host failure, and the contribution
to a collective. -/

namespace Sys2Proof.Machine

open Sys2Proof

variable {s : State} {c n ser page : Nat} {env : RunEnv} {x : Cmd} {a : Attempt}

/-! ### Host failures -/

/-- R222: the command that has met one more host failure on the page. -/
def Cmd.faulted (x : Cmd) (page : Nat) : Cmd :=
  { x with hostFaults := tblSet 0 x.hostFaults page (tblGet 0 x.hostFaults page + 1) }

/-- R222: a first or second host failure kills the attempt. -/
theorem hostFault_kills (h : tblGet 0 x.hostFaults page + 1 < 3) : hostFault s c n x page = killCmd s c n (x.faulted page) .hostFault := by
  unfold hostFault
  exact if_neg (by omega)

/-- R222: the third host failure on the page ends the attempt. -/
theorem hostFault_ends (hx : s.cmd c n ser = some x) (hp : x.phase = .running) (ha : x.att = some a)
    (h : 3 ≤ tblGet 0 x.hostFaults page + 1) : hostFault s c n x page =
      (accountAttempt (s.setCmd c n (x.faulted page)) c (x.faulted page) true).setCmd c n
        ((x.faulted page).computedAt (endOut .hostFault noField) a s.time) := by
  have hy : (s.setCmd c n (x.faulted page)).cmd c n (x.faulted page).serial = some (x.faulted page) :=
    setCmd_cmd ((congrArg (s.cmd c n) (cmd_serial hx)).trans hx)
  unfold hostFault
  exact (if_pos h).trans (endAttempt_staged hy hp ha)

/-- R438: which of the two counters of host failures advances is the host's doing. -/
theorem countHostFault_cases (s : State) : countHostFault s = s.draw.2.bump 0x10 1 ∨ countHostFault s = s.draw.2.bump 0x18 1 := by
  unfold countHostFault
  dsimp only
  split
  · exact .inl rfl
  · exact .inr rfl

theorem hostCompletionTimeout_unfit (hx : s.cmd c n ser = some x) (hop : isOp opMove x.desc = false) :
    hostCompletionTimeout s c n ser page = s := by
  have hop' : (dOpcode x.desc == opMove) = false := hop
  unfold hostCompletionTimeout
  simp [hx, hop']

theorem hostCompletionTimeout_faults (hx : s.cmd c n ser = some x) (hp : x.phase = .running) (hop : isOp opMove x.desc = true)
    (hsrc : mvSrcHost x.desc = true) (hpage : pageIn (mvSrc x.desc) (mvBytes x.desc) page = true) :
    hostCompletionTimeout s c n ser page = hostFault (s.bump (kBar0 0x18) 1) c n x page := by
  have hop' : (dOpcode x.desc == opMove) = true := hop
  unfold hostCompletionTimeout
  simp [hx, hp, hop', hsrc, hpage]

/-! ### Local attempts of MOVE and RESHARD -/

section
variable (hx : s.cmd c n ser = some x) (ha : x.att = some a) (hp : x.phase = .running) (hclean : attemptPoison s c x a = [])
include hx ha hp hclean

theorem moveRow_local (hop : isOp opMove x.desc = true) (hfault : faultPage x.desc env = none)
    (hfar : (moveFarPackets s (jobOf s c x a) (refOf c n x) x.kills).2 = []) : moveRow s c n ser env =
      (accountAttempt s c x true).setCmd c n (x.computedAt (moveRun (jobOf s c x a) 0 0) a s.time) := by
  refine (attempt_clean hx ha hp hop hclean).trans ?_
  simp only [hfault]
  split
  next hks => exact endAttempt_staged hx hp ha
  next hks => exact (hks _ (Prod.ext rfl hfar)).elim

theorem moveRow_hostFault {p : Nat} (hop : isOp opMove x.desc = true) (hfault : faultPage x.desc env = some p) :
    moveRow s c n ser env = hostFault (countHostFault s) c n x p := by
  refine (attempt_clean hx ha hp hop hclean).trans ?_
  simp only [hfault]

theorem reshardRow_local (hop : isOp opReshard x.desc = true)
    (hfar : reshardFarPackets s a.snap c (x.param.getD []) (refOf c n x) x.kills = []) : reshardRow s c n ser env =
      (accountAttempt s c x true).setCmd c n (x.computedAt (reshardRun (jobOf s c x a)) a s.time) := by
  refine (attempt_clean hx ha hp hop hclean).trans ?_
  have hfar' : reshardFarPackets s a.snap c (jobOf s c x a).p (refOf c n x) x.kills = [] := hfar
  simp only [hfar']
  exact endAttempt_staged hx hp ha

/-! ### REDUCE -/

theorem reduceRow_contributes (hop : isOp opReduce x.desc = true) :
    reduceRow s c n ser env = awaitPeers (reduceRun s (refOf c n x) x a.snap) (refOf c n x) := attempt_clean hx ha hp hop hclean

/-- R361: a REDUCE whose attempt has ended waits for no peer. -/
theorem reduceRow_ends (hop : isOp opReduce x.desc = true) {o : Outcome_}
    (hrun : reduceRun s (refOf c n x) x a.snap = endAttempt s (refOf c n x) o) : reduceRow s c n ser env =
      (accountAttempt s c x true).setCmd c n (x.computedAt o a s.time) := by
  rw [reduceRow_contributes hx ha hp hclean hop, hrun, endAttempt_staged hx hp ha]
  exact awaitPeers_ended (r := refOf c n x) (staged_cmd hx s.time) (by simp [Cmd.computedAt])

end

theorem reduceRun_noTree {r : CmdRef} {m : Store} (h : treeOf s (rdTree x.desc) = none) :
    reduceRun s r x m = endAttempt s r (endOut .format 56) := by
  unfold reduceRun
  simp only [h]

/-- R363: a first term enters the live collective of its tree and sequence, or a new one. -/
theorem reduceRun_first {r : CmdRef} {m : Store} {e : TreeEnt} (h : treeOf s (rdTree x.desc) = some e)
    (hnone : s.fab.colls.find? (fun k => k.isOf (rdTree x.desc) (rdSeq x.desc) (ctxShareGroup s r.ctx) && k.has r) = none) :
    reduceRun s r x m = enterTerm s ((liveColl s (rdTree x.desc) (rdSeq x.desc) (ctxShareGroup s r.ctx)).getD
      (newColl s (rdTree x.desc) (rdSeq x.desc) (ctxShareGroup s r.ctx) e.home (rdElems x.desc) (rdRop x.desc) (rdFmt x.desc)
        (reduceExact s x.desc))) e r x m := by
  unfold reduceRun
  simp only [h, hnone]

/-- R369: a rerun after the end receives the retained result. -/
theorem reduceRun_retained {k : Coll} {e : TreeEnt} (hx : s.cmd c n ser = some x) (hp : x.phase = .running) (ha : x.att = some a)
    (h : treeOf s (rdTree x.desc) = some e)
    (hk : s.fab.colls.find? (fun k => k.isOf (rdTree x.desc) (rdSeq x.desc) (ctxShareGroup s c) && k.has (refOf c n x)) = some k)
    (hend : k.ended = true) :
    reduceRun s (refOf c n x) x a.snap = endAttempt s (refOf c n x) (reduceOut k c x.desc a.snap) := by
  have hself : s.cmd c n x.serial = some x := by rw [cmd_serial hx, hx]
  unfold reduceRun
  dsimp only [refOf] at hk ⊢
  simp only [h, hk]
  unfold againTerm endMember
  simp only [hend, if_true, hself, ha, hp]
  rfl

/-! ### The statement -/

/-- Settles O36: a local attempt ends staged (`moveRow_local`, `reshardRow_local`), a host failure is `hostFault`, and a REDUCE is what
its tree and its collective decide. -/
theorem moveReshardReduceAttempts : Obligations.MoveReshardReduceAttempts := by
  unfold Obligations.MoveReshardReduceAttempts
  intro s c n ser env x a hup hx ha hp
  have move : exec (.move c n ser env) s = .next (watch (moveRow s c n ser env)) := hub_up hup
  have late : ∀ page, exec (.hostCompletionTimeout c n ser page) s = .next (watch (hostCompletionTimeout s c n ser page)) :=
    fun _ => hub_up hup
  have reshard : exec (.reshard c n ser env) s = .next (watch (reshardRow s c n ser env)) := hub_up hup
  have contribute : exec (.reduce c n ser env) s = .next (watch (reduceRow s c n ser env)) := hub_up hup
  rw [move, reshard, contribute]
  refine ⟨?_, ?_, ?_, ?_, ?_, ?_, ?_, ?_⟩
  · intro hop
    rw [moveRow, attempt_unfit hx ha hop]
    exact ⟨rfl, fun page => by rw [late, hostCompletionTimeout_unfit hx hop]⟩
  · intro hop
    rw [reshardRow, attempt_unfit hx ha hop]
  · intro hop
    rw [reduceRow, attempt_unfit hx ha hop]
  · intro hop hclean hfault hfar
    rw [moveRow_local hx ha hp hclean hop hfault hfar]
    rfl
  · intro p hop hclean hfault
    exact ⟨_, countHostFault_cases s, by rw [moveRow_hostFault hx ha hp hclean hop hfault]⟩
  · rintro page hop hsrc hpage _ _ rfl rfl
    rw [late, hostCompletionTimeout_faults hx hp hop hsrc hpage]
    refine ⟨fun hk => ?_, fun hk => ?_⟩
    · rw [hostFault_kills hk]
      rfl
    · rw [hostFault_ends (s := s.bump (kBar0 0x18) 1) hx hp ha hk]
      rfl
  · intro hop hclean hfar
    rw [reshardRow_local hx ha hp hclean hop hfar]
    rfl
  · intro hop hclean
    refine ⟨fun htree => ?_, fun e htree hnone => ?_, fun e k htree hk hend => ?_⟩
    · rw [reduceRow_ends hx ha hp hclean hop (reduceRun_noTree htree)]
      rfl
    · rw [reduceRow_contributes hx ha hp hclean hop, reduceRun_first (r := refOf c n x) htree hnone]
      rfl
    · rw [reduceRow_ends hx ha hp hclean hop (reduceRun_retained hx hp ha htree hk hend)]
      rfl

end Sys2Proof.Machine
end

section
/-! SUPPORT. WAIT, SIGNAL and LATCH (R140, R145, R178 to R180): which commands a fence's row acts on, when it completes, whom a
release grants, and what a timeout ends. -/

namespace Sys2Proof.Machine

open Sys2Proof

variable {s : State} {c n ser : Nat} {x : Cmd} {is : List Byte → Bool} {go : Cmd → State}

/-! ### The commands of a fence's row -/

theorem fence_fits (hx : s.cmd c n ser = some x) (hp : x.phase = .running) (his : is x.desc = true) : fence s c n ser is go = go x := by
  unfold fence
  simp only [hx, hp, his, beq_self_eq_true, Bool.and_self, if_true]

theorem fence_unfit (hx : s.cmd c n ser = some x) (his : is x.desc = false) : fence s c n ser is go = s := by
  unfold fence
  simp only [hx, his, Bool.and_false, Bool.false_eq_true, if_false]

theorem isOp_ne {op : Nat} {d : List Byte} (h : dOpcode d ≠ op) : isOp op d = false := beq_false_of_ne h

theorem isOp_of_eq {op : Nat} {d : List Byte} (h : dOpcode d = op) : isOp op d = true := beq_iff_eq.2 h

theorem isLatch_of_eq {op : Nat} {d : List Byte} (h : dOpcode d = opLatch) (ho : latchOp d = op) : isLatch op d = true := by
  simp [isLatch, h, ho]

theorem isLatch_of_opcode_ne {op : Nat} {d : List Byte} (h : dOpcode d ≠ opLatch) : isLatch op d = false := by
  simp [isLatch, h]

theorem isLatch_of_op_ne {op : Nat} {d : List Byte} (h : latchOp d ≠ op) : isLatch op d = false := by
  simp [isLatch, h]

/-! ### WAIT and SIGNAL -/

theorem waitRow_reached (hx : s.cmd c n ser = some x) (hp : x.phase = .running) (hop : dOpcode x.desc = opWait)
    (h : waitValue x.desc ≤ (s.evctr c (waitCtr x.desc)).toNat) : waitRow s c n ser = commitFence s c n x .ok :=
  (fence_fits hx hp (isOp_of_eq hop)).trans (if_pos h)

theorem waitRow_waits (hx : s.cmd c n ser = some x) (hp : x.phase = .running) (hop : dOpcode x.desc = opWait)
    (h : (s.evctr c (waitCtr x.desc)).toNat < waitValue x.desc) : waitRow s c n ser = s :=
  (fence_fits hx hp (isOp_of_eq hop)).trans (if_neg (Nat.not_le.2 h))

theorem signalRow_adds (hx : s.cmd c n ser = some x) (hp : x.phase = .running) (hop : dOpcode x.desc = opSignal) :
    signalRow s c n ser = commitFence (evcInc s c (sigCtr x.desc) (sigAmount x.desc)) c n x .ok := fence_fits hx hp (isOp_of_eq hop)

/-! ### LATCH -/

section
variable (hx : s.cmd c n ser = some x) (hp : x.phase = .running) (hop : dOpcode x.desc = opLatch)
include hx hp hop

/-- R179: an ACQUIRE by the state of its latch. -/
theorem latchAcquireRow_eq (ho : latchOp x.desc = 0) : latchAcquireRow s c n ser =
    match (s.latch (latchNum x.desc)).st with
    | .free => takeLatch s c n x .ok
    | .broken => takeLatch s c n x .brokenLatch
    | .held h => if h = c then failCmd s c n x .latchBusy noField else joinLatch s c n x := fence_fits hx hp (isLatch_of_eq hop ho)

/-- R179: a TRY by the state of its latch. -/
theorem latchTryRow_eq (ho : latchOp x.desc = 1) : latchTryRow s c n ser =
    match (s.latch (latchNum x.desc)).st with
    | .free => takeLatch s c n x .ok
    | .broken => takeLatch s c n x .brokenLatch
    | .held _ => failCmd s c n x .latchBusy noField := fence_fits hx hp (isLatch_of_eq hop ho)

theorem latchAcquireRow_free (ho : latchOp x.desc = 0) (h : (s.latch (latchNum x.desc)).st = .free) :
    latchAcquireRow s c n ser = takeLatch s c n x .ok := by rw [latchAcquireRow_eq hx hp hop ho, h]

theorem latchAcquireRow_broken (ho : latchOp x.desc = 0) (h : (s.latch (latchNum x.desc)).st = .broken) :
    latchAcquireRow s c n ser = takeLatch s c n x .brokenLatch := by rw [latchAcquireRow_eq hx hp hop ho, h]

theorem latchAcquireRow_own (ho : latchOp x.desc = 0) (h : (s.latch (latchNum x.desc)).st = .held c) :
    latchAcquireRow s c n ser = finishCmd s c n x .latchBusy false noField := by
  rw [latchAcquireRow_eq hx hp hop ho, h]
  exact if_pos rfl

theorem latchAcquireRow_joins {k : Nat} (ho : latchOp x.desc = 0) (h : (s.latch (latchNum x.desc)).st = .held k) (hk : k ≠ c) :
    latchAcquireRow s c n ser = joinLatch s c n x := by
  rw [latchAcquireRow_eq hx hp hop ho, h]
  exact if_neg hk

theorem latchTryRow_free (ho : latchOp x.desc = 1) (h : (s.latch (latchNum x.desc)).st = .free) :
    latchTryRow s c n ser = takeLatch s c n x .ok := by rw [latchTryRow_eq hx hp hop ho, h]

theorem latchTryRow_broken (ho : latchOp x.desc = 1) (h : (s.latch (latchNum x.desc)).st = .broken) :
    latchTryRow s c n ser = takeLatch s c n x .brokenLatch := by rw [latchTryRow_eq hx hp hop ho, h]

theorem latchTryRow_held {k : Nat} (ho : latchOp x.desc = 1) (h : (s.latch (latchNum x.desc)).st = .held k) :
    latchTryRow s c n ser = finishCmd s c n x .latchBusy false noField := by
  rw [latchTryRow_eq hx hp hop ho, h]
  rfl

theorem latchReleaseRow_holder (ho : latchOp x.desc = 2) (h : (s.latch (latchNum x.desc)).st = .held c) :
    latchReleaseRow s c n ser = commitFence (passLatch s (latchNum x.desc) .ok .free) c n x .ok :=
  (fence_fits hx hp (isLatch_of_eq hop ho)).trans (if_pos h)

theorem latchReleaseRow_other (ho : latchOp x.desc = 2) (h : (s.latch (latchNum x.desc)).st ≠ .held c) :
    latchReleaseRow s c n ser = finishCmd s c n x .notHolder false noField :=
  (fence_fits hx hp (isLatch_of_eq hop ho)).trans (if_neg h)

end

theorem passLatch_unwaited {l : Nat} {st : Status} {to_ : LatchSt} (h : (s.latch l).waiters = []) :
    passLatch s l st to_ = s.setLatch l { s.latch l with st := to_ } := by
  unfold passLatch
  simp only [h]

/-- R180: the first waiter is granted. -/
theorem passLatch_granted {l : Nat} {st : Status} {to_ : LatchSt} {w : CmdRef} {ws : List CmdRef} {y : Cmd}
    (h : (s.latch l).waiters = w :: ws) (hy : s.cmd w.ctx w.ring w.serial = some y) :
    passLatch s l st to_ = commitFence (s.setLatch l { s.latch l with st := .held w.ctx, waiters := ws }) w.ctx w.ring y st := by
  have hy' : (s.setLatch l { s.latch l with st := .held w.ctx, waiters := ws }).cmd w.ctx w.ring w.serial = some y := hy
  unfold passLatch
  simp only [h, hy']

/-! ### WAIT_LATCH_TIMEOUT -/

theorem waitLatchTimeout_idle (hx : s.cmd c n ser = some x) (h : fenceWaits x = false ∨ fenceTimeout s c n x.desc = none) :
    waitLatchTimeout s c n ser = s := by
  have hgo : (fenceWaits x && (fenceTimeout s c n x.desc).isSome) = false := by rcases h with h | h <;> simp [h]
  unfold waitLatchTimeout
  simp only [hx, hgo, Bool.false_eq_true, if_false]

theorem waitLatchTimeout_expires (hx : s.cmd c n ser = some x) (hw : fenceWaits x = true) (ht : (fenceTimeout s c n x.desc).isSome = true) :
    waitLatchTimeout s c n ser = finishCmd (leaveLatch s (refOf c n x) x) c n x .notReady false noField := by
  unfold waitLatchTimeout
  simp only [hx, hw, ht, Bool.and_self, if_true]
  rfl

/-- R145: a WAIT waits while it runs, and stands on no latch's list. -/
theorem fenceWaits_wait (hw : fenceWaits x = true) (hop : dOpcode x.desc = opWait) : x.phase = .running := by
  simpa [fenceWaits, hop, opWait, opLatch] using hw

theorem fenceWaits_latch (hw : fenceWaits x = true) (hop : dOpcode x.desc = opLatch) : x.phase = .latchWait := by
  simpa [fenceWaits, hop, opWait, opLatch] using hw

theorem leaveLatch_running {r : CmdRef} (hp : x.phase = .running) : leaveLatch s r x = s := by
  unfold leaveLatch
  rw [hp]
  rfl

theorem leaveLatch_waiting {r : CmdRef} (hp : x.phase = .latchWait) : leaveLatch s r x =
    s.setLatch (latchNum x.desc) { s.latch (latchNum x.desc) with
      waiters := (s.latch (latchNum x.desc)).waiters.filter (fun w => w != r) } := by
  unfold leaveLatch
  rw [hp]
  rfl

/-! ### The statement -/

/-- Settles O37: each row acts on a running command of its kind (`fence_fits`, `fence_unfit`), a LATCH by the state of its latch. -/
theorem fencesCompleteByTheirRules : Obligations.FencesCompleteByTheirRules := by
  unfold Obligations.FencesCompleteByTheirRules
  intro s c n ser x hup hx
  have wait : exec (.wait c n ser) s = .next (watch (waitRow s c n ser)) := hub_up hup
  have signal : exec (.signal c n ser) s = .next (watch (signalRow s c n ser)) := hub_up hup
  have acquire : exec (.latchAcquire c n ser) s = .next (watch (latchAcquireRow s c n ser)) := hub_up hup
  have try_ : exec (.latchTry c n ser) s = .next (watch (latchTryRow s c n ser)) := hub_up hup
  have release : exec (.latchRelease c n ser) s = .next (watch (latchReleaseRow s c n ser)) := hub_up hup
  have timeout : exec (.waitLatchTimeout c n ser) s = .next (watch (waitLatchTimeout s c n ser)) := hub_up hup
  have unfit : ∀ {op go}, isLatch op x.desc = false → fence s c n ser (isLatch op) go = s := fun h => fence_unfit hx h
  rw [wait, signal, acquire, try_, release, timeout]
  refine ⟨fun hp => ⟨fun hop => ⟨fun h => ?_, fun h => ?_⟩, fun hop => ?_, fun hop => ?_, fun hop => ?_, fun hop => ?_, ?latch⟩,
    fun h => ?_, fun hw ht => ⟨fun hop => ?_, ?timed⟩⟩
  · rw [waitRow_reached hx hp hop h]
  · rw [waitRow_waits hx hp hop h]
  · rw [signalRow_adds hx hp hop]
  · rw [waitRow, fence_unfit hx (isOp_ne hop)]
  · rw [signalRow, fence_unfit hx (isOp_ne hop)]
  · rw [latchAcquireRow, latchTryRow, latchReleaseRow]
    simp only [unfit (isLatch_of_opcode_ne hop), and_self]
  case latch =>
    rintro hop _ rfl
    refine ⟨fun ho => ?acquire, fun ho => ?try_, fun ho => ?release⟩
    case acquire =>
      refine ⟨fun h => ?_, fun h => ?_, fun h => ?_, fun k h hk => ?_, ?_, ?_⟩
      · rw [latchAcquireRow_free hx hp hop ho h]
        rfl
      · rw [latchAcquireRow_broken hx hp hop ho h]
        rfl
      · rw [latchAcquireRow_own hx hp hop ho h]
      · rw [latchAcquireRow_joins hx hp hop ho h hk]
        rfl
      · rw [latchTryRow, unfit (isLatch_of_op_ne (by omega))]
      · rw [latchReleaseRow, unfit (isLatch_of_op_ne (by omega))]
    case try_ =>
      refine ⟨fun h => ?_, fun h => ?_, fun k h => ?_, ?_⟩
      · rw [latchTryRow_free hx hp hop ho h]
        rfl
      · rw [latchTryRow_broken hx hp hop ho h]
        rfl
      · rw [latchTryRow_held hx hp hop ho h]
      · rw [latchAcquireRow, unfit (isLatch_of_op_ne (by omega))]
    case release =>
      refine ⟨fun h => ?_, fun h hnone => ?_, fun w ws y h hws hy => ?_⟩
      · rw [latchReleaseRow_other hx hp hop ho h]
      · rw [latchReleaseRow_holder hx hp hop ho h, passLatch_unwaited hnone]
      · rw [latchReleaseRow_holder hx hp hop ho h, passLatch_granted hws hy]
  · rw [waitLatchTimeout_idle hx h]
  · rw [waitLatchTimeout_expires hx hw ht, leaveLatch_running (fenceWaits_wait hw hop)]
  case timed =>
    rintro hop _ rfl
    rw [waitLatchTimeout_expires hx hw ht, leaveLatch_waiting (fenceWaits_latch hw hop)]
    rfl

end Sys2Proof.Machine
end

section
/-! SUPPORT. LATCH_INFO and LATCH_GEN (R185, R442): the selected latch's word, and the generation that a read of it latches. -/

namespace Sys2Proof.Machine

open Sys2Proof

variable {s : State}

/-- R185: the latch that LATCH_SEL names. -/
def selLatch (s : State) : Latch := s.latch (s.regField (kBar0 0xB014) 0 16)

theorem liveWord_latchInfo (s : State) : liveWord s (kBar0 0xB018) = latchInfoWord (selLatch s) := by
  unfold liveWord
  rw [keySpace_kBar0 (by decide)]
  rfl

theorem liveWord_latchGen (s : State) : liveWord s (kBar0 0xB01C) = (selLatch s).gen := by
  unfold liveWord
  rw [keySpace_kBar0 (by decide)]
  rfl

/-- R185: LATCH_INFO latches LATCH_GEN. -/
theorem latched_latchInfo : latched (kBar0 0xB018) = [kBar0 0xB01C] := by
  unfold latched
  rw [keySpace_kBar0 (by decide)]
  rfl

theorem selLatch_seenFrom (s : State) (a : Agent) :
    selLatch (seenFrom s a) = s.latch ((seenFrom s a).regField (kBar0 0xB014) 0 16) := by
  unfold selLatch State.latch
  rw [seenFrom_latches]

/-- Settles O16: LATCH_INFO is read live (`answerRead_live`) and leaves one shadow, which a read of LATCH_GEN answers. -/
theorem latchInfoReadLatchesGeneration : Obligations.LatchInfoReadLatchesGeneration := by
  unfold Obligations.LatchInfoReadLatchesGeneration
  intro s a hup haux hr hsh
  have read : exec (.latchInfoRead a .bar0 0xB018) s = .next (watch { seenFrom s a with
      shadows := tblIns s.shadows (shadowKey (readerOf a) (kBar0 0xB01C)) (selLatch (seenFrom s a)).gen,
      reply := bytesLE (latchInfoWord (selLatch (seenFrom s a))).toNat 4, replyPoison := false }) := by
    refine (exec_lowHalfRead_bar0 hup haux hr (by decide)).trans ?_
    rw [answerRead_live (i := 0) (by decide) (by decide) (by decide) rfl rfl (by rw [seenFrom_shadows]; exact hsh),
      latched_latchInfo, List.foldl_cons, List.foldl_nil, liveWord_latchInfo, liveWord_latchGen, seenFrom_shadows]
  refine ⟨_, read, rfl, ?_, fun u hup' haux' hr' hsame => ?_⟩
  · rw [selLatch_seenFrom]
    rfl
  · replace hsame := hsame.trans (tblFind_tblIns_self _ _ _)
    rw [selLatch_seenFrom] at hsame
    exact ⟨_, exec_lowHalfRead_shadow hup' haux' hr' (by decide) hsame, watch_reply _⟩

end Sys2Proof.Machine
end

section
/-! SUPPORT. Contexts (R154, R156 to R159, R164, R172, R174, R185): what a write of CTX_WEIGHT and of a function's range does, and what
each operation of a context and each event that ends one does in each state of the context. -/

namespace Sys2Proof.Machine

open Sys2Proof

variable {s : State} {f c : Nat} {v : Word}

/-- R446: a request to a register of the window of the context that CTXSEL shows. -/
theorem hub_window {off : Nat} {go : Nat → State} (hup : s.up = true) (hs : Shows s f c) :
    hub s (viaWindow s f off go) = .next (watch (wakeSource (go c) 1)) := by
  rw [hub_up hup, viaWindow_shows hs]

/-! ### Fields of a written word -/

theorem bits_eq (n lo k : Nat) : bits n lo k = n / 2 ^ lo % 2 ^ k := by rw [bits, Nat.shiftRight_eq_div_pow]

theorem bits_low (n k : Nat) : bits n 0 k = n % 2 ^ k := rfl

theorem low16_eq_ofNat (v : Word) : v &&& 0xFFFF#32 = BitVec.ofNat 32 (v.toNat % 65536) := by
  apply BitVec.eq_of_toNat_eq
  rw [BitVec.toNat_and, BitVec.toNat_ofNat, BitVec.toNat_ofNat, show 0xFFFF % 2 ^ 32 = 2 ^ 16 - 1 from rfl,
    Nat.and_two_pow_sub_one_eq_mod]
  omega

/-! ### CTX_WEIGHT (R164) -/

theorem ctxWeightWrite_zero (h : v.toNat % 65536 = 0) : ctxWeightWrite s c v = ctxErr s c .format :=
  if_pos h

theorem ctxWeightWrite_some (h : v.toNat % 65536 ≠ 0) :
    ctxWeightWrite s c v = s.setReg (kWin c 4) (BitVec.ofNat 32 (v.toNat % 65536)) := by
  rw [← low16_eq_ofNat]
  exact if_neg h

/-- R161: a charge divides by the weight that the register holds. -/
theorem regField_weight (hs : tblSorted s.regs = true) (v : Nat) :
    (s.setReg (kWin c 4) (BitVec.ofNat 32 (v % 65536))).regField (kWin c 4) 0 16 = v % 65536 := by
  rw [State.regField, State.reg_setReg_self hs, bits_low, BitVec.toNat_ofNat]
  omega

/-- Settles O28: a non-zero weight is a write of its register, and `chargeVt` divides by what that register holds. -/
theorem weightTakesEffectAtTheNextCharge : Obligations.WeightTakesEffectAtTheNextCharge := by
  unfold Obligations.WeightTakesEffectAtTheNextCharge
  intro s f c v hup hs
  have row : exec (.ctxWeightWrite f v) s = .next (watch (wakeSource (ctxWeightWrite s c v) 1)) := hub_window hup hs
  rw [row]
  refine ⟨fun h => by rw [ctxWeightWrite_zero h]; rfl, fun h => ⟨_, rfl, ctxWeightWrite_some h, ?_, fun hsorted cls ns => ?_⟩⟩
  · rw [ctxWeightWrite_some h, State.setReg_ctxs]
  · rw [ctxWeightWrite_some h, chargeVt, regField_weight hsorted]
    rfl

/-! ### Function ranges (R154) -/

/-- Two ranges meet where some number lies in both. -/
theorem rangesMeet_iff {a n b m : Nat} : rangesMeet a n b m = true ↔ ∃ x, a ≤ x ∧ x < a + n ∧ b ≤ x ∧ x < b + m := by
  simp only [rangesMeet, Bool.and_eq_true, bne_iff_ne, decide_eq_true_eq]
  constructor
  · rintro ⟨⟨⟨hn, hm⟩, hab⟩, hba⟩
    exact ⟨max a b, by omega, by omega, by omega, by omega⟩
  · rintro ⟨x, h1, h2, h3, h4⟩
    omega

theorem allApart_iff {b n : Nat} {base count : Nat → Nat} :
    (List.range 256).all (fun g => g == f || !rangesMeet b n (base g) (count g)) = true
      ↔ ∀ g < 256, g ≠ f → ¬(∃ x, b ≤ x ∧ x < b + n ∧ base g ≤ x ∧ x < base g + count g) := by
  simp only [List.all_eq_true, List.mem_range, Bool.or_eq_true, beq_iff_eq, Bool.not_eq_true', ← Bool.not_eq_true, rangesMeet_iff,
    or_iff_not_imp_left, ne_eq]

theorem allFree_iff {p : Nat × Ctx → Bool} : s.ctxs.all (fun e => !p e || e.2.st == .free) = true
    ↔ ∀ e ∈ s.ctxs, p e = true → e.2.st = .free := by
  simp only [List.all_eq_true, Bool.or_eq_true, beq_iff_eq, Bool.not_eq_true', ← Bool.not_eq_true, ← imp_iff_not_or]

/-- R154: what the range of `n` contexts, or latches, from number `b` on must meet to become function `f`'s. -/
structure RangeFits (s : State) (f : Nat) (latches : Bool) (b n : Nat) : Prop where
  fits : b + n ≤ (if latches then 65536 else 4096)
  apart : ∀ g < 256, g ≠ f → ¬(∃ x, b ≤ x ∧ x < b + n ∧ (if latches then fnLatchBase s g else fnCtxBase s g) ≤ x
    ∧ x < (if latches then fnLatchBase s g else fnCtxBase s g) + (if latches then fnLatchCount s g else fnCtxCount s g))
  free : ∀ e ∈ s.ctxs, ctxOwnedBy s f e.1 = true ∨ (latches = false ∧ b ≤ e.1 ∧ e.1 < b + n) → e.2.st = .free

/-- R154: the contexts that must be Free are those the function owns and, for FN_CTX alone, those it would own. -/
theorem concerned_iff {latches : Bool} {b n k : Nat} :
    (ctxOwnedBy s f k || if latches then false else decide (b ≤ k) && decide (k < b + n)) = true
      ↔ ctxOwnedBy s f k = true ∨ (latches = false ∧ b * (if latches then 16 else 1) ≤ k
          ∧ k < b * (if latches then 16 else 1) + n * (if latches then 16 else 1)) := by
  cases latches <;> simp

open Classical in
/-- R154: the register takes BASE and COUNT where the range passes its checks, else SCHED_STATUS is set. -/
theorem fnRangeWrite_eq {latches : Bool} {b n : Nat} (hb : b = v.toNat % 2 ^ 12 * (if latches then 16 else 1))
    (hn : n = v.toNat / 2 ^ 16 % 2 ^ 13 * (if latches then 16 else 1)) :
    fnRangeWrite s f latches v = if RangeFits s f latches b n
      then s.setReg (kBar0 ((if latches then 0xB404 else 0xB400) + 8 * f)) (v &&& 0x1FFF0FFF#32)
      else s.setBits kSchedStatus 0x10000 := by
  subst hb hn
  unfold fnRangeWrite
  refine if_congr ?_ rfl rfl
  rw [Bool.and_eq_true, Bool.and_eq_true, decide_eq_true_eq, allApart_iff, allFree_iff, bits_low, bits_eq, and_assoc]
  simp only [concerned_iff]
  exact ⟨fun ⟨hfits, hapart, hfree⟩ => ⟨hfits, hapart, hfree⟩, fun ⟨hfits, hapart, hfree⟩ => ⟨hfits, hapart, hfree⟩⟩

/-- Settles O29: the two clauses are the two branches of `fnRangeWrite_eq`. -/
theorem functionRangeWritesAreCheckedWhole : Obligations.FunctionRangeWritesAreCheckedWhole := by
  unfold Obligations.FunctionRangeWritesAreCheckedWhole
  rintro s a fn v latches t b n hup hr hfn rfl hb hn
  have row : exec (.fnRangeWrite a fn latches v) s = .next (watch (fnRangeWrite (seenFrom s a) fn latches v)) := by
    refine (hub_up hup).trans ?_
    rw [viaBar0_reaches hr, if_pos hfn]
  rw [row, fnRangeWrite_eq hb hn, ← seenFrom_ctxs s a]
  refine ⟨fun ⟨hfits, hapart, hfree⟩ => by rw [if_pos ⟨hfits, hapart, hfree⟩], fun h => ?_⟩
  rw [if_neg fun ⟨hfits, hapart, hfree⟩ => h ⟨hfits, hapart, hfree⟩]

/-! ### CREATE, DESTROY, RESET and THAW (R156 to R158, R174) -/

/-- R184: BUSY is 0 where no freeze steps run and neither DESTROY nor RESET does. -/
theorem ctxBusy_idle {x : Ctx} (hz : x.freezing = none) (hst : x.st ≠ .destroying ∧ x.st ≠ .resetting) : ctxBusy x = false := by
  simp [ctxBusy, hz, hst]

theorem ctxBusy_live {x : Ctx} (hst : x.st = .active ∨ x.st = .frozen) (hz : x.freezing = none) : ctxBusy x = false :=
  ctxBusy_idle hz (by rcases hst with h | h <;> simp [h])

theorem ctxCreate_busy (h : ctxBusy (s.ctx c) = true) : ctxCreate s f c = ctxErr s c .notReady := if_pos h

theorem ctxCreate_fails {st : Status} (h : ctxBusy (s.ctx c) = false) (hc : createCheck s f c = some st) :
    ctxCreate s f c = ctxErr s c st := by
  simp [ctxCreate, h, hc]

theorem createCheck_taken (h : (s.ctx c).st ≠ .free) : createCheck s f c = some .notReady := if_pos (by simp [h])

/-- R157: a new context, its counters, its rings and DET_CTRL. -/
theorem ctxCreate_passes (h : ctxBusy (s.ctx c) = false) (hc : createCheck s f c = none) :
    ctxCreate s f c = (zeroRings (zeroCounters (s.draw.2.setCtx c { Ctx.reset with
      st := .active, lastErr := (s.ctx c).lastErr, xts := s.draw.1 % 2 ^ 512 }) c) c).setReg (kWin c 0x7000) 0 := by
  simp only [ctxCreate, h, hc, Bool.false_eq_true, if_false]
  rfl

/-- R157: the states without a row for DESTROY and RESET. -/
theorem ctxDestroy_refused (h : ctxBusy (s.ctx c) = true ∨ (s.ctx c).st = .free) : ctxDestroy s c = ctxErr s c .notReady :=
  if_pos (by rcases h with h | h <;> simp [h])

theorem ctxReset_refused (h : ctxBusy (s.ctx c) = true ∨ (s.ctx c).st = .free) : ctxReset s c = ctxErr s c .notReady :=
  if_pos (by rcases h with h | h <;> simp [h])

theorem ctxThaw_refused (h : ctxBusy (s.ctx c) = true ∨ (s.ctx c).st ≠ .frozen) : ctxThaw s c = ctxErr s c .notReady :=
  if_pos (by rcases h with h | h <;> simp [h])

section
variable (hst : (s.ctx c).st = .active ∨ (s.ctx c).st = .frozen) (hz : (s.ctx c).freezing = none)
include hst hz

theorem ctxReset_live : ctxReset s c = killCtx (s.setCtx c { s.ctx c with st := .resetting }) c .cancel :=
  if_neg (by rw [ctxBusy_live hst hz]; rcases hst with h | h <;> simp [h])

theorem ctxDestroy_live : ctxDestroy s c = breakLatches (cancelRings
    (dropSets (killCtx (s.setCtx c { s.ctx c with st := .destroying }) c .cancel) c) c) c :=
  if_neg (by rw [ctxBusy_live hst hz]; rcases hst with h | h <;> simp [h])

end

/-- R174: the context Active again, its frozen rings back in their states. -/
def thawedRings (s : State) (c : Nat) : State :=
  ringNums.foldl (fun v n => thawRing v c n) (s.setCtx c { s.ctx c with st := .active, haltRing := none })

theorem ctxThaw_frozen (hst : (s.ctx c).st = .frozen) (hz : (s.ctx c).freezing = none) : ctxThaw s c =
    ringNums.foldl (fun v n => redoRecords v c n) (match (s.ctx c).haltRing with
      | some n => haltRule (thawedRings s c) c n .frozen
      | none => thawedRings s c) :=
  if_neg (by simp [ctxBusy_live (.inr hst) hz, hst])

/-! ### The ends of RESET, of a freeze and of DESTROY (R158, R159, R172) -/

theorem resetComplete_idle (h : (s.ctx c).st ≠ .resetting) : resetComplete s c = s := if_pos (by simpa using h)

/-- R144: the counters of a context read zero once none of them is listed. -/
theorem evctr_zeroCounters {k : Nat} (hk : k < 256) : (zeroCounters s c).evctr c k = 0 := by
  unfold State.evctr tblGet
  cases h : tblFind (zeroCounters s c).evc (c * 256 + k) with
  | none => rfl
  | some w =>
    have hkept := (List.mem_filter.1 (tblFind_mem h)).2
    have hdiv : (c * 256 + k) / 256 = c := by omega
    simp [hdiv] at hkept

/-- The state with the rings, latches, counters and FLUSH_EPOCHs as the end of a reset leaves them (R158 steps 4 and 5, R159). -/
def resetDone (s : State) (c : Nat) : State :=
  (zeroCounters (advanceEpochs (breakLatches (cancelRings s c) c) c) c).setReg (kWin c 0x7000) 0

theorem resetDone_evctr {k : Nat} (hk : k < 256) : (resetDone s c).evctr c k = 0 := by
  rw [State.evctr, resetDone, State.setReg_evc]
  exact evctr_zeroCounters hk

theorem resetComplete_resetting (h : (s.ctx c).st = .resetting) : resetComplete s c =
    (resetDone s c).setCtx c { (resetDone s c).ctx c with st := .active, digest := 0, units := 0 } :=
  if_neg (by simp [h])

/-- A context that is not Free is read back, from any table. -/
theorem ctx_setCtx_of_ne_free {x : Ctx} (h : x.st ≠ .free) : (s.setCtx c x).ctx c = x :=
  tblGet_tblSet_of_ne _ _ _ (fun e => h (by rw [e]; rfl))

theorem freezeComplete_idle (h : (s.ctx c).freezing = none) : freezeComplete s c = s := by
  unfold freezeComplete
  rw [h]

theorem signalCtxVector_only (s : State) (c v : Nat) : OnlySignals s (signalCtxVector s c v) := by
  unfold signalCtxVector
  split
  · exact signalVector_only s _ v
  · rfl

/-- R172 step 4: where no command breached, FREEZE_INFO is written and the context's vector signalled. -/
theorem freezeComplete_only {z : Freeze} (h : (s.ctx c).freezing = some z) (hser : z.serValid = false) :
    OnlySignals (s.setCtx c { s.ctx c with freezing := none, info := z, haltRing := none }) (freezeComplete s c) := by
  unfold freezeComplete
  rw [h]
  simp only [hser, Bool.false_eq_true, if_false]
  split
  · exact signalCtxVector_only _ c _
  · rfl

theorem ownerFlrEnds_none (h : ∀ g, ownerFn s c = some g → (s.fn g).flr = false) : ownerFlrEnds s c = s := by
  unfold ownerFlrEnds
  split
  next g hg => exact if_neg (by simp [h g hg])
  next => rfl

theorem destroyRelease_waits (hflr : ownerFlrEnds s c = s)
    (h : (s.ctx c).st ≠ .destroying ∨ (aliasesElsewhere s c).any (fun e => objNamed s e.1 e.2) = true) : destroyRelease s c = s := by
  unfold destroyRelease
  rw [hflr]
  exact if_pos (by rcases h with h | h <;> simp [h])

theorem destroyRelease_ends (hflr : ownerFlrEnds s c = s) (hst : (s.ctx c).st = .destroying)
    (h : (aliasesElsewhere s c).any (fun e => objNamed s e.1 e.2) = false) : destroyRelease s c = releaseCtx s c := by
  unfold destroyRelease
  rw [hflr]
  exact if_neg (by simp [hst, h])

/-- Settles O27: each operation and each event, in each state of the context, is what the lemma of that case says. -/
theorem contextOperationsFollowTheStateTable : Obligations.ContextOperationsFollowTheStateTable := by
  unfold Obligations.ContextOperationsFollowTheStateTable
  intro s f c hup
  have resetEnd : exec (.resetComplete c) s = .next (watch (resetComplete s c)) := hub_up hup
  have freezeEnd : exec (.freezeComplete c) s = .next (watch (freezeComplete s c)) := hub_up hup
  have release : exec (.destroyRelease c) s = .next (watch (destroyRelease s c)) := hub_up hup
  rw [resetEnd, freezeEnd, release]
  refine ⟨fun hs => ?window, fun h => ?_, fun h => by rw [resetComplete_idle h], fun h => by rw [freezeComplete_idle h],
    fun z h hser => ?_, fun hflr => ?release⟩
  case window =>
    have create : exec (.ctxCreate f) s = .next (watch (wakeSource (ctxCreate s f c) 1)) := hub_window hup hs
    have destroy : exec (.ctxDestroy f) s = .next (watch (wakeSource (ctxDestroy s c) 1)) := hub_window hup hs
    have reset : exec (.ctxReset f) s = .next (watch (wakeSource (ctxReset s c) 1)) := hub_window hup hs
    have thaw : exec (.ctxThaw f) s = .next (watch (wakeSource (ctxThaw s c) 1)) := hub_window hup hs
    rw [create, destroy, reset, thaw]
    refine ⟨fun hbusy => ?_, fun hfree hz => ?free, fun hst hz => ?_, fun hst hz => ?_, fun hst hz => ?_, fun n h => ?_⟩
    · rw [ctxCreate_busy hbusy, ctxDestroy_refused (.inl hbusy), ctxReset_refused (.inl hbusy), ctxThaw_refused (.inl hbusy)]
      exact ⟨rfl, rfl, rfl, rfl⟩
    case free =>
      have hidle : ctxBusy (s.ctx c) = false := ctxBusy_idle hz (by simp [hfree])
      rw [ctxDestroy_refused (.inr hfree), ctxReset_refused (.inr hfree), ctxThaw_refused (.inr (by simp [hfree]))]
      refine ⟨rfl, rfl, rfl, fun st hc => by rw [ctxCreate_fails hidle hc]; rfl, fun hc => ⟨_, rfl, ?_⟩⟩
      dsimp only
      rw [watch_ctxs, watch_evc, watch_rings, watch_com, watch_grans, watch_latches, wakeSource_ctxs, wakeSource_evc,
        wakeSource_rings, wakeSource_com, wakeSource_grans, wakeSource_latches, ctxCreate_passes hidle hc,
        State.setReg_ctxs, State.setReg_evc, State.setReg_rings, State.setReg_com, State.setReg_grans, State.setReg_latches]
      exact ⟨rfl, rfl, rfl, rfl, rfl, rfl⟩
    · rw [ctxCreate_fails (ctxBusy_live hst hz) (createCheck_taken (by rcases hst with h | h <;> simp [h])), ctxReset_live hst hz,
        ctxDestroy_live hst hz]
      exact ⟨rfl, rfl, rfl⟩
    · rw [ctxThaw_refused (.inr (by simp [hst]))]
      rfl
    · rw [ctxThaw_frozen hst hz]
      rfl
    · exact if_pos (by simp [h])
  · refine ⟨_, rfl, ?_⟩
    dsimp only
    rw [resetComplete_resetting h, watch_ctx, ctx_setCtx_of_ne_free (by simp)]
    refine ⟨rfl, rfl, fun k hk => ?_⟩
    rw [State.evctr, watch_evc, State.setCtx_evc]
    exact resetDone_evctr hk
  · have honly := (freezeComplete_only h hser).trans (watch_only _)
    exact ⟨_, rfl, by rw [honly]; rfl, by rw [honly]; rfl, by rw [honly]; rfl⟩
  case release =>
    have hends := ownerFlrEnds_none hflr
    refine ⟨fun h => by rw [destroyRelease_waits hends (.inl h)], fun _ h => by rw [destroyRelease_waits hends (.inr h)],
      fun hst h => ⟨by rw [destroyRelease_ends hends hst h], _, _, rfl, rfl, rfl, rfl, rfl, rfl⟩⟩

end Sys2Proof.Machine
end

section
/-! SUPPORT. The canonical form over whole steps (R187, R440, R522; log entries 12, 21): every command keeps the queue and the canonical
form, by the lemma of its own row, and so does every step; the state after a cold reset lists nothing, so it is canonical. -/

namespace Sys2Proof.Machine

open Sys2Proof

variable {kq : List Instr} {kb : Bool} {s t : State}

/-! ### Every command -/

/-- The arms are those of `exec`: the queue and the canonical form are kept command by command. -/
theorem exec_kept (hs : Kept kq kb s) : ∀ i, KeptOut kq kb (exec i s)
  | .registerWrite .. => execRegisterWrite_kept hs
  | .readClearRegister .. => execReadClearRegister_kept hs
  | .lowHalfRead .. => execLowHalfRead_kept hs
  | .latchInfoRead .. => execLatchInfoRead_kept hs
  | .badRegisterAccess .. => execBadRegisterAccess_kept hs
  | .fpLoad .. => execFpLoad_kept hs
  | .fpPrepare .. => execFpPrepare_kept hs
  | .fpApply .. => execFpApply_kept hs
  | .applyBankSwitch => execApplyBankSwitch_kept hs
  | .applyWaitTimeout => execApplyWaitTimeout_kept hs
  | .applyAckTimeout .. => execApplyAckTimeout_kept hs
  | .fpDiscard .. => execFpDiscard_kept hs
  | .fpUnload .. => execFpUnload_kept hs
  | .rotationStart .. => execRotationStart_kept hs
  | .rotationCopy .. => execRotationCopy_kept hs
  | .rotationEnd .. => execRotationEnd_kept hs
  | .ageingTick => execAgeingTick_kept hs
  | .dieLinkCrcRetry .. => execDieLinkCrcRetry_kept hs
  | .dieLinkDown .. => execDieLinkDown_kept hs
  | .doorbell .. => execDoorbell_kept hs
  | .doorbellPageWrite .. => execDoorbellPageWrite_kept hs
  | .commandFetch .. => execCommandFetch_kept hs
  | .commandDispatch .. => execCommandDispatch_kept hs
  | .commandCommit .. => execCommandCommit_kept hs
  | .freezeComplete .. => execFreezeComplete_kept hs
  | .tile .. => execTile_kept hs
  | .attnFwd .. => execAttnFwd_kept hs
  | .attnBwd .. => execAttnBwd_kept hs
  | .merge .. => execMerge_kept hs
  | .elem .. => execElem_kept hs
  | .route .. => execRoute_kept hs
  | .gather .. => execGather_kept hs
  | .scatter .. => execScatter_kept hs
  | .momentum .. => execMomentum_kept hs
  | .adaptive .. => execAdaptive_kept hs
  | .signmom .. => execSignmom_kept hs
  | .orthoPrep .. => execOrthoPrep_kept hs
  | .orthoIter .. => execOrthoIter_kept hs
  | .orthoApply .. => execOrthoApply_kept hs
  | .kronStats .. => execKronStats_kept hs
  | .kronRoot .. => execKronRoot_kept hs
  | .kronApply .. => execKronApply_kept hs
  | .norm .. => execNorm_kept hs
  | .decideStep .. => execDecideStep_kept hs
  | .provisionalDecision .. => execProvisionalDecision_kept hs
  | .provisionalTimeout .. => execProvisionalTimeout_kept hs
  | .move .. => execMove_kept hs
  | .sample .. => execSample_kept hs
  | .sampleVerify .. => execSampleVerify_kept hs
  | .seqOpen .. => execSeqOpen_kept hs
  | .seqClose .. => execSeqClose_kept hs
  | .seqAccept .. => execSeqAccept_kept hs
  | .seqRollBack .. => execSeqRollBack_kept hs
  | .seqPrefixMatch .. => execSeqPrefixMatch_kept hs
  | .reduce .. => execReduce_kept hs
  | .reshard .. => execReshard_kept hs
  | .wait .. => execWait_kept hs
  | .signal .. => execSignal_kept hs
  | .latchAcquire .. => execLatchAcquire_kept hs
  | .latchTry .. => execLatchTry_kept hs
  | .latchRelease .. => execLatchRelease_kept hs
  | .waitLatchTimeout .. => execWaitLatchTimeout_kept hs
  | .watchdogExpiry .. => execWatchdogExpiry_kept hs
  | .injectedKill .. => execInjectedKill_kept hs
  | .evcAdd .. => execEvcAdd_kept hs
  | .ringEnable .. => execRingEnable_kept hs
  | .ringResume .. => execRingResume_kept hs
  | .ringFlush .. => execRingFlush_kept hs
  | .ringDisable .. => execRingDisable_kept hs
  | .flushComplete .. => execFlushComplete_kept hs
  | .ctxCreate .. => execCtxCreate_kept hs
  | .ctxDestroy .. => execCtxDestroy_kept hs
  | .destroyRelease .. => execDestroyRelease_kept hs
  | .ctxThaw .. => execCtxThaw_kept hs
  | .ctxReset .. => execCtxReset_kept hs
  | .fnRangeWrite .. => execFnRangeWrite_kept hs
  | .ctxWeightWrite .. => execCtxWeightWrite_kept hs
  | .preemptionCheck => execPreemptionCheck_kept hs
  | .vtIdleAdjust => execVtIdleAdjust_kept hs
  | .energyReconcile .. => execEnergyReconcile_kept hs
  | .objCreate .. => execObjCreate_kept hs
  | .objDestroy .. => execObjDestroy_kept hs
  | .objResize .. => execObjResize_kept hs
  | .objSetCfg .. => execObjSetCfg_kept hs
  | .objPromote .. => execObjPromote_kept hs
  | .objEvict .. => execObjEvict_kept hs
  | .objMap .. => execObjMap_kept hs
  | .migrationPressure .. => execMigrationPressure_kept hs
  | .heatPromotion => execHeatPromotion_kept hs
  | .migrationCopyDone .. => execMigrationCopyDone_kept hs
  | .sourceFree .. => execSourceFree_kept hs
  | .repairComplete .. => execRepairComplete_kept hs
  | .migCfgWrite .. => execMigCfgWrite_kept hs
  | .cartOstdWrite .. => execCartOstdWrite_kept hs
  | .seqCancel .. => execSeqCancel_kept hs
  | .cancelComplete .. => execCancelComplete_kept hs
  | .mapRelease => execMapRelease_kept hs
  | .driftGroupFree .. => execDriftGroupFree_kept hs
  | .steerInstall .. => execSteerInstall_kept hs
  | .steerRemove .. => execSteerRemove_kept hs
  | .rngSeedLoWrite .. => execRngSeedLoWrite_kept hs
  | .rngSeedHiWrite .. => execRngSeedHiWrite_kept hs
  | .portCtrlWrite .. => execPortCtrlWrite_kept hs
  | .trainingComplete .. => execTrainingComplete_kept hs
  | .trainingTimeout .. => execTrainingTimeout_kept hs
  | .downRetry .. => execDownRetry_kept hs
  | .linkPacket .. => execLinkPacket_kept hs
  | .portActivate .. => execPortActivate_kept hs
  | .frameTransmit .. => execFrameTransmit_kept hs
  | .frameReceive .. => execFrameReceive_kept hs
  | .retrainLock .. => execRetrainLock_kept hs
  | .retrainTimeout .. => execRetrainTimeout_kept hs
  | .laneRotationStart .. => execLaneRotationStart_kept hs
  | .laneRotationSwitch .. => execLaneRotationSwitch_kept hs
  | .laneRotateRetry .. => execLaneRotateRetry_kept hs
  | .laneCalibrationDone .. => execLaneCalibrationDone_kept hs
  | .laneRetire .. => execLaneRetire_kept hs
  | .linkRekey .. => execLinkRekey_kept hs
  | .creditStallTick .. => execCreditStallTick_kept hs
  | .farExport .. => execFarExport_kept hs
  | .farUnexport .. => execFarUnexport_kept hs
  | .farBind .. => execFarBind_kept hs
  | .writePacket .. => execWritePacket_kept hs
  | .readReqPacket .. => execReadReqPacket_kept hs
  | .readDataPacket .. => execReadDataPacket_kept hs
  | .commitPacket .. => execCommitPacket_kept hs
  | .abortPacket .. => execAbortPacket_kept hs
  | .donePacket .. => execDonePacket_kept hs
  | .e2eTimeout .. => execE2eTimeout_kept hs
  | .farStageExpire .. => execFarStageExpire_kept hs
  | .tallyUp .. => execTallyUp_kept hs
  | .tallyDown .. => execTallyDown_kept hs
  | .collTimeout .. => execCollTimeout_kept hs
  | .digestClear .. => execDigestClear_kept hs
  | .detInjectWrite .. => execDetInjectWrite_kept hs
  | .keyRecordApply .. => execKeyRecordApply_kept hs
  | .svnCommit .. => execSvnCommit_kept hs
  | .wpkOpen .. => execWpkOpen_kept hs
  | .wpkLoad .. => execWpkLoad_kept hs
  | .wpkClose .. => execWpkClose_kept hs
  | .apertureRead .. => execApertureRead_kept hs
  | .apertureWrite .. => execApertureWrite_kept hs
  | .irqHoldoffExpiry .. => execIrqHoldoffExpiry_kept hs
  | .msixUnmask .. => execMsixUnmask_kept hs
  | .functionQuiesce .. => execFunctionQuiesce_kept hs
  | .functionResume .. => execFunctionResume_kept hs
  | .vfReset .. => execVfReset_kept hs
  | .pfReset => execPfReset_kept hs
  | .configRequest .. => execConfigRequest_kept hs
  | .atsInvalidation .. => execAtsInvalidation_kept hs
  | .hostCompletionTimeout .. => execHostCompletionTimeout_kept hs
  | .pwrRun .. => execPwrRun_kept hs
  | .pwrHold .. => execPwrHold_kept hs
  | .pwrNap .. => execPwrNap_kept hs
  | .autoHold => execAutoHold_kept hs
  | .handshakeAnswer .. => execHandshakeAnswer_kept hs
  | .handshakeTimeout => execHandshakeTimeout_kept hs
  | .powerTransitionDone => execPowerTransitionDone_kept hs
  | .wakeEvent .. => execWakeEvent_kept hs
  | .compTrip => execCompTrip_kept hs
  | .wakeCfgWrite .. => execWakeCfgWrite_kept hs
  | .aclkSlewDone .. => execAclkSlewDone_kept hs
  | .phaseSample .. => execPhaseSample_kept hs
  | .sparePhaseSwitched .. => execSparePhaseSwitched_kept hs
  | .budgetEvaluation .. => execBudgetEvaluation_kept hs
  | .inputOvercurrent => execInputOvercurrent_kept hs
  | .sensorSample .. => execSensorSample_kept hs
  | .wmCfgWrite .. => execWmCfgWrite_kept hs
  | .wmThresholdWrite .. => execWmThresholdWrite_kept hs
  | .pchSpareCopyDone .. => execPchSpareCopyDone_kept hs
  | .siloRequestTimeout .. => execSiloRequestTimeout_kept hs
  | .siloPortRetire .. => execSiloPortRetire_kept hs
  | .scrubUnit .. => execScrubUnit_kept hs
  | .phyCalibration .. => execPhyCalibration_kept hs
  | .bgPassLate .. => execBgPassLate_kept hs
  | .healthRecordWrite .. => execHealthRecordWrite_kept hs
  | .coreWatchdog .. => execCoreWatchdog_kept hs
  | .elogRdWrite .. => execElogRdWrite_kept hs
  | .elogEntryRead .. => execElogEntryRead_kept hs
  | .timeStep .. => execTimeStep_kept hs
  | .mctpControl .. => execMctpControl_kept hs
  | .pldmRequest .. => execPldmRequest_kept hs
  | .pldmFirmwareUpdate .. => execPldmFirmwareUpdate_kept hs
  | .spdmRequest .. => execSpdmRequest_kept hs
  | .powerRequest .. => execPowerRequest_kept hs
  | .sidebandWake => execSidebandWake_kept hs
  | .healthRecordRead .. => execHealthRecordRead_kept hs
  | .errorLogRead .. => execErrorLogRead_kept hs
  | .errorLogRelease .. => execErrorLogRelease_kept hs
  | .coldReset => execColdReset_kept hs
  | .auxPowerLoss => execAuxPowerLoss_kept hs
  | .warmReset .. => execWarmReset_kept hs
  | .rstCtrlWarm .. => execRstCtrlWarm_kept hs
  | .perstDeassert => execPerstDeassert_kept hs
  | .sysrefClkLoss => execSysrefClkLoss_kept hs
  | .crvRefClkLoss => execCrvRefClkLoss_kept hs
  | .startupStep1Retry => execStartupStep1Retry_kept hs
  | .siloTrainingRetry port => execSiloTrainingRetry_kept (_port := port) hs
  | .siloPortTrained .. => execSiloPortTrained_kept hs
  | .bootPlanLoad => execBootPlanLoad_kept hs
  | .fallowExit => execFallowExit_kept hs
  | .bootStore .. => execBootStore_kept hs
  | .bootErase .. => execBootErase_kept hs
  | .bootCfgWrite .. => execBootCfgWrite_kept hs
  | .startupStepDone => execStartupStepDone_kept hs
  | .resetComplete .. => execResetComplete_kept hs
  | .fpOperationDone => execFpOperationDone_kept hs
  | .objOperationDone .. => execObjOperationDone_kept hs
  | .steerOperationDone .. => execSteerOperationDone_kept hs
  | .keyVaultOpDone => execKeyVaultOpDone_kept hs
  | .wpkOperationDone .. => execWpkOperationDone_kept hs
  | .bootStoreDone => execBootStoreDone_kept hs
  | .bindQuery .. => execBindQuery_kept hs
  | .bindAnswer .. => execBindAnswer_kept hs
  | .d2dLinkRestored .. => execD2dLinkRestored_kept hs
  | .crvRefClkReturn => execCrvRefClkReturn_kept hs
  | .compRearm => execCompRearm_kept hs
  | .perstAssertInFallow => execPerstAssertInFallow_kept hs
  | .hostLinkTrained .. => execHostLinkTrained_kept hs

/-! ### Every step -/

theorem step_idle (h : s.pending = []) : step s = .next (idleTick s) := by
  rw [step, h]

theorem step_command {c : Instr} {rest : List Instr} (h : s.pending = c :: rest) : step s = exec c { s with pending := rest } := by
  rw [step, h]

/-- A step takes the front command off the queue, or finds none, and keeps the canonical form. -/
theorem step_kept (h : s.Canon) : KeptOut s.pending.tail true (step s) := by
  cases hp : s.pending with
  | nil =>
    have hall : Kept [] true s := ⟨hp, fun _ => h⟩
    rw [step_idle hp]
    exact keptOut_next (idleTick_kept hall)
  | cons c rest =>
    have hrest : Kept rest true { s with pending := rest } := Kept.of_canon h
    rw [step_command hp]
    exact exec_kept hrest c

/-- Settles O6: what a step of a canonical state answers is canonical (`step_kept`). -/
theorem everyStepKeepsCanon : Obligations.EveryStepKeepsCanon := by
  unfold Obligations.EveryStepKeepsCanon
  intro s t hs ht
  exact (step_kept hs t ht).canon

/-! ### Cold reset -/

theorem storeOk_reset : StoreOk State.reset.com := ⟨Memory.wf_nil, Memory.wf_nil, Memory.wf_nil⟩

/-- Settles O7: the memories and the tables of the reset state are empty lists. -/
theorem canonAtReset : Obligations.CanonAtReset := by
  unfold Obligations.CanonAtReset
  exact ⟨storeOk_reset, Memory.wf_nil, rfl, rfl, rfl, rfl, rfl, rfl⟩

end Sys2Proof.Machine
end

section
/-! SUPPORT. The operations of OBJ_CTRL (R188, R189, R191 to R193, R224, R260, R355): the status that each check of an operation gives,
in the order of the checks, and what an operation that passes them does. What "names" an object is log entry 70. -/

namespace Sys2Proof.Machine

open Sys2Proof

variable {s : State} {f c n sid : Nat} {st : Status} {b : Body}

/-! ### Sizes and the limit of objects -/

theorem sizeOk_iff : sizeOk n = true ↔ 1 ≤ n ∧ n ≤ 524288 := by simp [sizeOk]

theorem sizeOk_outside (h : n < 1 ∨ 524288 < n) : sizeOk n = false := by
  rw [← Bool.not_eq_true, sizeOk_iff]
  omega

theorem objLimit_iff : objLimit s = true ↔ objectCount s < 4194304 := decide_eq_true_iff

/-! ### An operation written to OBJ_CTRL -/

/-- R192: a second operation is refused while one runs. -/
theorem objOp_busy {go : State → ObjEnd} (h : (s.ctx c).objOp.isSome = true) : objOp s c go = objErr s c .notReady := if_pos h

theorem objOp_idle {go : State → ObjEnd} (h : (s.ctx c).objOp = none) : objOp s c go = objEnds s c (go s) :=
  if_neg (by simp [h])

section
variable (hup : s.up = true) (hs : Shows s f c)
include hup hs

theorem exec_objCreate :
    exec (.objCreate f) s = .next (watch (wakeSource (objOp s c (fun t => createObj t c)) 1)) := hub_window hup hs

theorem exec_objDestroy :
    exec (.objDestroy f) s = .next (watch (wakeSource (objOp s c (fun t => .of (destroyObj t c))) 1)) := hub_window hup hs

theorem exec_objResize :
    exec (.objResize f) s = .next (watch (wakeSource (objOp s c (fun t => resizeObj t c)) 1)) := hub_window hup hs

theorem exec_objSetCfg :
    exec (.objSetCfg f) s = .next (watch (wakeSource (objOp s c (fun t => .of (setCfgObj t c))) 1)) := hub_window hup hs

theorem exec_objPromote :
    exec (.objPromote f) s = .next (watch (wakeSource (objOp s c (fun t => .of (requestRange t c askPromote))) 1)) := hub_window hup hs

theorem exec_objEvict :
    exec (.objEvict f) s = .next (watch (wakeSource (objOp s c (fun t => .of (requestRange t c askEvict))) 1)) := hub_window hup hs

theorem exec_objMap :
    exec (.objMap f) s = .next (watch (wakeSource (objOp s c (fun t => .of (mapObj t f c))) 1)) := hub_window hup hs

end

/-! ### CREATE -/

theorem createObj_notLive (h : ctxLives s c = false) : createObj s c = .fail .notReady := if_pos (by simp [h])

section
variable (hlive : ctxLives s c = true)
include hlive

theorem createObj_taken (h : objExists s.com c (objSel s c) = true) : createObj s c = .fail .format := by
  simp [createObj, hlive, h]

variable (hnew : objExists s.com c (objSel s c) = false)
include hnew

theorem createObj_length (h : objSize s c < 1 ∨ 524288 < objSize s c) : createObj s c = .fail .length := by
  simp [createObj, hlive, hnew, sizeOk_outside h]

variable (hsize : sizeOk (objSize s c) = true)
include hsize

theorem createObj_stack (h : stackDefined (objStack s c) = false) : createObj s c = .fail .format := by
  simp [createObj, hlive, hnew, hsize, h]

variable (hstack : stackDefined (objStack s c) = true)
include hstack

theorem createObj_quota (h : 4194304 ≤ objectCount s) : createObj s c = .fail .quota := by
  have hlimit : objLimit s = false := by rw [← Bool.not_eq_true, objLimit_iff]; omega
  simp [createObj, hlive, hnew, hsize, hstack, hlimit]

/-- R191, R193: a new storage under the next number, and the object's entry in its context. -/
theorem createObj_ok {t : State} (hcount : objectCount s < 4194304) (hres : reservesAtAdmission s c = false)
    (hb : b = Body.mk c (objSel s c) (objSize s c) (objPlace s c) (objWritable s c) (objReplica s c) (objStack s c) false false false true)
    (ht : t = { s with
      nextSid := s.nextSid + 1
      com := { s.com with
        bodies := tblIns s.com.bodies s.nextSid b
        objs := tblIns s.com.objs (objKey c (objSel s c)) { sid := s.nextSid, alias_ := false } } }) :
    createObj s c = .ok t := by
  subst hb ht
  simp only [createObj, hlive, hnew, hsize, hstack, objLimit_iff.2 hcount, hres, Bool.not_true, Bool.false_eq_true, if_false]
  rfl

end

/-! ### DESTROY -/

theorem destroyObj_missing (h : objExists s.com c (objSel s c) = false) : destroyObj s c = .inr .noObject := if_pos (by simp [h])

theorem destroyObj_inUse (hex : objExists s.com c (objSel s c) = true)
    (h : objNamed s c (objSel s c) = true ∨ objSteers s c (objSel s c) = true) : destroyObj s c = .inr .notReady := by
  simp [destroyObj, hex, h]

/-- R191, R193: the number goes, and the operation runs until OBJ_OPERATION_DONE. -/
theorem destroyObj_ok (hex : objExists s.com c (objSel s c) = true) (hnamed : objNamed s c (objSel s c) = false)
    (hsteers : objSteers s c (objSel s c) = false) :
    destroyObj s c = .inl ((destroyNumber s c (objSel s c)).setCtx c { (destroyNumber s c (objSel s c)).ctx c with
      objOp := some { op := 2, a := objSel s c, b := 0 } }) := by
  simp [destroyObj, hex, hnamed, hsteers]

/-! ### RESIZE -/

theorem resizeObj_notOwn (h : ownBody s c (objSel s c) = .inr st) : resizeObj s c = .fail st := by
  simp [resizeObj, h]

section
variable (hown : ownBody s c (objSel s c) = .inl (sid, b))
include hown

theorem resizeObj_length (h : objSize s c < 1 ∨ 524288 < objSize s c) : resizeObj s c = .fail .length := by
  simp [resizeObj, hown, sizeOk_outside h]

theorem resizeObj_inUse (hsize : sizeOk (objSize s c) = true)
    (h : (objSize s c < b.size ∧ objNamed s c (objSel s c) = true) ∨ objSteers s c (objSel s c) = true) :
    resizeObj s c = .fail .notReady := by
  simp [resizeObj, hown, hsize, h]

/-- R191, R355: a RESIZE that does not shrink changes the size and ends what other nodes were given of the object; nothing is reserved. -/
theorem resizeObj_grows {t : State} (hsize : sizeOk (objSize s c) = true) (hge : b.size ≤ objSize s c) (hres : b.reserved = false)
    (hsteers : objSteers s c (objSel s c) = false)
    (ht : t = dropExports (s.setCom { s.com with bodies := tblIns s.com.bodies sid { b with size := objSize s c } })
      (fun e => e.ctx == c && e.obj == objSel s c)) :
    resizeObj s c = .ok (t.setCtx c { t.ctx c with objOp := some { op := 3, a := objSel s c, b := objSize s c } }) := by
  subst ht
  simp only [resizeObj, hown, hsize, hres, hsteers, Nat.not_lt.2 hge, decide_false, Bool.not_true, Bool.false_and, Bool.or_self,
    Bool.false_eq_true, if_false]
  rfl

/-! ### SET_CFG -/

/-- R191: with granules allocated, REPLICA and a PLACE of 2 stay as they are. -/
theorem setCfgObj_fixed (hgrans : hasGrans s sid = true) (h : objReplica s c ≠ b.replica ∨ ¬(objPlace s c = 2 ↔ b.place = 2)) :
    setCfgObj s c = .inr .format := by
  have hchange : (objReplica s c != b.replica || (objPlace s c == 2) != (b.place == 2)) = true := by
    rw [Bool.or_eq_true, bne_iff_ne, bne_iff_ne, ne_eq (_ == _), Bool.eq_iff_iff, beq_iff_eq, beq_iff_eq]
    exact h
  simp [setCfgObj, hown, hgrans, hchange]

theorem setCfgObj_ok (hgrans : hasGrans s sid = false) (hstack : stackDefined (objStack s c) = true) :
    setCfgObj s c = .inl (s.setBody sid { b with
      place := objPlace s c, writable := objWritable s c, replica := objReplica s c, stack := objStack s c }) := by
  simp [setCfgObj, hown, hgrans, hstack]

end

theorem setCfgObj_notOwn (h : ownBody s c (objSel s c) = .inr st) : setCfgObj s c = .inr st := by
  simp [setCfgObj, h]

/-! ### PROMOTE, EVICT and MAP -/

theorem requestRange_refused {ask : State → Nat → State} (h : moveRange s c = .inr st) : requestRange s c ask = .inr st := by
  simp [requestRange, h]

theorem requestRange_asks {ask : State → Nat → State} (h : moveRange s c = .inl sid) :
    requestRange s c ask = .inl ((rangeGrans s c sid).foldl ask s) := by
  simp [requestRange, h]

theorem mapObj_taken (h : objExists s.com c (objSel s c) = true) : mapObj s f c = .inr .format := if_pos h

section
variable (hnew : objExists s.com c (objSel s c) = false)
include hnew

theorem mapObj_notReady (h : ctxOwnedBy s f (objMapSrc s c) = false ∨ ctxLives s (objMapSrc s c) = false) :
    mapObj s f c = .inr .notReady := by
  simp [mapObj, hnew, h]

/-- R193: the number becomes a second name of the source object's storage. -/
theorem mapObj_ok (howned : ctxOwnedBy s f (objMapSrc s c) = true) (hlive : ctxLives s (objMapSrc s c) = true)
    (hbody : objBody s.com (objMapSrc s c) (objMapObj s c) = some (sid, b, false)) (hcount : objectCount s < 4194304) :
    mapObj s f c = .inl (s.setCom { s.com with objs := tblIns s.com.objs (objKey c (objSel s c)) { sid := sid, alias_ := true } }) := by
  simp [mapObj, hnew, howned, hlive, hbody, objLimit_iff.2 hcount]

end

/-! ### The statement -/

/-- Settles O38: while an operation runs `objOp` refuses; otherwise each operation ends as the lemma of its first failing check says, or
as the lemma of its success. -/
theorem objectOperationsCheckThenAct : Obligations.ObjectOperationsCheckThenAct := by
  unfold Obligations.ObjectOperationsCheckThenAct
  intro s f c hup
  refine ⟨fun hs => ⟨fun hbusy => ?busy, fun hidle o n fail ho hn hfail => ?idle⟩, fun h => ?_, fun h => ?_⟩
  case busy =>
    simp only [List.forall_mem_cons, List.not_mem_nil, false_imp_iff, implies_true, and_true, exec_objCreate hup hs,
      exec_objDestroy hup hs, exec_objResize hup hs, exec_objSetCfg hup hs, exec_objPromote hup hs, exec_objEvict hup hs,
      exec_objMap hup hs, objOp_busy hbusy]
    exact ⟨rfl, rfl, rfl, rfl, rfl, rfl, rfl⟩
  case idle =>
    subst ho hn hfail
    rw [exec_objCreate hup hs, exec_objDestroy hup hs, exec_objResize hup hs, exec_objSetCfg hup hs, exec_objPromote hup hs,
      exec_objEvict hup hs, exec_objMap hup hs]
    simp only [objOp_idle hidle]
    refine ⟨fun hdead => ?_, fun hlive hex => ?_, fun hlive hnew => ⟨fun hlen => ?_, fun h1 hmax => ?create⟩,
      fun hnew => ?_, fun hex hused => ?_, fun hex hnamed hsteers t ht => ?_,
      fun st hown => ?_, fun sid b hown => ?own,
      fun st hrange => ?_, fun sid hrange => ?_,
      fun hex => ?_, fun hnew hsrc => ?_, fun sid b hnew howned hlive hbody hcount => ?_⟩
    · rw [createObj_notLive hdead]; rfl
    · rw [createObj_taken hlive hex]; rfl
    · rw [createObj_length hlive hnew hlen]; rfl
    case create =>
      have hsize := sizeOk_iff.2 ⟨h1, hmax⟩
      refine ⟨fun hstack => ?_, fun hstack hcount => ?_, fun hstack hcount hres t b hb ht => ?_⟩
      · rw [createObj_stack hlive hnew hsize hstack]; rfl
      · rw [createObj_quota hlive hnew hsize hstack hcount]; rfl
      · rw [createObj_ok hlive hnew hsize hstack hcount hres hb ht, ht]; rfl
    · rw [destroyObj_missing hnew]; rfl
    · rw [destroyObj_inUse hex hused]; rfl
    · subst ht
      rw [destroyObj_ok hex hnamed hsteers]
      exact ⟨_, rfl, rfl⟩
    · rw [resizeObj_notOwn hown, setCfgObj_notOwn hown]
      exact ⟨rfl, rfl⟩
    case own =>
      refine ⟨fun hlen => ?_, fun h1 hmax hused => ?_, fun hge h1 hmax hres hsteers t ht => ?_, fun hgrans hfixed => ?_,
        fun hgrans hstack y hy => ?_⟩
      · rw [resizeObj_length hown hlen]; rfl
      · rw [resizeObj_inUse hown (sizeOk_iff.2 ⟨h1, hmax⟩) hused]; rfl
      · rw [resizeObj_grows hown (sizeOk_iff.2 ⟨h1, hmax⟩) hge hres hsteers ht]
        exact ⟨_, rfl, rfl⟩
      · rw [setCfgObj_fixed hown hgrans hfixed]; rfl
      · rw [setCfgObj_ok hown hgrans hstack, hy]; rfl
    · rw [requestRange_refused hrange, requestRange_refused hrange]
      exact ⟨rfl, rfl⟩
    · rw [requestRange_asks hrange, requestRange_asks hrange]
      exact ⟨⟨_, rfl, rfl⟩, _, rfl, rfl⟩
    · rw [mapObj_taken hex]; rfl
    · rw [mapObj_notReady hnew hsrc]; rfl
    · rw [mapObj_ok hnew howned hlive hbody hcount]; rfl
  · exact (hub_up hup).trans (by rw [objOperationDone, if_pos h])
  · exact (hub_up hup).trans (by rw [objOperationDone, if_neg (by simp [h])])

end Sys2Proof.Machine
end

section
/-! SUPPORT. Weight packages (R207, R422, R424 to R428, R433): what a write of OPEN, LOAD or CLOSE does in each state of its context, and
what ends an operation. That an operation's checks and effects stand at WPK_OPERATION_DONE is log entry 78. -/

namespace Sys2Proof.Machine

open Sys2Proof

variable {s : State} {f c slot : Nat} {st : Status} {k : Option Nat} {x : Nat} {w : Bool} {p : PkgSlot} {o : WinOp}

/-! ### An operation written to WPK_CTRL -/

section
variable (hup : s.up = true) (hs : Shows s f c)
include hup hs

theorem exec_wpkOpen : exec (.wpkOpen f) s = .next (watch (wakeSource (wpkCtrl s c 1#32) 1)) := hub_window hup hs
theorem exec_wpkLoad : exec (.wpkLoad f) s = .next (watch (wakeSource (wpkCtrl s c 2#32) 1)) := hub_window hup hs
theorem exec_wpkClose : exec (.wpkClose f) s = .next (watch (wakeSource (wpkCtrl s c 3#32) 1)) := hub_window hup hs

end

/-- R433: a second operation is refused while one runs. -/
theorem wpkCtrl_busy {v : Word} (h : (s.ctx c).wpkOp ≠ none) : wpkCtrl s c v = s.setCtx c { s.ctx c with wpkErr := .notReady } :=
  if_pos (Option.isSome_iff_ne_none.2 h)

section
variable (h : (s.ctx c).wpkOp = none)
include h

theorem wpkCtrl_open : wpkCtrl s c 1#32 = ({ s with vault := { s.vault with opens := s.vault.opens ++ [c] } }).setCtx c
    { s.ctx c with wpkOp := some { op := 1, a := wpkSel s c, b := 0 } } := if_neg (by simp [h])

theorem wpkCtrl_load : wpkCtrl s c 2#32 = s.setCtx c { s.ctx c with wpkOp := some { op := 2, a := wpkSel s c, b := 0 } } :=
  if_neg (by simp [h])

theorem wpkCtrl_close : wpkCtrl s c 3#32 = wpkClose s c := if_neg (by simp [h])

end

/-- R426: the context that opened the slot closes it. -/
theorem wpkClose_own (h : tblFind s.vault.pkgs (wpkSel s c) = some p) (hp : p.ctx = c) :
    wpkClose s c = ({ s with vault := { s.vault with pkgs := tblDel s.vault.pkgs (wpkSel s c) } }).setCtx c
      { s.ctx c with wpkErr := .ok } := if_pos (by simp [h, hp])

theorem wpkClose_refused (h : ∀ p, tblFind s.vault.pkgs (wpkSel s c) = some p → p.ctx ≠ c) :
    wpkClose s c = s.setCtx c { s.ctx c with wpkErr := .notReady } :=
  if_neg (by simpa [Option.any_eq_true] using h)

/-! ### The end of an operation -/

theorem exec_wpkOperationDone (hup : s.up = true) : exec (.wpkOperationDone c) s = .next (watch (wpkOperationDone s c)) := hub_up hup

theorem wpkOperationDone_idle (h : (s.ctx c).wpkOp = none) : wpkOperationDone s c = s := by
  rw [wpkOperationDone, h]

/-- R425: the OPEN operations end in the order of their arrival. -/
theorem wpkOperationDone_waits (h : (s.ctx c).wpkOp = some o) (ho : o.op = 1) (hfirst : s.vault.opens.head? ≠ some c) :
    wpkOperationDone s c = s := by
  simp [wpkOperationDone, h, ho, hfirst]

theorem wpkOperationDone_open (h : (s.ctx c).wpkOp = some o) (ho : o.op = 1) (hfirst : s.vault.opens.head? = some c) :
    wpkOperationDone s c = openEnds s c := by
  simp [wpkOperationDone, h, ho, hfirst]

theorem wpkOperationDone_load (h : (s.ctx c).wpkOp = some o) (ho : o.op ≠ 1) : wpkOperationDone s c = loadEnds s c o.a := by
  simp [wpkOperationDone, h, ho]

/-- R433: an operation that ends with OK changes its context alone. -/
theorem wpkEnds_ok : wpkEnds s c .ok k =
    s.setCtx c { s.ctx c with wpkOp := none, wpkErr := .ok, wpkErrChunk := k.getD (s.ctx c).wpkErrChunk } := rfl

/-! ### OPEN -/

theorem wpkOpenRun_taken (h : (tblFind s.vault.pkgs (wpkSel s c)).isSome = true) : wpkOpenRun s c = .fail .notReady none := by
  obtain ⟨p, hp⟩ := Option.isSome_iff_exists.1 h
  simp [wpkOpenRun, hp, wpkNeed, WpkEnd.bind]

theorem wpkOpenRun_length (h : tblFind s.vault.pkgs (wpkSel s c) = none) (hlen : wpkManLen s c < 456 ∨ 819456 < wpkManLen s c) :
    wpkOpenRun s c = .fail .length none := by
  have hbad : (decide (456 ≤ wpkManLen s c) && decide (wpkManLen s c ≤ 819456)) = false := by
    rw [← Bool.not_eq_true, Bool.and_eq_true, decide_eq_true_eq, decide_eq_true_eq]
    omega
  simp [wpkOpenRun, h, hbad, wpkNeed, WpkEnd.bind]

section
variable {u : State} (hu : u = { s with vault := { s.vault with opens := s.vault.opens.filter (fun d => d != c) } })
include hu

theorem openEnds_fail (h : wpkOpenRun u c = .fail st k) : openEnds s c = wpkEnds u c st none := by
  subst hu
  simp only [openEnds, h]

theorem openEnds_breach (h : wpkOpenRun u c = .breach x w) : openEnds s c = wpkBreach u c x w := by
  subst hu
  simp only [openEnds, h]

/-- R425: a good package fills its slot. -/
theorem openEnds_good (h : wpkOpenRun u c = .good p) :
    openEnds s c = wpkEnds { u with vault := { u.vault with pkgs := tblIns s.vault.pkgs (wpkSel s c) p } } c .ok none := by
  subst hu
  simp only [openEnds, h]
  rfl

end

/-! ### LOAD -/

theorem wpkLoadRun_empty (h : tblFind s.vault.pkgs slot = none) : wpkLoadRun s c slot = .fail .notReady none := by
  simp [wpkLoadRun, h]

theorem wpkLoadRun_foreign (h : tblFind s.vault.pkgs slot = some p) (hp : p.ctx ≠ c) :
    wpkLoadRun s c slot = .fail .notReady none := by
  simp [wpkLoadRun, h, hp, wpkNeed, WpkEnd.bind]

theorem loadEnds_notLive (h : ctxLives s c = false) : loadEnds s c slot = wpkEnds s c .notReady none := if_pos (by simp [h])

section
variable (hlive : ctxLives s c = true)
include hlive

theorem loadEnds_fail (h : wpkLoadRun s c slot = .fail st k) : loadEnds s c slot = wpkEnds s c st k := by
  simp [loadEnds, hlive, h]

theorem loadEnds_breach (h : wpkLoadRun s c slot = .breach x w) : loadEnds s c slot = wpkBreach s c x w := by
  simp [loadEnds, hlive, h]

theorem loadEnds_good {l : Loaded} (h : wpkLoadRun s c slot = .good l) : loadEnds s c slot = commitLoad s c l := by
  simp [loadEnds, hlive, h]

end

/-! ### The statement -/

/-- Settles O48: a write while an operation runs is refused (`wpkCtrl_busy`), and otherwise starts or closes; an operation ends as the
result of its run says, where `wpkOpenRun` and `wpkLoadRun` give the first checks of each. -/
theorem weightPackageOperations : Obligations.WeightPackageOperations := by
  unfold Obligations.WeightPackageOperations
  intro s c hup
  rw [exec_wpkOperationDone hup]
  refine ⟨fun f hs => ?write, fun h => by rw [wpkOperationDone_idle h], fun o h ho => ⟨fun hlater => ?_, fun hfirst u hu => ?openEnd⟩,
    fun o h ho => ?loadEnd⟩
  case write =>
    rw [exec_wpkOpen hup hs, exec_wpkLoad hup hs, exec_wpkClose hup hs]
    refine ⟨fun hbusy t ht => ?_, fun hidle => ?_⟩
    · simp only [wpkCtrl_busy hbusy, ht, and_self]
    · rw [wpkCtrl_open hidle, wpkCtrl_load hidle, wpkCtrl_close hidle]
      exact ⟨rfl, rfl, fun p hp hown => by rw [wpkClose_own hp hown], fun hother => by rw [wpkClose_refused hother]⟩
  · rw [wpkOperationDone_waits h ho hlater]
  case openEnd =>
    have hpkgs : u.vault.pkgs = s.vault.pkgs := by rw [hu]
    have hsel : wpkSel u c = wpkSel s c := by rw [hu]; rfl
    have hman : wpkManLen u c = wpkManLen s c := by rw [hu]; rfl
    rw [wpkOperationDone_open h ho hfirst]
    refine ⟨fun htaken => ?_, fun hempty hlen => ?_, fun st k hrun => by rw [openEnds_fail hu hrun],
      fun x w hrun => by rw [openEnds_breach hu hrun], fun p hrun => ?_⟩
    · rw [← hpkgs, ← hsel] at htaken
      rw [openEnds_fail hu (wpkOpenRun_taken htaken)]
    · rw [← hpkgs, ← hsel] at hempty
      rw [← hman] at hlen
      rw [openEnds_fail hu (wpkOpenRun_length hempty hlen)]
    · rw [openEnds_good hu hrun]
      refine ⟨_, rfl, ?_⟩
      dsimp only
      rw [watch_vault, watch_com, watch_rings, wpkEnds_ok, State.setCtx_vault, State.setCtx_com, State.setCtx_rings, hu]
      exact ⟨rfl, rfl, rfl, rfl⟩
  case loadEnd =>
    rw [wpkOperationDone_load h ho]
    refine ⟨fun hdead => by rw [loadEnds_notLive hdead], fun hlive => ⟨fun hempty => ?_, fun p hp hother => ?_,
      fun st k hrun => by rw [loadEnds_fail hlive hrun], fun x w hrun => by rw [loadEnds_breach hlive hrun],
      fun l hrun => by rw [loadEnds_good hlive hrun]⟩⟩
    · rw [loadEnds_fail hlive (wpkLoadRun_empty hempty)]
    · rw [loadEnds_fail hlive (wpkLoadRun_foreign hp hother)]

end Sys2Proof.Machine
end

section
/-! SUPPORT. The states of a Caravan port (R335, R343, R345 to R347, R532): what each row of a port does in each state. -/

namespace Sys2Proof.Machine

open Sys2Proof

variable {s t : State} {p : Nat}

/-! ### A row of a port -/

theorem portRow_up (hup : s.up = true) (hp : p < 36) : portRow p s t = .next (watch t) := by
  rw [portRow, if_pos hp, hub_up hup]

section
variable (hup : s.up = true) (hp : p < 36)
include hup hp

theorem exec_portCtrlWrite {a : Agent} {v : Word} (hr : Reaches s a) :
    exec (.portCtrlWrite a p v) s = .next (watch (portCtrlWrite (seenFrom s a) p v)) := by
  rw [← viaBar0_reaches (go := fun s => portCtrlWrite s p v) hr]
  exact portRow_up hup hp

theorem exec_trainingComplete : exec (.trainingComplete p) s = .next (watch (trainingComplete s p)) := portRow_up hup hp
theorem exec_trainingTimeout : exec (.trainingTimeout p) s = .next (watch (trainingTimeout s p)) := portRow_up hup hp
theorem exec_downRetry : exec (.downRetry p) s = .next (watch (downRetry s p)) := portRow_up hup hp
theorem exec_linkPacket (m : LinkMsg) : exec (.linkPacket p m) s = .next (watch (linkPacket s p m)) := portRow_up hup hp
theorem exec_portActivate : exec (.portActivate p) s = .next (watch (portActivate s p)) := portRow_up hup hp
theorem exec_retrainLock : exec (.retrainLock p) s = .next (watch (retrainLock s p)) := portRow_up hup hp
theorem exec_retrainTimeout : exec (.retrainTimeout p) s = .next (watch (retrainTimeout s p)) := portRow_up hup hp

end

/-! ### PORT_CTRL (R346) -/

section
variable {v : Word} (ht : t = s.setReg (kPort p 4) (BitVec.ofNat 32 (v.toNat % 2)))
include ht

theorem portCtrlWrite_disabled (hv : v.toNat % 2 = 0) :
    portCtrlWrite s p v = if (t.port p).st = .off then t else endSession t p .off := by
  rw [portCtrlWrite, if_pos hv, ← ht]
  simp only [beq_iff_eq]

theorem portCtrlWrite_enabled (hv : v.toNat % 2 = 1) :
    portCtrlWrite s p v = if (t.port p).st = .off then t.setPort p { t.port p with st := .training } else t := by
  rw [portCtrlWrite, if_neg (by omega), ← ht]
  simp only [beq_iff_eq]

end

/-! ### Training (R346) -/

theorem trainingComplete_elsewhere (h : (s.port p).st ≠ .training) : trainingComplete s p = s := if_neg (by simpa using h)

theorem trainingTimeout_elsewhere (h : (s.port p).st ≠ .training) : trainingTimeout s p = s := if_neg (by simpa using h)

theorem trainingTimeout_training (h : (s.port p).st = .training) :
    trainingTimeout s p = endSession (s.bump16 (kPort p 0x30) 1) p .down := if_pos (by simp [h])

/-- R346, R347: a port whose bit of CRV_ENC is 0 identifies itself in the open. -/
theorem trainingComplete_open {y : Port} (h : (s.port p).st = .training) (he : encBit s p = false)
    (hy : y = { s.port p with
      st := .ident, txSeq := 0, rxSeq := 0, sendNext := 0, retry := [], rx := [], nak := false, sent := [0, 0, 0],
      cred := [0, 0, 0], ret := [0, 0, 0], txFrame := 0, rxFrame := 0, narrow := decide (9 - (s.port p).retired.length < 8),
      enc := false }) (ht : t = s.setPort p y) :
    trainingComplete s p = sendLink t p (.identity (reportedNode t) p (groupId t)) := by
  have he' : encBit t p = false := by rw [ht]; exact he
  rw [trainingComplete, if_pos (by simp [h]), enterIdent]
  dsimp only
  rw [← hy, ← ht, if_neg (by simp [he'])]

theorem downRetry_down (h : (s.port p).st = .down) (hc : s.pins.crvRef = true) :
    downRetry s p = s.setPort p { s.port p with st := .training } := if_pos (by simp [h, hc])

theorem downRetry_elsewhere (h : (s.port p).st ≠ .down ∨ s.pins.crvRef = false) : downRetry s p = s :=
  if_neg (by simpa [imp_iff_not_or] using h)

/-! ### LINK (R346, R347) -/

section
variable {node port group : Nat}

theorem linkPacket_identity (h : (s.port p).st = .ident) (ha : (s.port p).agree = none) :
    linkPacket s p (.identity node port group) = enterUp (setPeer s p node port group) p := if_pos (by simp [h, ha])

theorem linkPacket_identity_elsewhere (h : (s.port p).st ≠ .ident) : linkPacket s p (.identity node port group) = s :=
  if_neg (by simp [h])

end

theorem linkPacket_ready {on : Bool} (h : (s.port p).st = .up ∨ (s.port p).st = .active) :
    linkPacket s p (.ready on) = s.setPort p { s.port p with peerReady := on } := if_pos (by simpa using h)

/-! ### PORT_ACTIVATE (R345, R346) -/

theorem portActivate_waits (h : (s.port p).st ≠ .up ∨ inForce s = none ∨ portEnabled s p = false) : portActivate s p = s := by
  refine if_neg ?_
  rw [Bool.and_eq_true, Bool.and_eq_true, beq_iff_eq]
  rintro ⟨⟨hst, hplan⟩, hen⟩
  rcases h with h | h | h
  · exact h hst
  · simp [h] at hplan
  · simp [h] at hen

section
variable (hst : (s.port p).st = .up) (hplan : (inForce s).isSome = true) (hen : portEnabled s p = true)
include hst hplan hen

/-- R346: an enabled port that is Up looks at what its peer says of itself. -/
theorem portActivate_up : portActivate s p =
    if (s.port p).peerGroup ≠ groupId s ∨ (s.port p).peerNode = none then s.bump16 0x20050 1
    else if (s.port p).peerReady = true then s.draw.2.setPort p { s.port p with st := .active, rtt := s.draw.1 % 65536 } else s := by
  rw [portActivate]
  dsimp only
  rw [if_pos (by simp [hst, hplan, hen])]
  simp only [Bool.or_eq_true, bne_iff_ne, Option.isNone_iff_eq_none]
  rfl

theorem portActivate_foreign (h : (s.port p).peerGroup ≠ groupId s ∨ (s.port p).peerNode = none) :
    portActivate s p = s.bump16 0x20050 1 := by rw [portActivate_up hst hplan hen, if_pos h]

section
variable (hg : (s.port p).peerGroup = groupId s) (hn : (s.port p).peerNode ≠ none)
include hg hn

theorem portActivate_ready (h : (s.port p).peerReady = true) :
    portActivate s p = s.draw.2.setPort p { s.port p with st := .active, rtt := s.draw.1 % 65536 } := by
  rw [portActivate_up hst hplan hen, if_neg (by simp [hg, hn]), if_pos h]

theorem portActivate_notReady (h : (s.port p).peerReady = false) : portActivate s p = s := by
  rw [portActivate_up hst hplan hen, if_neg (by simp [hg, hn]), if_neg (by simp [h])]

end

end

/-! ### Retraining (R343, R346) -/

theorem retrainTimeout_retrain (h : (s.port p).st = .retrain) : retrainTimeout s p = endSession s p .down := if_pos (by simp [h])

theorem retrainTimeout_elsewhere (h : (s.port p).st ≠ .retrain) : retrainTimeout s p = s := if_neg (by simpa using h)

/-- R343: the replay resumes from the oldest flit that is not acknowledged. -/
theorem retrainLock_retrain (h : (s.port p).st = .retrain) : retrainLock s p = s.setPort p { s.port p with
    st := .active, sendNext := ((s.port p).txSeq + 2 ^ 32 - (s.port p).retry.length) % 2 ^ 32, replayFlag := true,
    replayEnd := some (s.port p).txSeq } := if_pos (by simp [h])

theorem retrainLock_elsewhere (h : (s.port p).st ≠ .retrain) : retrainLock s p = s := if_neg (by simpa using h)

/-! ### The reference clock (R532) -/

theorem foldl_eq_self {α β : Type} {f : β → α → β} {b : β} {l : List α} (h : ∀ a ∈ l, f b a = b) : l.foldl f b = b := by
  induction l with
  | nil => rfl
  | cons a l ih => rw [List.foldl_cons, h a List.mem_cons_self, ih fun c hc => h c (List.mem_cons_of_mem a hc)]

theorem crvClkLoss_eq : crvClkLoss s = (List.range 36).foldl (fun t q => if (t.port q).st = .off then t else endSession t q .down)
    { s with pins := { s.pins with crvRef := false } } := by
  simp only [crvClkLoss, beq_iff_eq]

section
variable (h : ∀ q < 36, (s.port q).st = .off)
include h

theorem crvClkLoss_off : crvClkLoss s = { s with pins := { s.pins with crvRef := false } } :=
  foldl_eq_self fun q hq => if_pos (beq_iff_eq.2 (h q (List.mem_range.1 hq)))

theorem crvClkReturn_off : crvClkReturn s = { s with pins := { s.pins with crvRef := true } } :=
  foldl_eq_self fun q hq => downRetry_elsewhere (.inl fun hd => nomatch (h q (List.mem_range.1 hq)).symm.trans hd)

end

/-! ### The statement -/

/-- Settles O41: each row of a port is what its lemma for the port's state says. -/
theorem portStatesFollowTheStateTable : Obligations.PortStatesFollowTheStateTable := by
  unfold Obligations.PortStatesFollowTheStateTable
  rintro s p x hup hp rfl
  have loss : exec .crvRefClkLoss s = .next (watch (crvClkLoss s)) := hub_up hup
  have ret : exec .crvRefClkReturn s = .next (watch (crvClkReturn s)) := hub_up hup
  simp only [exec_trainingComplete hup hp, exec_trainingTimeout hup hp, exec_downRetry hup hp, exec_linkPacket hup hp,
    exec_portActivate hup hp, exec_retrainLock hup hp, exec_retrainTimeout hup hp, loss, ret]
  refine ⟨?ctrl, fun h => ?_, fun h => ⟨?_, fun he => ?_⟩, fun h hc => ?_, fun h => ?_, fun node port group h ha => ?_,
    fun node port group h => ?_, fun on h => ?_, fun h => ?_, fun h hplan hen => ⟨fun hpeer => ?_, fun hg hn hr => ?_, fun hg hn hr => ?_⟩,
    fun h => ?_, fun h => ?_, fun h => ?_, ?_⟩
  case ctrl =>
    intro a v t hr ht htp
    rw [exec_portCtrlWrite hup hp hr, ← htp]
    refine ⟨fun hv h => ?_, fun hv h => ?_, fun hv h => ?_, fun hv h => ?_⟩
    · rw [portCtrlWrite_disabled ht hv, if_pos h]
    · rw [portCtrlWrite_disabled ht hv, if_neg h]
    · rw [portCtrlWrite_enabled ht hv, if_pos h]
    · rw [portCtrlWrite_enabled ht hv, if_neg h]
  · rw [trainingComplete_elsewhere h, trainingTimeout_elsewhere h]
    exact ⟨rfl, rfl⟩
  · rw [trainingTimeout_training h]
  · exact ⟨_, rfl, _, rfl, _, rfl, by rw [trainingComplete_open h he rfl rfl]⟩
  · rw [downRetry_down h hc]
  · rw [downRetry_elsewhere h]
  · rw [linkPacket_identity h ha, setPeer]
  · rw [linkPacket_identity_elsewhere h]
  · rw [linkPacket_ready h]
  · rw [portActivate_waits h]
  · rw [portActivate_foreign h hplan hen hpeer]
  · rw [portActivate_notReady h hplan hen hg hn hr]
  · rw [portActivate_ready h hplan hen hg hn hr]
  · rw [retrainTimeout_retrain h, retrainLock_retrain h]
    exact ⟨rfl, rfl⟩
  · rw [retrainTimeout_elsewhere h, retrainLock_elsewhere h]
    exact ⟨rfl, rfl⟩
  · rw [crvClkLoss_off h, crvClkReturn_off h]
    exact ⟨rfl, rfl⟩
  · rw [crvClkLoss_eq]

end Sys2Proof.Machine
end

section
/-! SUPPORT. Lanes, keys and credits of a Caravan port (R344, R348 to R350, R353, R372, R432): what each row does in each state of the
lane, the spare, the keys or the queue it speaks of. That a rotation is asked for the frame 128 ahead is
the choice of the model, where R349 asks for at least 64. -/

namespace Sys2Proof.Machine

open Sys2Proof

variable {s : State} {p : Nat}

/-! ### The rows -/

section
variable (hup : s.up = true) (hp : p < 36)
include hup hp

theorem exec_laneRotationStart : exec (.laneRotationStart p) s = .next (watch (laneRotationStart s p)) := portRow_up hup hp
/-- R349: asking again is asking. -/
theorem exec_laneRotateRetry : exec (.laneRotateRetry p) s = .next (watch (laneRotationStart s p)) := portRow_up hup hp
theorem exec_laneRotationSwitch : exec (.laneRotationSwitch p) s = .next (watch (laneRotationSwitch s p)) := portRow_up hup hp
theorem exec_laneCalibrationDone : exec (.laneCalibrationDone p) s = .next (watch (laneCalibrationDone s p)) := portRow_up hup hp
theorem exec_laneRetire (lane : Nat) : exec (.laneRetire p lane) s = .next (watch (laneRetire s p lane)) := portRow_up hup hp
theorem exec_linkRekey : exec (.linkRekey p) s = .next (watch (linkRekey s p)) := portRow_up hup hp
theorem exec_creditStallTick (v : Nat) : exec (.creditStallTick p v) s = .next (watch (creditStallTick s p v)) := portRow_up hup hp

end

/-! ### Rotation (R348, R349) -/

/-- R348, R349: this end of port `p` may ask for a rotation. -/
def mayRotate (s : State) (p : Nat) (x : Port) : Prop :=
  x.st = .active ∧ lowerRank s p x.peerRank x.peerPort = true ∧ s.regField 0x20014 0 16 ≠ 0 ∧ x.spare.isSome = true ∧ x.spareCal = true
    ∧ x.req = none ∧ x.swap = none

theorem laneRotationStart_asks (h : mayRotate s p (s.port p)) :
    laneRotationStart s p = requestRotation s p (stalestLane (s.port p)) :=
  if_pos (by simpa [mayRotate, kBar0, and_assoc] using h)

theorem laneRotationStart_idle (h : ¬ mayRotate s p (s.port p)) : laneRotationStart s p = s :=
  if_neg (by simpa [mayRotate, kBar0, and_assoc] using h)

theorem laneRotationSwitch_swaps {l fr sp : Nat} (hswap : (s.port p).swap = some (l, fr)) (hspare : (s.port p).spare = some sp) :
    laneRotationSwitch s p = s.setPort p { s.port p with
      laneMap := (s.port p).laneMap.set l sp, spare := some ((s.port p).laneMap.getD l 0), spareCal := false, swap := none, lcmd := 0,
      larg := 0 } := by
  rw [laneRotationSwitch, hswap, hspare]

theorem laneRotationSwitch_none (h : (s.port p).swap = none ∨ (s.port p).spare = none) : laneRotationSwitch s p = s := by
  rw [laneRotationSwitch]
  split
  next hswap hspare => simp [hswap, hspare] at h
  next => rfl

theorem laneCalibrationDone_spare {sp : Nat} (h : (s.port p).spare = some sp) : laneCalibrationDone s p =
    bgUnit (s.setPort p { s.port p with spareCal := true, calAt := tblSet 0 (s.port p).calAt sp s.time }) 3 := by
  simp only [laneCalibrationDone, h]

theorem laneCalibrationDone_none (h : (s.port p).spare = none) : laneCalibrationDone s p = s := by
  rw [laneCalibrationDone, h]

/-! ### Retirement (R350) -/

theorem laneRetire_refused {lane : Nat} (h : (s.port p).retired.contains lane = true ∨ 8 < lane) : laneRetire s p lane = s :=
  if_pos (by simpa using h)

section
variable {lane : Nat} {u : State} (hin : (s.port p).retired.contains lane = false) (hlane : lane ≤ 8)
  (hu : u = notice { s with rel := { s.rel with retired := setIns s.rel.retired (resKey kLane (p * 16 + lane)) } } 0)
include hin hlane hu

/-- R350, R482: the retirement is recorded; then the lane goes. -/
theorem laneRetire_eq {y : Port} (hy : y = { s.port p with retired := setIns (s.port p).retired lane }) : laneRetire s p lane =
    if (s.port p).spare = some lane then u.setPort p { y with spare := none, spareCal := false }
    else match (s.port p).laneMap.idxOf? lane, (s.port p).spare with
      | some l, some sp => u.setPort p { y with laneMap := (s.port p).laneMap.set l sp, spare := none, spareCal := false, lcmd := 4, larg := l }
      | some _, none =>
        if (workingLanes y).length < 4 then endSession (u.setPort p y) p .down
        else if (s.port p).st == .active then startRetrain (u.setPort p (narrowLanes y)) p
        else u.setPort p (narrowLanes y)
      | none, _ => u.setPort p y := by
  subst hu hy
  exact if_neg (by simpa [hlane] using hin)

theorem laneRetire_spare (h : (s.port p).spare = some lane) : laneRetire s p lane = u.setPort p { s.port p with
    retired := setIns (s.port p).retired lane, spare := none, spareCal := false } := by
  rw [laneRetire_eq hin hlane hu rfl, if_pos h]

theorem laneRetire_replaced {l sp : Nat} (hspare : (s.port p).spare = some sp) (hne : sp ≠ lane)
    (hmap : (s.port p).laneMap.idxOf? lane = some l) : laneRetire s p lane = u.setPort p { s.port p with
      retired := setIns (s.port p).retired lane, laneMap := (s.port p).laneMap.set l sp, spare := none, spareCal := false, lcmd := 4,
      larg := l } := by
  rw [laneRetire_eq hin hlane hu rfl, if_neg (by simpa [hspare] using hne), hmap, hspare]

theorem laneRetire_tooFew {l : Nat} (hspare : (s.port p).spare = none) (hmap : (s.port p).laneMap.idxOf? lane = some l)
    (hfew : (workingLanes { s.port p with retired := setIns (s.port p).retired lane }).length < 4) :
    laneRetire s p lane = endSession (u.setPort p { s.port p with retired := setIns (s.port p).retired lane }) p .down := by
  rw [laneRetire_eq hin hlane hu rfl, if_neg (by simp [hspare]), hmap, hspare]
  exact if_pos hfew

end

/-! ### LINK_REKEY (R372, R432) -/

theorem linkRekey_noKeys (h : (s.port p).keys = none) : linkRekey s p = s := by rw [linkRekey, h]

section
variable {k : LinkKeys} (hk : (s.port p).keys = some k)
include hk

theorem linkRekey_eq : linkRekey s p = if k.epochTx = 0xFFFFFFFF then endSession s p .training else s.setPort p { s.port p with
    keys := some { k with epochTx := k.epochTx + 1, phaseTx := !k.phaseTx, frames := 0 } } := by
  rw [linkRekey, hk]

end

/-! ### CREDIT_STALL_TICK (R344, R353) -/

theorem creditStallTick_stalls {v : Nat} (hv : v < 3) (htx : (s.port p).tx.any (fun f => f.vl == v) = true)
    (hcred : creditsLeft (s.port p) v = 0) : creditStallTick s p v = s.bump16 (0x20A00 + 0x10 * p + 4 * v) 1 :=
  if_pos (by simp [hv, htx, hcred])

theorem creditStallTick_flows {v : Nat}
    (h : 3 ≤ v ∨ (s.port p).tx.any (fun f => f.vl == v) = false ∨ creditsLeft (s.port p) v ≠ 0) : creditStallTick s p v = s := by
  refine if_neg ?_
  rw [Bool.and_eq_true, Bool.and_eq_true, decide_eq_true_eq, beq_iff_eq]
  rintro ⟨⟨hv, htx⟩, hcred⟩
  rcases h with h | h | h
  · omega
  · rw [htx] at h
    cases h
  · exact h hcred

/-! ### The statement -/

/-- Settles O42: each row is what its lemma says; the stall count is the low half of its register (`bump16_low`). -/
theorem lanesAndKeysOfAPort : Obligations.LanesAndKeysOfAPort := by
  unfold Obligations.LanesAndKeysOfAPort
  rintro s p x hup hp rfl
  simp only [exec_laneRotationStart hup hp, exec_laneRotateRetry hup hp, exec_laneRotationSwitch hup hp, exec_laneCalibrationDone hup hp,
    exec_laneRetire hup hp, exec_linkRekey hup hp, exec_creditStallTick hup hp]
  refine ⟨fun h l fr hl hfr => ?_, fun h => ?_, fun l fr sp hswap hspare => ?_, fun h => ?_, fun sp h => ?_, fun h => ?_,
    fun lane h => ?_, fun lane u hin hlane hu => ⟨fun h => ?_, fun l sp hspare hne hmap => ?_, fun l hspare hmap hfew => ?_⟩,
    fun h => ?_, fun k hk => ⟨fun h => ?_, fun h => ?_⟩, fun v hv htx hcred => ?_, fun v h => ?_⟩
  · rw [laneRotationStart_asks h, requestRotation, hl, hfr]
    exact ⟨rfl, rfl⟩
  · rw [laneRotationStart_idle h]
    exact ⟨rfl, rfl⟩
  · rw [laneRotationSwitch_swaps hswap hspare]
  · rw [laneRotationSwitch_none h]
  · rw [laneCalibrationDone_spare h]
  · rw [laneCalibrationDone_none h]
  · rw [laneRetire_refused h]
  · rw [laneRetire_spare hin hlane hu h]
  · rw [laneRetire_replaced hin hlane hu hspare hne hmap]
  · rw [laneRetire_tooFew hin hlane hu hspare hmap hfew]
  · rw [linkRekey_noKeys h]
  · rw [linkRekey_eq hk, if_pos h]
  · rw [linkRekey_eq hk, if_neg h]
  · obtain ⟨w, hw, hlow, -⟩ := bump16_low s (0x20A00 + 0x10 * p + 4 * v)
    exact ⟨w, by rw [creditStallTick_stalls hv htx hcred, hw], hlow⟩
  · rw [creditStallTick_flows h]

end Sys2Proof.Machine
end

section
/-! SUPPORT. Exports and binds (R352, R355, R356, R376, R429): what a write of EXPORT, UNEXPORT or BIND does after its checks, where a
question goes, and what its answer enters. -/

namespace Sys2Proof.Machine

open Sys2Proof

variable {s u : State} {f c : Nat} {k : FarPacket}

/-! ### An operation of the far-object registers (R376) -/

section
variable (hup : s.up = true) (hs : Shows s f c)
include hup hs

theorem exec_farExport : exec (.farExport f) s = .next (watch (wakeSource (farExport s c) 1)) := hub_window hup hs
theorem exec_farUnexport : exec (.farUnexport f) s = .next (watch (wakeSource (farUnexport s c) 1)) := hub_window hup hs
theorem exec_farBind : exec (.farBind f) s = .next (watch (wakeSource (farBind s c) 1)) := hub_window hup hs

end

/-- R376: an operation is refused while one runs. -/
theorem farOp_busy {go : State → State} (h : (s.ctx c).farOp.isSome = true) : farOp s c go = farErr s c .notReady := if_pos h

theorem farOp_idle {go : State → State} (h : (s.ctx c).farOp = none) : farOp s c go = go s := if_neg (by simp [h])

/-! ### Exports (R355) -/

section
variable (h : (s.ctx c).farOp = none)
include h

theorem farExport_refused {st : Status} (hc : exportCheck s c = some st) : farExport s c = farErr s c st := by
  rw [farExport, farOp_idle h, hc]

/-- R355: what is stored takes the next generation of its number. -/
theorem farExport_passes {e g : Nat} {x : Export} (hc : exportCheck s c = none) (he : e = farExp s c)
    (hg : g = (tblGet 0 s.fab.expGens e + 1) % 65536)
    (hx : x = ⟨c, farSel s c, g, farCfg s c 0, farCfg s c 1, farCfg s c 2, farCfg s c 3, s.regField (kWin c 0x600C) 8 8⟩) :
    farExport s c = farErr (s.setFab { s.fab with
      exports := tblIns s.fab.exports e x, expGens := tblSet 0 s.fab.expGens e g }) c .ok := by
  subst he hg hx
  rw [farExport, farOp_idle h, hc]

theorem farUnexport_own {x : Export} (hx : tblFind s.fab.exports (farExp s c) = some x) (hown : x.ctx = c) :
    farUnexport s c = farErr (s.setFab { s.fab with exports := tblDel s.fab.exports (farExp s c) }) c .ok := by
  simp only [farUnexport, farOp_idle h, hx, if_pos hown]

theorem farUnexport_refused
    (hx : tblFind s.fab.exports (farExp s c) = none ∨ ∃ x, tblFind s.fab.exports (farExp s c) = some x ∧ x.ctx ≠ c) :
    farUnexport s c = farErr s c .notReady := by
  rcases hx with hx | ⟨x, hx, hother⟩
  · simp only [farUnexport, farOp_idle h, hx]
  · simp only [farUnexport, farOp_idle h, hx, if_neg hother]

end

/-! ### BIND (R356) -/

/-- R356, R358: a question with a route is asked, and kept under the next XID. -/
theorem issueReq_bind {q : FarPacket} (hq : q = { k with xid := s.fab.nextXid, src := (selfNode s).getD 0xFFFF }) :
    issueReq s .bind k none c = (routePort s k.dest k.secure s.fab.nextXid).map fun _ => s.setFab { s.fab with
      asks := q :: s.fab.asks, nextXid := s.fab.nextXid + 1,
      reqs := tblIns s.fab.reqs s.fab.nextXid ⟨.bind, q, none, c, false, false, none, [], []⟩ } := by
  subst hq
  rfl

section
variable (h : (s.ctx c).farOp = none)
include h

theorem farBind_format (hk : objExists s.com c (farSel s c) = true ∨ selfNode s = some (farNode s c)) :
    farBind s c = farErr s c .format := by
  rw [farBind, farOp_idle h, if_pos (by simpa using hk)]

section
variable (hnew : objExists s.com c (farSel s c) = false) (hfar : selfNode s ≠ some (farNode s c))
include hnew hfar

theorem farBind_unreachable (hr : routePort s (farNode s c) false s.fab.nextXid = none) :
    farBind s c = farErr (s.bump kUnreach 1) c .unreachable := by
  rw [farBind, farOp_idle h, if_neg (by simp [hnew, hfar])]
  dsimp only
  rw [issueReq_bind rfl, FarPacket.blank, hr]
  rfl

/-- R356: the question is asked, and the operation runs until it is answered. -/
theorem farBind_asks {p : Nat} (hr : routePort s (farNode s c) false s.fab.nextXid = some p) {q : FarPacket}
    (hq : q = { FarPacket.blank with
      dest := farNode s c, expo := farExp s c, group := ctxShareGroup s c, xid := s.fab.nextXid, src := (selfNode s).getD 0xFFFF }) :
    farBind s c = (s.setFab { s.fab with
      asks := q :: s.fab.asks, nextXid := s.fab.nextXid + 1,
      reqs := tblIns s.fab.reqs s.fab.nextXid ⟨.bind, q, none, c, false, false, none, [], []⟩ }).setCtx c
        { s.ctx c with farOp := some { op := 3, a := farSel s c, b := s.fab.nextXid } } := by
  rw [farBind, farOp_idle h, if_neg (by simp [hnew, hfar])]
  dsimp only
  rw [issueReq_bind hq, FarPacket.blank, hr]
  rfl

end

end

/-! ### A packet's module (R352) -/

theorem ifMine_other {t : Nat} (h : selfNode s ≠ some k.dest) : ifMine s k t u = sendOrDrop s t k none := if_neg (by simpa using h)

section
variable {t : Nat} (h : selfNode s = some k.dest)
include h

/-- R469: what reads or writes this module's memory is a wake event. -/
theorem ifMine_serves (ht : t = ptWrite ∨ t = ptReadReq ∨ t = ptCommit) : ifMine s k t u = wakeSource u 3 := by
  rw [ifMine, if_pos (by simp [h]), if_pos ht]

theorem ifMine_takes (ht : ¬(t = ptWrite ∨ t = ptReadReq ∨ t = ptCommit)) : ifMine s k t u = u := by
  rw [ifMine, if_pos (by simp [h]), if_neg ht]

end

/-! ### BIND_QUERY and BIND_ANSWER (R356) -/

theorem exec_bindQuery (hup : s.up = true) : exec (.bindQuery k) s = .next (watch (bindQuery s k)) := hub_up hup
theorem exec_bindAnswer (hup : s.up = true) : exec (.bindAnswer k) s = .next (watch (bindAnswer s k)) := hub_up hup

section
variable (h : selfNode s = some k.dest)
include h

theorem bindQuery_answers {p : Nat} (hr : routePort s k.src k.secure k.xid = some p) :
    bindQuery s k = s.setFab { s.fab with asks := bindReply s k :: s.fab.asks } := by
  rw [bindQuery, ifMine_takes h (by decide), hr]

theorem bindQuery_unreachable (hr : routePort s k.src k.secure k.xid = none) : bindQuery s k = s.bump kUnreach 1 := by
  rw [bindQuery, ifMine_takes h (by decide), hr]

end

section
variable {e : Export} {b : Body}
  (h : (tblFind s.fab.exports k.expo).bind (fun e => (objBody s.com e.ctx e.obj).map (fun b => (e, b.2.1))) = some (e, b))
include h

theorem bindReply_grants (hg : ctxShareGroup s e.ctx = k.group) : bindReply s k = { FarPacket.blank with
    dest := k.src, src := k.dest, xid := k.xid, expo := k.expo, gen := e.gen, bytes := b.size, access := accessBits e b, status := .ok } := by
  simp only [bindReply, h, if_pos hg]

theorem bindReply_denies (hg : ctxShareGroup s e.ctx ≠ k.group) : bindReply s k = { FarPacket.blank with
    dest := k.src, src := k.dest, xid := k.xid, expo := k.expo, status := .noObject } := by
  simp only [bindReply, h, if_neg hg]

end

theorem bindAnswer_unasked (h : tblFind s.fab.reqs k.xid = none) : bindAnswer s k = s := by rw [bindAnswer, h]

/-- R356: the answer to a bind that runs ends it: the far object enters the table, or there is none. -/
theorem bindAnswer_eq {r : FarReq} {o : WinOp} {y : FarObj} (hr : tblFind s.fab.reqs k.xid = some r) (hk : r.kind = .bind)
    (ho : (s.ctx r.ctx).farOp = some o) (hb : o.b = k.xid) (hu : u = dropReq s k.xid)
    (hy : y = FarObj.mk r.pkt.dest r.pkt.expo k.gen k.bytes (bits k.access 0 1 == 1) (bits k.access 1 1 == 1) (bits k.access 2 1 == 1)
      (bits k.access 3 1 == 1) (bits k.access 4 1 == 1)) :
    bindAnswer s k = if k.status = .ok then bindEnds (u.setCom { u.com with far := tblIns u.com.far (objKey r.ctx o.a) y }) r.ctx .ok
      else bindEnds u r.ctx .noObject := by
  subst hu hy
  simp only [bindAnswer, hr, hk, ho, hb, ne_eq, not_true_eq_false, if_false, beq_iff_eq]

/-! ### The statement -/

/-- Settles O44: an operation is refused while one runs (`farOp_busy`), and otherwise is what the lemma for its check says. -/
theorem exportsAndBinds : Obligations.ExportsAndBinds := by
  unfold Obligations.ExportsAndBinds
  intro s f c k hup
  rw [exec_bindQuery hup, exec_bindAnswer hup]
  refine ⟨fun hs => ?ops, fun h => ?_, fun h => ⟨fun p hr => ?_, fun hr => ?_⟩, fun e b h => ⟨fun hg => ?_, fun hg => ?_⟩, fun h => ?_,
    fun r o hr hk ho hb u hu => ⟨fun hst => ?_, fun hst y hy => ?_⟩⟩
  case ops =>
    refine ⟨fun hbusy => ?_, fun h e he => ?_⟩
    · simp only [List.forall_mem_cons, exec_farExport hup hs, exec_farUnexport hup hs, exec_farBind hup hs, farExport, farUnexport, farBind,
        farOp_busy hbusy, farErr, true_and]
      exact fun _ h => nomatch h
    rw [exec_farExport hup hs, exec_farUnexport hup hs, exec_farBind hup hs]
    refine ⟨fun st hc => ?_, fun hc g x hg hx => ?_, fun x hx hown => ?_, fun hx => ?_, fun hk => ?_, fun hnew hfar hr => ?_,
      fun p hnew hfar hr => ?_⟩
    · rw [farExport_refused h hc, farErr]
    · rw [farExport_passes h hc he hg hx]
      rfl
    · rw [farUnexport_own h (he ▸ hx) hown, he]
      rfl
    · rw [farUnexport_refused h (he ▸ hx), farErr]
    · rw [farBind_format h hk, farErr]
    · rw [farBind_unreachable h hnew hfar hr]
      exact ⟨_, rfl, rfl⟩
    · rw [farBind_asks h hnew hfar hr rfl]
      refine ⟨_, rfl, ?_⟩
      simp only [watch_fab, watch_ctxs, watch_com, wakeSource_fab, wakeSource_ctxs, wakeSource_com]
      exact ⟨rfl, rfl, ⟨_, tblFind_tblIns_self _ _ _, rfl, rfl, rfl, he.symm⟩, rfl⟩
  · rw [bindQuery, ifMine_other h]
  · rw [bindQuery_answers h hr, State.setFab]
  · rw [bindQuery_unreachable h hr]
  · rw [bindReply_grants h hg]
    exact ⟨rfl, rfl, rfl, rfl, rfl, rfl⟩
  · rw [bindReply_denies h hg]
  · rw [bindAnswer_unasked h]
  · rw [bindAnswer_eq hr hk ho hb hu rfl, if_neg hst, hu]
    rfl
  · rw [bindAnswer_eq hr hk ho hb hu hy, if_pos hst, hu]
    rfl

end Sys2Proof.Machine
end

section
/-! SUPPORT. Far packets (R352, R357 to R360, R373): what the exporter answers and stages, and what the issuer notes. That a packet
whose EXPNUM names nothing is answered NO_OBJECT, and that ABORT drops the stages of attempts up to its own, is log entry 49. -/

namespace Sys2Proof.Machine

open Sys2Proof

variable {s : State} {k : FarPacket} {clean : Bool}

/-! ### The rows -/

section
variable (hup : s.up = true)
include hup

theorem exec_writePacket : exec (.writePacket k) s = .next (watch (writePacket s k)) := hub_up hup
theorem exec_readReqPacket : exec (.readReqPacket k clean) s = .next (watch (readReqPacket s k clean)) := hub_up hup
theorem exec_commitPacket : exec (.commitPacket k) s = .next (watch (commitPacket s k)) := hub_up hup
theorem exec_abortPacket : exec (.abortPacket k) s = .next (watch (abortPacket s k)) := hub_up hup
theorem exec_readDataPacket : exec (.readDataPacket k) s = .next (watch (readDataPacket s k)) := hub_up hup
theorem exec_donePacket : exec (.donePacket k) s = .next (watch (donePacket s k)) := hub_up hup
theorem exec_farStageExpire (epoch : Nat) : exec (.farStageExpire epoch) s = .next (watch (dropStage s epoch)) := hub_up hup

end

section
variable (hself : selfNode s = some k.dest)
include hself

/-! ### WRITE and READ_REQ at the exporter (R357, R359, R360) -/

section
variable (hx : exportOf s k = none)
include hx

theorem writePacket_noExport : writePacket s k = wakeSource (answer s ptDone k .noObject [] []) 3 := by
  rw [writePacket, ifMine_serves hself (.inl rfl), hx]

theorem readReqPacket_noExport : readReqPacket s k clean = wakeSource (answer s ptReadData k .noObject [] []) 3 := by
  rw [readReqPacket, ifMine_serves hself (.inr (.inl rfl)), hx]

end

section
variable {e : Export} {sid : Nat} {b : Body} (hx : exportOf s k = some (e, sid, b))
include hx

theorem writePacket_denied (h : e.write = false ∨ b.size * 2 ^ 21 < k.off + k.data.length) :
    writePacket s k = wakeSource (answer s ptDone k .noObject [] []) 3 := by
  rw [writePacket, ifMine_serves hself (.inl rfl), hx]
  dsimp only
  rw [if_pos (by simpa using h)]

/-- R357: a WRITE within the object and with the access is staged, unless its epoch has committed. -/
theorem writePacket_granted (hw : e.write = true) (hlen : k.off + k.data.length ≤ b.size * 2 ^ 21) : writePacket s k = wakeSource
    (if s.fab.farDone.contains k.epoch then answer s ptDone k .ok [] []
      else match allocGrans s sid b (unallocated s sid (granRange k.off k.data.length)) with
        | .done s => answer (stageFar s k) ptDone k .ok [] []
        | .overQuota => answer s ptDone k .quota [] []
        | .noSpace _ => answer (s.bump kTierFull 1) ptDone k .quota [] []) 3 := by
  rw [writePacket, ifMine_serves hself (.inl rfl), hx]
  exact congrArg (wakeSource · 3) (if_neg (by simpa [hw] using hlen))

theorem writePacket_committed (hw : e.write = true) (hlen : k.off + k.data.length ≤ b.size * 2 ^ 21)
    (hd : s.fab.farDone.contains k.epoch = true) : writePacket s k = wakeSource (answer s ptDone k .ok [] []) 3 := by
  rw [writePacket_granted hself hx hw hlen, if_pos hd]

theorem writePacket_staged {u : State} (hw : e.write = true) (hlen : k.off + k.data.length ≤ b.size * 2 ^ 21)
    (hd : s.fab.farDone.contains k.epoch = false)
    (hu : allocGrans s sid b (unallocated s sid (granRange k.off k.data.length)) = .done u) :
    writePacket s k = wakeSource (answer (stageFar u k) ptDone k .ok [] []) 3 := by
  rw [writePacket_granted hself hx hw hlen, if_neg (ne_true_of_eq_false hd), hu]

theorem readReqPacket_denied (h : e.read = false ∨ b.size * 2 ^ 21 < k.off + k.bytes) :
    readReqPacket s k clean = wakeSource (answer s ptReadData k .noObject [] []) 3 := by
  rw [readReqPacket, ifMine_serves hself (.inr (.inl rfl)), hx]
  dsimp only
  rw [if_pos (by simpa using h)]

/-- R360: a read that meets no poison is answered from the committed content. -/
theorem readReqPacket_clean (hr : e.read = true) (hlen : k.off + k.bytes ≤ b.size * 2 ^ 21)
    (hp : poisonedIn s.com (cellKey sid k.off) k.bytes = []) : readReqPacket s k clean = wakeSource (answer s ptReadData k .ok
      (memRead s.com.mem (cellKey sid k.off) k.bytes) (flitMarks s.com (cellKey sid k.off) k.bytes)) 3 := by
  rw [readReqPacket, ifMine_serves hself (.inr (.inl rfl)), hx]
  dsimp only
  rw [if_neg (by simpa [hr] using hlen), hp]
  rfl

end

/-! ### COMMIT and ABORT at the exporter (R359) -/

theorem commitPacket_committed (hd : s.fab.farDone.contains k.epoch = true) :
    commitPacket s k = wakeSource (answer s ptDone k .ok [] []) 3 := by
  rw [commitPacket, ifMine_serves hself (.inr (.inr rfl)), if_pos hd]

/-- R359: the staged bytes are committed, and the epoch is remembered. -/
theorem commitPacket_staged {st : FarStage} {e : Export} {sid : Nat} {b : Body} {u : State}
    (hd : s.fab.farDone.contains k.epoch = false) (hst : tblFind s.fab.stages k.epoch = some st) (hx : exportOf s k = some (e, sid, b))
    (hu : u = commitFar (dropStage s k.epoch) e sid st) :
    commitPacket s k = wakeSource (answer (u.setFab { u.fab with farDone := setIns u.fab.farDone k.epoch }) ptDone k .ok [] []) 3 := by
  subst hu
  rw [commitPacket, ifMine_serves hself (.inr (.inr rfl)), if_neg (ne_true_of_eq_false hd), hst]
  dsimp only
  rw [hx]

theorem abortPacket_eq {st : FarStage} (hst : tblFind s.fab.stages k.epoch = some st) :
    abortPacket s k = if st.attempt ≤ k.attempt then dropStage s k.epoch else s := by
  rw [abortPacket, ifMine_takes hself (by decide), hst]
  simp only [Option.any_some, decide_eq_true_eq]

/-! ### READ_DATA and DONE at the issuer (R357, R358, R360) -/

section
variable (h : tblFind s.fab.reqs k.xid = none)
include h

theorem readDataPacket_unasked : readDataPacket s k = s := by
  rw [readDataPacket, ifMine_takes hself (by decide), h]

theorem donePacket_unasked : donePacket s k = s := by
  rw [donePacket, ifMine_takes hself (by decide), h]

end

section
variable {r : FarReq} {c : CmdRef} (hr : tblFind s.fab.reqs k.xid = some r)
include hr

/-- R357, R360: what the issuer does with the answer to a read of one of its commands. -/
theorem readDataPacket_read (hc : r.cmd = some c) (hk : r.kind = .read) : readDataPacket s k =
    if r.answered = true then s
    else if k.status = .dataLost then poisonEnds s c .lost
    else if k.status ≠ .ok then farFails s c k.status
    else if k.poison ≠ [] then poisonEnds s c .transient
    else noteAnswer s k.xid r k.data [] := by
  rw [readDataPacket, ifMine_takes hself (by decide), hr]
  dsimp only
  rw [hk, hc]
  simp only [beq_iff_eq, bne_iff_ne, Bool.not_eq_true', ← Bool.not_eq_true, List.isEmpty_iff, ne_eq]

/-- R357: what the issuer does with the answer to a write of one of its commands. -/
theorem donePacket_write (hc : r.cmd = some c) (hk : r.kind = .write) : donePacket s k =
    if r.answered = true then s else if k.status = .ok then noteAnswer s k.xid r [] [] else farFails s c k.status := by
  rw [donePacket, ifMine_takes hself (by decide), hr]
  dsimp only
  rw [hk, hc]
  simp only [beq_iff_eq]

theorem donePacket_commit (hk : r.kind = .commit) : donePacket s k = dropReq s k.xid := by
  rw [donePacket, ifMine_takes hself (by decide), hr]
  dsimp only
  rw [hk]

end

end

/-! ### Stages (R359) -/

/-- R359: what a staged WRITE leaves of its epoch's stage: the bytes of the highest attempt. -/
theorem stageFar_stage {x : FarStage} (h : tblFind s.fab.stages k.epoch = some x) : tblFind (stageFar s k).fab.stages k.epoch = some
    (if x.attempt < k.attempt then { attempt := k.attempt, expo := k.expo, parts := [(k.off, k.data, k.poison)], last := s.time }
      else if k.attempt < x.attempt then x else { x with parts := x.parts ++ [(k.off, k.data, k.poison)], last := s.time }) := by
  rw [stageFar]
  dsimp only
  rw [h]
  exact tblFind_tblIns_self _ _ _

/-! ### The statement -/

/-- Settles O45: each packet is what the lemma for the object, the stage or the request that it names says. -/
theorem farPacketsAtExporterAndIssuer : Obligations.FarPacketsAtExporterAndIssuer := by
  unfold Obligations.FarPacketsAtExporterAndIssuer
  intro s k clean hup
  rw [exec_writePacket hup, exec_readReqPacket hup, exec_commitPacket hup, exec_abortPacket hup, exec_readDataPacket hup,
    exec_donePacket hup]
  refine ⟨fun hother => ?other, fun hself => ⟨fun hx => ?_, fun e sid b hx => ?exporter, fun hd => ?_, fun st e sid b hd hst hx => ?_,
    fun st hst => ⟨fun h => ?_, fun h => ?_⟩, fun h => ?_, fun r c hr hc => ?issuer⟩, fun epoch => exec_farStageExpire hup epoch,
    fun x hx => ⟨fun h => ?_, fun h => ?_, fun h => ?_⟩⟩
  case other =>
    rw [writePacket, readReqPacket, commitPacket, abortPacket, readDataPacket, donePacket]
    simp only [ifMine_other hother, and_self]
  · rw [writePacket_noExport hself hx, readReqPacket_noExport hself hx]
    exact ⟨rfl, rfl⟩
  case exporter =>
    refine ⟨fun h => ?_, fun hw hlen => ⟨fun hd => ?_, fun u hd hu => ?_⟩, fun h => ?_, fun hread hlen hp => ?_⟩
    · rw [writePacket_denied hself hx h]
    · rw [writePacket_committed hself hx hw hlen hd]
    · rw [writePacket_staged hself hx hw hlen hd hu]
    · rw [readReqPacket_denied hself hx h]
    · rw [readReqPacket_clean hself hx hread hlen hp]
  · rw [commitPacket_committed hself hd]
  · exact ⟨_, rfl, by rw [commitPacket_staged hself hd hst hx rfl]; rfl⟩
  · rw [abortPacket_eq hself hst, if_pos h]
    rfl
  · rw [abortPacket_eq hself hst, if_neg (by omega)]
  · rw [readDataPacket_unasked hself h, donePacket_unasked hself h]
    exact ⟨rfl, rfl⟩
  case issuer =>
    refine ⟨fun hk => ?_, fun hk => ?_, fun hk => ?_⟩
    · rw [readDataPacket_read hself hr hc hk]
      refine ⟨fun ha => ?_, fun ha hst hp => ?_, fun ha hst hlost => ?_⟩
      · rw [if_pos ha]
      · simp [ha, hst, hp]
      · simp [ha, hst, hlost]
    · rw [donePacket_write hself hr hc hk]
      refine ⟨fun ha => ?_, fun ha hst => ?_, fun ha hst => ?_⟩
      · rw [if_pos ha]
      · simp [ha, hst]
      · simp [ha, hst]
    · rw [donePacket_commit hself hr hk]
      rfl
  · rw [stageFar_stage hx, if_pos h]
  · rw [stageFar_stage hx, if_neg (by omega), if_pos h]
  · rw [stageFar_stage hx, if_neg (by omega), if_neg (by omega)]

end Sys2Proof.Machine
end

section
/-! SUPPORT. Collectives and timers (R358, R361, R363, R364, R369, R370, R545): what a Tally packet does after each of its checks, and what
a timer sends again or fails. That a TALLY_UP carries a failure status is log entry 24. -/

namespace Sys2Proof.Machine

open Sys2Proof

variable {s u : State} {p : Nat} {k : TallyPacket}

/-! ### The rows -/

section
variable (hup : s.up = true)
include hup

theorem exec_tallyUp : exec (.tallyUp p k) s = .next (watch (tallyUp s p k)) := hub_up hup
theorem exec_tallyDown : exec (.tallyDown p k) s = .next (watch (tallyDown s p k)) := hub_up hup
theorem exec_collTimeout (t q g : Nat) : exec (.collTimeout t q g) s = .next (watch (collTimeout s t q g)) := hub_up hup
theorem exec_e2eTimeout (xid : Nat) (marked : Bool) : exec (.e2eTimeout xid marked) s = .next (watch (e2eTimeout s xid marked)) :=
  hub_up hup

end

/-! ### Tally packets (R361, R363, R364, R545) -/

section
variable (hu : u = if selfNode s = some k.dest then wakeSource s 3 else s)
include hu

/-- R469: a packet for this module is a wake event. -/
theorem wakeOfPacket_eq : (if selfNode s == some k.dest then wakeSource s 3 else s) = u := by
  rw [hu]
  exact if_congr beq_iff_eq rfl rfl

section
variable (ht : treeOf u k.tree = none)
include ht

theorem tallyUp_noTree : tallyUp s p k = packetBad u p := by
  rw [tallyUp, wakeOfPacket_eq hu]
  dsimp only
  rw [ht]

theorem tallyDown_noTree : tallyDown s p k = packetBad u p := by
  rw [tallyDown, wakeOfPacket_eq hu]
  dsimp only
  rw [ht]

end

section
variable {e : TreeEnt} (ht : treeOf u k.tree = some e)
include ht

theorem tallyUp_eq : tallyUp s p k =
    if e.kids.contains p = false then packetBad u p
    else if k.inst ≠ collCount u k.tree k.seq k.group then u.bump kCollDup 1
    else if k.status ≠ .ok then failColl u (collOf u e k) k.status (some p)
    else if disagrees (collOf u e k) k = true then failColl u (collOf u e k) .collMismatch none
    else if (collOf u e k).parts.any (fun x => x.port == p && x.pass == k.pass && x.elem0 == k.elem0) = true then u.bump kCollDup 1
    else advanceColl u { collOf u e k with parts := (collOf u e k).parts ++ [⟨p, k.pass, k.elem0, k.terms, k.data⟩] } := by
  rw [tallyUp, wakeOfPacket_eq hu]
  dsimp only
  rw [ht]
  simp only [Bool.not_eq_true', bne_iff_ne]

theorem tallyDown_eq : tallyDown s p k =
    if e.parent ≠ p then packetBad u p
    else if k.inst ≠ collCount u k.tree k.seq k.group then u.bump kCollDup 1
    else if k.status ≠ .ok then failColl u (collOf u e k) k.status (some p)
    else tallyResult u e (collOf u e k) k := by
  rw [tallyDown, wakeOfPacket_eq hu]
  dsimp only
  rw [ht]
  simp only [bne_iff_ne]

/-! A packet of the current instance, from a child or the parent. -/

section
variable (hi : k.inst = collCount u k.tree k.seq k.group)
include hi

theorem tallyUp_current (h : e.kids.contains p = true) : tallyUp s p k =
    if k.status ≠ .ok then failColl u (collOf u e k) k.status (some p)
    else if disagrees (collOf u e k) k = true then failColl u (collOf u e k) .collMismatch none
    else if (collOf u e k).parts.any (fun x => x.port == p && x.pass == k.pass && x.elem0 == k.elem0) = true then u.bump kCollDup 1
    else advanceColl u { collOf u e k with parts := (collOf u e k).parts ++ [⟨p, k.pass, k.elem0, k.terms, k.data⟩] } := by
  rw [tallyUp_eq hu ht, if_neg (ne_false_of_eq_true h), if_neg (not_not_intro hi)]

theorem tallyDown_current (h : e.parent = p) : tallyDown s p k =
    if k.status ≠ .ok then failColl u (collOf u e k) k.status (some p) else tallyResult u e (collOf u e k) k := by
  rw [tallyDown_eq hu ht, if_neg (not_not_intro h), if_neg (not_not_intro hi)]

end

end

end

section
variable {e : TreeEnt} {c : Coll}

theorem tallyResult_record (hp : k.pass = 1) (h : tblFind c.finals (k.elem0 / 256) = none) : tallyResult s e c k =
    advanceColl (sendDown s e.kids k) { c with finals := tblIns c.finals (k.elem0 / 256) k.data } := by
  rw [tallyResult, if_pos hp, if_neg (by simp [h])]

theorem tallyResult_values (hp : k.pass ≠ 1) (h : tblFind c.results (k.elem0 / 256) = none) : tallyResult s e c k =
    advanceColl (sendDown s e.kids k) { c with results := tblIns c.results (k.elem0 / 256) (downCodes c k.data) } := by
  rw [tallyResult, if_neg hp, if_neg (by simp [h])]

end

/-! ### COLL_TIMEOUT (R370) -/

theorem collTimeout_live {t q g : Nat} {c : Coll} (h : liveColl s t q g = some c) :
    collTimeout s t q g = failColl s c .peerTimeout none := by rw [collTimeout, h]

theorem collTimeout_none {t q g : Nat} (h : liveColl s t q g = none) : collTimeout s t q g = s := by rw [collTimeout, h]

/-! ### E2E_TIMEOUT (R358, R369) -/

section
variable {xid : Nat} {marked : Bool}

section
variable {r : FarReq}

theorem e2eTimeout_request (hr : tblFind s.fab.reqs xid = some r) : e2eTimeout s xid marked = reqTimeout s xid r := by
  rw [e2eTimeout, hr]

theorem reqTimeout_answered (ha : r.answered = true) : reqTimeout s xid r = s := if_pos ha

section
variable (ha : r.answered = false)
include ha

theorem reqTimeout_first (hk : r.kind ≠ .commit) (hs : r.resent = false) : reqTimeout s xid r = resendReq s xid r := by
  rw [reqTimeout, if_neg (ne_true_of_eq_false ha), if_neg (by simpa using hk), if_pos (by simp [hs])]

/-- R356, R358: a question that stays unanswered ends its bind. -/
theorem reqTimeout_bind (hk : r.kind = .bind) (hs : r.resent = true) :
    reqTimeout s xid r = bindEnds (dropReq s xid) r.ctx .unreachable := by
  rw [reqTimeout, if_neg (ne_true_of_eq_false ha), if_neg (by simp [hk]), if_neg (by simp [hs]), if_pos (by simp [hk])]

theorem reqTimeout_command {c : CmdRef} (hk : r.kind ≠ .commit) (hb : r.kind ≠ .bind) (hs : r.resent = true) (hc : r.cmd = some c) :
    reqTimeout s xid r = farFails s c .unreachable := by
  rw [reqTimeout, if_neg (ne_true_of_eq_false ha), if_neg (by simpa using hk), if_neg (by simp [hs]), if_neg (by simpa using hb), hc]

end

end

section
variable (hr : tblFind s.fab.reqs xid = none)
include hr

theorem e2eTimeout_unknown (h : s.fab.colls.find? (fun c => !c.ended && c.sentUp.any (fun x => x.xid == xid)) = none) :
    e2eTimeout s xid marked = s := by
  rw [e2eTimeout, hr]
  dsimp only
  rw [resendTally, h]

/-- R369: poison in the retained TALLY_UP ends its collective. -/
theorem e2eTimeout_marked {c : Coll} (h : s.fab.colls.find? (fun c => !c.ended && c.sentUp.any (fun x => x.xid == xid)) = some c) :
    e2eTimeout s xid true = failColl s c .dataLost none := by
  rw [e2eTimeout, hr]
  dsimp only
  rw [resendTally, h]
  exact if_pos rfl

end

end

/-! ### The statement -/

/-- Settles O46: the checks of a packet are the branches of `tallyUp_eq` and `tallyDown_eq`; a timer does what the lemma for its request
or its retained copy says. -/
theorem collectivesAndTimers : Obligations.CollectivesAndTimers := by
  unfold Obligations.CollectivesAndTimers
  intro s p k u hup hu
  rw [exec_tallyUp hup, exec_tallyDown hup]
  simp only [exec_collTimeout hup, exec_e2eTimeout hup]
  refine ⟨fun ht => ?_, fun e ht => ?tally, fun t q g => ⟨fun h => ?_, fun c h => ?_⟩,
    fun xid marked => ⟨fun r hr => ?request, fun hr => ?copy⟩⟩
  · rw [tallyUp_noTree hu ht, tallyDown_noTree hu ht]
    exact ⟨rfl, rfl⟩
  case tally =>
    refine ⟨fun h => ?_, fun h => ?_, fun hi => ⟨fun h => ?_, fun h => ?_⟩, fun hi c hc => ?current⟩
    · rw [tallyUp_eq hu ht, if_pos h]
    · rw [tallyDown_eq hu ht, if_pos h]
    · rw [tallyUp_eq hu ht, if_neg (ne_false_of_eq_true h), if_pos hi]
    · rw [tallyDown_eq hu ht, if_neg (not_not_intro h), if_pos hi]
    case current =>
      subst hc
      refine ⟨fun h hst => ?_, fun h hst hd => ?_, fun h hst hd => ⟨fun hold => ?_, fun hnew x hx => ?_⟩, fun h hst => ?_,
        fun h hst hp hf => ?_, fun h hst hp hf => ?_⟩
      · rw [tallyUp_current hu ht hi h, if_pos hst]
      · rw [tallyUp_current hu ht hi h, if_neg (not_not_intro hst), if_pos hd]
      · rw [tallyUp_current hu ht hi h, if_neg (not_not_intro hst), if_neg (ne_true_of_eq_false hd), if_pos hold]
      · rw [tallyUp_current hu ht hi h, if_neg (not_not_intro hst), if_neg (ne_true_of_eq_false hd),
          if_neg (ne_true_of_eq_false hnew), hx]
      · rw [tallyDown_current hu ht hi h, if_pos hst]
      · rw [tallyDown_current hu ht hi h, if_neg (not_not_intro hst), tallyResult_record hp hf]
      · rw [tallyDown_current hu ht hi h, if_neg (not_not_intro hst), tallyResult_values hp hf]
  · rw [collTimeout_none h]
  · rw [collTimeout_live h]
  case request =>
    rw [e2eTimeout_request hr]
    refine ⟨fun ha => ?_, fun ha hk hs => ?_, fun c ha hk hb hs hc => ?_, fun ha hk hs => ?_⟩
    · rw [reqTimeout_answered ha]
    · rw [reqTimeout_first ha hk hs]
    · rw [reqTimeout_command ha hk hb hs hc]
    · rw [reqTimeout_bind ha hk hs]
      rfl
  case copy =>
    refine ⟨fun h => ?_, fun c h hm => ?_⟩
    · rw [e2eTimeout_unknown hr h]
    · rw [hm, e2eTimeout_marked hr h]

end Sys2Proof.Machine
end

section
/-! SUPPORT. Key records, the security version, the digest and injection (R409 to R412, R417 to R419, R421, R434): what a write starts,
and what each operation does at its end. That the record at KV_REC is read, checked and applied whole at KEY_VAULT_OP_DONE is log
entry 78. -/

namespace Sys2Proof.Machine

open Sys2Proof

variable {s : State} {a : Agent} {f c : Nat} {st : Status} {r : List Byte}

/-! ### An operation written to KV_CTRL -/

section
variable (hup : s.up = true) (hr : Reaches s a)
include hup hr

theorem exec_keyRecordApply : exec (.keyRecordApply a) s = .next (watch (kvCtrl (seenFrom s a) 1#32)) := hub_viaBar0 hup hr
theorem exec_svnCommit : exec (.svnCommit a) s = .next (watch (kvCtrl (seenFrom s a) 2#32)) := hub_viaBar0 hup hr
theorem exec_detInjectWrite (v : Word) :
    exec (.detInjectWrite a v) s = .next (watch ((seenFrom s a).setReg (kBar0 0x22000) (v &&& 0xFFFF0003#32))) := hub_viaBar0 hup hr

end

/-- R434: a second operation does not start while one runs. -/
theorem kvCtrl_busy {v : Word} (h : s.vault.op ≠ none) : kvCtrl s v = s := if_pos (Option.isSome_iff_ne_none.2 h)

section
variable (h : s.vault.op = none)
include h

theorem kvCtrl_apply : kvCtrl s 1#32 = { s with vault := { s.vault with op := some 1 } } := if_neg (by simp [h])

theorem kvCtrl_commit : kvCtrl s 2#32 = { s with vault := { s.vault with op := some 2 } } := if_neg (by simp [h])

end

/-! ### The end of an operation -/

theorem exec_keyVaultOpDone (hup : s.up = true) : exec .keyVaultOpDone s = .next (watch (keyVaultOpDone s)) := hub_up hup

theorem keyVaultOpDone_idle (h : s.vault.op = none) : keyVaultOpDone s = s := by rw [keyVaultOpDone, h]

theorem keyVaultOpDone_commit (h : s.vault.op = some 2) : keyVaultOpDone s = svnCommit s := by simp [keyVaultOpDone, h]

theorem keyVaultOpDone_refused (h : s.vault.op = some 1) (hc : recordCheck s (keyRecord s) = some st) :
    keyVaultOpDone s = kvEnds s st := by
  simp [keyVaultOpDone, h, recordApply, hc]

theorem keyVaultOpDone_applied (h : s.vault.op = some 1) (hc : recordCheck s (keyRecord s) = none) :
    keyVaultOpDone s = kvEnds (recordEffect s (keyRecord s)) .ok := by
  simp [keyVaultOpDone, h, recordApply, hc]

/-- R434: an outcome is in KV_STATUS; a SIGNATURE outcome counts, and no count is in the vault. -/
@[simp] theorem kvEnds_vault : (kvEnds s st).vault = { s.vault with op := none, result := st } := by
  unfold kvEnds
  split <;> rfl

@[simp] theorem kvEnds_plan : (kvEnds s st).plan = s.plan := by
  unfold kvEnds
  split <;> rfl

/-! ### What an accepted record does -/

/-- The state with the owner sequence of an accepted record. -/
def recordSequence (s : State) (r : List Byte) : State :=
  { s with vault := { s.vault with ownerSeq := if recOp r = 3 then 0 else recSeq r } }

theorem recordEffect_owns (h : recOp r = 3 ∨ recClaim r = true) : recordEffect s r =
    { recordSequence s r with vault := { (recordSequence s r).vault with owner := some (recKey r) } } := by
  rw [recordEffect, if_pos h]
  rfl

/-- R419: a release empties every key slot. -/
theorem recordEffect_release (h3 : recOp r ≠ 3) (hclaim : recClaim r = false) (hcls : recClass r = 3) :
    (recordEffect s r).vault =
      { ((List.range 64).foldl emptyPubKey ((List.range 8).foldl emptyPlanKey (recordSequence s r))).vault with owner := none } := by
  rw [recordEffect, if_neg (by simp [h3, hclaim]), if_pos hcls, recordSequence]

section
variable (h1 : recOp r = 1)
include h1

/-- A key record of class 1 or 2 is no claim and no transfer. -/
theorem not_owns_of_key (hcls : recClass r ≠ 3) : ¬ (recOp r = 3 ∨ recClaim r = true) := by
  simp [recClaim, h1, hcls]

theorem recordEffect_planKey (hcls : recClass r = 1) :
    tblFind (recordEffect s r).vault.planKeys (recIndex r) = some (recKey r) := by
  rw [recordEffect, if_neg (not_owns_of_key h1 (by omega)), if_neg (by omega), if_neg (by omega), if_pos hcls]
  exact tblFind_tblIns_self ..

theorem recordEffect_pubKey (hcls : recClass r = 2) : tblFind (recordEffect s r).vault.pubKeys (recIndex r)
    = some { alg := recAlg r, fn := recFn r, key := recKey r } := by
  rw [recordEffect, if_neg (not_owns_of_key h1 (by omega)), if_neg (by omega), if_neg (by omega), if_neg (by omega)]
  exact tblFind_tblIns_self ..

end

/-! ### DIGEST_CLEAR -/

theorem exec_digestClear (hup : s.up = true) (hs : Shows s f c) :
    exec (.digestClear f) s = .next (watch (wakeSource (digestClear s c) 1)) := hub_window hup hs

@[simp] theorem State.setReg_ctx (k : Nat) (v : Word) : (s.setReg k v).ctx c = s.ctx c := rfl

/-- A written CLEAR bit reads 1. -/
theorem bits_clear (w : Word) : bits (w ||| 2#32).toNat 1 1 = 1 := by
  have hclear : (w ||| 2#32).toNat.testBit 1 = true := by
    rw [BitVec.toNat_or, Nat.testBit_or, Bool.or_eq_true]
    exact .inr rfl
  rw [bits_eq]
  exact (Nat.toNat_testBit _ 1).symm.trans (congrArg Bool.toNat hclear)

theorem clear_keeps_en (w : Word) : (w ||| 2#32) &&& 1#32 = w &&& 1#32 := by
  rw [BitVec.and_or_distrib_right]
  simp

/-- R410: CLEAR alone keeps EN, its only stored bit. -/
theorem digestClear_eq : digestClear s c =
    (s.setReg (kWin c 0x7000) (s.reg (kWin c 0x7000) &&& 1#32)).setCtx c { s.ctx c with digest := 0, units := 0 } := by
  rw [digestClear, digestCtrl, clear_keeps_en, if_pos (bits_clear _), State.setReg_ctx]

/-! ### The statement -/

/-- Settles O47: a write starts its operation or meets one that runs (`kvCtrl_busy`); at the end of APPLY the outcome of the checks
either stands alone in the vault (`kvEnds_vault`) or goes with the record's effect, one lemma for each kind of record. The end of
SVN_COMMIT is its definition, and CLEAR is `digestClear_eq`. -/
theorem keyRecordsVersionsAndInjection : Obligations.KeyRecordsVersionsAndInjection := by
  unfold Obligations.KeyRecordsVersionsAndInjection
  intro s hup
  rw [exec_keyVaultOpDone hup]
  refine ⟨fun a u hr hu => ?write, fun hidle => by rw [keyVaultOpDone_idle hidle], fun r hop hrec => ?apply,
    fun hop => by rw [keyVaultOpDone_commit hop]; rfl, fun f c hs => by rw [exec_digestClear hup hs, digestClear_eq]⟩
  case write =>
    subst hu
    rw [exec_keyRecordApply hup hr, exec_svnCommit hup hr, ← seenFrom_vault s a]
    refine ⟨fun hidle => ?_, fun hbusy => ?_, exec_detInjectWrite hup hr⟩
    · rw [kvCtrl_apply hidle, kvCtrl_commit hidle]
      exact ⟨rfl, rfl⟩
    · rw [kvCtrl_busy hbusy, kvCtrl_busy hbusy]
      exact ⟨rfl, rfl⟩
  case apply =>
    subst hrec
    refine ⟨fun st hst => ?_, fun hok w hw => ?accepted⟩
    · rw [keyVaultOpDone_refused hop hst]
      exact ⟨_, rfl, by simp⟩
    case accepted =>
      obtain rfl : w = recordSequence s (keyRecord s) := hw
      rw [keyVaultOpDone_applied hop hok]
      refine ⟨fun howns => ⟨_, rfl, ?_⟩, fun h3 hclaim hcls => ⟨_, rfl, ?_⟩, fun h1 hcls => ⟨_, rfl, ?_⟩,
        fun h1 hcls => ⟨_, rfl, ?_⟩⟩
      · dsimp only
        rw [watch_vault, watch_plan, kvEnds_vault, kvEnds_plan, recordEffect_owns howns]
        exact ⟨rfl, rfl⟩
      · dsimp only
        rw [watch_vault, kvEnds_vault, recordEffect_release h3 hclaim hcls]
        simp only [and_self]
      · dsimp only
        rw [watch_vault, kvEnds_vault]
        exact ⟨recordEffect_planKey h1 hcls, rfl, rfl⟩
      · dsimp only
        rw [watch_vault, kvEnds_vault]
        exact ⟨recordEffect_pubKey h1 hcls, rfl, rfl⟩

end Sys2Proof.Machine
end

section
/-! SUPPORT. Management messages (R413, R414, R420, R483, R502, R505 to R508, R514, R517): which messages are discarded, ignored or
answered busy, and what each request answers and changes. That one command carries a whole message is log entry 61, the message formats
are log entry 34, the health record's layout is log entry 35. -/

namespace Sys2Proof.Machine

open Sys2Proof

variable {s : State} {b t : Byte} {m : List Byte}

/-! ### The rows -/

section
variable (haux : s.pins.aux = true)
include haux

theorem exec_mctpControl (msg : List Byte) :
    exec (.mctpControl msg) s = .next (watch (viaMctp s msg 0 isEid (mctpControl s))) := aon_on haux

theorem exec_pldmRequest (msg : List Byte) :
    exec (.pldmRequest msg) s = .next (watch (viaMctp s msg 1 (fun _ => false) (fun _ => pldmRequest s))) := aon_on haux

theorem exec_spdmRequest (msg : List Byte) :
    exec (.spdmRequest msg) s = .next (watch (viaMctp s msg 5 (fun _ => false) (fun _ => spdmRequest s))) := aon_on haux

theorem exec_pldmFirmwareUpdate (g : List Byte) : exec (.pldmFirmwareUpdate g) s
    = .next (watch (if s.boot.step = 10 ∨ s.boot.fail = 2 then firmwareUpdate s g else replyWith s [4#8])) := aon_on haux

theorem exec_healthRecordRead (n : Nat) :
    exec (.healthRecordRead n) s = .next (watch (vendor s (healthRecordRead · n))) := aon_on haux

theorem exec_errorLogRead (n : Nat) :
    exec (.errorLogRead n) s = .next (watch (vendor s (errorLogRead · n))) := aon_on haux

theorem exec_errorLogRelease (n : Nat) :
    exec (.errorLogRelease n) s = .next (watch (vendor s (elogRelease · n))) := aon_on haux

end

/-! ### MCTP messages (R505, R517) -/

theorem isEid_iff : isEid m = true ↔ (at_ m 1).toNat = 1 ∨ (at_ m 1).toNat = 2 := by
  rw [isEid, Bool.or_eq_true, beq_iff_eq, beq_iff_eq]

section
variable {ty : Nat} {always : List Byte → Bool} {go : Nat → List Byte → State}

theorem viaMctp_short : ∀ {msg : List Byte}, msg.length < 2 → viaMctp s msg ty always go = s
  | [], _ => rfl
  | [_], _ => rfl

theorem viaMctp_long (hlen : 8192 < m.length) : viaMctp s (b :: t :: m) ty always go = mctpDrop s := if_pos hlen

variable (hlen : m.length ≤ 8192)
include hlen

theorem viaMctp_foreign (h : 1 < b.toNat ∨ t.toNat ≠ ty) : viaMctp s (b :: t :: m) ty always go = s := by
  rw [viaMctp, if_neg (by omega), if_pos h]

variable (hb : b.toNat ≤ 1) (ht : t.toNat = ty)
include hb ht

theorem viaMctp_busy (hstep : s.boot.step ≠ 10) (hm : always m = false) :
    viaMctp s (b :: t :: m) ty always go = replyWith s [4#8] := by
  rw [viaMctp, if_neg (by omega), if_neg (by omega), if_neg (by simp [hstep, hm])]

theorem viaMctp_served (h : s.boot.step = 10 ∨ always m = true) : viaMctp s (b :: t :: m) ty always go = go b.toNat m := by
  rw [viaMctp, if_neg (by omega), if_neg (by omega), if_pos h]

end

/-- Each row of MCTP messages is `viaMctp` with its type, and only MCTP control has commands that are served in every step. -/
theorem exec_message {i : Instr} {ty : Nat} {msg : List Byte} (haux : s.pins.aux = true)
    (hi : i = .mctpControl msg ∧ ty = 0 ∨ i = .pldmRequest msg ∧ ty = 1 ∨ i = .spdmRequest msg ∧ ty = 5) :
    ∃ always go, exec i s = .next (watch (viaMctp s msg ty always go)) ∧ ∀ m, always m = true → ty = 0 ∧ isEid m = true := by
  obtain ⟨rfl, rfl⟩ | ⟨rfl, rfl⟩ | ⟨rfl, rfl⟩ := hi
  · exact ⟨_, _, exec_mctpControl haux msg, fun m hm => ⟨rfl, hm⟩⟩
  · exact ⟨_, _, exec_pldmRequest haux msg, fun m hm => absurd hm Bool.false_ne_true⟩
  · exact ⟨_, _, exec_spdmRequest haux msg, fun m hm => absurd hm Bool.false_ne_true⟩

/-! ### MCTP control (R505) -/

section
variable {n : Nat}

theorem mctpControl_setEid_reserved (hc : (at_ m 1).toNat = 1) (he : (at_ m 3).toNat = 0 ∨ (at_ m 3).toNat = 255) :
    mctpControl s n m = replyWith s (answerHead m 1 ++ [2]) := by
  simp only [mctpControl, hc, if_pos he]
  rfl

theorem mctpControl_setEid (hc : (at_ m 1).toNat = 1) (h0 : (at_ m 3).toNat ≠ 0) (h255 : (at_ m 3).toNat ≠ 255) :
    mctpControl s n m = replyWith (s.setReg (kBar0 0x28400) (setField (s.reg (kBar0 0x28400)) (8 * n) 8 (at_ m 3).toNat))
      (answerHead m 1 ++ [0, 0, at_ m 3, 0]) := by
  simp only [mctpControl, hc, if_neg (not_or.2 ⟨h0, h255⟩)]

theorem mctpControl_getEid (hc : (at_ m 1).toNat = 2) :
    mctpControl s n m = replyWith s (answerHead m 1 ++ [0, BitVec.ofNat 8 (s.regField (kBar0 0x28400) (8 * n) 8), 0, 0]) := by
  simp only [mctpControl, hc, eidOf]

theorem mctpControl_unsupported (hc : 5 < (at_ m 1).toNat) : mctpControl s n m = replyWith s (answerHead m 1 ++ [5]) := by
  unfold mctpControl
  dsimp only
  split
  case h_6 => rfl
  all_goals omega

end

/-! ### PLDM (R506) -/

/-- A request that changes nothing but the answer. -/
def OnlyAnswers (s u : State) : Prop := ∃ bs, u = replyWith s bs

theorem pldmSay_answers (bs : List Byte) : OnlyAnswers s (pldmSay s m bs) := ⟨_, rfl⟩

theorem pldmBase_answers : OnlyAnswers s (pldmBase s m) := by
  unfold pldmBase
  split <;> exact pldmSay_answers _

theorem pldmFru_answers : OnlyAnswers s (pldmFru s m) := by
  unfold pldmFru
  split <;> exact pldmSay_answers _

theorem pldmMonitor_answers (h : (at_ m 2).toNat ≠ 4) : OnlyAnswers s (pldmMonitor s m) := by
  unfold pldmMonitor
  dsimp only
  split
  case h_1 hc => exact absurd hc h
  case h_3 | h_4 | h_6 => split <;> exact pldmSay_answers _
  all_goals exact pldmSay_answers _

theorem pldmMonitor_setEventReceiver (h : (at_ m 2).toNat = 4) : ∃ e,
    OnlyAnswers { s with mgmt := { s.mgmt with events := e } } (pldmMonitor s m) := by
  simp only [pldmMonitor, h]
  exact ⟨_, pldmSay_answers _⟩

section
variable {bs : List Byte} (hq : (at_ m 1).toNat % 64 = 2) (hc : (at_ m 2).toNat = 0x11)
include hq

theorem pldmRequest_monitor : pldmRequest s m = pldmMonitor s m := by simp only [pldmRequest, hq]

include hc

theorem pldmRequest_numericReading (h : numericReading s (fld m 3 2) = some bs) :
    pldmRequest s m = replyWith s (answerHead m 2 ++ (0 :: bs)) := by
  rw [pldmRequest_monitor hq]
  simp only [pldmMonitor, hc, h]
  rfl

theorem pldmRequest_noSensor (h : numericReading s (fld m 3 2) = none) :
    pldmRequest s m = replyWith s (answerHead m 2 ++ [0x80]) := by
  rw [pldmRequest_monitor hq]
  simp only [pldmMonitor, hc, h]
  rfl

end

theorem pldmRequest_unsupported (h0 : (at_ m 1).toNat % 64 ≠ 0) (h2 : (at_ m 1).toNat % 64 ≠ 2) (h4 : (at_ m 1).toNat % 64 ≠ 4) :
    pldmRequest s m = replyWith s (answerHead m 2 ++ [5]) := by
  unfold pldmRequest
  split
  case h_4 => rfl
  all_goals contradiction

theorem pldmRequest_answers (h : ¬((at_ m 1).toNat % 64 = 2 ∧ (at_ m 2).toNat = 4)) : OnlyAnswers s (pldmRequest s m) := by
  unfold pldmRequest
  split
  · exact pldmBase_answers
  next hq => exact pldmMonitor_answers (fun hc => h ⟨hq, hc⟩)
  · exact pldmFru_answers
  · exact pldmSay_answers _

/-- R506: a PLDM request changes the answer, and that of the event receiver the events' enable. -/
theorem pldmRequest_frame : ∃ bs e,
    pldmRequest s m = { s with mgmt := { s.mgmt with events := e }, reply := bs, replyPoison := false }
    ∧ (¬((at_ m 1).toNat % 64 = 2 ∧ (at_ m 2).toNat = 4) → e = s.mgmt.events) := by
  by_cases h : (at_ m 1).toNat % 64 = 2 ∧ (at_ m 2).toNat = 4
  · obtain ⟨e, bs, heq⟩ := pldmMonitor_setEventReceiver (s := s) h.2
    exact ⟨bs, e, (pldmRequest_monitor h.1).trans heq, fun hn => absurd h hn⟩
  · obtain ⟨bs, heq⟩ := pldmRequest_answers (s := s) h
    exact ⟨bs, s.mgmt.events, heq, fun _ => rfl⟩

/-! ### SPDM (R413, R414) -/

/-- R414: a signed answer, after the nonce and with a signature by the Alias key over the request and the answer. -/
theorem spdmSign_signs {bs sent : List Byte} (hsent : sent = bs ++ bytesLE (Config.freeValue s.free) 32 ++ bytesLE 0 2) : ∃ k,
    spdmSign s m bs = replyWith { s with free := s.free + 2 } (sent ++ ecdsaSign s.vault.alias_ k (m ++ sent)) := by
  subst hsent
  exact ⟨_, rfl⟩

theorem spdmRequest_digests (hc : (at_ m 1).toNat = 0x81) :
    spdmRequest s m = replyWith s ([0x12, 0x01, 0, 3] ++ sha384 (spdmChain s 0) ++ sha384 (spdmChain s 1)) := by
  simp only [spdmRequest, hc]

theorem spdmRequest_measurements (hc : (at_ m 1).toNat = 0xE0) : spdmRequest s m
    = spdmSign s m ([0x12, 0x60, 3, 0, 3] ++ bytesLE (spdmMeasurements s).length 3 ++ spdmMeasurements s) := by
  simp only [spdmRequest, hc]

theorem spdmRequest_unsupported (hc : (at_ m 1).toNat ∉ [0x84, 0xE1, 0xE3, 0x81, 0x82, 0x83, 0xE0]) :
    spdmRequest s m = replyWith s [0x12, 0x7F, 7, at_ m 1] := by
  simp only [List.mem_cons, List.not_mem_nil, or_false, not_or] at hc
  unfold spdmRequest
  dsimp only
  split
  case h_8 => rw [BitVec.ofNat_toNat, BitVec.setWidth_eq]
  all_goals omega

/-! ### Firmware updates (R420, R506, R514) -/

section
variable {g : List Byte}

/-- R514: the area that takes the image: the inactive one, or area A when no image runs. -/
def updateArea (s : State) : Nat := if s.boot.fail = 2 then 0 else 1 - s.boot.active

/-- Start-up's state with an image in the area that takes it. -/
def imageWritten (s : State) (g : List Byte) : Boot :=
  if updateArea s = 0 then { s.boot with areaA := g } else { s.boot with areaB := g }

theorem firmwareUpdate_passes (h : fwPasses s g = true) :
    firmwareUpdate s g = replyWith { s with boot := { imageWritten s g with pend := some (updateArea s) } } [0] := if_pos h

theorem firmwareUpdate_fails (h : fwPasses s g = false) :
    firmwareUpdate s g = replyWith { s with boot := imageWritten s g } [1] := if_neg (by simp [h])

theorem imageWritten_areaA (h : s.boot.fail = 2 ∨ s.boot.active = 1) : imageWritten s g = { s.boot with areaA := g } := by
  rw [imageWritten, updateArea, if_pos (by split <;> omega)]

theorem imageWritten_areaB (hf : s.boot.fail ≠ 2) (ha : s.boot.active = 0) : imageWritten s g = { s.boot with areaB := g } := by
  rw [imageWritten, updateArea, if_neg (by simp [hf, ha])]

@[simp] theorem imageWritten_active : (imageWritten s g).active = s.boot.active := by
  unfold imageWritten
  split <;> rfl

@[simp] theorem imageWritten_pend : (imageWritten s g).pend = s.boot.pend := by
  unfold imageWritten
  split <;> rfl

/-- Pass or fail, the image is in its area, and an update changes nothing but start-up's state and the answer. -/
theorem firmwareUpdate_frame : ∃ p bs,
    firmwareUpdate s g = replyWith { s with boot := { imageWritten s g with pend := p } } bs := by
  cases h : fwPasses s g with
  | true => exact ⟨_, _, firmwareUpdate_passes h⟩
  | false => exact ⟨_, _, firmwareUpdate_fails h⟩

end

/-! ### Vendor-defined messages (R483, R502, R507) -/

theorem vendor_busy {go : State → State} (h : s.boot.step ≠ 10) : vendor s go = replyWith s [4#8] := if_neg h

theorem vendor_ready {go : State → State} (h : s.boot.step = 10) : vendor s go = go s := if_pos h

theorem errorLogRead_eq {n f : Nat} (hf : f = max n (s.elog.wr - 4096)) : errorLogRead s n = replyWith s
    ((List.range (min 128 (s.elog.wr - f))).flatMap (fun i => ((tblFind s.elog.ents ((f + i) % 4096)).map LogEnt.bytes).getD [])) := by
  subst hf
  unfold errorLogRead
  dsimp only
  congr 2
  funext i
  cases tblFind s.elog.ents ((max n (s.elog.wr - 4096) + i) % 4096) <;> rfl

/-! ### The statement -/

/-- Settles O57: a message is what `viaMctp` lets through, and each request served is what the lemma of its command says; an update is
`firmwareUpdate_passes` or `firmwareUpdate_fails`, a vendor-defined message is busy or its operation. -/
theorem managementMessages : Obligations.ManagementMessages := by
  unfold Obligations.ManagementMessages
  intro s haux
  refine ⟨fun b t m i ty hi => ?message, fun msg hshort => ?short, fun b t m hlen hb ht => ?control,
    fun b t m hlen hb ht hstep q hq => ?pldm, fun b t m hlen hb ht hstep => ?spdm, fun g => ?update, fun n => ?vendor⟩
  case message =>
    obtain ⟨always, go, hexec, halways⟩ := exec_message haux hi
    rw [hexec]
    refine ⟨fun hlong => by rw [viaMctp_long hlong, mctpDrop], fun hlen hf => by rw [viaMctp_foreign hlen hf],
      fun hlen hb ht hstep hcmd => ?_⟩
    have hm : always m = false := Bool.eq_false_iff.2 fun h => by
      obtain ⟨hty, hEid⟩ := halways m h
      obtain ⟨h1, h2⟩ := hcmd hty
      exact (isEid_iff.1 hEid).elim h1 h2
    rw [viaMctp_busy hlen hb ht hstep hm]
  case short =>
    rw [exec_mctpControl haux, exec_pldmRequest haux, exec_spdmRequest haux, viaMctp_short hshort, viaMctp_short hshort,
      viaMctp_short hshort]
    exact ⟨rfl, rfl, rfl⟩
  case control =>
    have served (h : s.boot.step = 10 ∨ isEid m = true) :
        exec (.mctpControl (b :: t :: m)) s = .next (watch (mctpControl s b.toNat m)) := by
      rw [exec_mctpControl haux, viaMctp_served hlen hb ht h]
    refine ⟨fun hc he => ?_, fun hc h0 h255 => ?_, fun hc => ?_, fun hstep hc => ?_⟩
    · rw [served (.inr (isEid_iff.2 (.inl hc))), mctpControl_setEid_reserved hc he]
    · rw [served (.inr (isEid_iff.2 (.inl hc))), mctpControl_setEid hc h0 h255]
    · rw [served (.inr (isEid_iff.2 (.inr hc))), mctpControl_getEid hc]
    · rw [served (.inl hstep), mctpControl_unsupported hc]
  case pldm =>
    subst hq
    rw [exec_pldmRequest haux, viaMctp_served hlen hb ht (.inl hstep)]
    refine ⟨fun h0 h2 h4 => by rw [pldmRequest_unsupported h0 h2 h4], fun h2 hc bs h => by rw [pldmRequest_numericReading h2 hc h],
      fun h2 hc h => by rw [pldmRequest_noSensor h2 hc h], ?_⟩
    obtain ⟨bs, e, heq, he⟩ := pldmRequest_frame (s := s) (m := m)
    exact ⟨bs, e, by rw [heq], he⟩
  case spdm =>
    rw [exec_spdmRequest haux, viaMctp_served hlen hb ht (.inl hstep)]
    refine ⟨fun hc => by rw [spdmRequest_digests hc], fun hc => ?_, fun hc => by rw [spdmRequest_unsupported hc]⟩
    obtain ⟨k, hsigned⟩ := spdmSign_signs (s := s) (m := m) rfl
    rw [spdmRequest_measurements hc, hsigned]
    exact ⟨_, rfl, watch_free _, watch_vault _, k, _, rfl, watch_reply _⟩
  case update =>
    rw [exec_pldmFirmwareUpdate haux]
    refine ⟨fun hstep hfail => by rw [if_neg (not_or.2 ⟨hstep, hfail⟩)], fun h => ?_⟩
    rw [if_pos h]
    obtain ⟨p, bs, hframe⟩ := firmwareUpdate_frame (s := s) (g := g)
    refine ⟨_, rfl, ?_⟩
    dsimp only
    rw [watch_boot, watch_reply, watch_vault]
    refine ⟨fun hA => ?_, fun hB => ?_, fun hok => ?_, fun hbad => ?_, ?_, ?_⟩
    · rw [hframe, imageWritten_areaA hA]
      exact ⟨rfl, rfl⟩
    · rw [hframe, imageWritten_areaB hB.1 hB.2]
      exact ⟨rfl, rfl⟩
    · rw [firmwareUpdate_passes hok]
      exact ⟨rfl, rfl⟩
    · rw [firmwareUpdate_fails hbad]
      exact ⟨rfl, imageWritten_pend⟩
    · rw [hframe]
      exact imageWritten_active
    · rw [hframe]
      rfl
  case vendor =>
    rw [exec_healthRecordRead haux, exec_errorLogRead haux, exec_errorLogRelease haux]
    refine ⟨fun hstep => ?_, fun hstep => ?_⟩
    · rw [vendor_busy hstep, vendor_busy hstep, vendor_busy hstep]
      exact ⟨rfl, rfl, rfl⟩
    · rw [vendor_ready hstep, vendor_ready hstep, vendor_ready hstep]
      refine ⟨rfl, fun f hf => by rw [errorLogRead_eq hf], fun hlo hhi => by rw [elogRelease, if_pos ⟨hlo, hhi⟩],
        fun hout => by rw [elogRelease, if_neg (by omega)]⟩

end Sys2Proof.Machine
end

section
/-! SUPPORT. A step and the queue (R440, R454; log entry 36): a step runs the front command on the state with the queue's rest, and no
command changes the queue. -/

namespace Sys2Proof.Machine

open Sys2Proof

/-- Settles O1: the second equation of `step`. -/
theorem stepRunsFrontCommand : Obligations.StepRunsFrontCommand := by
  unfold Obligations.StepRunsFrontCommand
  intro s c rest h
  exact step_command h

/-- Settles O4: every command keeps the queue, whether or not the state is canonical (`exec_kept`). -/
theorem commandsLeaveTheQueue : Obligations.CommandsLeaveTheQueue := by
  unfold Obligations.CommandsLeaveTheQueue
  intro c s t h
  exact (exec_kept (Kept.of_queue s) c t h).queue

end Sys2Proof.Machine
end

section
/-! SUPPORT. Register accesses of a wrong form (R441, R455): which of them are counted, and what the count and the answer change. -/

namespace Sys2Proof.Machine

open Sys2Proof

variable {s : State} {f off : Nat} {bar : Bar} {write : Bool}

theorem exec_badRegisterAccess (hup : s.up = true) :
    exec (.badRegisterAccess f bar off write) s = .next (watch (badRegisterAccess s f bar off write)) :=
  regRow_up (a := .host f) hup nofun

/-- R455: HOST_BAD_ACCESS counts one, and the access is recorded. -/
theorem badAccess_eq (b : Nat) : badAccess s f b off write = { s with
    regs := ((s.setReg 0x28 (BitVec.ofNat 32 (s.ctr64 0x28 + 1))).setReg 0x2C (BitVec.ofNat 32 ((s.ctr64 0x28 + 1) / 2 ^ 32))).regs,
    host := { s.host with badFn := f, badBar := b, badWrite := write, badOff := off } } := by
  unfold badAccess
  simp only [State.bump, kBar0, State.setReg]

theorem badAccess_reply (b : Nat) : (badAccess s f b off write).reply = s.reply := by rw [badAccess_eq]

theorem badAccess_replyPoison (b : Nat) : (badAccess s f b off write).replyPoison = s.replyPoison := by rw [badAccess_eq]

/-- R441, R455: through an open BAR (BAR0 only the PF's) the access is counted; a read answers zero, a write leaves the last answer. -/
theorem badRegisterAccess_open (hopen : barOpen s f = true) (hpf : bar = .bar0 → f = 0) :
    badRegisterAccess s f bar off write = { badAccess (wakeSource s 1) f (barNum bar) off write with
      reply := if write then s.reply else [0, 0, 0, 0], replyPoison := if write then s.replyPoison else false } := by
  unfold badRegisterAccess
  rw [if_neg (by simpa [hopen] using hpf)]
  cases write with
  | false => rfl
  | true =>
    have hreply : (badAccess (wakeSource s 1) f (barNum bar) off true).reply = s.reply := by rw [badAccess_reply, wakeSource_reply]
    have hpoison : (badAccess (wakeSource s 1) f (barNum bar) off true).replyPoison = s.replyPoison := by
      rw [badAccess_replyPoison, wakeSource_replyPoison]
    simp only [if_true]
    rw [← hreply, ← hpoison]

/-- Settles O17: a counted access, and the zeros that answer a read. -/
theorem badRegisterAccessIsIgnoredAndRecorded : Obligations.BadRegisterAccessIsIgnoredAndRecorded := by
  unfold Obligations.BadRegisterAccessIsIgnoredAndRecorded
  intro s f off bar write hup hopen hpf
  refine ⟨_, exec_badRegisterAccess hup, ?_⟩
  rw [badRegisterAccess_open hopen hpf, badAccess_eq]
  cases bar <;> rfl

end Sys2Proof.Machine
end

section
/-! SUPPORT. MSI-X messages (R449, R450): which held messages a function sends, what it then still holds, and what the end of a hold-off
does with its vector. -/

namespace Sys2Proof.Machine

open Sys2Proof

variable {s : State} {f v : Nat}

/-! ### The rows -/

section
variable (hup : s.up = true)
include hup

theorem exec_irqHoldoffExpiry : exec (.irqHoldoffExpiry f v) s = .next (watch (irqHoldoffExpiry s f v)) := hub_up hup

theorem exec_msixUnmask_function (hfn : fnEnabled s f = true) :
    exec (.msixUnmask f none) s = .next (watch (setFunctionMask s f false)) :=
  (hub_up hup).trans (by rw [if_pos hfn])

theorem exec_msixUnmask_noFunction (hfn : fnEnabled s f = false) : exec (.msixUnmask f none) s = .next (watch s) :=
  (hub_up hup).trans (by rw [if_neg (by simp [hfn])])

theorem exec_msixUnmask_vector (hopen : barOpen s f = true) (hflr : (s.fn f).flr = false) (hv : v < 2048) :
    exec (.msixUnmask f (some v)) s = .next (watch (setVectorMask (wakeSource s 1) f v false)) :=
  (hub_up hup).trans (by dsimp only; rw [if_pos (by simp [hopen, hflr, hv])])

theorem exec_msixUnmask_ignored (h : barOpen s f = false ∨ (s.fn f).flr = true ∨ 2048 ≤ v) :
    exec (.msixUnmask f (some v)) s = .next (watch s) := by
  refine (hub_up hup).trans ?_
  dsimp only
  rw [if_neg]
  rcases h with hopen | hflr | hv
  · simp [hopen]
  · simp [hflr]
  · simp [Nat.not_lt.2 hv]

end

/-! ### The end of a hold-off (R450) -/

theorem irqHoldoffExpiry_noCount (h : tblFind (s.fn f).counts v = none) : irqHoldoffExpiry s f v = s := by
  rw [irqHoldoffExpiry, h]

section
variable {c : VecCount} (hc : tblFind (s.fn f).counts v = some c)
include hc

theorem irqHoldoffExpiry_noHoldoff (h : c.holdoff = 0) : irqHoldoffExpiry s f v = s := by
  rw [irqHoldoffExpiry, hc]
  exact if_pos h

theorem irqHoldoffExpiry_due (h : c.holdoff ≠ 0) : irqHoldoffExpiry s f v = messageDue s f v := by
  rw [irqHoldoffExpiry, hc]
  exact if_neg h

end

section
variable {x : Fn} {e : MsixEnt} (hx : x = { s.fn f with counts := tblDel (s.fn f).counts v }) (he : e = tblGet MsixEnt.reset x.table v)
include hx he

theorem messageDue_held (h : (e.mask || x.fnMask || x.stopped) = true) :
    messageDue s f v = s.setFn f { x with pba := setIns x.pba v } := by
  subst hx he
  exact if_pos h

theorem messageDue_sent (h : (e.mask || x.fnMask || x.stopped) = false) : messageDue s f v
    = { s.setFn f x with host := { s.host with msgs := { fn := f, vec := v, addr := e.addr, data := e.data } :: s.host.msgs } } := by
  subst hx he
  exact if_neg (Bool.not_eq_true _ ▸ h)

end

/-! ### Held messages (R450) -/

/-- The message that a function sends for a vector: the address and the data of its table entry. -/
def vectorMessage (x : Fn) (f v : Nat) : Msg :=
  { fn := f, vec := v, addr := (tblGet MsixEnt.reset x.table v).addr, data := (tblGet MsixEnt.reset x.table v).data }

/-- What `sendHeld` does with one held vector: the message of an unmasked one is sent, and its pending bit is cleared. -/
def sendVector (f : Nat) (s : State) (v : Nat) : State :=
  if (tblGet MsixEnt.reset (s.fn f).table v).mask then s
  else { s.setFn f { s.fn f with pba := setDel (s.fn f).pba v } with
         host := { s.host with msgs := vectorMessage (s.fn f) f v :: s.host.msgs } }

theorem sendHeld_running (hen : (s.fn f).msixEn = true) (hmask : (s.fn f).fnMask = false) (hrun : (s.fn f).stopped = false) :
    sendHeld s f = (s.fn f).pba.foldl (sendVector f) s :=
  if_neg (by simp [hen, hmask, hrun])

theorem Fn.ne_reset_of_msixEn {x : Fn} (h : x.msixEn = true) : x ≠ Fn.reset := by
  rintro rfl
  cases h

/-- A vector that is sent leaves the pending bits; nothing else of the function changes. -/
theorem sendVector_fn (hen : (s.fn f).msixEn = true) : (sendVector f s v).fn f
    = { s.fn f with pba := if (tblGet MsixEnt.reset (s.fn f).table v).mask then (s.fn f).pba else setDel (s.fn f).pba v } := by
  unfold sendVector
  split
  · rfl
  · exact tblGet_tblSet_of_ne Fn.reset s.fns f (Fn.ne_reset_of_msixEn (x := { s.fn f with pba := setDel (s.fn f).pba v }) hen)

theorem sendVector_table (hen : (s.fn f).msixEn = true) : ((sendVector f s v).fn f).table = (s.fn f).table := by
  rw [sendVector_fn hen]

theorem sendVector_msixEn (hen : (s.fn f).msixEn = true) : ((sendVector f s v).fn f).msixEn = true := by
  rw [sendVector_fn hen, hen]

theorem mem_sendVector_pba {w : Nat} (hen : (s.fn f).msixEn = true) : v ∈ ((sendVector f s w).fn f).pba
    ↔ v ∈ (s.fn f).pba ∧ (v = w → (tblGet MsixEnt.reset (s.fn f).table v).mask = true) := by
  rw [sendVector_fn hen]
  split
  next hm =>
    exact (and_iff_left fun hvw => hvw ▸ hm).symm
  next hm =>
    have hdel : (v = w → (tblGet MsixEnt.reset (s.fn f).table v).mask = true) ↔ v ≠ w :=
      ⟨fun h hvw => hm (hvw ▸ h hvw), fun h hvw => absurd hvw h⟩
    rw [hdel, setDel, List.mem_filter, decide_eq_true_iff]

/-- After the vectors of `l`, a pending bit stays that is masked or not in `l`. -/
theorem mem_foldl_sendVector_pba {l : List Nat} (hen : (s.fn f).msixEn = true) : v ∈ ((l.foldl (sendVector f) s).fn f).pba
    ↔ v ∈ (s.fn f).pba ∧ (v ∈ l → (tblGet MsixEnt.reset (s.fn f).table v).mask = true) := by
  induction l generalizing s with
  | nil => simp
  | cons w l ih =>
    rw [List.foldl_cons, ih (sendVector_msixEn hen), mem_sendVector_pba hen, sendVector_table hen, List.mem_cons, or_imp, and_assoc]

theorem sendVector_keeps_msg {w : Nat} {m : Msg} (h : m ∈ s.host.msgs) : m ∈ (sendVector f s w).host.msgs := by
  unfold sendVector
  split
  · exact h
  · exact List.mem_cons_of_mem _ h

theorem sendVector_sends (h : (tblGet MsixEnt.reset (s.fn f).table v).mask = false) :
    vectorMessage (s.fn f) f v ∈ (sendVector f s v).host.msgs := by
  rw [sendVector, if_neg (by simp [h])]
  exact List.mem_cons_self

theorem foldl_sendVector_keeps_msg {l : List Nat} {m : Msg} (h : m ∈ s.host.msgs) : m ∈ (l.foldl (sendVector f) s).host.msgs := by
  induction l generalizing s with
  | nil => exact h
  | cons w l ih => exact ih (sendVector_keeps_msg h)

/-- Each unmasked vector of `l` has had its message sent. -/
theorem foldl_sendVector_sends {l : List Nat} (hen : (s.fn f).msixEn = true) (hv : v ∈ l)
    (h : (tblGet MsixEnt.reset (s.fn f).table v).mask = false) : vectorMessage (s.fn f) f v ∈ (l.foldl (sendVector f) s).host.msgs := by
  induction l generalizing s with
  | nil => cases hv
  | cons w l ih =>
    rw [List.foldl_cons]
    rcases List.mem_cons.1 hv with rfl | hv
    · exact foldl_sendVector_keeps_msg (sendVector_sends h)
    · have hmsg : vectorMessage (s.fn f) f v = vectorMessage ((sendVector f s w).fn f) f v := by
        rw [vectorMessage, vectorMessage, sendVector_table hen]
      rw [hmsg]
      exact ih (sendVector_msixEn hen) hv (by rwa [sendVector_table hen])

end Sys2Proof.Machine
end

section
/-! SUPPORT. The pinned aperture (R441, R447, R448, R454): how a request is met, and what a read answers and a write commits. That a write
above the function's maximum payload is ignored is log entry 48. -/

namespace Sys2Proof.Machine

open Sys2Proof

variable {s : State} {f off n c sid : Nat} {b : Body} {al : Bool} {st : Status} {bs : List Byte}

/-! ### The rows -/

section
variable (hup : s.up = true)
include hup

theorem exec_apertureRead :
    exec (.apertureRead f off n) s = .next (watch (viaAperture s f off n false (apertureRead · f off n))) := hub_up hup

theorem exec_apertureWrite (h : bs.length ≤ (s.fn f).mps) :
    exec (.apertureWrite f off bs) s = .next (watch (viaAperture s f off bs.length true (apertureWrite · f off bs))) :=
  (hub_up hup).trans (by rw [if_neg (Nat.not_lt.2 h)])

theorem exec_apertureWrite_oversized (h : (s.fn f).mps < bs.length) : exec (.apertureWrite f off bs) s = .next (watch s) :=
  (hub_up hup).trans (by rw [if_pos h])

end

/-! ### How a request is met (R441, R454) -/

section
variable {write : Bool} {go : State → State}

theorem viaAperture_closed (h : barOpen s f = false) : viaAperture s f off n write go = s := if_pos (by simp [h])

variable (hopen : barOpen s f = true)
include hopen

/-- R454: during a function-level reset a read answers zeros, and a write is counted. -/
theorem viaAperture_flr (hflr : ((wakeSource s 1).fn f).flr = true) : viaAperture s f off n write go
    = if write then badAccess (wakeSource s 1) f 2 (0x30000 + off) true else replyWith (wakeSource s 1) (List.replicate n 0) := by
  rw [viaAperture, if_neg (by simp [hopen]), if_pos hflr]
  cases write <;> rfl

variable (hflr : ((wakeSource s 1).fn f).flr = false)
include hflr

/-- R441: a request past the end of the aperture is counted, and a read of it answers zeros. -/
theorem viaAperture_past (h : 65536 < off + n) : viaAperture s f off n write go
    = if write then badAccess (wakeSource s 1) f 2 (0x30000 + off) write
      else replyWith (badAccess (wakeSource s 1) f 2 (0x30000 + off) write) (List.replicate n 0) := by
  rw [viaAperture, if_neg (by simp [hopen])]
  dsimp only
  rw [if_neg (by simp [hflr]), if_pos h]

theorem viaAperture_inside (h : off + n ≤ 65536) : viaAperture s f off n write go = go (wakeSource s 1) := by
  rw [viaAperture, if_neg (by simp [hopen])]
  dsimp only
  rw [if_neg (by simp [hflr]), if_neg (Nat.not_lt.2 h)]

end

/-! ### Reads (R447) -/

theorem apertureRead_refused (h : aptOpen s f = .inr st) :
    apertureRead s f off n = replyWith (aptRefuse s f st) (List.replicate n 0) := by
  rw [apertureRead, h]

theorem foldl_logPoison_background (us : List Nat) : OnlyBackground s (us.foldl (logPoison c) s) := by
  induction us generalizing s with
  | nil => rfl
  | cons u us ih => exact (logEntry_background s _ _ _ _ _).trans ih

/-- An open aperture answers the bytes of the object; what is logged of its poison changes no object, ring or context. -/
theorem apertureRead_open (h : aptOpen s f = .inl (c, sid, b, al)) :
    (apertureRead s f off n).reply = memRead s.com.mem (cellKey sid (aptBase s f * 65536 + off)) n
      ∧ (apertureRead s f off n).com = s.com ∧ (apertureRead s f off n).rings = s.rings ∧ (apertureRead s f off n).ctxs = s.ctxs := by
  rw [apertureRead, h]
  dsimp only [replyWith]
  rw [foldl_logPoison_background]
  exact ⟨rfl, rfl, rfl, rfl⟩

/-! ### Writes (R447) -/

theorem apertureWrite_refused (h : aptOpen s f = .inr st) : apertureWrite s f off bs = aptRefuse s f st := by
  rw [apertureWrite, h]

section
variable (h : aptOpen s f = .inl (c, sid, b, al))
include h

theorem apertureWrite_readOnly (hro : al = true ∨ b.writable = false) : apertureWrite s f off bs = aptRefuse s f .format := by
  rw [apertureWrite, h]
  exact if_pos (by simpa using hro)

/-- The bytes are written as one commit, or refused with QUOTA where the commit finds no room for a replica. -/
theorem apertureWrite_allocated {w : State} (hal : al = false) (hwr : b.writable = true)
    (hw : allocGrans s sid b (unallocated s sid (granRange (aptBase s f * 65536 + off) bs.length)) = .done w) :
    apertureWrite s f off bs = (commitObjects w [(cellKey sid (aptBase s f * 65536 + off), bs)]).getD (aptRefuse s f .quota) := by
  rw [apertureWrite, h]
  dsimp only
  rw [if_neg (by simp [hal, hwr]), hw]

end

/-! ### The statement -/

/-- Settles O49: an aperture request by how it is met and then by its conditions, a vector by its count and its mask (log entry 48). -/
theorem apertureAndMessages : Obligations.ApertureAndMessages := by
  unfold Obligations.ApertureAndMessages
  intro s f hup
  refine ⟨fun off n bs hlen => ⟨fun hclosed => ?closed, fun hmps => ?oversized, fun hopen u hu => ⟨fun hflr => ?flr, fun hflr hpast => ?past,
      fun hflr hin => ⟨fun st hst => ?refused, fun c sid b al k hobj hk => ⟨?read, fun hmps => ⟨fun hro => ?readOnly, ?write⟩⟩⟩⟩⟩,
    fun v => ⟨fun hnone => ?noCount, fun c x e hc hx he => ⟨fun h0 => ?noHoldoff, fun h0 hheld => ?held, ?sent⟩⟩,
    fun hfn => exec_msixUnmask_noFunction hup hfn, fun hfn => exec_msixUnmask_function hup hfn,
    fun v => ⟨fun h => exec_msixUnmask_ignored hup h, ?unmask⟩, fun hen hmask hrun v => ⟨?pending, ?messages⟩⟩
  case closed =>
    refine ⟨by rw [exec_apertureRead hup, viaAperture_closed hclosed], ?_⟩
    rcases Nat.lt_or_ge (s.fn f).mps bs.length with hmps | hmps
    · exact exec_apertureWrite_oversized hup hmps
    · rw [exec_apertureWrite hup hmps, viaAperture_closed hclosed]
  case oversized => exact exec_apertureWrite_oversized hup (hlen ▸ hmps)
  case flr =>
    subst hu hlen
    refine ⟨by rw [exec_apertureRead hup, viaAperture_flr hopen hflr]; rfl, fun hmps => ?_⟩
    rw [exec_apertureWrite hup hmps, viaAperture_flr hopen hflr, if_pos rfl]
  case past =>
    subst hu hlen
    refine ⟨by rw [exec_apertureRead hup, viaAperture_past hopen hflr hpast]; rfl, fun hmps => ?_⟩
    rw [exec_apertureWrite hup hmps, viaAperture_past hopen hflr hpast, if_pos rfl]
  case refused =>
    subst hu hlen
    refine ⟨by rw [exec_apertureRead hup, viaAperture_inside hopen hflr hin, apertureRead_refused hst], fun hmps => ?_⟩
    rw [exec_apertureWrite hup hmps, viaAperture_inside hopen hflr hin, apertureWrite_refused hst]
  case read =>
    subst hu hk
    obtain ⟨hreply, hcom, hrings, hctxs⟩ := apertureRead_open (off := off) (n := n) hobj
    rw [exec_apertureRead hup, viaAperture_inside hopen hflr hin]
    exact ⟨_, rfl, by simpa using hreply, by simpa using hcom, by simpa using hrings, by simpa using hctxs⟩
  case readOnly =>
    subst hu hlen
    rw [exec_apertureWrite hup hmps, viaAperture_inside hopen hflr hin, apertureWrite_readOnly hobj hro]
  case write =>
    subst hu hlen hk
    intro hal hwr w hw
    rw [exec_apertureWrite hup hmps, viaAperture_inside hopen hflr hin, apertureWrite_allocated hobj hal hwr hw]
    exact ⟨fun hfull => by rw [hfull, Option.getD_none], fun z hz => by rw [hz, Option.getD_some]⟩
  case noCount => rw [exec_irqHoldoffExpiry hup, irqHoldoffExpiry_noCount hnone]
  case noHoldoff => rw [exec_irqHoldoffExpiry hup, irqHoldoffExpiry_noHoldoff hc h0]
  case held => rw [exec_irqHoldoffExpiry hup, irqHoldoffExpiry_due hc h0, messageDue_held hx he hheld]
  case sent =>
    rintro h0 hsent h rfl
    rw [exec_irqHoldoffExpiry hup, irqHoldoffExpiry_due hc h0, messageDue_sent hx he hsent]
  case unmask =>
    rintro hopen hflr hv x e rfl rfl
    exact exec_msixUnmask_vector hup hopen hflr hv
  case pending =>
    rw [sendHeld_running hen hmask hrun, mem_foldl_sendVector_pba hen]
    exact ⟨fun ⟨hv, h⟩ => ⟨hv, h hv⟩, fun ⟨hv, h⟩ => ⟨hv, fun _ => h⟩⟩
  case messages =>
    rintro e hv rfl h
    rw [sendHeld_running hen hmask hrun]
    exact foldl_sendVector_sends hen hv h

end Sys2Proof.Machine
end

section
/-! SUPPORT. Configuration requests, ATS invalidations and the host link (R436 to R439, R450, R453, R514, R516): which requests are
answered, what each configuration write sets, and when a trained link is recorded. The form of the reply is log entry 48, which fields can
be written is log entry 81, and that no translation is cached is log entry 80. -/

namespace Sys2Proof.Machine

open Sys2Proof

variable {s u : State} {f n : Nat} {q : ConfigReq} {on : Bool}

/-! ### The rows -/

theorem exec_configRequest (haux : s.pins.aux = true) : exec (.configRequest f q) s = .next (watch (configRequest s f q)) := aon_on haux

theorem exec_hostLinkTrained {sp w : Nat} {fl : Bool} (haux : s.pins.aux = true) :
    exec (.hostLinkTrained sp w fl) s = .next (watch (hostLinkTrained s sp w fl)) := aon_on haux

theorem exec_atsInvalidation {page : Nat} (hup : s.up = true) :
    exec (.atsInvalidation f page) s = .next (watch (atsInvalidation s f page)) := hub_up hup

/-! ### Which requests are answered (R436, R439, R514, R516) -/

theorem hostReady_iff : hostReady s = true ↔ s.boot.step = 10 ∨ s.boot.fail = 2 := by
  rw [hostReady, Bool.or_eq_true, beq_iff_eq, beq_iff_eq]

theorem configRequest_noLink (h : s.pins.perst = true ∨ s.boot.step < 2) : configRequest s f q = replyWith s [] :=
  if_pos (by simpa using h)

section
variable (hperst : s.pins.perst = false) (hstep : 2 ≤ s.boot.step)
include hperst hstep

theorem configRequest_linked : configRequest s f q = if !hostReady s then replyWith s [2#8] else if !fnEnabled s f then replyWith s [1#8]
    else if q = .read then replyWith s (0#8 :: configIdentity f) else replyWith (configWrite s f q) [0#8] := by
  unfold configRequest
  rw [if_neg (by simp [hperst, Nat.not_lt.2 hstep])]
  cases q <;> rfl

theorem configRequest_notReady (h : hostReady s = false) : configRequest s f q = replyWith s [2#8] := by
  rw [configRequest_linked hperst hstep, h, if_pos (by rfl)]

theorem configRequest_notEnabled (hready : hostReady s = true) (h : fnEnabled s f = false) :
    configRequest s f q = replyWith s [1#8] := by
  rw [configRequest_linked hperst hstep, hready, h, if_neg (by decide), if_pos (by rfl)]

variable (hready : hostReady s = true) (hfn : fnEnabled s f = true)
include hready hfn

theorem configRequest_read : configRequest s f .read = replyWith s (0#8 :: configIdentity f) := by
  rw [configRequest_linked hperst hstep, hready, hfn, if_neg (by decide), if_neg (by decide), if_pos rfl]

theorem configRequest_write (hq : q ≠ .read) : configRequest s f q = replyWith (configWrite s f q) [0#8] := by
  rw [configRequest_linked hperst hstep, hready, hfn, if_neg (by decide), if_neg (by decide), if_neg hq]

end

/-! ### What a configuration write sets (R437, R450, R453) -/

theorem configWrite_maxPayload (h : n = 128 ∨ n = 256 ∨ n = 512) :
    configWrite s f (.maxPayload n) = s.setFn f { s.fn f with mps := n } :=
  if_pos (by simpa using h)

theorem configWrite_maxPayload_illegal (h : ¬(n = 128 ∨ n = 256 ∨ n = 512)) : configWrite s f (.maxPayload n) = s :=
  if_neg (by simpa using h)

theorem configWrite_maxReadRequest (h : n = 128 ∨ n = 256 ∨ n = 512 ∨ n = 1024 ∨ n = 2048 ∨ n = 4096) :
    configWrite s f (.maxReadRequest n) = s.setFn f { s.fn f with mrrs := n } :=
  if_pos (by simpa using h)

theorem configWrite_maxReadRequest_illegal (h : ¬(n = 128 ∨ n = 256 ∨ n = 512 ∨ n = 1024 ∨ n = 2048 ∨ n = 4096)) :
    configWrite s f (.maxReadRequest n) = s :=
  if_neg (by simpa using h)

theorem configWrite_powerState_vf (hf : f ≠ 0) : configWrite s f (.powerState on) = fnChange s f { s.fn f with d3 := on } :=
  if_neg fun h => hf h.1

theorem configWrite_pmeEnable_vf (hf : f ≠ 0) : configWrite s f (.pmeEnable on) = s := if_neg hf

/-! ### Virtual functions (R437, R454) -/

theorem configWrite_vfEnable_vf (hf : f ≠ 0) : configWrite s f (.vfEnable on) = s := if_neg hf

theorem configWrite_numVFs_ignored (h : f ≠ 0 ∨ 255 < n) : configWrite s f (.numVFs n) = s := by
  dsimp only [configWrite, setNumVFs]
  split
  next hf => exact if_pos (h.resolve_left (not_not.2 hf))
  next => rfl

/-- R454: the VFs above `n` leave, from the lowest on. -/
theorem dropVfs_above (s : State) (n : Nat) :
    dropVfs s (n + 1) = ((List.range (s.host.numVFs - n)).map (fun i => n + 1 + i)).foldl vfReset s := by
  rw [dropVfs, Nat.add_sub_add_right]

theorem configWrite_numVFs_keeps (hn : n ≤ 255) (h : s.host.vfEnable = false ∨ s.host.numVFs ≤ n) :
    configWrite s 0 (.numVFs n) = { s with host := { s.host with numVFs := n } } := by
  dsimp only [configWrite, setNumVFs]
  rw [if_pos rfl, if_neg (Nat.not_lt.2 hn), if_neg (by simpa [imp_iff_not_or] using h)]

theorem configWrite_numVFs_drops (hn : n ≤ 255) (hen : s.host.vfEnable = true) (h : n < s.host.numVFs)
    (hu : u = dropVfs s (n + 1)) : configWrite s 0 (.numVFs n) = { u with host := { u.host with numVFs := n } } := by
  dsimp only [configWrite, setNumVFs]
  rw [if_pos rfl, if_neg (Nat.not_lt.2 hn), if_pos (by simp [hen, h]), hu]

theorem configWrite_vfEnable_keeps (h : s.host.vfEnable = false ∨ on = true) :
    configWrite s 0 (.vfEnable on) = { s with host := { s.host with vfEnable := on } } := by
  dsimp only [configWrite, setVfEnable]
  rw [if_pos rfl, if_neg (by simpa [imp_iff_not_or] using h)]

theorem configWrite_vfEnable_drops (hen : s.host.vfEnable = true) (hu : u = dropVfs s 1) :
    configWrite s 0 (.vfEnable false) = { u with host := { u.host with vfEnable := false } } := by
  dsimp only [configWrite, setVfEnable]
  rw [if_pos rfl, if_pos (by simp [hen]), hu]

/-! ### The link and its translations (R436, R438) -/

section
variable {sp w : Nat} {fl : Bool}

/-- R436: the port links at 1 to 6 with 1, 2, 4, 8 or 16 lanes, in FLIT mode at 64 GT/s only. -/
def LegalLink (sp w : Nat) (fl : Bool) : Prop :=
  1 ≤ sp ∧ sp ≤ 6 ∧ (w = 1 ∨ w = 2 ∨ w = 4 ∨ w = 8 ∨ w = 16) ∧ (fl = true ↔ sp = 6)

theorem hostLinkTrained_records (hperst : s.pins.perst = false) (hstep : 2 ≤ s.boot.step) (h : LegalLink sp w fl) :
    hostLinkTrained s sp w fl = { s with host := { s.host with speed := sp, width := w, flit := fl } } := by
  obtain ⟨h1, h6, hw, hfl⟩ := h
  have hflit : fl = (sp == 6) := Bool.eq_iff_iff.2 (hfl.trans beq_iff_eq.symm)
  exact if_pos (by simp [hstep, hperst, h1, h6, hw, hflit])

theorem hostLinkTrained_refused (h : (s.pins.perst = true ∨ s.boot.step < 2) ∨ ¬LegalLink sp w fl) : hostLinkTrained s sp w fl = s := by
  refine if_neg fun hc => ?_
  simp only [Bool.and_eq_true, decide_eq_true_eq, Bool.not_eq_true', beq_iff_eq] at hc
  obtain ⟨⟨⟨⟨⟨hstep, hperst⟩, h1⟩, h6⟩, hw⟩, hflit⟩ := hc
  rcases h with (hoff | hearly) | hlegal
  · rw [hoff] at hperst
    cases hperst
  · omega
  · exact hlegal ⟨h1, h6, by simpa using hw, by rw [hflit, beq_iff_eq]⟩

end

theorem atsInvalidation_completes {page : Nat} (hats : (s.fn f).ats = true) (hpage : usesPage s f page = false) :
    atsInvalidation s f page = s.bump (kBar0 0x20) 1 :=
  if_pos (by simp [hats, hpage])

theorem atsInvalidation_waits {page : Nat} (h : (s.fn f).ats = false ∨ usesPage s f page = true) : atsInvalidation s f page = s :=
  if_neg (by simpa [imp_iff_not_or] using h)

/-! ### The statement -/

/-- Settles O51: a request by the state of the link and of the function, a write by the field it names (log entries 48, 80, 81). -/
theorem configurationAndTheHostLink : Obligations.ConfigurationAndTheHostLink := by
  unfold Obligations.ConfigurationAndTheHostLink
  intro s f
  refine ⟨fun haux => ⟨fun q => ⟨fun hdown => ?noLink, fun hperst hstep h10 h2 => ?notReady, fun hperst hstep hready hfn => ?notEnabled⟩,
    fun hperst hstep hready hfn x hx => ?answered,
    fun sp w fl hperst hstep => ⟨fun h1 h6 hw hfl => ?records, fun hbad => ?illegal⟩, fun sp w fl hdown => ?down⟩,
    fun hup page => ⟨fun hats hpage => ?completes, fun h => ?waits⟩⟩
  case noLink => rw [exec_configRequest haux, configRequest_noLink hdown]
  case notReady =>
    have h : hostReady s = false := by rw [← Bool.not_eq_true, hostReady_iff]; exact not_or.2 ⟨h10, h2⟩
    rw [exec_configRequest haux, configRequest_notReady hperst hstep h]
  case notEnabled => rw [exec_configRequest haux, configRequest_notEnabled hperst hstep (hostReady_iff.2 hready) hfn]
  case answered =>
    subst hx
    have write {q : ConfigReq} {u : State} (hq : q ≠ .read) (hu : configWrite s f q = u) :
        exec (.configRequest f q) s = .next (watch (replyWith u [0#8])) := by
      rw [exec_configRequest haux, configRequest_write hperst hstep (hostReady_iff.2 hready) hfn hq, hu]
    refine ⟨?read, fun on => ?flags, fun n => ?sizes⟩
    case read => rw [exec_configRequest haux, configRequest_read hperst hstep (hostReady_iff.2 hready) hfn]
    case flags =>
      refine ⟨write nofun rfl, write nofun rfl, write nofun rfl, write nofun rfl, write nofun rfl,
        fun hf => write nofun (configWrite_powerState_vf hf), fun hf => write nofun (configWrite_pmeEnable_vf hf), ?_,
        fun hf => write nofun (configWrite_vfEnable_vf hf), ?_, ?_⟩
      · rintro rfl
        exact write nofun rfl
      · rintro rfl h
        exact write nofun (configWrite_vfEnable_keeps h)
      · rintro w rfl hen rfl hw
        exact write nofun (configWrite_vfEnable_drops hen (hw.trans (dropVfs_above s 0).symm))
    case sizes =>
      refine ⟨fun h => write nofun (configWrite_maxPayload h), fun h => write nofun (configWrite_maxPayload_illegal h),
        fun h => write nofun (configWrite_maxReadRequest h), fun h => write nofun (configWrite_maxReadRequest_illegal h),
        fun h => write nofun (configWrite_numVFs_ignored h), ?_, ?_⟩
      · rintro rfl hn h
        exact write nofun (configWrite_numVFs_keeps hn h)
      · rintro w rfl hn hen h hw
        exact write nofun (configWrite_numVFs_drops hn hen h (hw.trans (dropVfs_above s n).symm))
  case records => rw [exec_hostLinkTrained haux, hostLinkTrained_records hperst hstep ⟨h1, h6, hw, hfl⟩]
  case illegal =>
    have h : ¬LegalLink sp w fl := by
      rintro ⟨h1, h6, hw, hfl⟩
      rcases hbad with h0 | h7 | hwidth | hflit
      · omega
      · omega
      · exact hwidth hw
      · exact hflit hfl
    rw [exec_hostLinkTrained haux, hostLinkTrained_refused (.inr h)]
  case down => rw [exec_hostLinkTrained haux, hostLinkTrained_refused (.inl hdown)]
  case completes => rw [exec_atsInvalidation hup, atsInvalidation_completes hats hpage]
  case waits => rw [exec_atsInvalidation hup, atsInvalidation_waits h]

end Sys2Proof.Machine
end

section
/-! SUPPORT. The watermark monitors over whole steps (R497, R498, R499; log entry 52): a command answers the state as it was, or a state
whose monitors have been evaluated, so every step leaves settled monitors settled. -/

namespace Sys2Proof.Machine

open Sys2Proof

variable {s t : State}

/-! ### What a command answers -/

theorem early_answers (s u : State) : Answers s (early s u) := by
  unfold early
  split
  · exact done_answers s u
  · exact .inl rfl

theorem portRow_answers (p : Nat) (s u : State) : Answers s (portRow p s u) := hub_answers s _

theorem regRow_answers (a : Agent) (bar : Bar) (s u : State) : Answers s (regRow a bar s u) := by
  unfold regRow
  split
  · exact aon_answers s u
  · split
    · exact early_answers s u
    · exact hub_answers s u

theorem objRow_answers (f : Nat) (op : Word) (s : State) : Answers s (objRow f op s) := hub_answers s _

theorem execSensorSample_answers (i : Nat) (v : Option Nat) (s : State) : Answers s (execSensorSample i v s) := by
  unfold execSensorSample
  split
  · exact aon_answers s _
  · exact hub_answers s _

/-- By the part of the module that takes the command: the accesses to registers, the always-on domain, the rows that work as soon as the
host port enumerates, the ports, and the hub for every other. -/
theorem exec_answers (s : State) (c : Instr) : Answers s (exec c s) := by
  cases c
  case registerWrite | readClearRegister | lowHalfRead | latchInfoRead => exact regRow_answers _ _ s _
  case badRegisterAccess f _ _ _ => exact regRow_answers (.host f) _ s _
  case wakeEvent | compTrip | compRearm | sidebandWake | configRequest | hostLinkTrained | mctpControl | pldmRequest | pldmFirmwareUpdate |
      spdmRequest | healthRecordRead | errorLogRead | errorLogRelease | auxPowerLoss | warmReset | perstDeassert | perstAssertInFallow |
      sysrefClkLoss | startupStepDone | startupStep1Retry | fallowExit => exact aon_answers s _
  case rstCtrlWarm | bootStore | bootErase | bootStoreDone | bootCfgWrite => exact early_answers s _
  case portCtrlWrite | trainingComplete | trainingTimeout | downRetry | linkPacket | portActivate | retrainLock | retrainTimeout |
      laneRotationStart | laneRotationSwitch | laneRotateRetry | laneCalibrationDone | laneRetire | linkRekey | creditStallTick |
      frameTransmit | frameReceive => exact portRow_answers _ s _
  case objCreate | objDestroy | objResize | objSetCfg | objPromote | objEvict | objMap => exact objRow_answers _ _ s
  case sensorSample => exact execSensorSample_answers _ _ s
  case coldReset => exact done_answers s _
  all_goals exact hub_answers s _

/-! ### Every step -/

theorem settled_congr (hmons : t.mons = s.mons) (hsource : ∀ k i, sourceValue t k i = sourceValue s k i) (h : s.Settled) : t.Settled := by
  intro k
  unfold State.mon
  rw [hmons, hsource]
  exact h k

/-- No source lies in the queue. -/
theorem sourceValue_pending (s : State) (l : List Instr) (k i : Nat) : sourceValue { s with pending := l } k i = sourceValue s k i := by
  unfold sourceValue
  rfl

/-- No source is the time base. -/
theorem sourceValue_clock (s : State) (time : DWord) (n k i : Nat) :
    sourceValue { s with time := time, tclk := n } k i = sourceValue s k i := by
  unfold sourceValue
  rfl

/-- R503: an idle cycle counts the time base, and changes nothing else. -/
theorem idleTick_clock (s : State) : ∃ time n, idleTick s = { s with time := time, tclk := n } := by
  unfold idleTick
  split
  · exact ⟨s.time, s.tclk, rfl⟩
  · split
    · exact ⟨_, _, rfl⟩
    · exact ⟨_, s.tclk, rfl⟩

theorem settled_idleTick (h : s.Settled) : (idleTick s).Settled := by
  obtain ⟨time, n, htick⟩ := idleTick_clock s
  rw [htick]
  exact settled_congr rfl (sourceValue_clock s time n) h

theorem Answers.settled {o : Out} (ho : Answers s o) (hs : s.Settled) (ht : o = .next t) : t.Settled := by
  rcases ho with h | ⟨u, h⟩ <;> rw [h] at ht <;> injection ht with ht <;> rw [← ht]
  · exact hs
  · exact watch_settled u

/-- Settles O8: an idle cycle changes no source, and a command answers the state that it found or an evaluated one (`exec_answers`). -/
theorem everyStepKeepsMonitorsSettled : Obligations.EveryStepKeepsMonitorsSettled := by
  unfold Obligations.EveryStepKeepsMonitorsSettled
  intro s t hs ht
  cases hp : s.pending with
  | nil =>
    rw [step_idle hp] at ht
    injection ht with ht
    exact ht ▸ settled_idleTick hs
  | cons c rest =>
    rw [step_command hp] at ht
    exact (exec_answers { s with pending := rest } c).settled (settled_congr rfl (sourceValue_pending s rest) hs) ht

/-- Settles O9: the reset state lists no monitor, and an unlisted one is not enabled. -/
theorem monitorsSettledAtReset : Obligations.MonitorsSettledAtReset := by
  unfold Obligations.MonitorsSettledAtReset
  intro k hen
  exact absurd (show Monitor.reset.en = true from hen) (by decide)

/-! ### The evaluation -/

theorem evalMonitor_disabled {k : Nat} (h : (s.mon k).en = false) : evalMonitor s k = s := by
  unfold evalMonitor
  exact if_pos (by simp [h])

theorem watch_disabled (h : ∀ k, (s.mon k).en = false) : watch s = s := foldl_eq_self fun k _ => evalMonitor_disabled (h k)

/-- R498: `y` has the source, the thresholds and the enable of `x`. -/
def SameWatch (x y : Monitor) : Prop := y.en = x.en ∧ y.kind = x.kind ∧ y.index = x.index ∧ y.hi = x.hi ∧ y.lo = x.lo

theorem SameWatch.refl (x : Monitor) : SameWatch x x := ⟨rfl, rfl, rfl, rfl, rfl⟩

theorem SameWatch.trans {x y z : Monitor} (h : SameWatch x y) (h' : SameWatch y z) : SameWatch x z := by
  obtain ⟨hen, hkind, hindex, hhi, hlo⟩ := h
  obtain ⟨hen', hkind', hindex', hhi', hlo'⟩ := h'
  exact ⟨hen'.trans hen, hkind'.trans hkind, hindex'.trans hindex, hhi'.trans hhi, hlo'.trans hlo⟩

theorem evalMonitor_sameWatch_self (s : State) (k : Nat) : SameWatch (s.mon k) ((evalMonitor s k).mon k) := by
  have hmon : (evalMonitor s k).mon k = tblGet Monitor.reset (evalMonitor s k).mons k := rfl
  rw [hmon, evalMonitor_mons]
  split
  · exact .refl _
  next hskip =>
    have hen : (s.mon k).en = true := by
      simp only [Bool.or_eq_true, Bool.not_eq_true', not_or, Bool.not_eq_false] at hskip
      exact hskip.1
    have hself := mon_setMon_self (s := s) (k := k) (x := (s.mon k).eval (sourceValue s (s.mon k).kind (s.mon k).index))
      (by rw [(Monitor.eval_same _ _).1, hen])
    exact (congrArg (SameWatch (s.mon k)) hself).mpr (Monitor.eval_same _ _)

theorem evalMonitor_sameWatch (s : State) (j k : Nat) : SameWatch (s.mon k) ((evalMonitor s j).mon k) := by
  by_cases hk : k = j
  · subst hk
    exact evalMonitor_sameWatch_self s k
  · rw [evalMonitor_mon_ne hk]
    exact .refl _

theorem watch_sameWatch (s : State) (k : Nat) : SameWatch (s.mon k) ((watch s).mon k) :=
  List.foldlRecOn (s.mons.map (·.1)) evalMonitor (motive := fun t => SameWatch (s.mon k) (t.mon k)) (.refl _)
    fun t ht j _ => ht.trans (evalMonitor_sameWatch t j k)

/-- Settles O10: the frame of the evaluation is `watch_only`; a disabled monitor is skipped; an evaluation keeps what it watches. -/
theorem monitorEvaluationChangesOnlySignals : Obligations.MonitorEvaluationChangesOnlySignals := by
  unfold Obligations.MonitorEvaluationChangesOnlySignals
  intro s
  exact ⟨watch_only s, watch_disabled, watch_sameWatch s⟩

end Sys2Proof.Machine
end

section
/-! SUPPORT. The time base of an idle block (R503, R521; log entry 4): what one cycle counts, and how many of the first cycles a slew
adjusts. -/

namespace Sys2Proof.Machine

open Sys2Proof

variable {s : State}

/-! ### The cycles that a slew adjusts -/

/-- Cycle `c` is adjusted where the whole part of `c * p / 1,000,000` steps, and for a slew in range it steps by one. -/
theorem adjusted_succ {p : Nat} (hp : p ≤ 500) (c : Nat) :
    (c + 1) * p / 1000000 = c * p / 1000000 + if slewed p c then 1 else 0 := by
  have hstep : (c + 1) * p = c * p + p := Nat.succ_mul c p
  unfold slewed
  split <;> next h => simp only [bne_iff_ne, ne_eq, Decidable.not_not] at h; omega

/-- Settles O3: by induction on the number of cycles, one at a time (`adjusted_succ`; log entry 4). -/
theorem slewedCyclesEvenlySpaced : Obligations.SlewedCyclesEvenlySpaced := by
  unfold Obligations.SlewedCyclesEvenlySpaced
  intro p n hp
  induction n with
  | zero => simp
  | succ n ih =>
    rw [List.range_succ, List.filter_append, List.length_append, ih, adjusted_succ hp, List.filter_singleton]
    cases slewed p n <;> rfl

/-! ### One idle cycle -/

theorem idleTick_stopped (h : s.pins.aux = false ∨ (s.boot.step = 0 ∧ s.boot.running = true)) : idleTick s = s := by
  unfold idleTick coldStep0
  exact if_pos (by simpa using h)

theorem idleTick_tclk (haux : s.pins.aux = true) (hstep : 1 ≤ s.boot.step) (hsysref : s.pins.sysref = true) :
    idleTick s = { s with time := s.time + BitVec.ofNat 64 (tclkNs s), tclk := (s.tclk + 1) % 1000000 } := by
  unfold idleTick coldStep0 tclkOn
  rw [if_neg (by simp [haux]; omega), if_pos (by simp [hstep, hsysref])]

theorem idleTick_wclk (haux : s.pins.aux = true)
    (h : s.boot.step = 0 ∧ s.boot.running = false ∨ 1 ≤ s.boot.step ∧ s.pins.sysref = false) :
    idleTick s = { s with time := s.time + 30518 } := by
  unfold idleTick coldStep0 tclkOn
  rcases h with ⟨hstep, hrun⟩ | ⟨hstep, hsysref⟩
  · rw [if_neg (by simp [haux, hrun]), if_neg (by simp [hstep])]
  · rw [if_neg (by simp [haux]; omega), if_neg (by simp [hsysref])]

theorem tclkNs_plain (h : slewed (slewPpm s).natAbs s.tclk = false) : tclkNs s = 10 := if_neg (by simp [h])

theorem tclkNs_added (h : slewed (slewPpm s).natAbs s.tclk = true) (hpos : 0 < slewPpm s) : tclkNs s = 20 := by
  rw [tclkNs, if_pos h, if_pos hpos]

theorem tclkNs_withheld (h : slewed (slewPpm s).natAbs s.tclk = true) (hneg : slewPpm s ≤ 0) : tclkNs s = 0 := by
  rw [tclkNs, if_pos h, if_neg (by omega)]

/-- Settles O2: an idle step is `idleTick`, by the clock that counts and the cycle's place in the slew (log entry 4). -/
theorem idleStepCountsTime : Obligations.IdleStepCountsTime := by
  unfold Obligations.IdleStepCountsTime
  intro s hp
  rw [step_idle hp]
  refine ⟨fun h => ?stopped, fun haux hstep href h => ?plain, fun haux hstep href h hpos => ?added,
    fun haux hstep href h hneg => ?withheld, fun haux h => ?off⟩
  case stopped => rw [idleTick_stopped h]
  case plain => rw [idleTick_tclk haux hstep href, tclkNs_plain h]; rfl
  case added => rw [idleTick_tclk haux hstep href, tclkNs_added h hpos]; rfl
  case withheld => rw [idleTick_tclk haux hstep href, tclkNs_withheld h hneg, BitVec.add_zero]
  case off => rw [idleTick_wclk haux h]

end Sys2Proof.Machine
end

section
/-! SUPPORT. Power states (R464 to R471, R478 to R480): how a request is met, the entry handshake, the end of a transition, and what a
wake event and the comparator do. -/

namespace Sys2Proof.Machine

open Sys2Proof

variable {s : State}

/-! ### An event of PWR_IRQ (R479) -/

/-- Its bit, and what its vector signals. -/
theorem pwrEvent_only (s : State) (b : Nat) : OnlySignals (s.setBits kPwrIrq (2 ^ b)) (pwrEvent s b) := signalModule_only _ _

@[simp] theorem pwrEvent_pwr (s : State) (b : Nat) : (pwrEvent s b).pwr = s.pwr := by rw [pwrEvent_only s b]; rfl
@[simp] theorem pwrEvent_pins (s : State) (b : Nat) : (pwrEvent s b).pins = s.pins := by rw [pwrEvent_only s b]; rfl
@[simp] theorem pwrEvent_boot (s : State) (b : Nat) : (pwrEvent s b).boot = s.boot := by rw [pwrEvent_only s b]; rfl
@[simp] theorem pwrEvent_com (s : State) (b : Nat) : (pwrEvent s b).com = s.com := by rw [pwrEvent_only s b]; rfl
@[simp] theorem pwrEvent_rings (s : State) (b : Nat) : (pwrEvent s b).rings = s.rings := by rw [pwrEvent_only s b]; rfl
@[simp] theorem pwrEvent_ctxs (s : State) (b : Nat) : (pwrEvent s b).ctxs = s.ctxs := by rw [pwrEvent_only s b]; rfl

theorem pwrEvent_reg (s : State) (b k : Nat) : (pwrEvent s b).reg k = (s.setBits kPwrIrq (2 ^ b)).reg k := by rw [pwrEvent_only s b]; rfl

/-- The WAKE bit is set: a word with it is not the reset value, so the table lists it. -/
theorem pwrEvent_wake_bit (s : State) : (pwrEvent s 17).reg kPwrIrq = s.reg kPwrIrq ||| 0x20000#32 := by
  rw [pwrEvent_reg]
  refine tblGet_tblSet_of_ne _ _ _ fun h => ?_
  have hreset : regReset kPwrIrq = 0#32 := by decide +kernel
  have hbit := congrArg (BitVec.getLsbD · 17) (h.trans hreset)
  simp at hbit

/-! ### Requests (R465, R466) -/

variable {t : PwrState}

theorem pwrRequest_busy (h : pwrBusy s = true) : pwrRequest s t = s := if_pos h

theorem pwrRequest_present (h : pwrBusy s = false) (ht : t = s.pwr.state) :
    pwrRequest s t = { s with pwr := { s.pwr with result := .ok, reason := 0, refuser := 0 } } := by
  rw [pwrRequest, if_neg (by simp [h]), if_pos ht]
  rfl

theorem pwrRequest_notD3 (h : pwrBusy s = false) (hne : t ≠ s.pwr.state) (ht : t = .fallow) (hd3 : (s.fn 0).d3 = false) :
    pwrRequest s t = { s with pwr := { s.pwr with result := .notReady, reason := 1, refuser := 0 } } := by
  rw [pwrRequest, if_neg (by simp [h]), if_neg hne, if_pos ⟨ht, hd3⟩]
  rfl

/-- Fallow is the deepest state. -/
theorem PwrState.depth_le_fallow (t : PwrState) : t.depth ≤ PwrState.fallow.depth := by cases t <;> decide

theorem pwrRequest_shallower (h : pwrBusy s = false) (hd : t.depth < s.pwr.state.depth) : pwrRequest s t = wakeAny s := by
  have hne : t ≠ s.pwr.state := fun e => by rw [e] at hd; omega
  have hfallow : t ≠ .fallow := fun e => by have := PwrState.depth_le_fallow s.pwr.state; rw [e] at hd; omega
  rw [pwrRequest, if_neg (by simp [h]), if_neg hne, if_neg (fun e => hfallow e.1), if_pos hd]

theorem pwrRequest_deeper (h : pwrBusy s = false) (hd : s.pwr.state.depth < t.depth) (hd3 : t = .fallow → (s.fn 0).d3 = true) :
    pwrRequest s t = { s with pwr := { s.pwr with shake := some (t, []), reason := 0, refuser := 0 } } := by
  have hne : t ≠ s.pwr.state := fun e => by rw [e] at hd; omega
  have hallowed : ¬(t = .fallow ∧ (s.fn 0).d3 = false) := fun ⟨ht, hf⟩ => by rw [hd3 ht] at hf; cases hf
  rw [pwrRequest, if_neg (by simp [h]), if_neg hne, if_neg hallowed, if_neg (by omega)]
  rfl

theorem autoHold_requests (h : s.regField (kBar0 0x24008) 0 1 = 1 ∧ s.pwr.state = .run) : autoHold s = pwrRequest s .hold := if_pos h

theorem autoHold_idle (h : ¬(s.regField (kBar0 0x24008) 0 1 = 1 ∧ s.pwr.state = .run)) : autoHold s = s := if_neg h

theorem powerRequest_early (n : Nat) (h : s.boot.step < 10) : powerRequest s n = s := if_pos h

theorem powerRequest_answers {n : Nat} {w : State} (h : 10 ≤ s.boot.step) (h0 : n = 0 → w = pwrRequest s .run)
    (h1 : n = 1 → w = pwrRequest s .hold) (h2 : n = 2 → w = pwrRequest s .nap) (h3 : n = 3 → w = pwrRequest s .fallow)
    (hnone : 3 < n → w = s) :
    powerRequest s n = { w with reply := [BitVec.ofNat 8 (statusCode w.pwr.result)], replyPoison := false } := by
  unfold powerRequest
  rw [if_neg (by omega)]
  match n with
  | 0 => rw [h0 rfl]; rfl
  | 1 => rw [h1 rfl]; rfl
  | 2 => rw [h2 rfl]; rfl
  | 3 => rw [h3 rfl]; rfl
  | n + 4 => rw [hnone (by omega)]; rfl

/-! ### The entry handshake (R467, R468) -/

theorem mem_setIns {l : List Nat} {k q : Nat} : q ∈ setIns l k ↔ q = k ∨ q ∈ l := by
  induction l with
  | nil => simp [setIns]
  | cons j l ih =>
    unfold setIns
    split
    next h => simp [h]
    next =>
      split
      · simp
      · rw [List.mem_cons, ih, List.mem_cons]
        exact or_left_comm

/-- What an answer that counts does. -/
def shakeAnswered (s : State) (t : PwrState) (acc : List Nat) (p : Nat) : HsAnswer → State
  | .delay => s
  | .refuse => abandonShake s 1 p
  | .accept => acceptShake s t acc p

theorem handshakeAnswer_idle (p : Nat) (x : HsAnswer) (h : s.pwr.shake = none) : handshakeAnswer s p x = s := by
  rw [handshakeAnswer, h]

theorem handshakeTimeout_idle (h : s.pwr.shake = none) : handshakeTimeout s = s := by
  rw [handshakeTimeout, h]

section

variable {acc : List Nat} {p : Nat} {x : HsAnswer} (h : s.pwr.shake = some (t, acc))

include h

theorem handshakeAnswer_outside (hp : p ∉ participants t ∨ p ∈ acc) : handshakeAnswer s p x = s := by
  rw [handshakeAnswer, h]
  exact if_pos (by simpa using hp)

/-- Log entry 55: an answer other than the one that the state of the module makes does not count. -/
theorem handshakeAnswer_untrue {y : HsAnswer} (hy : partAnswer s t p = some y) (hne : x ≠ y) : handshakeAnswer s p x = s := by
  rw [handshakeAnswer, h]
  dsimp only
  split
  · rfl
  · rw [hy, if_pos (by simp [hne])]

theorem handshakeAnswer_counts (hp : p ∈ participants t) (hacc : p ∉ acc)
    (htrue : partAnswer s t p = some x ∨ (partAnswer s t p = none ∧ x ≠ .refuse)) :
    handshakeAnswer s p x = shakeAnswered s t acc p x := by
  rw [handshakeAnswer, h]
  dsimp only
  rw [if_neg (by simp [hp, hacc])]
  rcases htrue with ha | ⟨ha, hx⟩
  · rw [ha, if_neg (by simp)]
    cases x <;> rfl
  · rw [ha, if_neg (by simp [hx])]
    cases x <;> rfl

theorem handshakeTimeout_refuses (hp : (participants t).find? (fun q => !acc.contains q) = some p) :
    handshakeTimeout s = { s with pwr := { s.pwr with shake := none, result := .notReady, reason := 2, refuser := p } } := by
  rw [handshakeTimeout, h]
  dsimp only
  rw [hp]
  rfl

end

theorem acceptShake_last {acc : List Nat} {p : Nat} (h : ∀ q ∈ participants t, q ∈ acc ∨ q = p) :
    acceptShake s t acc p = { s with pwr := { s.pwr with shake := none, moving := some t } } := by
  refine if_pos (List.all_eq_true.2 fun q hq => ?_)
  rw [List.contains_iff_mem, mem_setIns]
  exact (h q hq).symm

theorem acceptShake_more {acc : List Nat} {p : Nat} (h : ∃ q ∈ participants t, q ∉ acc ∧ q ≠ p) :
    acceptShake s t acc p = { s with pwr := { s.pwr with shake := some (t, setIns acc p) } } := by
  obtain ⟨q, hq, hacc, hne⟩ := h
  refine if_neg fun hall => ?_
  have hmem := List.all_eq_true.1 hall q hq
  rw [List.contains_iff_mem, mem_setIns] at hmem
  exact hmem.elim hne hacc

/-! ### The end of a transition (R470) -/

theorem stateReached_pwr (s : State) (t : PwrState) : (stateReached s t).pwr
    = { s.pwr with state := t, moving := none, shake := none, result := .ok, reason := 0, refuser := 0 } := pwrEvent_pwr _ _
theorem stateReached_boot (s : State) (t : PwrState) : (stateReached s t).boot = s.boot := pwrEvent_boot _ _
theorem stateReached_rings (s : State) (t : PwrState) : (stateReached s t).rings = s.rings := pwrEvent_rings _ _
theorem stateReached_ctxs (s : State) (t : PwrState) : (stateReached s t).ctxs = s.ctxs := pwrEvent_ctxs _ _
theorem stateReached_com (s : State) (t : PwrState) : (stateReached s t).com = s.com := pwrEvent_com _ _

theorem serveWake_none (h : s.pwr.wake = false) : serveWake s = s := if_neg (by simp [h])

theorem fallowEntered_off (s : State) (keep : Bool) : (fallowEntered s keep).pwr.state = .fallow ∧ (fallowEntered s keep).pwr.moving = none
    ∧ (fallowEntered s keep).pwr.keepLoft = keep ∧ (fallowEntered s keep).boot.step = 0 ∧ (fallowEntered s keep).aclk = [] := by
  cases keep <;> exact ⟨rfl, rfl, rfl, rfl, rfl⟩

theorem fallowEntered_wake (s : State) (keep : Bool) : (fallowEntered s keep).pwr.wake = s.pwr.wake := by cases keep <;> rfl
theorem fallowEntered_result (s : State) (keep : Bool) : (fallowEntered s keep).pwr.result = s.pwr.result := by cases keep <;> rfl
theorem fallowEntered_pins (s : State) (keep : Bool) : (fallowEntered s keep).pins = s.pins := by cases keep <;> rfl

theorem powerTransitionDone_still (h : s.pwr.moving = none) : powerTransitionDone s = s := by
  rw [powerTransitionDone, h]

theorem powerTransitionDone_leavesFallow (h : s.pwr.moving = some .run) (hst : s.pwr.state = .fallow) : powerTransitionDone s = s := by
  rw [powerTransitionDone, h]
  exact if_pos hst

theorem powerTransitionDone_run (h : s.pwr.moving = some .run) (hst : s.pwr.state ≠ .fallow) :
    powerTransitionDone s = stateReached s .run := by
  rw [powerTransitionDone, h]
  exact if_neg hst

theorem powerTransitionDone_hold (h : s.pwr.moving = some .hold) (hw : s.pwr.wake = false) :
    powerTransitionDone s = stateReached s .hold := by
  rw [powerTransitionDone, h]
  exact serveWake_none (by rw [stateReached_pwr, hw])

theorem powerTransitionDone_nap (h : s.pwr.moving = some .nap) (hw : s.pwr.wake = false) :
    powerTransitionDone s = sensorsOff (stateReached s .nap) (· < 64) := by
  rw [powerTransitionDone, h]
  exact serveWake_none (show (stateReached s .nap).pwr.wake = false by rw [stateReached_pwr, hw])

theorem powerTransitionDone_fallow (h : s.pwr.moving = some .fallow) (hw : s.pwr.wake = false) :
    powerTransitionDone s = fallowEntered (stateReached s .fallow) (s.regField (kBar0 0x24008) 13 1 == 1) := by
  rw [powerTransitionDone, h]
  exact serveWake_none (by rw [fallowEntered_wake, stateReached_pwr, hw])

/-! ### Commands -/

section

variable (hup : s.up = true)

include hup

theorem exec_autoHold : exec .autoHold s = .next (watch (autoHold s)) := hub_up hup
theorem exec_powerRequest (n : Nat) : exec (.powerRequest n) s = .next (watch (powerRequest s n)) := hub_up hup
theorem exec_handshakeAnswer (p : Nat) (x : HsAnswer) : exec (.handshakeAnswer p x) s = .next (watch (handshakeAnswer s p x)) := hub_up hup
theorem exec_handshakeTimeout : exec .handshakeTimeout s = .next (watch (handshakeTimeout s)) := hub_up hup
theorem exec_powerTransitionDone : exec .powerTransitionDone s = .next (watch (powerTransitionDone s)) := hub_up hup

end

/-- R470: a transition to `t` that needs no more than STATE_DONE. -/
theorem powerTransitionDone_reaches {u : State} (hup : s.up = true) (hu : powerTransitionDone s = u) (hpwr : u.pwr = (stateReached s t).pwr)
    (hrings : u.rings = s.rings) (hcom : u.com = s.com) :
    Ends (exec .powerTransitionDone s) (fun v => v.pwr
      = { s.pwr with state := t, moving := none, shake := none, result := .ok, reason := 0, refuser := 0 } ∧ v.rings = s.rings
      ∧ v.com = s.com) := by
  refine ⟨_, exec_powerTransitionDone hup, ?_⟩
  beta_reduce
  rw [watch_pwr, watch_rings, watch_com, hu, hpwr, stateReached_pwr]
  exact ⟨rfl, hrings, hcom⟩

/-- Settles O52: a request by the lemma of its case, the handshake by who answers and what (log entry 55), a transition by its target. -/
theorem powerStateRequestsAndEntry : Obligations.PowerStateRequestsAndEntry := by
  unfold Obligations.PowerStateRequestsAndEntry
  refine fun s => ⟨fun t => ⟨pwrRequest_busy, pwrRequest_present, pwrRequest_notD3, pwrRequest_shallower, pwrRequest_deeper⟩,
    fun hup => ⟨fun a u hr hu => ?requests, fun h => ?holdAuto, fun h => ?noHold, fun n w => ⟨fun h => ?early, ?answered⟩,
      fun h => ⟨fun p x => ?noShake, ?noTimeout⟩,
      fun t acc h => ⟨fun p x => ⟨fun hp => ?outside, fun y hy hne => ?untrue, fun hp hacc htrue => ?counts⟩, fun p hp => ?timeout⟩,
      fun h => ?still, fun h hst => ?leaves, fun h hst => ?run, fun x hx h hw => ?hold, fun h hw => ?fallow⟩⟩
  case requests =>
    subst hu
    exact ⟨hub_viaBar0 hup hr, hub_viaBar0 hup hr, hub_viaBar0 hup hr⟩
  case holdAuto => rw [exec_autoHold hup, autoHold_requests h]
  case noHold => rw [exec_autoHold hup, autoHold_idle h]
  case early => rw [exec_powerRequest hup, powerRequest_early n h]
  case answered =>
    rintro h ⟨h0, h1, h2, h3, hnone⟩
    rw [exec_powerRequest hup, powerRequest_answers h h0 h1 h2 h3 hnone]
  case noShake => rw [exec_handshakeAnswer hup, handshakeAnswer_idle p x h]
  case noTimeout => rw [exec_handshakeTimeout hup, handshakeTimeout_idle h]
  case outside => rw [exec_handshakeAnswer hup, handshakeAnswer_outside h hp]
  case untrue => rw [exec_handshakeAnswer hup, handshakeAnswer_untrue h hy hne]
  case counts =>
    rw [exec_handshakeAnswer hup, handshakeAnswer_counts h hp hacc htrue]
    refine ⟨?_, ?_, ?_, ?_⟩
    · rintro rfl
      rfl
    · rintro rfl
      rfl
    · rintro rfl hall
      rw [shakeAnswered, acceptShake_last hall]
    · rintro rfl hmore
      rw [shakeAnswered, acceptShake_more hmore]
  case timeout => rw [exec_handshakeTimeout hup, handshakeTimeout_refuses h hp]
  case still => rw [exec_powerTransitionDone hup, powerTransitionDone_still h]
  case leaves => rw [exec_powerTransitionDone hup, powerTransitionDone_leavesFallow h hst]
  case run =>
    exact powerTransitionDone_reaches hup (powerTransitionDone_run h hst) rfl (stateReached_rings s _) (stateReached_com s _)
  case hold =>
    rcases hx with rfl | rfl
    · exact powerTransitionDone_reaches hup (powerTransitionDone_hold h hw) rfl (stateReached_rings s _) (stateReached_com s _)
    · exact powerTransitionDone_reaches hup (powerTransitionDone_nap h hw) rfl (stateReached_rings s _) (stateReached_com s _)
  case fallow =>
    refine ⟨_, exec_powerTransitionDone hup, ?_⟩
    beta_reduce
    rw [watch_pwr, watch_boot, watch_aclk, powerTransitionDone_fallow h hw]
    obtain ⟨hstate, hmoving, hkeep, hstep, haclk⟩ := fallowEntered_off (stateReached s .fallow) (s.regField (kBar0 0x24008) 13 1 == 1)
    exact ⟨hstate, hmoving, by rw [fallowEntered_result, stateReached_pwr], hkeep, hstep, haclk⟩

end Sys2Proof.Machine
end

section
/-! SUPPORT. Wake events and the comparator (R468, R469, R471, R478, R480, R505, R536): which event of a source counts, and what it wakes. -/

namespace Sys2Proof.Machine

open Sys2Proof

variable {s : State}

/-! ### What an event wakes -/

theorem wakeAny_leaving (h : s.pwr.moving = some .run) : wakeAny s = s := by
  rw [wakeAny, h]

theorem wakeAny_entering {x : PwrState} (h : s.pwr.moving = some x) (hx : x ≠ .run) :
    wakeAny s = pwrEvent (s.setPwr { s.pwr with wake := true }) 17 := by
  rw [wakeAny, h]
  cases x with
  | run => exact absurd rfl hx
  | hold => rfl
  | nap => rfl
  | fallow => rfl

/-- R468: a handshake in progress is abandoned with reason 2. -/
def shakeAbandoned (s : State) : State := if s.pwr.shake.isSome then abandonShake s 2 0 else s

theorem shakeAbandoned_none (h : s.pwr.shake = none) : shakeAbandoned s = s := if_neg (by simp [h])
theorem shakeAbandoned_some (h : s.pwr.shake ≠ none) : shakeAbandoned s = abandonShake s 2 0 := if_pos (Option.isSome_iff_ne_none.2 h)
theorem shakeAbandoned_state (s : State) : (shakeAbandoned s).pwr.state = s.pwr.state := by
  unfold shakeAbandoned
  split <;> rfl

/-- Without a transition the state decides, then the handshake. -/
theorem wakeAny_still (h : s.pwr.moving = none) : wakeAny s =
    if (shakeAbandoned s).pwr.state != .run
    then pwrEvent ((shakeAbandoned s).setPwr { (shakeAbandoned s).pwr with moving := some .run, wake := false }) 17
    else if s.pwr.shake.isSome then pwrEvent (shakeAbandoned s) 17 else shakeAbandoned s := by
  rw [wakeAny, h]
  rfl

theorem wakeAny_asleep (h : s.pwr.moving = none) (hst : s.pwr.state ≠ .run) :
    wakeAny s = pwrEvent ((shakeAbandoned s).setPwr { (shakeAbandoned s).pwr with moving := some .run, wake := false }) 17 := by
  rw [wakeAny_still h, shakeAbandoned_state, if_pos (by simpa using hst)]

theorem wakeAny_shaking (h : s.pwr.moving = none) (hst : s.pwr.state = .run) (hsh : s.pwr.shake ≠ none) :
    wakeAny s = pwrEvent (abandonShake s 2 0) 17 := by
  rw [wakeAny_still h, shakeAbandoned_state, if_neg (by simp [hst]), if_pos (Option.isSome_iff_ne_none.2 hsh), shakeAbandoned_some hsh]

theorem wakeAny_awake (h : s.pwr.moving = none) (hst : s.pwr.state = .run) (hsh : s.pwr.shake = none) : wakeAny s = s := by
  rw [wakeAny_still h, shakeAbandoned_state, if_neg (by simp [hst]), if_neg (by simp [hsh]), shakeAbandoned_none hsh]

/-- R468, R469, R479: after an event that changes the power state to `p`: PWR_IRQ shows WAKE. -/
theorem wakeAny_event {u : State} {p : Power} (h : wakeAny s = pwrEvent u 17) (hpwr : u.pwr = p) (hreg : u.reg kPwrIrq = s.reg kPwrIrq) :
    (wakeAny s).pwr = p ∧ (wakeAny s).reg kPwrIrq = s.reg kPwrIrq ||| 0x20000#32 := by
  rw [h, pwrEvent_pwr, hpwr, pwrEvent_wake_bit, hreg]
  exact ⟨rfl, rfl⟩

/-! ### Which event counts -/

section

variable {k : Nat}

/-- R469, R478: the event of a source counts. -/
def WakeCounts (s : State) (k : Nat) : Prop :=
  s.regField kWakeCfg (20 + k) 1 ≠ 0 ∧ wakeMatters s k = true ∧ (s.pwr.tripped = true → k = 2 ∧ cooled s = true)

theorem wakeSource_ignored
    (h : s.regField kWakeCfg (20 + k) 1 = 0 ∨ wakeMatters s k = false ∨ (s.pwr.tripped = true ∧ (k ≠ 2 ∨ cooled s = false))) :
    wakeSource s k = s := if_pos h

theorem WakeCounts.not_ignored (h : WakeCounts s k) :
    ¬(s.regField kWakeCfg (20 + k) 1 = 0 ∨ wakeMatters s k = false ∨ (s.pwr.tripped = true ∧ (k ≠ 2 ∨ cooled s = false))) := by
  obtain ⟨hen, hmatters, htrip⟩ := h
  rintro (h0 | hno | ⟨ht, hk | hhot⟩)
  · exact hen h0
  · rw [hmatters] at hno
    cases hno
  · exact hk (htrip ht).1
  · rw [(htrip ht).2] at hhot
    cases hhot

theorem wakeSource_counts (h : WakeCounts s k) : wakeSource s k = if s.pwr.state = .fallow ∧ s.pwr.moving = none ∧ s.pins.perst = true
    then { s.setBits kWakeCause (2 ^ k) with pins := { s.pins with wakeN := s.pins.wakeN || (s.fn 0).pme } }
    else wakeAny (s.setBits kWakeCause (2 ^ k)) := if_neg h.not_ignored

end

/-! ### Commands -/

section

variable (haux : s.pins.aux = true)

include haux

theorem exec_wakeEvent {k : Nat} (h : k ≤ 4) : exec (.wakeEvent k) s = .next (watch (wakeSource s k)) :=
  (aon_on haux).trans (by rw [if_pos (by omega)])

theorem exec_wakeEvent_noSource {k : Nat} (h : 4 < k) : exec (.wakeEvent k) s = .next (watch s) :=
  (aon_on haux).trans (by rw [if_neg (by omega)])

theorem exec_sidebandWake : exec .sidebandWake s = .next (watch (wakeSource s 2)) := aon_on haux
theorem exec_compTrip : exec .compTrip s = .next (watch (compTrip s)) := aon_on haux
theorem exec_compRearm : exec .compRearm s = .next (watch (compRearm s)) := aon_on haux

end

theorem compTrip_disarmed (h : s.pwr.armed = false) : compTrip s = s := if_pos (by simp [h])

theorem compTrip_armed (h : s.pwr.armed = true) : compTrip s = wakeSource
    ((({ s with pwr := { s.pwr with armed := false } } : State).setBits kWakeCause 1).bump16 (kBar0 0x24018) 1) 0 := if_neg (by simp [h])

/-- Settles O53: a source's event by whether it counts (`wakeSource_ignored`, `wakeSource_counts`), and a wake by the transition, the state
and the handshake that it finds. -/
theorem wakeEventsAndTheComparator : Obligations.WakeEventsAndTheComparator := by
  unfold Obligations.WakeEventsAndTheComparator
  refine fun s => ⟨fun haux => ⟨fun k hk => exec_wakeEvent_noSource haux hk, fun k hk => exec_wakeEvent haux hk, exec_sidebandWake haux,
      fun h => ?disarmed, fun u h hu => ?armed, exec_compRearm haux⟩,
    fun a u v hup hr hu => ?wakeCfg, fun k => ⟨wakeSource_ignored, fun hen hmatters htrip w hw => ?counts⟩, wakeAny_leaving,
    fun x h hx => wakeAny_event (wakeAny_entering h hx) rfl rfl, fun h hst hsh => ?asleep, fun h hst hsh => ?asleepShaking,
    fun h hst hsh => wakeAny_event (wakeAny_shaking h hst hsh) rfl rfl, wakeAny_awake⟩
  case disarmed => rw [exec_compTrip haux, compTrip_disarmed h]
  case armed =>
    subst hu
    rw [exec_compTrip haux, compTrip_armed h]
  case wakeCfg =>
    subst hu
    exact hub_viaBar0 hup hr
  case counts =>
    subst hw
    have hsource := wakeSource_counts ⟨hen, hmatters, htrip⟩
    exact ⟨fun hperst => hsource.trans (if_pos hperst), fun hperst => hsource.trans (if_neg hperst)⟩
  case asleep =>
    have hwake := wakeAny_asleep h hst
    rw [shakeAbandoned_none hsh] at hwake
    exact wakeAny_event hwake rfl rfl
  case asleepShaking =>
    have hwake := wakeAny_asleep h hst
    rw [shakeAbandoned_some hsh] at hwake
    exact wakeAny_event hwake rfl rfl

end Sys2Proof.Machine
end

section
/-! SUPPORT. Clocks, phases, the power budget and temperatures (R463, R473 to R479, R495): what each row of sampled values records, and
when it acts. -/

namespace Sys2Proof.Machine

open Sys2Proof

variable {s : State}

/-! ### What leaves the power state (R479, R500, R501) -/

/-- A notice: its bit, and what its vector signals. -/
theorem notice_only (s : State) (b : Nat) : OnlySignals (s.setBits (kBar0 0x28000) (2 ^ b)) (notice s b) := signalModule_only _ _

@[simp] theorem notice_pwr (s : State) (b : Nat) : (notice s b).pwr = s.pwr := by rw [notice_only s b]; rfl

@[simp] theorem spareNotice_pwr (s : State) (n : Nat) : (spareNotice s n).pwr = s.pwr := by
  unfold spareNotice
  split
  · exact notice_pwr s 1
  · split
    · exact notice_pwr s 2
    · rfl

@[simp] theorem logEntry_pwr (s : State) (cls unit st ctx loc : Nat) : (logEntry s cls unit st ctx loc).pwr = s.pwr := by
  unfold logEntry
  dsimp only
  split
  · split
    · rfl
    · split
      · exact notice_pwr s 5
      · rfl
  · rfl

@[simp] theorem markRetired_pwr (s : State) (k unit : Nat) : (markRetired s k unit).pwr = s.pwr := by
  unfold markRetired
  rw [logEntry_pwr, notice_pwr]

/-- What every round of a fold keeps, the fold keeps. -/
theorem foldl_keeps {α β γ : Type} {f : β → α → β} (g : β → γ) (h : ∀ b a, g (f b a) = g b) (l : List α) (b : β) :
    g (l.foldl f b) = g b :=
  List.foldlRecOn l f (motive := fun c => g c = g b) rfl fun c hc a _ => (h c a).trans hc

/-! ### ACLK (R463) -/

theorem adjustDie_phases (s : State) (d : Nat) : (adjustDie s d).pwr.phases = s.pwr.phases := by
  unfold adjustDie
  dsimp only
  split <;> rfl

theorem adjustDie_granted (s : State) (d : Nat) : (adjustDie s d).pwr.granted = s.pwr.granted := by
  unfold adjustDie
  dsimp only
  split <;> rfl

theorem aclkSlewDone_none {d : Nat} (h : (s.die d).rising = none) : aclkSlewDone s d = s := by
  rw [aclkSlewDone, h]

theorem aclkSlewDone_allowed {d f : Nat} (h : (s.die d).rising = some f) (hf : f ≤ aclkTarget s d) :
    aclkSlewDone s d = { s with aclk := tblSet 1200 s.aclk d f }.setDie d { s.die d with rising := none } := by
  rw [aclkSlewDone, h]
  exact if_pos hf

theorem aclkSlewDone_lowered {d f : Nat} (h : (s.die d).rising = some f) (hf : aclkTarget s d < f) : aclkSlewDone s d = adjustDie s d := by
  rw [aclkSlewDone, h]
  exact if_neg (by omega)

/-! ### Phases (R473 to R475) -/

/-- R473: the currents recorded of the phases in service. -/
def ampsRecorded (s : State) (amps : List Nat) : State :=
  (amps.zip (List.range 160)).foldl (fun u e => if (u.phase e.2).st ≤ 1 then u.setPhase e.2 { u.phase e.2 with amps := e.1 } else u) s

/-- R474: the phases reported as faulty, and those in service above 50 A. -/
theorem phaseSample_eq (amps bad : List Nat) : phaseSample s amps bad = ((List.range 160).filter (fun i => bad.contains i
    || (amps.zip (List.range 160)).any (fun e => e.2 == i && decide (500 < e.1) && decide (((ampsRecorded s amps).phase i).st ≤ 1)))).foldl
      retirePhase (ampsRecorded s amps) := by
  have hhot : ∀ i, (((amps.zip (List.range 160)).filter
        (fun e => decide (500 < e.1) && decide (((ampsRecorded s amps).phase e.2).st ≤ 1))).map (·.2)).contains i
      = (amps.zip (List.range 160)).any (fun e => e.2 == i && decide (500 < e.1) && decide (((ampsRecorded s amps).phase i).st ≤ 1)) := by
    intro i
    rw [Bool.eq_iff_iff, List.contains_iff_mem, List.any_eq_true]
    simp only [List.mem_map, List.mem_filter, Bool.and_eq_true, decide_eq_true_eq, beq_iff_eq]
    constructor
    · rintro ⟨e, ⟨he, hamps, hst⟩, rfl⟩
      exact ⟨e, he, ⟨rfl, hamps⟩, hst⟩
    · rintro ⟨e, he, ⟨rfl, hamps⟩, hst⟩
      exact ⟨e, ⟨he, hamps, hst⟩, rfl⟩
  unfold phaseSample
  simp only [← hhot]
  rfl

theorem sparePhaseSwitched_complete {r : Nat} (h : 52 ≤ r ∨ railBuilt r ≤ (railPhases s r).length) : sparePhaseSwitched s r = s := if_pos h

/-- R475 step 2: the rail has taken its spare, if one was free. -/
def spareTaken (s : State) (r : Nat) : State :=
  match spareFor s r with
  | some i => spareNotice (s.setPhase i { st := 0, rail := r, amps := 0 }) ((freePhases s).length - 1)
  | none => s

/-- R475: a rail that is complete again is as at reset; step 3 applies to another. -/
def railServed (s : State) (r : Nat) : State := if railBuilt r ≤ (railPhases s r).length then s.setRail r RailSt.reset else railStep3 s r

theorem spareTaken_of {r : Nat} {w : State} (h : ∀ i, spareFor s r = some i →
      w = spareNotice (s.setPhase i { st := 0, rail := r, amps := 0 }) ((freePhases s).length - 1))
    (hnone : spareFor s r = none → w = s) : w = spareTaken s r := by
  unfold spareTaken
  split
  next i hi => exact h i hi
  next hi => exact hnone hi

theorem sparePhaseSwitched_eq {r : Nat} (hr : r < 52) (hlt : (railPhases s r).length < railBuilt r) : sparePhaseSwitched s r =
    if r < 32 then adjustDie (railServed (spareTaken s r) r) (r % 16) else railServed (spareTaken s r) r := by
  unfold sparePhaseSwitched
  rw [if_neg (by omega)]
  by_cases h : r < 32
  · have hdie : railDie r = some (r % 16) := if_pos h
    rw [if_pos h, hdie]
    rfl
  · have hdie : railDie r = none := if_neg h
    rw [if_neg h, hdie]
    rfl

theorem retirePhase_retired {i : Nat} (h : (s.phase i).st = 3) : retirePhase s i = s := if_pos h

theorem railStep1_phases (s : State) (r load : Nat) : (railStep1 s r load).pwr.phases = s.pwr.phases := by
  unfold railStep1
  split
  · rfl
  · split
    · rw [adjustDie_phases]
      rfl
    · rfl

theorem retirePhase_phases {i : Nat} (h : (s.phase i).st ≠ 3) :
    (retirePhase s i).pwr.phases = tblSet (PhaseSt.reset i) s.pwr.phases i { s.phase i with st := 3, amps := 0 } := by
  unfold retirePhase
  dsimp only
  rw [if_neg h]
  split
  · rw [spareNotice_pwr, pwrEvent_pwr, markRetired_pwr]
    rfl
  · rw [railStep1_phases, pwrEvent_pwr, markRetired_pwr]
    rfl

/-! ### The budget (R476, R477) -/

/-- R478: R477's hold is lifted, and every die's ceiling follows its temperature. -/
def dieCeilings (s : State) : State := (List.range 16).foldl (fun s d => thermStep (s.setDie d { s.die d with held := false }) d) s

/-- R476: below the budget nothing is halved. -/
def budgetEased (s : State) (inW : Nat) : State := if inW < budgetW s then s.setPwr { s.pwr with halved := false } else s

theorem budgetEvaluation_eq (s : State) (inW delivW : Nat) : budgetEvaluation s inW delivW =
    if !diesOn (budgetAccounts s inW delivW) then budgetAccounts s inW delivW
    else adjustDies (budgetAction (budgetEased (dieCeilings (budgetAccounts s inW delivW)) inW) inW) := by
  unfold budgetEvaluation dieCeilings budgetEased
  rfl

theorem budgetEvaluation_off {inW delivW : Nat} (h : diesOn (budgetAccounts s inW delivW) = false) :
    budgetEvaluation s inW delivW = budgetAccounts s inW delivW := by
  rw [budgetEvaluation_eq, if_pos (by simp [h])]

theorem budgetEvaluation_acts {inW delivW : Nat} (h : diesOn (budgetAccounts s inW delivW) = true) : budgetEvaluation s inW delivW =
    adjustDies (budgetAction (budgetEased (dieCeilings (budgetAccounts s inW delivW)) inW) inW) := by
  rw [budgetEvaluation_eq, if_neg (by simp [h])]

section

variable {inW : Nat}

theorem budgetAction_grants {d : Nat} (h : grantee s inW = some d) :
    (budgetAction s inW).pwr.granted = d :: s.pwr.granted ∧ (budgetAction s inW).pwr.lastDie = d := by
  rw [budgetAction, h]
  exact ⟨rfl, rfl⟩

variable (h : grantee s inW = none)

include h

theorem budgetAction_revokes {d : Nat} {l : List Nat} (hover : budgetW s < inW) (hg : s.pwr.granted = d :: l) :
    budgetAction s inW = revokeSprint s d := by
  rw [budgetAction, h]
  dsimp only
  rw [if_pos hover, hg]

theorem budgetAction_halves (hover : budgetW s < inW) (hg : s.pwr.granted = []) (hfloor : ∀ d < 16, (s.die d).ceil ≤ 600) :
    budgetAction s inW = s.setPwr { s.pwr with halved := true } := by
  have hall : (List.range 16).all (fun d => decide ((s.die d).ceil ≤ 600)) = true :=
    List.all_eq_true.2 fun d hd => decide_eq_true (hfloor d (List.mem_range.1 hd))
  rw [budgetAction, h]
  dsimp only
  rw [if_pos hover, hg]
  exact if_pos hall

theorem budgetAction_lowers (hover : budgetW s < inW) (hg : s.pwr.granted = []) (habove : ∃ d < 16, 600 < (s.die d).ceil) :
    budgetAction s inW = setCeilings s (fun c => max 600 (c - 25)) := by
  obtain ⟨d, hd, hceil⟩ := habove
  have hall : ¬(List.range 16).all (fun d => decide ((s.die d).ceil ≤ 600)) = true := fun hall => by
    have := of_decide_eq_true (List.all_eq_true.1 hall d (List.mem_range.2 hd))
    omega
  rw [budgetAction, h]
  dsimp only
  rw [if_pos hover, hg]
  exact if_neg hall

theorem budgetAction_raises (hfar : inW + 100 ≤ budgetW s) :
    budgetAction s inW = setCeilings s (fun c => min 1200 (c + 25)) := by
  rw [budgetAction, h]
  exact (if_neg (by omega)).trans (if_pos hfar)

theorem budgetAction_rests (hbelow : inW ≤ budgetW s) (hnear : budgetW s < inW + 100) : budgetAction s inW = s := by
  rw [budgetAction, h]
  exact (if_neg (by omega)).trans (if_neg (by omega))

end

/-- R477: revoking each of some grants leaves the others. -/
theorem foldl_revokeSprint_granted (l : List Nat) (s : State) :
    (l.foldl revokeSprint s).pwr.granted = s.pwr.granted.filter (fun j => decide (j ∉ l)) := by
  induction l generalizing s with
  | nil => simp
  | cons d l ih =>
    have hd : (revokeSprint s d).pwr.granted = s.pwr.granted.filter (fun j => decide (j ≠ d)) := rfl
    rw [List.foldl_cons, ih, hd, List.filter_filter]
    refine List.filter_congr fun j _ => ?_
    simp only [List.mem_cons, not_or, Bool.decide_and, Bool.and_comm]

/-- R477: a die holds at the rated point. -/
def holdDie (s : State) (d : Nat) : State := s.setDie d { s.die d with held := true }

theorem holdDie_granted (s : State) (d : Nat) : (holdDie s d).pwr.granted = s.pwr.granted := rfl

theorem adjustDies_granted (s : State) : (adjustDies s).pwr.granted = s.pwr.granted := by
  unfold adjustDies
  exact foldl_keeps (f := adjustDie) (fun t : State => t.pwr.granted) adjustDie_granted _ s

theorem inputOvercurrent_granted (s : State) : (inputOvercurrent s).pwr.granted = [] := by
  have heq : inputOvercurrent s = adjustDies ((List.range 16).foldl holdDie (s.pwr.granted.foldl revokeSprint s)) := rfl
  have hheld := foldl_keeps (fun t : State => t.pwr.granted) holdDie_granted (List.range 16) (s.pwr.granted.foldl revokeSprint s)
  rw [heq, adjustDies_granted]
  refine hheld.trans ?_
  rw [foldl_revokeSprint_granted]
  exact List.filter_eq_nil_iff.2 fun j hj => by simpa using hj

/-! ### Temperatures (R478, R495) -/

section

variable {i : Nat}

theorem sensorSample_noSensor (v : Option Nat) (h : 312 ≤ i) : sensorSample s i v = s := if_pos h

theorem sensorSample_invalid_off (h : i < 312) (hoff : sensorOff s i = true) :
    sensorSample s i none = s.setSensor i { s.sensor i with valid := false, at_ := some s.time } := by
  rw [sensorSample, if_neg (by omega)]
  exact if_pos hoff

theorem sensorSample_invalid_on (h : i < 312) (hon : sensorOff s i = false) :
    sensorSample s i none = logEntry (s.setSensor i { s.sensor i with valid := false, at_ := some s.time }) 1 9 0 noCtx i := by
  rw [sensorSample, if_neg (by omega)]
  exact if_neg (show ¬sensorOff s i = true by simp [hon])

theorem sensorSample_off (v : Nat) (h : i < 312) (hoff : sensorOff s i = true) : sensorSample s i (some v) = s := by
  rw [sensorSample, if_neg (by omega)]
  exact if_pos hoff

theorem sensorSample_reads (v : Nat) (h : i < 312) (hon : sensorOff s i = false) : sensorSample s i (some v) =
    thermalSample ((bgUnit s 5).setSensor i { value := v % 65536, valid := true, at_ := some s.time }) i (reading s i)
      (BitVec.ofNat 16 v).toInt := by
  rw [sensorSample, if_neg (by omega)]
  exact if_neg (by simp [hon])

theorem tripSample_noSensor (v : Option Nat) (h : 312 ≤ i) : tripSample s i v = s := by
  cases v with
  | none => rfl
  | some w => exact if_neg (by omega)

theorem tripSample_reads (v : Nat) (h : i < 312) :
    tripSample s i (some v) = s.setSensor i { value := v % 65536, valid := true, at_ := some s.time } := if_pos h

variable {old : Option Int} {v thr crit trip : Int} (hl : sensorLimits s i = some (thr, crit, trip))

include hl

theorem thermalSample_trips (h : trip ≤ v) : thermalSample s i old v = thermalTrip s := by
  unfold thermalSample
  rw [hl]
  exact if_pos h

theorem thermalSample_below (hthr : v < thr) (hcrit : v < crit) (htrip : v < trip) : thermalSample s i old v = s := by
  unfold thermalSample
  rw [hl]
  dsimp only
  have hquiet : ¬(decide (thr ≤ v) && !(old.any (fun o => decide (thr ≤ o)))
      || decide (crit ≤ v) && !(old.any (fun o => decide (crit ≤ o)))) = true := by
    simp [hthr, hcrit]
  rw [if_neg (by omega), if_neg hquiet, if_neg (by simp [hcrit])]

end

/-- R478, R536: after a trip the module is in Fallow with Loft not kept, and THERMTRIP_N shows it. -/
theorem thermalTrip_off (s : State) : (thermalTrip s).pwr.state = .fallow ∧ (thermalTrip s).pwr.tripped = true
    ∧ (thermalTrip s).pwr.keepLoft = false ∧ (thermalTrip s).pins.thermtrip = true := by
  obtain ⟨hstate, -, hkeep, -, -⟩ := fallowEntered_off (pwrEvent { s with pins := { s.pins with thermtrip := true } } 19) false
  have hpins := (fallowEntered_pins (pwrEvent { s with pins := { s.pins with thermtrip := true } } 19) false).trans (pwrEvent_pins _ 19)
  exact ⟨hstate, rfl, hkeep, congrArg Pins.thermtrip hpins⟩

/-! ### Commands -/

section

variable (hup : s.up = true)

include hup

theorem exec_aclkSlewDone {d : Nat} (h : d < 16) : exec (.aclkSlewDone d) s = .next (watch (aclkSlewDone s d)) :=
  (hub_up hup).trans (by rw [if_pos h])

theorem exec_aclkSlewDone_idle {d : Nat} (h : 16 ≤ d ∨ (s.die d).rising = none) : exec (.aclkSlewDone d) s = .next (watch s) := by
  refine (hub_up hup).trans ?_
  rcases h with hd | hr
  · rw [if_neg (by omega)]
  · rw [aclkSlewDone_none hr, ite_self]

theorem exec_phaseSample (amps bad : List Nat) : exec (.phaseSample amps bad) s = .next (watch (phaseSample s amps bad)) := hub_up hup
theorem exec_sparePhaseSwitched (r : Nat) : exec (.sparePhaseSwitched r) s = .next (watch (sparePhaseSwitched s r)) := hub_up hup
theorem exec_budgetEvaluation (inW delivW : Nat) :
    exec (.budgetEvaluation inW delivW) s = .next (watch (budgetEvaluation s inW delivW)) := hub_up hup
theorem exec_inputOvercurrent : exec .inputOvercurrent s = .next (watch (inputOvercurrent s)) := hub_up hup

theorem exec_sensorSample (i : Nat) (v : Option Nat) (h : s.pwr.tripped = false) :
    exec (.sensorSample i v) s = .next (watch (sensorSample s i v)) :=
  (if_neg (by simp [h])).trans (hub_up hup)

end

theorem exec_sensorSample_tripped (i : Nat) (v : Option Nat) (h : s.pwr.tripped = true) (haux : s.pins.aux = true) :
    exec (.sensorSample i v) s = .next (watch (tripSample s i v)) :=
  (if_pos h).trans (aon_on haux)

/-- Settles O54: each row by the lemma of its case (log entries 56, 59, 66). -/
theorem clocksPhasesBudgetAndTemperatures : Obligations.ClocksPhasesBudgetAndTemperatures := by
  unfold Obligations.ClocksPhasesBudgetAndTemperatures
  refine fun s => ⟨fun hup => ⟨fun d => ⟨exec_aclkSlewDone_idle hup, fun f hd hf => ⟨fun hle => ?allowed, fun hlt => ?lowered⟩⟩,
      fun amps bad w l hw hl => ?phases,
      fun r => ⟨fun h => ?complete, fun hr hlt w v hw hv => ?spare⟩,
      fun inW delivW u hu => ⟨fun hoff => ?off, fun hon v w hv hw => ?evaluates⟩,
      ⟨_, exec_inputOvercurrent hup, inputOvercurrent_granted s⟩,
      fun htrip i => ⟨fun v hi => ?noSensor, fun u hi hu => ⟨fun hoff => ?invalidOff, fun hon => ?invalidOn⟩, fun v hi hoff => ?readOff,
        fun v u hi hon hu => ?readOn⟩⟩,
    fun htrip haux i => ⟨exec_sensorSample_tripped i none htrip haux, fun v hi => ?trippedNoSensor, fun v hi => ?trippedRead⟩,
    fun i => ⟨retirePhase_retired, retirePhase_phases⟩,
    fun inW => ⟨fun d => budgetAction_grants, fun d l hnone => budgetAction_revokes hnone,
      fun hnone hover hg hfloor => ?halved, budgetAction_lowers, fun hnone _ hfar => budgetAction_raises hnone hfar, budgetAction_rests⟩,
    fun i old v thr crit trip hl => ⟨fun h => ?trips, thermalSample_below hl⟩⟩
  case allowed => rw [exec_aclkSlewDone hup hd, aclkSlewDone_allowed hf hle]
  case lowered => rw [exec_aclkSlewDone hup hd, aclkSlewDone_lowered hf hlt]
  case phases =>
    have hrec : w = ampsRecorded s amps := hw
    rw [exec_phaseSample hup, phaseSample_eq, hl, hrec]
  case complete => rw [exec_sparePhaseSwitched hup, sparePhaseSwitched_complete h]
  case spare =>
    obtain ⟨hsome, hnone⟩ := hw
    rw [spareTaken_of hsome hnone] at hv
    have hserved : v = railServed (spareTaken s r) r := hv
    rw [exec_sparePhaseSwitched hup, sparePhaseSwitched_eq hr hlt, hserved]
    exact ⟨fun h => by rw [if_neg (by omega)], fun h => by rw [if_pos h]⟩
  case off =>
    subst hu
    rw [exec_budgetEvaluation hup, budgetEvaluation_off hoff]
  case evaluates =>
    subst hu
    have hceil : dieCeilings (budgetAccounts s inW delivW) = v := by rw [hv, dieCeilings]
    have heased : budgetEased v inW = w := by rw [hw, budgetEased]
    rw [exec_budgetEvaluation hup, budgetEvaluation_acts hon, hceil, heased]
  case noSensor => rw [exec_sensorSample hup i _ htrip, sensorSample_noSensor _ hi]
  case invalidOff => rw [exec_sensorSample hup i _ htrip, sensorSample_invalid_off hi hoff, hu]
  case invalidOn => rw [exec_sensorSample hup i _ htrip, sensorSample_invalid_on hi hon, hu]
  case readOff => rw [exec_sensorSample hup i _ htrip, sensorSample_off v hi hoff]
  case readOn => rw [exec_sensorSample hup i _ htrip, sensorSample_reads v hi hon, hu]
  case trippedNoSensor =>
    rw [exec_sensorSample_tripped i _ htrip haux, tripSample_noSensor v hi]
  case trippedRead => rw [exec_sensorSample_tripped i _ htrip haux, tripSample_reads v hi]
  case halved =>
    rw [budgetAction_halves hnone hover hg hfloor]
    rfl
  case trips =>
    rw [thermalSample_trips hl h]
    exact thermalTrip_off s

end Sys2Proof.Machine
end

section
/-! SUPPORT. Monitors, the error log and the time base (R497, R498, R501 to R503, R508, R509): what a write to their registers sets or
refuses, and what a read of the log's entry shows. -/

namespace Sys2Proof.Machine

open Sys2Proof

variable {s : State} {v : Word}

/-! ### WM_CFG, WM_SRC, WM_HI and WM_LO -/

theorem wmCfgWrite_disables (h : v.getLsbD 0 = false) : wmCfgWrite s v = s.setMon (wmSel s)
    { s.mon (wmSel s) with en := v.getLsbD 0, rise := v.getLsbD 1, fall := v.getLsbD 2, irq := v.getLsbD 3 } :=
  congrArg (s.setMon (wmSel s)) (if_neg (ne_true_of_eq_false h))

theorem wmCfgWrite_enables (h : v.getLsbD 0 = true) : wmCfgWrite s v = s.setMon (wmSel s)
    (Monitor.enable { s.mon (wmSel s) with en := v.getLsbD 0, rise := v.getLsbD 1, fall := v.getLsbD 2, irq := v.getLsbD 3 }
      (sourceValue s (s.mon (wmSel s)).kind (s.mon (wmSel s)).index)) :=
  congrArg (s.setMon (wmSel s)) (if_pos h)

section

variable {x : Monitor}

theorem wmSource_sets {n : Nat} (h : kindIndices (bits v.toNat 0 8) = some n) (hi : bits v.toNat 8 16 < n) :
    wmSource x v = { x with kind := bits v.toNat 0 8, index := bits v.toNat 8 16, afresh := x.en } := by
  unfold wmSource
  dsimp only
  rw [h]
  exact if_pos hi

theorem wmSource_noIndex {n : Nat} (h : kindIndices (bits v.toNat 0 8) = some n) (hi : n ≤ bits v.toNat 8 16) :
    wmSource x v = { x with err := true } := by
  unfold wmSource
  dsimp only
  rw [h]
  exact if_neg (by omega)

theorem wmSource_noKind (h : kindIndices (bits v.toNat 0 8) = none) : wmSource x v = { x with err := true } := by
  unfold wmSource
  dsimp only
  rw [h]

theorem wmLimits_sets {hi lo : Nat} (h : threshold x.kind lo < threshold x.kind hi) :
    wmLimits x hi lo = { x with hi := hi, lo := lo, afresh := x.en } := if_pos h

theorem wmLimits_crossed {hi lo : Nat} (h : threshold x.kind hi ≤ threshold x.kind lo) : wmLimits x hi lo = { x with err := true } :=
  if_neg (by omega)

end

theorem wmThresholdWrite_source : wmThresholdWrite s 0x2A004 v = s.setMon (wmSel s) (wmSource (s.mon (wmSel s)) v) := rfl

theorem wmThresholdWrite_hi : wmThresholdWrite s 0x2A008 v
    = s.setMon (wmSel s) (wmLimits (s.mon (wmSel s)) v.toNat (s.mon (wmSel s)).lo) := rfl

theorem wmThresholdWrite_lo : wmThresholdWrite s 0x2A00C v
    = s.setMon (wmSel s) (wmLimits (s.mon (wmSel s)) (s.mon (wmSel s)).hi v.toNat) := rfl

/-! ### The error log -/

theorem elogRelease_inside {n : Nat} (h : s.elog.rd ≤ n) (hw : n ≤ s.elog.wr) :
    elogRelease s n = { s with elog := { s.elog with rd := n } } := if_pos ⟨h, hw⟩

theorem elogRelease_outside {n : Nat} (h : n < s.elog.rd ∨ s.elog.wr < n) : elogRelease s n = s := if_neg (by omega)

/-- R502: the low half that is held, else that of ELOG_RD. -/
theorem elogRdWrite_high : elogRdWrite s true v = elogRelease { s with elog := { s.elog with rdLo := none } }
    (v.toNat * 2 ^ 32 + (s.elog.rdLo.map (·.toNat)).getD (s.elog.rd % 2 ^ 32)) := rfl

theorem elogSlot_of {bs : List Byte} (h : ∀ e, tblFind s.elog.ents (s.regField (kBar0 0x28318) 0 12) = some e → bs = e.bytes)
    (hnone : tblFind s.elog.ents (s.regField (kBar0 0x28318) 0 12) = none → bs = List.replicate 32 0) : bs = elogSlot s := by
  unfold elogSlot
  split
  next e he => exact h e he
  next he => exact hnone he

/-! ### Commands -/

section

variable {a : Agent} (hup : s.up = true) (hr : Reaches s a)

include hup hr

theorem exec_wmCfgWrite : exec (.wmCfgWrite a v) s = .next (watch (wmCfgWrite (seenFrom s a) v)) := hub_viaBar0 hup hr
theorem exec_wmThresholdWrite (reg : Nat) :
    exec (.wmThresholdWrite a reg v) s = .next (watch (wmThresholdWrite (seenFrom s a) reg v)) := hub_viaBar0 hup hr
theorem exec_elogRdWrite (high : Bool) : exec (.elogRdWrite a high v) s = .next (watch (elogRdWrite (seenFrom s a) high v)) :=
  hub_viaBar0 hup hr
theorem exec_timeStep : exec (.timeStep a) s = .next (watch (timeStep (seenFrom s a))) := hub_viaBar0 hup hr
theorem exec_elogEntryRead : exec (.elogEntryRead a) s = .next (watch (elogEntryRead (seenFrom s a))) := by
  rw [← readBar0_reaches (go := elogEntryRead) hr]
  exact hub_up hup

end

/-- Settles O55: each write by what it sets or refuses, and the read by the slot that ELOG_SEL names. -/
theorem monitorsErrorLogAndTime : Obligations.MonitorsErrorLogAndTime := by
  unfold Obligations.MonitorsErrorLogAndTime
  rintro s a u hup hr rfl
  refine ⟨?monitors, fun v => exec_elogRdWrite hup hr false, fun v n hn => ?release, fun bs hbs => ?entry, exec_timeStep hup hr⟩
  case monitors =>
    rintro k x rfl rfl
    refine ⟨fun v y hy => ⟨fun h => ?disables, fun h => ?enables⟩,
      fun v => ⟨fun n hn hi => ?source, fun hn => ?noKind, fun n hn hi => ?noIndex, fun h => ?hi, fun h => ?hiCrossed, fun h => ?lo,
        fun h => ?loCrossed⟩⟩
    case disables => rw [exec_wmCfgWrite hup hr, wmCfgWrite_disables h, hy]
    case enables =>
      rw [exec_wmCfgWrite hup hr, wmCfgWrite_enables h, hy]
      rfl
    case source => rw [exec_wmThresholdWrite hup hr, wmThresholdWrite_source, wmSource_sets hn hi]
    case noKind => rw [exec_wmThresholdWrite hup hr, wmThresholdWrite_source, wmSource_noKind hn]
    case noIndex => rw [exec_wmThresholdWrite hup hr, wmThresholdWrite_source, wmSource_noIndex hn hi]
    case hi => rw [exec_wmThresholdWrite hup hr, wmThresholdWrite_hi, wmLimits_sets h]
    case hiCrossed => rw [exec_wmThresholdWrite hup hr, wmThresholdWrite_hi, wmLimits_crossed h]
    case lo => rw [exec_wmThresholdWrite hup hr, wmThresholdWrite_lo, wmLimits_sets h]
    case loCrossed => rw [exec_wmThresholdWrite hup hr, wmThresholdWrite_lo, wmLimits_crossed h]
  case release =>
    rw [exec_elogRdWrite hup hr, elogRdWrite_high, ← hn]
    exact ⟨fun hrd hwr => by rw [elogRelease_inside (s := { seenFrom s a with elog := { (seenFrom s a).elog with rdLo := none } }) hrd hwr],
      fun hout => by rw [elogRelease_outside (s := { seenFrom s a with elog := { (seenFrom s a).elog with rdLo := none } }) hout]⟩
  case entry =>
    obtain ⟨hsome, hnone⟩ := hbs
    rw [exec_elogEntryRead hup hr, elogSlot_of hsome hnone]
    rfl

end Sys2Proof.Machine
end

section
/-! SUPPORT. Faults, scrub and retirement (R482 to R494): what a finding does at its threshold, and what a retirement, a calibration, a
late pass, a health record and a management core's restart change. -/

namespace Sys2Proof.Machine

open Sys2Proof

variable {s : State}

/-! ### Scrub of Loft (R490, R492) -/

section

variable {u k row : Nat}

theorem loftFinding_rare (h : (faultEvent (logEntry s 0 2 0 noCtx k) (resKey kPch k) hour).2 < 1000) :
    loftFinding s u k row .corrected = (faultEvent (logEntry s 0 2 0 noCtx k) (resKey kPch k) hour).1 := if_pos h

theorem loftFinding_threshold (h : 1000 ≤ (faultEvent (logEntry s 0 2 0 noCtx k) (resKey kPch k) hour).2) :
    loftFinding s u k row .corrected = retirePch (faultEvent (logEntry s 0 2 0 noCtx k) (resKey kPch k) hour).1 k :=
  if_neg (Nat.not_lt.2 h)

theorem scrubUnit_loft (f : ScrubFound) (hk : k < 1088) (hrow : row < 2 ^ 20) :
    scrubUnit s 0 u k row f = loftFinding (bgUnit s 0) u k row f := by
  unfold scrubUnit
  rw [if_pos rfl, if_pos ⟨hk, hrow⟩]

theorem scrubUnit_loft_noUnit (f : ScrubFound) (h : 1088 ≤ k ∨ 2 ^ 20 ≤ row) : scrubUnit s 0 u k row f = s := by
  unfold scrubUnit
  rw [if_pos rfl, if_neg (by omega)]

end

/-! ### Scrub of lines (R482, R487) -/

section

variable {crib : Bool} {i line : Nat}

theorem lineFinding_none {f : ScrubFound} (h : isRetired s (lineKey crib i line) = true ∨ f = .clean) :
    lineFinding s crib i line f = s := by
  unfold lineFinding
  split
  · rfl
  next hret =>
    rcases h with h | rfl
    · exact absurd h hret
    · rfl

/-- R482: an event against a line, and its count within a day. -/
def lineFault (s : State) (crib : Bool) (i line : Nat) : State × Nat :=
  faultEvent (logEntry s 0 (if crib then 1 else 0) 0 noCtx i) (lineKey crib i line) day

variable (h : isRetired s (lineKey crib i line) = false)

include h

theorem lineFinding_corrected : lineFinding s crib i line .corrected = if (lineFault s crib i line).2 < 4 then (lineFault s crib i line).1
    else if crib then retireCribLine (lineFault s crib i line).1 i line else retireArrayLine (lineFault s crib i line).1 i line :=
  if_neg (by simp [h])

theorem lineFinding_uncorrectable : lineFinding s crib i line .uncorrectable =
    if crib then retireCribLine (logEntry s 1 1 0 noCtx i) i line else slotEvent s i := if_neg (by simp [h])

end

section

variable {u k line : Nat} (f : ScrubFound)

theorem scrubUnit_noLine (h : (k < 1088 ∧ 24576 ≤ line) ∨ (1088 ≤ k ∧ 16384 ≤ line) ∨ 1600 ≤ k) : scrubUnit s 1 u k line f = s := by
  unfold scrubUnit
  rw [if_neg (by decide), if_pos rfl]
  by_cases hk : k < 1088
  · rw [if_pos hk, if_neg (by omega)]
  · rw [if_neg hk, if_neg (by omega)]

theorem scrubUnit_array (hk : k < 1088) (hline : line < 24576) : scrubUnit s 1 u k line f = lineFinding (bgUnit s 1) false k line f := by
  unfold scrubUnit
  rw [if_neg (by decide), if_pos rfl, if_pos hk, if_pos hline]

theorem scrubUnit_crib {b : Nat} (hb : b < 512) (hline : line < 16384) :
    scrubUnit s 1 u (1088 + b) line f = lineFinding (bgUnit s 1) true b line f := by
  unfold scrubUnit
  rw [if_neg (by decide), if_pos rfl, if_neg (by omega), if_pos ⟨by omega, hline⟩, Nat.add_sub_cancel_left]

theorem scrubUnit_noActivity {act : Nat} (h : 1 < act) : scrubUnit s act u k line f = s := by
  unfold scrubUnit
  rw [if_neg (by omega), if_neg (by omega)]

end

/-! ### Background passes and spare copies (R485, R490, R494) -/

theorem phyCalibration_stack {n : Nat} (h : n < 16) : phyCalibration s n = bgUnit s 2 := if_pos h
theorem phyCalibration_noStack {n : Nat} (h : 16 ≤ n) : phyCalibration s n = s := if_neg (by omega)

theorem bgPassLate_late {n : Nat} (h : n < 6) (hlate : bgLate s n = true) : bgPassLate s n = bgPassEnds s n := if_pos ⟨h, hlate⟩

theorem bgPassLate_inTime {n : Nat} (h : 6 ≤ n ∨ bgLate s n = false) : bgPassLate s n = s := by
  refine if_neg fun ⟨hn, hlate⟩ => ?_
  rcases h with h | h
  · omega
  · rw [h] at hlate
    cases hlate

theorem pchSpareCopyDone_oldest {n k : Nat} (h : s.rel.copying.find? (fun k => k / 68 == n) = some k) :
    pchSpareCopyDone s n = { s with rel := { s.rel with copying := s.rel.copying.erase k } } := by
  rw [pchSpareCopyDone, h]

theorem pchSpareCopyDone_noCopy {n : Nat} (h : s.rel.copying.find? (fun k => k / 68 == n) = none) : pchSpareCopyDone s n = s := by
  rw [pchSpareCopyDone, h]

/-! ### Silo ports (R482, R488, R489) -/

section

variable {p : Nat}

theorem siloRequestTimeout_gone (h : 12 ≤ p ∨ (s.siloPort p).retired = true) : siloRequestTimeout s p = s := if_pos h
theorem siloPortRetire_gone (h : 12 ≤ p ∨ (s.siloPort p).retired = true) : siloPortRetire s p = s := if_pos h

/-- R489: the event of a port whose three tries are spent, and its count within an hour. -/
def siloFault (s : State) (p : Nat) : State × Nat :=
  faultEvent (logEntry (s.setSiloPort p { s.siloPort p with tries := 0 }) 1 3 0 noCtx p) (resKey kSiloPort p) hour

variable (h : p < 12) (hret : (s.siloPort p).retired = false)

include h hret

theorem siloPort_served : ¬(12 ≤ p ∨ (s.siloPort p).retired = true) := by
  rw [hret]
  simp [h]

theorem siloRequestTimeout_tries (ht : (s.siloPort p).tries < 3) :
    siloRequestTimeout s p = s.setSiloPort p { s.siloPort p with tries := (s.siloPort p).tries + 1 } :=
  (if_neg (siloPort_served h hret)).trans (if_pos ht)

theorem siloRequestTimeout_spent (ht : 3 ≤ (s.siloPort p).tries) :
    siloRequestTimeout s p = if (siloFault s p).2 < 3 then (siloFault s p).1 else siloPortRetire (siloFault s p).1 p :=
  (if_neg (siloPort_served h hret)).trans (if_neg (by omega))

theorem siloPortRetire_leaves {t : State} {ks : List Nat}
    (ht : t = markRetired (s.setSiloPort p { s.siloPort p with retired := true, tries := 0 }) (resKey kSiloPort p) 3)
    (hks : ks = t.grans.map (·.1)) : siloPortRetire s p = ks.foldl (leavePort p) (ks.foldl (moveReplica p) t) := by
  rw [hks, ht]
  exact if_neg (siloPort_served h hret)

end

/-! ### Management cores (R489) -/

section

variable {c : Nat}

theorem coreWatchdog_noCore (h : 4 ≤ c) : coreWatchdog s c = s := if_pos h

/-- The restarts within the last second, this one first. -/
def recentRestarts (s : State) (c : Nat) : List (Nat × DWord) :=
  (c, s.time) :: s.mgmt.restarts.filter (fun e => s.time.toNat < e.2.toNat + 1000000000)

/-- The restart has been logged and counted. -/
def restartLogged (s : State) (c : Nat) : State := (faultEvent (logEntry s 6 8 0 noCtx c) (resKey kCore 0) day).1

theorem coreWatchdog_eq (h : c < 4) : coreWatchdog s c =
    if (List.range 4).all (fun d => (recentRestarts s c).any (fun e => e.1 == d)) then warmReset (restartLogged s c) 3
    else { restartLogged s c with mgmt := { (restartLogged s c).mgmt with restarts := recentRestarts s c } } := if_neg (by omega)

/-- Log entry 83: four distinct cores. -/
theorem all_cores_iff {l : List (Nat × DWord)} :
    (List.range 4).all (fun d => l.any (fun e => e.1 == d)) = true ↔ ∀ d < 4, ∃ e ∈ l, e.1 = d := by
  simp only [List.all_eq_true, List.mem_range, List.any_eq_true, beq_iff_eq]

theorem coreWatchdog_resets (h : c < 4) (hall : ∀ d < 4, ∃ e ∈ recentRestarts s c, e.1 = d) :
    coreWatchdog s c = warmReset (restartLogged s c) 3 := by
  rw [coreWatchdog_eq h, if_pos (all_cores_iff.2 hall)]

theorem coreWatchdog_records (h : c < 4) (hmiss : ∃ d < 4, ∀ e ∈ recentRestarts s c, e.1 ≠ d) :
    coreWatchdog s c = { restartLogged s c with mgmt := { (restartLogged s c).mgmt with restarts := recentRestarts s c } } := by
  obtain ⟨d, hd, hnone⟩ := hmiss
  have hnot : ¬∀ d < 4, ∃ e ∈ recentRestarts s c, e.1 = d := fun hall => by
    obtain ⟨e, he, heq⟩ := hall d hd
    exact hnone e he heq
  rw [coreWatchdog_eq h, if_neg (mt all_cores_iff.1 hnot)]

end

/-! ### Commands -/

section

variable (hup : s.up = true)

include hup

theorem exec_scrubUnit (act u k line : Nat) (f : ScrubFound) :
    exec (.scrubUnit act u k line f) s = .next (watch (scrubUnit s act u k line f)) := hub_up hup
theorem exec_phyCalibration (n : Nat) : exec (.phyCalibration n) s = .next (watch (phyCalibration s n)) := hub_up hup
theorem exec_bgPassLate (n : Nat) : exec (.bgPassLate n) s = .next (watch (bgPassLate s n)) := hub_up hup
theorem exec_pchSpareCopyDone (n : Nat) : exec (.pchSpareCopyDone n) s = .next (watch (pchSpareCopyDone s n)) := hub_up hup
theorem exec_siloRequestTimeout (p : Nat) : exec (.siloRequestTimeout p) s = .next (watch (siloRequestTimeout s p)) := hub_up hup
theorem exec_siloPortRetire (p : Nat) : exec (.siloPortRetire p) s = .next (watch (siloPortRetire s p)) := hub_up hup
theorem exec_healthRecordWrite (okay : Bool) : exec (.healthRecordWrite okay) s = .next (watch (healthRecordWrite s okay)) := hub_up hup
theorem exec_coreWatchdog (c : Nat) : exec (.coreWatchdog c) s = .next (watch (coreWatchdog s c)) := hub_up hup

end

/-- Settles O56: a scrubbed unit by its place and its finding, and every other row by the lemma of its case (log entries 32, 82, 83, 84). -/
theorem faultsScrubAndRetirement : Obligations.FaultsScrubAndRetirement := by
  unfold Obligations.FaultsScrubAndRetirement
  refine fun s hup => ⟨fun u k row f => ⟨fun h => ?noUnit, fun hk hrow v hv => ?loft⟩,
    fun u k line f => ⟨fun h => ?noLine, fun v hv hk hline => ?array, fun v b hv hk hb hline => ?crib⟩,
    fun act u k line f h => ?noActivity, fun n => ⟨fun h => ?stack, fun h => ?noStack⟩, fun n => ⟨fun h hlate => ?late, fun h => ?inTime⟩,
    fun n => ⟨fun k h => ?copied, fun h => ?noCopy⟩, fun p => ⟨fun h => ⟨?noRequest, ?noPort⟩, fun h hret => ⟨fun ht => ?tries,
      fun ht e he => ?spent, fun t ks ht hks => ?retires⟩⟩,
    exec_healthRecordWrite hup true, exec_healthRecordWrite hup false, fun c => ⟨fun h => ?noCore, fun h l t hl ht => ?core⟩⟩
  case noUnit => rw [exec_scrubUnit hup, scrubUnit_loft_noUnit f h]
  case loft =>
    subst hv
    refine ⟨?_, fun e he => ⟨fun hrare => ?_, fun hlimit => ?_⟩, ?_⟩
    · rw [exec_scrubUnit hup, scrubUnit_loft .clean hk hrow]
      rfl
    · subst he
      rw [exec_scrubUnit hup, scrubUnit_loft .corrected hk hrow, loftFinding_rare hrare]
    · subst he
      rw [exec_scrubUnit hup, scrubUnit_loft .corrected hk hrow, loftFinding_threshold hlimit]
    · rw [exec_scrubUnit hup, scrubUnit_loft .uncorrectable hk hrow]
  case noLine => rw [exec_scrubUnit hup, scrubUnit_noLine f h]
  case array =>
    subst hv
    rw [exec_scrubUnit hup, scrubUnit_array f hk hline]
    refine ⟨fun h => ?_, fun hret hf e he => ?_, fun hret hf => ?_⟩
    · rw [lineFinding_none h]
    · have hfault : e = lineFault (bgUnit s 1) false k line := he
      rw [hf, lineFinding_corrected hret, hfault]
      exact ⟨fun hrare => by rw [if_pos hrare], fun hlimit => by rw [if_neg (Nat.not_lt.2 hlimit)]; rfl⟩
    · rw [hf, lineFinding_uncorrectable hret]
      rfl
  case crib =>
    subst hv hk
    rw [exec_scrubUnit hup, scrubUnit_crib f hb hline]
    refine ⟨fun h => ?_, fun hret hf e he => ?_, fun hret hf => ?_⟩
    · rw [lineFinding_none h]
    · have hfault : e = lineFault (bgUnit s 1) true b line := he
      rw [hf, lineFinding_corrected hret, hfault]
      exact ⟨fun hrare => by rw [if_pos hrare], fun hlimit => by rw [if_neg (Nat.not_lt.2 hlimit)]; rfl⟩
    · rw [hf, lineFinding_uncorrectable hret]
      rfl
  case noActivity => rw [exec_scrubUnit hup, scrubUnit_noActivity f h]
  case stack => rw [exec_phyCalibration hup, phyCalibration_stack h]
  case noStack => rw [exec_phyCalibration hup, phyCalibration_noStack h]
  case late => rw [exec_bgPassLate hup, bgPassLate_late h hlate]
  case inTime => rw [exec_bgPassLate hup, bgPassLate_inTime h]
  case copied => rw [exec_pchSpareCopyDone hup, pchSpareCopyDone_oldest h]
  case noCopy => rw [exec_pchSpareCopyDone hup, pchSpareCopyDone_noCopy h]
  case noRequest => rw [exec_siloRequestTimeout hup, siloRequestTimeout_gone h]
  case noPort => rw [exec_siloPortRetire hup, siloPortRetire_gone h]
  case tries => rw [exec_siloRequestTimeout hup, siloRequestTimeout_tries h hret ht]
  case spent =>
    have hfault : e = siloFault s p := he
    rw [exec_siloRequestTimeout hup, siloRequestTimeout_spent h hret ht, hfault]
    exact ⟨fun hrare => by rw [if_pos hrare], fun hlimit => by rw [if_neg (Nat.not_lt.2 hlimit)]⟩
  case retires => rw [exec_siloPortRetire hup, siloPortRetire_leaves h hret ht hks]
  case noCore => rw [exec_coreWatchdog hup, coreWatchdog_noCore h]
  case core =>
    have hrecent : l = recentRestarts s c := hl
    have hlogged : t = restartLogged s c := ht
    rw [exec_coreWatchdog hup, hrecent, hlogged]
    exact ⟨fun hall => by rw [coreWatchdog_resets h hall], fun hmiss => by rw [coreWatchdog_records h hmiss]⟩

end Sys2Proof.Machine
end

section
/-! SUPPORT. Start-up (R470, R489, R510, R512 to R515, R518 to R520, R523, R535): what the end of each step does, what a retry, a Silo
port and the boot plan's load change, and how Fallow is left. -/

namespace Sys2Proof.Machine

open Sys2Proof

variable {s : State}

/-! ### Whether the module is in Fallow -/

theorem inFallow_of (h : s.pwr.state = .fallow) : inFallow s = true := beq_iff_eq.2 h
theorem inFallow_not (h : s.pwr.state ≠ .fallow) : inFallow s = false := beq_eq_false_iff_ne.2 h

/-! ### Which step ends -/

theorem startupStepDone_running (h : s.boot.running = true) : startupStepDone s = endStep s s.boot.step := if_pos h

theorem startupStepDone_stopped (h : s.boot.running = false) (h0 : s.boot.step ≠ 0) : startupStepDone s = s := by
  rw [startupStepDone, if_neg (by simp [h]), if_neg h0]

/-- Step 0 and the wait of a warm reset end alike (R510). -/
theorem startupStepDone_reset (h0 : s.boot.step = 0) : startupStepDone s = afterReset s := by
  rw [startupStepDone, h0]
  split
  · rfl
  · exact if_pos rfl

theorem afterReset_perst (h : s.pins.perst = true) : afterReset s = { s with boot := { s.boot with running := false } } := if_pos h

theorem afterReset_fallow (h : s.pins.perst = false) (hst : s.pwr.state = .fallow) : afterReset s = s := by
  rw [afterReset, if_neg (by simp [h]), if_pos (inFallow_of hst)]

theorem afterReset_starts (h : s.pins.perst = false) (hst : s.pwr.state ≠ .fallow) : afterReset s = startSteps s := by
  rw [afterReset, if_neg (by simp [h]), if_neg (by simp [inFallow_not hst])]

/-! ### The work of a step (R514, R515, R520, R523) -/

theorem checkSupplies_present (h : s.pins.v12 = true) (href : s.pins.sysref = true) :
    checkSupplies s = { s with boot := { s.boot with fail := 0, step := 2 } } := if_pos (by simp [h, href])

theorem checkSupplies_absent (h : s.pins.v12 = false ∨ s.pins.sysref = false) :
    checkSupplies s = { s with boot := { s.boot with fail := 1, running := false } } :=
  if_neg (by rcases h with h | h <;> simp [h])

theorem endStep_image_fails (h : (selectImage s).boot.fail = 2) : endStep s 3 = selectImage s := if_pos h
theorem endStep_image_passes (h : (selectImage s).boot.fail ≠ 2) : endStep s 3 = stepTo (selectImage s) 4 := if_neg h

theorem selfTest_ctxs (s : State) : (selfTest s).ctxs = s.ctxs := by
  unfold selfTest
  split <;> rfl

theorem retiredLanes_ctxs (s : State) (p : Nat) : (retiredLanes s p).ctxs = s.ctxs := by
  unfold retiredLanes
  refine foldl_keeps (fun t : State => t.ctxs) (fun t k => ?_) _ s
  dsimp only
  split
  · rfl
  · split <;> rfl

theorem portsTrain_ctxs (s : State) : (portsTrain s).ctxs = s.ctxs := by
  unfold portsTrain
  refine foldl_keeps (fun t : State => t.ctxs) (fun t p => ?_) _ s
  exact retiredLanes_ctxs _ p

/-- What fails in step 7 is a free value (log entry 1). -/
theorem trainStacks_fail (s : State) : ∃ f, (f = s.boot.fail ∨ f = 4) ∧
    trainStacks s = { s with free := s.free + 1, boot := { s.boot with fail := f } } := by
  unfold trainStacks
  dsimp only [State.draw]
  split
  · exact ⟨s.boot.fail, .inl rfl, rfl⟩
  · exact ⟨4, .inr rfl, rfl⟩

theorem endStep_ready (h : s.pwr.state ≠ .fallow) : endStep s 9 = noBootPlan (readyStep s) := if_neg (by simp [inFallow_not h])
theorem endStep_ready_fallow (h : s.pwr.state = .fallow) : endStep s 9 = stepTo s 10 := if_pos (inFallow_of h)

/-- R520: without an enabled image step 10 is done at once, and the steps stop. -/
theorem noBootPlan_boot (s : State) : ∃ done running, noBootPlan s = { s with boot := { s.boot with done := done, running := running } } := by
  unfold noBootPlan
  split
  · exact ⟨s.boot.done, s.boot.running, rfl⟩
  · exact ⟨true, false, rfl⟩

theorem endStep_last {n : Nat} (h : 10 ≤ n) : endStep s n = if inFallow s then restoreStep s else s := by
  obtain ⟨k, rfl⟩ := Nat.exists_eq_add_of_le' h
  rfl

theorem endStep_last_awake {n : Nat} (h : 10 ≤ n) (hst : s.pwr.state ≠ .fallow) : endStep s n = s := by
  rw [endStep_last h, if_neg (by simp [inFallow_not hst])]

/-! ### A retry of step 1, and the exit of Fallow -/

theorem step1Retry_elsewhere (h : ¬(s.boot.step = 1 ∧ s.boot.running = false)) : step1Retry s = s := if_neg (by simpa using h)

theorem step1Retry_tries (h : s.boot.step = 1) (hrun : s.boot.running = false) : (step1Retry s).boot.step = 1
    ∧ ((step1Retry s).boot.running = true → (step1Retry s).pins.v12 = true ∧ (step1Retry s).pins.sysref = true ∧ (step1Retry s).boot.fail = 0)
    ∧ (step1Retry s).regs = s.regs := by
  unfold step1Retry
  rw [if_pos ⟨h, by simp [hrun]⟩]
  dsimp only [State.draw]
  split
  · exact ⟨h, fun h' => absurd (hrun.symm.trans h') Bool.false_ne_true, rfl⟩
  · exact ⟨h, fun _ => ⟨rfl, rfl, rfl⟩, rfl⟩

theorem fallowExit_elsewhere (h : s.pwr.state ≠ .fallow ∨ s.pwr.moving ≠ some .run ∨ s.boot.running = true ∨ s.boot.step ≠ 0) :
    fallowExit s = s := by
  refine if_pos ?_
  simp only [inFallow, Bool.or_eq_true, Bool.not_eq_true', beq_eq_false_iff_ne, bne_iff_ne]
  tauto

section

variable (h : s.pwr.state = .fallow) (hm : s.pwr.moving = some .run) (hrun : s.boot.running = false) (h0 : s.boot.step = 0)

include h hm hrun h0

theorem fallowExit_due : fallowExit s = if s.pwr.tripped then warmReset s 4 else startSteps s :=
  if_neg (by simp [inFallow_of h, hm, hrun, h0])

theorem fallowExit_tripped (ht : s.pwr.tripped = true) : fallowExit s = warmReset s 4 := by
  rw [fallowExit_due h hm hrun h0, if_pos ht]

theorem fallowExit_starts (ht : s.pwr.tripped = false) : fallowExit s = startSteps s := by
  rw [fallowExit_due h hm hrun h0, if_neg (by simp [ht])]

end

/-! ### Silo ports and the boot plan (R518, R520) -/

theorem siloPortTrained_gone {p n : Nat} (h : 12 ≤ p ∨ (s.siloPort p).retired = true) : siloPortTrained s p n = s := if_pos h

theorem siloPortTrained_holds {p n : Nat} (h : p < 12) (hret : (s.siloPort p).retired = false) :
    siloPortTrained s p n = s.setSiloPort p { s.siloPort p with trained := true, capacity := n, tries := 0 } :=
  if_neg (siloPort_served h hret)

theorem bootPlanLoad_waits
    (h : s.boot.step ≠ 10 ∨ s.boot.running = false ∨ s.pwr.state = .fallow ∨ fpBusy s = true ∨ bootPlanDue s = false) :
    bootPlanLoad s = s := by
  refine if_pos ?_
  simp only [inFallow, Bool.or_eq_true, Bool.not_eq_true', bne_iff_ne, beq_iff_eq]
  tauto

section

variable (h : s.boot.step = 10) (hrun : s.boot.running = true) (hst : s.pwr.state ≠ .fallow) (hbusy : fpBusy s = false)
  (hdue : bootPlanDue s = true)

include h hrun hst hbusy hdue

/-- The load is as if host software had written the operation (R52). -/
theorem bootPlanLoad_due : bootPlanLoad s =
    if someContext s || !allDies s then
      bootPlanEnds (fpEnd { s with plan := { s.plan with lastOp := 1, lastSlot := 0 } } .notReady none) .notReady
    else { s with plan := { s.plan with
      lastOp := 1, lastSlot := 0, op := some { op := 1, slot := 0, addr := 0, len := s.boot.plan.length, boot := true } } } :=
  if_neg (by simp [h, hrun, inFallow_not hst, hbusy, hdue])

theorem bootPlanLoad_notReady (hno : someContext s = true ∨ allDies s = false) : bootPlanLoad s =
    bootPlanEnds (fpEnd { s with plan := { s.plan with lastOp := 1, lastSlot := 0 } } .notReady none) .notReady := by
  rw [bootPlanLoad_due h hrun hst hbusy hdue, if_pos (by simpa using hno)]

theorem bootPlanLoad_begins (hctx : someContext s = false) (hdies : allDies s = true) : bootPlanLoad s = { s with plan := { s.plan with
    lastOp := 1, lastSlot := 0, op := some { op := 1, slot := 0, addr := 0, len := s.boot.plan.length, boot := true } } } := by
  rw [bootPlanLoad_due h hrun hst hbusy hdue, if_neg (by simp [hctx, hdies])]

end

/-! ### Commands -/

section

variable (haux : s.pins.aux = true)

include haux

theorem exec_startupStepDone : exec .startupStepDone s = .next (watch (startupStepDone s)) := aon_on haux
theorem exec_startupStep1Retry : exec .startupStep1Retry s = .next (watch (step1Retry s)) := aon_on haux
theorem exec_fallowExit : exec .fallowExit s = .next (watch (fallowExit s)) := aon_on haux

/-- The step in progress ends with the work of its number. -/
theorem exec_startupStepDone_ends {n : Nat} (hrun : s.boot.running = true) (hn : s.boot.step = n) :
    exec .startupStepDone s = .next (watch (endStep s n)) := by
  rw [exec_startupStepDone haux, startupStepDone_running hrun, hn]

theorem exec_startupStepDone_reset (h0 : s.boot.step = 0) : exec .startupStepDone s = .next (watch (afterReset s)) := by
  rw [exec_startupStepDone haux, startupStepDone_reset h0]

/-- R515: READY. -/
theorem startupStepDone_ready (hrun : s.boot.running = true) (hn : s.boot.step = 9) (hst : s.pwr.state ≠ .fallow) :
    Ends (exec .startupStepDone s) (fun t => t.boot.step = 10
      ∧ t.boot.startMs = min 65535 ((s.time.toNat - s.boot.began.toNat) / 1000000) ∧ t.ctxs = s.ctxs ∧ t.regs = s.regs) := by
  refine ⟨_, exec_startupStepDone_ends haux hrun hn, ?_⟩
  obtain ⟨done, running, hplan⟩ := noBootPlan_boot (readyStep s)
  rw [watch_boot, watch_ctxs, watch_regs, endStep_ready hst, hplan]
  exact ⟨rfl, rfl, rfl, rfl⟩

/-- R470, R523: the end of a Fallow exit. -/
theorem startupStepDone_restores (hrun : s.boot.running = true) (hn : 10 ≤ s.boot.step) (hst : s.pwr.state = .fallow) :
    Ends (exec .startupStepDone s) (fun t => t.pwr.state = .run ∧ t.boot.wrapKey = 0 ∧ t.boot.running = false ∧ t.ctxs = s.ctxs
      ∧ t.rings = s.rings ∧ t.com = s.com) := by
  refine ⟨_, exec_startupStepDone_ends haux hrun rfl, ?_⟩
  beta_reduce
  rw [watch_pwr, watch_boot, watch_ctxs, watch_rings, watch_com, endStep_last hn, if_pos (inFallow_of hst), restoreStep, stateReached_pwr,
    stateReached_boot, stateReached_ctxs, stateReached_rings, stateReached_com]
  exact ⟨rfl, rfl, rfl, rfl, rfl, rfl⟩

end

section

variable (hup : s.up = true)

include hup

theorem exec_siloTrainingRetry (p : Nat) : exec (.siloTrainingRetry p) s = .next (watch s) := hub_up hup
theorem exec_siloPortTrained (p n : Nat) : exec (.siloPortTrained p n) s = .next (watch (siloPortTrained s p n)) := hub_up hup
theorem exec_bootPlanLoad : exec .bootPlanLoad s = .next (watch (bootPlanLoad s)) := hub_up hup

end

/-- Settles O59: the step in progress ends with the work of its number (log entries 87, 90); the other rows by the lemma of their case. -/
theorem startupRunsItsStepsInOrder : Obligations.StartupRunsItsStepsInOrder := by
  unfold Obligations.StartupRunsItsStepsInOrder
  refine fun s => ⟨fun haux b hb => ?steps,
    fun hup => ⟨exec_siloTrainingRetry hup, fun p n => ⟨fun h => ?gone, fun h hret => ?trained⟩, fun h => ?waits,
      fun h hrun hst hbusy hdue => ⟨fun hno u hu => ?notReady, fun hctx hdies o ho => ?begins⟩⟩⟩
  case steps =>
    subst hb
    have ends {n : Nat} {u : State} (hrun : s.boot.running = true) (hn : s.boot.step = n) (hu : endStep s n = u) :
        exec .startupStepDone s = .next (watch u) := by
      rw [exec_startupStepDone_ends haux hrun hn, hu]
    refine ⟨fun hrun h0 => ?stopped, fun h0 hp => ?held, fun h0 hp hst => ?inFallow, fun h0 hp hst => ?starts,
      fun hrun => ⟨fun hn hv href => ends hrun hn (checkSupplies_present hv href), fun hn hbad => ends hrun hn (checkSupplies_absent hbad),
        ?plain, ?image, fun u hn hu => ends hrun hn (hu ▸ rfl), fun u hn hu => ends hrun hn (hu ▸ rfl),
        fun hn hst => ends hrun hn (endStep_ready_fallow hst), startupStepDone_ready haux hrun,
        fun hn hst => ends hrun rfl (endStep_last_awake hn hst), startupStepDone_restores haux hrun⟩,
      fun hn hrun => ⟨_, ends hrun hn rfl, (portsTrain_ctxs _).trans (selfTest_ctxs s)⟩, fun hn hrun => ?loftStacks, fun h => ?noRetry,
      fun h hrun => ⟨_, exec_startupStep1Retry haux, step1Retry_tries h hrun⟩,
      fun h => ?noExit, fun h hm hrun h0 => ⟨fun ht => ?tripped, fun ht => ?leaves⟩⟩
    case stopped => rw [exec_startupStepDone haux, startupStepDone_stopped hrun h0]
    case held => rw [exec_startupStepDone_reset haux h0, afterReset_perst hp]
    case inFallow => rw [exec_startupStepDone_reset haux h0, afterReset_fallow hp hst]
    case starts =>
      rw [exec_startupStepDone_reset haux h0, afterReset_starts hp hst]
      rfl
    case plain =>
      rintro (hn | hn)
      · rw [ends hrun hn rfl, hn]
        rfl
      · rw [ends hrun hn rfl, hn]
        rfl
    case image =>
      rintro u hn rfl
      exact ⟨fun hf => ends hrun hn (endStep_image_fails hf), fun hf => ends hrun hn (endStep_image_passes hf)⟩
    case loftStacks =>
      obtain ⟨f, hf, htrain⟩ := trainStacks_fail s
      exact ⟨f, hf, ends hrun hn (congrArg (stepTo · 8) htrain)⟩
    case noRetry => rw [exec_startupStep1Retry haux, step1Retry_elsewhere h]
    case noExit => rw [exec_fallowExit haux, fallowExit_elsewhere h]
    case tripped => rw [exec_fallowExit haux, fallowExit_tripped h hm hrun h0 ht]
    case leaves =>
      rw [exec_fallowExit haux, fallowExit_starts h hm hrun h0 ht]
      rfl
  case gone => rw [exec_siloPortTrained hup, siloPortTrained_gone h]
  case trained => rw [exec_siloPortTrained hup, siloPortTrained_holds h hret]
  case waits => rw [exec_bootPlanLoad hup, bootPlanLoad_waits h]
  case notReady =>
    subst hu
    rw [exec_bootPlanLoad hup, bootPlanLoad_notReady h hrun hst hbusy hdue hno]
  case begins =>
    subst ho
    rw [exec_bootPlanLoad hup, bootPlanLoad_begins h hrun hst hbusy hdue hctx hdies]

end Sys2Proof.Machine
end
